-- ==== Sys2Proof/Word.lean ====
section
/-! DEFINITION. The word types of the Vexvis ISA and sparse maps by number. -/

namespace Sys2Proof

/-- One byte. -/
abbrev Byte := BitVec 8

/-- One 64-bit register value or virtual address (R48, R86). -/
abbrev Word := BitVec 64

/-- One 32-bit lane of a vector register (R51). -/
abbrev Lane := BitVec 32

/-- A sparse map from numbers: a key that is not listed has the reader's default. -/
abbrev FMap (α : Type) := List (Nat × α)

/-- The entry of key `k`, or the default `d` when none is listed. -/
def FMap.get {α : Type} (d : α) : FMap α → Nat → α
  | [], _ => d
  | (k', v) :: m, k => if k' = k then v else FMap.get d m k

/-- The map with `k` mapped to `v`; a listed key keeps its place. -/
def FMap.set {α : Type} : FMap α → Nat → α → FMap α
  | [], k, v => [(k, v)]
  | (k', v') :: m, k, v => if k' = k then (k, v) :: m else (k', v') :: FMap.set m k v

/-- The map without `k`. -/
def FMap.del {α : Type} (m : FMap α) (k : Nat) : FMap α := m.filter (fun e => e.1 != k)

/-- Whether `k` is listed. -/
def FMap.has {α : Type} (m : FMap α) (k : Nat) : Bool := m.any (fun e => e.1 == k)

/-- Bits `hi` down to `lo` of a number. -/
def bits (n hi lo : Nat) : Nat := n / 2 ^ lo % 2 ^ (hi + 1 - lo)

end Sys2Proof
end

