-- ==== Sys2Proof/Syntax.lean ====
section
/-! DEFINITION. The syntax of the Vexvis ISA: one constructor per row of the opcode table, encoded instructions
first, then the events, which have no encoding and come about inside the machine or from outside. -/

namespace Sys2Proof

/-- What the prefixes XR, XH and XI add to an instruction (R9-R12): the guard (negated, predicate), the hint byte,
whether an XR word stands in the chain, and how many XI words do. -/
structure Pfx where
  guard : Option (Bool × Fin 8)
  hint : Option (BitVec 8)
  xr : Bool
  xi : Fin 5
deriving DecidableEq, Repr

/-- The instruction carries no prefix but the one its page needs. -/
def Pfx.none : Pfx := { guard := Option.none, hint := Option.none, xr := false, xi := 0 }

/-- Type codes 0 to 7 of the vector instructions (R123). -/
inductive VTy where
  | f32 | bf16 | f16 | e4m3 | e5m2 | i32 | i16 | i8
deriving DecidableEq, Repr

/-- Rounding modes, codes 0 to 3 (R69). -/
inductive Rnd where
  | rn | rz | ru | rd
deriving DecidableEq, Repr

/-- A v operand that may name a stream register (R114, R189). -/
inductive VOpd where
  | v (r : Fin 16)
  | q (r : Fin 8)
deriving DecidableEq, Repr

/-- Local-memory modes, codes 0 to 2 (R90). -/
inductive LMode where
  | own | blk | ilv
deriving DecidableEq, Repr

/-- The space of a vector access (R204). -/
inductive Space where
  | virt
  | lm (mode : LMode)
deriving DecidableEq, Repr

/-- Access sizes of 1, 2, 4 and 8 bytes. -/
inductive Sz where
  | b1 | b2 | b4 | b8
deriving DecidableEq, Repr

/-- The size in bytes. -/
def Sz.bytes : Sz → Nat
  | .b1 => 1
  | .b2 => 2
  | .b4 => 4
  | .b8 => 8

/-- Scope codes 0 to 6 and 8 to 15 (R126); code 7 is unallocated. -/
inductive Scope where
  | thread | core | cluster | sector | die | device | span
  | named (n : Fin 8)
deriving DecidableEq, Repr

/-- Where a TMM takes its rows from (R216). -/
inductive TSrc where
  | local (a : Fin 32)
  | stream (q : Fin 8)
deriving DecidableEq, Repr

/-- Where an uncorrectable error strikes (R382): data with a consumer, or an array charged to an owner. -/
inductive ErrSite where
  | line (pa : Nat)             -- a data array: the line is poisoned
  | byte (pa : Nat) (x : Byte)  -- a byte changes that no code of an array guards: the line's check value stays (R110, R379)
  | cluster (ck : Nat)          -- an array of a cluster: its partition is charged
  | l2tag (dev : Nat) (set : Nat)  -- an L2 tag: the owner of the set's colour is charged
  | l1 (c line : Nat)           -- the L1 data of a core: its copy of a line is poisoned
  | konst (ck line : Nat)       -- the constant cache of a cluster: its copy of a line is poisoned
  | packet (id : Nat)           -- a buffer that holds a message or an operation: its partition is charged
  | tlb (last : Bool) (n i : Nat)  -- entry `i` of the TLB of a cluster, or of the last-level TLB of a die: it is dropped and walked again
  | restore (pid : Nat)         -- no error: the rest of a partition's rollback, once its clusters have stopped (R386)
deriving DecidableEq, Repr

/-- What a secured message carries: of a tenant, launch words, argument blocks, or a read of results (R378); of a firmware session,
the creation of a partition with its tenant's certificate and its key identifier on each device, or its destruction (R323). -/
inductive TenantMsg where
  | launch (word : Word)
  | write (asid : Nat) (va : Word) (data : List Byte)
  | read (asid : Nat) (va : Word) (len : Nat)
  | create (pid : Nat) (cert : BitVec 384) (keys : List (Nat × Nat))
  | destroy (pid : Nat)
deriving DecidableEq, Repr

/-- The rows of revision 1. `d`, `a`, `b` are the register numbers after extension (R114); `imm` and `off` are the
sign-extended immediates (R113), an offset counting units of the access size. An event has no encoding and no operand of
its own: what it happens to is the `Event` of the state. -/
inductive Instr where
  /-- ADD (R133). -/
  | add (p : Pfx) (d a b : Fin 32)
  /-- SUB (R133). -/
  | sub (p : Pfx) (d a b : Fin 32)
  /-- AND (R133). -/
  | and (p : Pfx) (d a b : Fin 32)
  /-- OR (R133). -/
  | or (p : Pfx) (d a b : Fin 32)
  /-- XOR (R133). -/
  | xor (p : Pfx) (d a b : Fin 32)
  /-- MUL (R133). -/
  | mul (p : Pfx) (d a b : Fin 32)
  /-- SHL (R133). -/
  | shl (p : Pfx) (d a b : Fin 32)
  /-- SHR (R133). -/
  | shr (p : Pfx) (d a b : Fin 32)
  /-- SHRA (R133). -/
  | shra (p : Pfx) (d a b : Fin 32)
  /-- ANDN (R133). -/
  | andn (p : Pfx) (d a b : Fin 32)
  /-- GATE (R150). -/
  | gate (p : Pfx)
  /-- RETX (R150). -/
  | retx (p : Pfx)
  /-- EXIT (R150). -/
  | exit (p : Pfx)
  /-- BRK (R150). -/
  | brk (p : Pfx)
  /-- TRAP (R151). -/
  | trap (p : Pfx) (code : Fin 64)
  /-- ADDI (R133). -/
  | addi (p : Pfx) (d a : Fin 32) (imm : Int)
  /-- SHLI (R133). -/
  | shli (p : Pfx) (d a : Fin 32) (imm : Int)
  /-- SHRI (R133). -/
  | shri (p : Pfx) (d a : Fin 32) (imm : Int)
  /-- SHRAI (R133). -/
  | shrai (p : Pfx) (d a : Fin 32) (imm : Int)
  /-- LD_S8 (R157). -/
  | ldS8 (p : Pfx) (d a : Fin 32) (off : Int)
  /-- LD_S16 (R157). -/
  | ldS16 (p : Pfx) (d a : Fin 32) (off : Int)
  /-- LD_S32 (R157). -/
  | ldS32 (p : Pfx) (d a : Fin 32) (off : Int)
  /-- LD_64 (R157). -/
  | ld64 (p : Pfx) (d a : Fin 32) (off : Int)
  /-- LD_Z8 (R157). -/
  | ldZ8 (p : Pfx) (d a : Fin 32) (off : Int)
  /-- LD_Z16 (R157). -/
  | ldZ16 (p : Pfx) (d a : Fin 32) (off : Int)
  /-- LD_Z32 (R157). -/
  | ldZ32 (p : Pfx) (d a : Fin 32) (off : Int)
  /-- ST_8 (R157; d is the data register). -/
  | st8 (p : Pfx) (d a : Fin 32) (off : Int)
  /-- ST_16 (R157; d is the data register). -/
  | st16 (p : Pfx) (d a : Fin 32) (off : Int)
  /-- ST_32 (R157; d is the data register). -/
  | st32 (p : Pfx) (d a : Fin 32) (off : Int)
  /-- ST_64 (R157; d is the data register). -/
  | st64 (p : Pfx) (d a : Fin 32) (off : Int)
  /-- LDL (R160, short form; off in 8-byte words). -/
  | ldl (p : Pfx) (mode : LMode) (d a : Fin 32) (off : Fin 8)
  /-- STL (R160, short form; off in 8-byte words). -/
  | stl (p : Pfx) (mode : LMode) (d a : Fin 32) (off : Fin 8)
  /-- LDC (R162). -/
  | ldc (p : Pfx) (d a : Fin 32) (off : Int)
  /-- CMP_EQ (R139). -/
  | cmpEq (p : Pfx) (d : Fin 8) (a b : Fin 32)
  /-- CMP_NE (R139). -/
  | cmpNe (p : Pfx) (d : Fin 8) (a b : Fin 32)
  /-- CMP_LT (R139). -/
  | cmpLt (p : Pfx) (d : Fin 8) (a b : Fin 32)
  /-- CMP_GE (R139). -/
  | cmpGe (p : Pfx) (d : Fin 8) (a b : Fin 32)
  /-- CMPU_LTU (R139). -/
  | cmpuLtu (p : Pfx) (d : Fin 8) (a b : Fin 32)
  /-- CMPU_GEU (R139). -/
  | cmpuGeu (p : Pfx) (d : Fin 8) (a b : Fin 32)
  /-- CMPU_TST (R139). -/
  | cmpuTst (p : Pfx) (d : Fin 8) (a b : Fin 32)
  /-- CMPU_NTST (R139). -/
  | cmpuNtst (p : Pfx) (d : Fin 8) (a b : Fin 32)
  /-- PAND (R140). -/
  | pand (p : Pfx) (d a b : Fin 8)
  /-- POR (R140). -/
  | por (p : Pfx) (d a b : Fin 8)
  /-- PXOR (R140). -/
  | pxor (p : Pfx) (d a b : Fin 8)
  /-- PANDN (R140). -/
  | pandn (p : Pfx) (d a b : Fin 8)
  /-- BR (R145, R146). -/
  | br (p : Pfx) (imm : Int)
  /-- CALL (R145, R146). -/
  | call (p : Pfx) (imm : Int)
  /-- CALLX (R145, R146). -/
  | callx (p : Pfx) (imm : Int)
  /-- JMP (R145). -/
  | jmp (p : Pfx) (a : Fin 32)
  /-- CALL_REG (R145). -/
  | callReg (p : Pfx) (a : Fin 32)
  /-- RET (R145). -/
  | ret (p : Pfx)
  /-- CALLX_REG (R146). -/
  | callxReg (p : Pfx) (a : Fin 32)
  /-- VADD (R192). -/
  | vadd (p : Pfx) (t : VTy) (r : Rnd) (d a b : VOpd) (m : Fin 4)
  /-- VSUB (R192). -/
  | vsub (p : Pfx) (t : VTy) (r : Rnd) (d a b : VOpd) (m : Fin 4)
  /-- VMUL (R192). -/
  | vmul (p : Pfx) (t : VTy) (r : Rnd) (d a b : VOpd) (m : Fin 4)
  /-- VFMA (R193). -/
  | vfma (p : Pfx) (t : VTy) (r : Rnd) (d : Fin 16) (a b : VOpd) (m : Fin 4)
  /-- VFMS (R193). -/
  | vfms (p : Pfx) (t : VTy) (r : Rnd) (d : Fin 16) (a b : VOpd) (m : Fin 4)
  /-- VFNMA (R193). -/
  | vfnma (p : Pfx) (t : VTy) (r : Rnd) (d : Fin 16) (a b : VOpd) (m : Fin 4)
  /-- VFNMS (R193). -/
  | vfnms (p : Pfx) (t : VTy) (r : Rnd) (d : Fin 16) (a b : VOpd) (m : Fin 4)
  /-- VMAX (R194). -/
  | vmax (p : Pfx) (t : VTy) (d a b : VOpd) (m : Fin 4)
  /-- VMIN (R194). -/
  | vmin (p : Pfx) (t : VTy) (d a b : VOpd) (m : Fin 4)
  /-- VMAXA (R194). -/
  | vmaxa (p : Pfx) (t : VTy) (d a b : VOpd) (m : Fin 4)
  /-- VMINA (R194). -/
  | vmina (p : Pfx) (t : VTy) (d a b : VOpd) (m : Fin 4)
  /-- VCMP_EQ (R197). -/
  | vcmpEq (p : Pfx) (neg : Bool) (t : VTy) (d : Fin 8) (a b : VOpd) (m : Fin 4)
  /-- VCMP_LT (R197). -/
  | vcmpLt (p : Pfx) (neg : Bool) (t : VTy) (d : Fin 8) (a b : VOpd) (m : Fin 4)
  /-- VCMP_LE (R197). -/
  | vcmpLe (p : Pfx) (neg : Bool) (t : VTy) (d : Fin 8) (a b : VOpd) (m : Fin 4)
  /-- VCMP_UN (R197). -/
  | vcmpUn (p : Pfx) (neg : Bool) (t : VTy) (d : Fin 8) (a b : VOpd) (m : Fin 4)
  /-- VSEL (R197). -/
  | vsel (p : Pfx) (t : VTy) (d : Fin 16) (a b : VOpd) (m : Fin 4)
  /-- VAND (R196). -/
  | vand (p : Pfx) (d a b : VOpd) (m : Fin 4)
  /-- VOR (R196). -/
  | vor (p : Pfx) (d a b : VOpd) (m : Fin 4)
  /-- VXOR (R196). -/
  | vxor (p : Pfx) (d a b : VOpd) (m : Fin 4)
  /-- VANDN (R196). -/
  | vandn (p : Pfx) (d a b : VOpd) (m : Fin 4)
  /-- VSHL (R196). -/
  | vshl (p : Pfx) (t : VTy) (d : Fin 16) (a : VOpd) (imm : Int) (m : Fin 4)
  /-- VSHR (R196). -/
  | vshr (p : Pfx) (t : VTy) (d : Fin 16) (a : VOpd) (imm : Int) (m : Fin 4)
  /-- VSHRA (R196). -/
  | vshra (p : Pfx) (t : VTy) (d : Fin 16) (a : VOpd) (imm : Int) (m : Fin 4)
  /-- VRED_SUM (R199). -/
  | vredSum (p : Pfx) (t : VTy) (r : Rnd) (d : Fin 32) (a : VOpd) (m : Fin 4)
  /-- VRED_MAX (R199). -/
  | vredMax (p : Pfx) (t : VTy) (r : Rnd) (d : Fin 32) (a : VOpd) (m : Fin 4)
  /-- VRED_MIN (R199). -/
  | vredMin (p : Pfx) (t : VTy) (r : Rnd) (d : Fin 32) (a : VOpd) (m : Fin 4)
  /-- VCVT (R200). -/
  | vcvt (p : Pfx) (tt st : VTy) (r : Rnd) (ns part : Bool) (d a : Fin 16) (m : Fin 4)
  /-- VEXP2 (R202). -/
  | vexp2 (p : Pfx) (d a : VOpd) (m : Fin 4)
  /-- VRCP (R202). -/
  | vrcp (p : Pfx) (d a : VOpd) (m : Fin 4)
  /-- VRSQ (R202). -/
  | vrsq (p : Pfx) (d a : VOpd) (m : Fin 4)
  /-- VQUANT (R201). -/
  | vquant (p : Pfx) (d a : VOpd) (b : Fin 32) (m : Fin 4)
  /-- VDEQ (R201). -/
  | vdeq (p : Pfx) (d a : VOpd) (b : Fin 32) (m : Fin 4)
  /-- VMOV (R203). -/
  | vmov (p : Pfx) (d a : VOpd) (m : Fin 4)
  /-- VBCAST (R203). -/
  | vbcast (p : Pfx) (d : Fin 16) (a : Fin 32) (m : Fin 4)
  /-- VGETL (R203). -/
  | vgetl (p : Pfx) (d : Fin 32) (a : Fin 16) (b : Fin 32)
  /-- VSETL (R203). -/
  | vsetl (p : Pfx) (d : Fin 16) (a b : Fin 32)
  /-- VLD (R204). -/
  | vld (p : Pfx) (sp : Space) (m : Fin 4) (d : Fin 16) (a : Fin 32) (off : Int)
  /-- VST (R204). -/
  | vst (p : Pfx) (sp : Space) (m : Fin 4) (d : Fin 16) (a : Fin 32) (off : Int)
  /-- VGATHER (R205). -/
  | vgather (p : Pfx) (t : VTy) (d : Fin 16) (a : Fin 32) (b : Fin 16) (m : Fin 4)
  /-- MAND (R198). -/
  | mand (p : Pfx) (d a b : Fin 8)
  /-- MOR (R198). -/
  | mor (p : Pfx) (d a b : Fin 8)
  /-- MXOR (R198). -/
  | mxor (p : Pfx) (d a b : Fin 8)
  /-- MANDN (R198). -/
  | mandn (p : Pfx) (d a b : Fin 8)
  /-- MPOP (R198). -/
  | mpop (p : Pfx) (d : Fin 32) (a : Fin 8)
  /-- MSET (R198). -/
  | mset (p : Pfx) (d : Fin 8) (a : Fin 32)
  /-- MGET (R198). -/
  | mget (p : Pfx) (d : Fin 32) (a : Fin 8)
  /-- MGET_VS (R198). -/
  | mgetVs (p : Pfx) (d : Fin 32)
  /-- MGET_VS_CLR (R198). -/
  | mgetVsClr (p : Pfx) (d : Fin 32)
  /-- VABS (R195). -/
  | vabs (p : Pfx) (t : VTy) (d a : VOpd) (m : Fin 4)
  /-- VNEG (R195). -/
  | vneg (p : Pfx) (t : VTy) (d a : VOpd) (m : Fin 4)
  /-- GANG_STATIC (R214). -/
  | gangStatic (p : Pfx)
  /-- GANG_ELASTIC (R214). -/
  | gangElastic (p : Pfx) (a : Fin 32)
  /-- GANG_END (R214). -/
  | gangEnd (p : Pfx)
  /-- TWLD (R215). -/
  | twld (p : Pfx) (buf : Bool) (a b : Fin 32)
  /-- TMM (R216). -/
  | tmm (p : Pfx) (acc : Fin 4) (buf : Bool) (src : TSrc) (b : Fin 32)
  /-- TDRAIN (R218). -/
  | tdrain (p : Pfx) (acc : Fin 4) (d a b : Fin 32)
  /-- TDRAIN_ADD (R218). -/
  | tdrainAdd (p : Pfx) (acc : Fin 4) (d a b : Fin 32)
  /-- TZERO (R217). -/
  | tzero (p : Pfx) (acc : Fin 4)
  /-- TRDA (R219). -/
  | trda (p : Pfx) (acc : Fin 4) (a : Fin 32)
  /-- TWRA (R219). -/
  | twra (p : Pfx) (acc : Fin 4) (a b : Fin 32)
  /-- TPACK (R222). -/
  | tpack (p : Pfx) (d a : Fin 16) (b : Fin 32)
  /-- TUNPK (R222). -/
  | tunpk (p : Pfx) (d a : Fin 16) (b : Fin 32)
  /-- TCHK (R222). -/
  | tchk (p : Pfx) (d : Fin 32) (a : Fin 16)
  /-- TSTX_SET (R221). -/
  | tstxSet (p : Pfx) (bit : Fin 64) (a : Fin 32) (imm : Int)
  /-- TSTX_CLR (R221). -/
  | tstxClr (p : Pfx) (bit : Fin 64) (a : Fin 32) (imm : Int)
  /-- ACC_MAX (R223). -/
  | accMax (p : Pfx) (d a b : Fin 32)
  /-- ACC_SCALE (R223). -/
  | accScale (p : Pfx) (d a b : Fin 32)
  /-- DIFS (R225). -/
  | difs (p : Pfx) (a b : Fin 32)
  /-- DIFGO (R226). -/
  | difgo (p : Pfx) (a : Fin 32) (imm : Int)
  /-- DIFWAIT (R228). -/
  | difwait (p : Pfx)
  /-- LDL_LONG (R160, page-3 form). -/
  | ldlLong (p : Pfx) (mode : LMode) (sg : Bool) (sz : Sz) (d a : Fin 32) (off : Int)
  /-- STL_LONG (R160, page-3 form). -/
  | stlLong (p : Pfx) (mode : LMode) (sz : Sz) (d a : Fin 32) (off : Int)
  /-- LDFE (R161). -/
  | ldfe (p : Pfx) (mode : LMode) (d a : Fin 32) (off : Int)
  /-- LDFF (R161). -/
  | ldff (p : Pfx) (mode : LMode) (d a : Fin 32) (off : Int)
  /-- STFE (R161). -/
  | stfe (p : Pfx) (mode : LMode) (d a : Fin 32) (off : Int)
  /-- STFF (R161). -/
  | stff (p : Pfx) (mode : LMode) (d a : Fin 32) (off : Int)
  /-- SETE_E (R161). -/
  | seteE (p : Pfx) (mode : LMode) (a : Fin 32) (off : Int)
  /-- SETE_F (R161). -/
  | seteF (p : Pfx) (mode : LMode) (a : Fin 32) (off : Int)
  /-- REMPTY (R163). -/
  | rempty (p : Pfx) (d : Fin 32)
  /-- FILL (R164). -/
  | fill (p : Pfx) (t d a b : Fin 32)
  /-- AMO_ADD (R165). -/
  | amoAdd (p : Pfx) (w64 : Bool) (d a b : Fin 32)
  /-- AMO_AND (R165). -/
  | amoAnd (p : Pfx) (w64 : Bool) (d a b : Fin 32)
  /-- AMO_OR (R165). -/
  | amoOr (p : Pfx) (w64 : Bool) (d a b : Fin 32)
  /-- AMO_XOR (R165). -/
  | amoXor (p : Pfx) (w64 : Bool) (d a b : Fin 32)
  /-- AMO_MIN (R165). -/
  | amoMin (p : Pfx) (w64 : Bool) (d a b : Fin 32)
  /-- AMO_MAX (R165). -/
  | amoMax (p : Pfx) (w64 : Bool) (d a b : Fin 32)
  /-- AMO_MINZ (R165). -/
  | amoMinz (p : Pfx) (w64 : Bool) (d a b : Fin 32)
  /-- AMO_MAXZ (R165). -/
  | amoMaxz (p : Pfx) (w64 : Bool) (d a b : Fin 32)
  /-- AMO_SWAP (R165). -/
  | amoSwap (p : Pfx) (w64 : Bool) (d a b : Fin 32)
  /-- AMO_CAS (R165). -/
  | amoCas (p : Pfx) (w64 : Bool) (d a b : Fin 32)
  /-- AMOP_ADD (R166). -/
  | amopAdd (p : Pfx) (w64 : Bool) (a b : Fin 32)
  /-- AMOP_AND (R166). -/
  | amopAnd (p : Pfx) (w64 : Bool) (a b : Fin 32)
  /-- AMOP_OR (R166). -/
  | amopOr (p : Pfx) (w64 : Bool) (a b : Fin 32)
  /-- AMOP_XOR (R166). -/
  | amopXor (p : Pfx) (w64 : Bool) (a b : Fin 32)
  /-- AMOP_MIN (R166). -/
  | amopMin (p : Pfx) (w64 : Bool) (a b : Fin 32)
  /-- AMOP_MAX (R166). -/
  | amopMax (p : Pfx) (w64 : Bool) (a b : Fin 32)
  /-- AMOP_MINZ (R166). -/
  | amopMinz (p : Pfx) (w64 : Bool) (a b : Fin 32)
  /-- AMOP_MAXZ (R166). -/
  | amopMaxz (p : Pfx) (w64 : Bool) (a b : Fin 32)
  /-- FAMO_F32 (R166). -/
  | famoF32 (p : Pfx) (a b : Fin 32)
  /-- FAMO_BF16 (R166). -/
  | famoBf16 (p : Pfx) (a b : Fin 32)
  /-- LDR (R168, R169). -/
  | ldr (p : Pfx) (d a : Fin 32) (off : Int)
  /-- STC (R168, R169). -/
  | stc (p : Pfx) (d a : Fin 32) (off : Int)
  /-- WAITRS (R170). -/
  | waitrs (p : Pfx) (d a : Fin 32)
  /-- FENCE_ACQ (R172). -/
  | fenceAcq (p : Pfx) (sc : Scope)
  /-- FENCE_REL (R172). -/
  | fenceRel (p : Pfx) (sc : Scope)
  /-- FENCE_AR (R172). -/
  | fenceAr (p : Pfx) (sc : Scope)
  /-- FENCE_SC (R172). -/
  | fenceSc (p : Pfx) (sc : Scope)
  /-- FENCE_POST (R174). -/
  | fencePost (p : Pfx)
  /-- SCOPEDEF (R175). -/
  | scopedef (p : Pfx) (d a : Fin 32)
  /-- CSYNC (R162, R97). -/
  | csync (p : Pfx)
  /-- EBEGIN (R178). -/
  | ebegin (p : Pfx) (d : Fin 32) (imm : Int)
  /-- ECOMMIT (R182, R185). -/
  | ecommit (p : Pfx)
  /-- EABORT (R182, R185). -/
  | eabort (p : Pfx)
  /-- EBND (R185). -/
  | ebnd (p : Pfx) (d a : Fin 32)
  /-- EPOS (R185). -/
  | epos (p : Pfx) (d : Fin 32)
  /-- BAR_ARRIVE (R176). -/
  | barArrive (p : Pfx) (sc : Scope) (d a : Fin 32)
  /-- BAR_WAIT (R176). -/
  | barWait (p : Pfx) (sc : Scope) (a b : Fin 32)
  /-- BAR_AW (R177). -/
  | barAw (p : Pfx) (sc : Scope) (d a : Fin 32)
  /-- BAR_TEST (R176). -/
  | barTest (p : Pfx) (sc : Scope) (d a b : Fin 32)
  /-- BAR_INIT (R176). -/
  | barInit (p : Pfx) (a b : Fin 32)
  /-- LD_ACQ (R173). -/
  | ldAcq (p : Pfx) (sc : Scope) (sz : Sz) (d a : Fin 32) (off : Int)
  /-- ST_REL (R173). -/
  | stRel (p : Pfx) (sc : Scope) (sz : Sz) (d a : Fin 32) (off : Int)
  /-- COPY (R234). -/
  | copy (p : Pfx) (d a b : Fin 32)
  /-- COPYQ (R235). -/
  | copyq (p : Pfx) (d : Fin 32) (q : Fin 8) (b : Fin 32)
  /-- CJWAIT (R239). -/
  | cjwait (p : Pfx) (d a : Fin 32)
  /-- CJTEST (R239). -/
  | cjtest (p : Pfx) (d a : Fin 32)
  /-- MKGRANT (R241). -/
  | mkgrant (p : Pfx) (rw : Bool) (d a b : Fin 32)
  /-- ADDG (R242). -/
  | addg (p : Pfx) (d a b : Fin 32)
  /-- GRANTQ (R243). -/
  | grantq (p : Pfx) (d a : Fin 32)
  /-- REVOKE (R244). -/
  | revoke (p : Pfx) (d : Fin 32)
  /-- WFW (R245). -/
  | wfw (p : Pfx)
  /-- SPAWN (R246). -/
  | spawn (p : Pfx) (d a : Fin 32)
  /-- LAUNCH (R247). -/
  | launch (p : Pfx) (d a b : Fin 32)
  /-- INRD (R248). -/
  | inrd (p : Pfx) (d a : Fin 32)
  /-- KRD (R249). -/
  | krd (p : Pfx) (n : Fin 64) (d : Fin 32)
  /-- KWR (R249). -/
  | kwr (p : Pfx) (n : Fin 64) (a : Fin 32)
  /-- MULH (R135). -/
  | mulh (p : Pfx) (d a b : Fin 32)
  /-- MULHZ (R135). -/
  | mulhz (p : Pfx) (d a b : Fin 32)
  /-- DIV (R135). -/
  | div (p : Pfx) (d a b : Fin 32)
  /-- DIVZ (R135). -/
  | divz (p : Pfx) (d a b : Fin 32)
  /-- REM (R135). -/
  | rem (p : Pfx) (d a b : Fin 32)
  /-- REMZ (R135). -/
  | remz (p : Pfx) (d a b : Fin 32)
  /-- BFX_Z (R136; w is the width less one). -/
  | bfxZ (p : Pfx) (w : Fin 64) (d a : Fin 32) (imm : Int)
  /-- BFX_S (R136; w is the width less one). -/
  | bfxS (p : Pfx) (w : Fin 64) (d a : Fin 32) (imm : Int)
  /-- BFI (R136; w is the width less one). -/
  | bfi (p : Pfx) (w : Fin 64) (d a : Fin 32) (imm : Int)
  /-- SEL (R137). -/
  | sel (p : Pfx) (pr : Fin 8) (d a b : Fin 32)
  /-- CLZ (R134). -/
  | clz (p : Pfx) (d a : Fin 32)
  /-- CTZ (R134). -/
  | ctz (p : Pfx) (d a : Fin 32)
  /-- POPC (R134). -/
  | popc (p : Pfx) (d a : Fin 32)
  /-- BSWAP (R134). -/
  | bswap (p : Pfx) (d a : Fin 32)
  /-- MIN (R133). -/
  | min (p : Pfx) (d a b : Fin 32)
  /-- MAX (R133). -/
  | max (p : Pfx) (d a b : Fin 32)
  /-- MINZ (R133). -/
  | minz (p : Pfx) (d a b : Fin 32)
  /-- MAXZ (R133). -/
  | maxz (p : Pfx) (d a b : Fin 32)
  /-- ANDI (R133). -/
  | andi (p : Pfx) (d a : Fin 32) (imm : Int)
  /-- ORI (R133). -/
  | ori (p : Pfx) (d a : Fin 32) (imm : Int)
  /-- XORI (R133). -/
  | xori (p : Pfx) (d a : Fin 32) (imm : Int)
  /-- QPOP (R138). -/
  | qpop (p : Pfx) (d : Fin 32) (q : Fin 8)
  /-- QPUSH (R138). -/
  | qpush (p : Pfx) (q : Fin 8) (a : Fin 32)
  /-- SRD (R360). -/
  | srd (p : Pfx) (n : Fin 128) (d a : Fin 32)
  /-- SWR (R360). -/
  | swr (p : Pfx) (n : Fin 128) (a b : Fin 32)
  /-- ERET (R361). -/
  | eret (p : Pfx)
  /-- ERET_START (R361). -/
  | eretStart (p : Pfx) (d a : Fin 32)
  /-- TLBINV_RANGE (R363). -/
  | tlbinvRange (p : Pfx) (span : Bool) (d a b : Fin 32)
  /-- TLBINV_ASID (R363). -/
  | tlbinvAsid (p : Pfx) (span : Bool) (d a b : Fin 32)
  /-- TLBINV_S2RANGE (R363). -/
  | tlbinvS2range (p : Pfx) (span : Bool) (d a b : Fin 32)
  /-- TLBINV_PARTITION (R363). -/
  | tlbinvPartition (p : Pfx) (span : Bool) (d a b : Fin 32)
  /-- TLBPROBE (R364). -/
  | tlbprobe (p : Pfx) (d a b : Fin 32)
  /-- CACHEOP_IC (R365). -/
  | cacheopIc (p : Pfx) (span : Bool) (a b : Fin 32)
  /-- CACHEOP_L1 (R365). -/
  | cacheopL1 (p : Pfx) (span : Bool) (a b : Fin 32)
  /-- CACHEOP_CC (R365). -/
  | cacheopCc (p : Pfx) (span : Bool) (a b : Fin 32)
  /-- CACHEOP_L2V (R365). -/
  | cacheopL2v (p : Pfx) (span : Bool) (a b : Fin 32)
  /-- CACHEOP_L2P (R365). -/
  | cacheopL2p (p : Pfx) (a b : Fin 32)
  /-- DOMSET_ROW (R366). -/
  | domsetRow (p : Pfx) (a b : Fin 32)
  /-- DOMSET_ALL (R366). -/
  | domsetAll (p : Pfx) (b : Fin 32)
  /-- FWSEND (R367). -/
  | fwsend (p : Pfx) (d a b : Fin 32)
  /-- FWSEND_REPLY (R367). -/
  | fwsendReply (p : Pfx) (d a b : Fin 32)
  /-- STOPARM_CORE (R368). -/
  | stoparmCore (p : Pfx) (a : Fin 32)
  /-- STOPARM_STOP (R368). -/
  | stoparmStop (p : Pfx) (d a b : Fin 32)
  /-- STOPARM_RESUME (R368). -/
  | stoparmResume (p : Pfx) (d a b : Fin 32)
  /-- STEP (R362). -/
  | step (p : Pfx) (a : Fin 32)
  /-- SLPSET (R369). -/
  | slpset (p : Pfx) (d a : Fin 32)
  /-- WDSET_KICK (R370). -/
  | wdsetKick (p : Pfx)
  /-- WDSET_ARM (R370). -/
  | wdsetArm (p : Pfx) (a b : Fin 32)
  /-- WDSET_READ (R370). -/
  | wdsetRead (p : Pfx) (d b : Fin 32)
  /-- Event DEVICE_RESET (R304). -/
  | deviceReset
  /-- Event RECOVERY_REQUEST (R306). -/
  | recoveryRequest
  /-- Event RECOVERY_DATA_FRAME (R306). -/
  | recoveryDataFrame
  /-- Event RECOVERY_END_FRAME (R306). -/
  | recoveryEndFrame
  /-- Event RECOVERY_TIMEOUT (R306). -/
  | recoveryTimeout
  /-- Event RECOVERY_RETRY (R306). -/
  | recoveryRetry
  /-- Event PARK_EVENT (R31). -/
  | parkEvent
  /-- Event PARKED_RESUME (R22). -/
  | parkedResume
  /-- Event PARK_TIMEOUT (R32). -/
  | parkTimeout
  /-- Event FILL_ARRIVAL (R35). -/
  | fillArrival
  /-- Event DISPENSE (R41). -/
  | dispense
  /-- Event TASK_RECORD_WRITE (R329). -/
  | taskRecordWrite
  /-- Event GANG_OPEN (R42). -/
  | gangOpen
  /-- Event GANG_STALL (R45). -/
  | gangStall
  /-- Event GANG_STALL_END (R45). -/
  | gangStallEnd
  /-- Event SLEEP_ENTRY (R47). -/
  | sleepEntry
  /-- Event SLEEP_WAKE (R47). -/
  | sleepWake
  /-- Event WAKE_END (R47). -/
  | wakeEnd
  /-- Event STREAM_ELEMENT_ARRIVAL (R53). -/
  | streamElementArrival
  /-- Event STREAM_ELEMENT_ACCEPT (R100). -/
  | streamElementAccept
  /-- Event STORE_QUEUE_DEPART (R156). -/
  | storeQueueDepart
  /-- Event STORE_ORDER_AT_HOME (R255). -/
  | storeOrderAtHome
  /-- Event INVALIDATION_DELIVERY (R255). -/
  | invalidationDelivery
  /-- Event REMOTE_STORE_ACK (R256). -/
  | remoteStoreAck
  /-- Event LEASE_EXPIRY (R256). -/
  | leaseExpiry
  /-- Event POSTED_OP_APPLY (R158). -/
  | postedOpApply
  /-- Event POSTED_ACK (R158). -/
  | postedAck
  /-- Event REMOTE_FAULT_RECORD (R159). -/
  | remoteFaultRecord
  /-- Event REMOTE_RECORD_RESEND (R159). -/
  | remoteRecordResend
  /-- Event ATOMIC_AT_HOME (R165). -/
  | atomicAtHome
  /-- Event MOVED_ANSWER (R167). -/
  | movedAnswer
  /-- Event BARRIER_AT_HOME (R176). -/
  | barrierAtHome
  /-- Event FE_WAITER_SERVICE (R161). -/
  | feWaiterService
  /-- Event REGION_ACCESS_AT_SLICE (R180). -/
  | regionAccessAtSlice
  /-- Event NARROWING_ARRIVAL (R287). -/
  | narrowingArrival
  /-- Event BROADCAST_TURN_GRANT (R182). -/
  | broadcastTurnGrant
  /-- Event FINAL_POSITION_BROADCAST (R182). -/
  | finalPositionBroadcast
  /-- Event SERIAL_TOKEN_GRANT (R184). -/
  | serialTokenGrant
  /-- Event SCOPE_MISS_MESSAGE (R262). -/
  | scopeMissMessage
  /-- Event SCOPE_MISS_ANSWER (R262). -/
  | scopeMissAnswer
  /-- Event TAG_EVICTION_REPAIR (R263). -/
  | tagEvictionRepair
  /-- Event JOB_START (R236). -/
  | jobStart
  /-- Event JOB_COMPLETE (R237). -/
  | jobComplete
  /-- Event JOB_END_EARLY (R237). -/
  | jobEndEarly
  /-- Event ARRAY_INSTR_START (R209). -/
  | arrayInstrStart
  /-- Event ARRAY_INSTR_COMPLETE (R211). -/
  | arrayInstrComplete
  /-- Event ARRAY_IDLE_GATE (R213). -/
  | arrayIdleGate
  /-- Event ACCORD_RELEASE (R224). -/
  | accordRelease
  /-- Event DIFFUSER_ISSUE (R227). -/
  | diffuserIssue
  /-- Event GRANT_INVALIDATION (R392). -/
  | grantInvalidation
  /-- Event CORE_INTERRUPT_TAKE (R345). -/
  | coreInterruptTake
  /-- Event GRAPH_REGISTER (R331). -/
  | graphRegister
  /-- Event GRAPH_UNREGISTER (R331). -/
  | graphUnregister
  /-- Event LAUNCH_WORD_ACCEPT (R332). -/
  | launchWordAccept
  /-- Event NODE_START (R332). -/
  | nodeStart
  /-- Event NODE_COMPLETE (R332). -/
  | nodeComplete
  /-- Event INSTANCE_COMPLETE (R333). -/
  | instanceComplete
  /-- Event RECOVERY_MODE_SET (R384). -/
  | recoveryModeSet
  /-- Event CORRECTABLE_ERROR (R382). -/
  | correctableError
  /-- Event UNCORRECTABLE_ERROR (R383). -/
  | uncorrectableError
  /-- Event CTX_SAVE (R391). -/
  | ctxSave
  /-- Event CTX_CLEAR (R391). -/
  | ctxClear
  /-- Event CTX_REPLACE (R391). -/
  | ctxReplace
  /-- Event SYNC_STOP (R347). -/
  | syncStop
  /-- Event SYNC_RESUME (R356). -/
  | syncResume
  /-- Event JOB_FREEZE (R348). -/
  | jobFreeze
  /-- Event SILLAGE_SWEEP (R349). -/
  | sillageSweep
  /-- Event IMAGE_WRITE (R351). -/
  | imageWrite
  /-- Event IMAGE_SEAL (R350). -/
  | imageSeal
  /-- Event SAVE_BUDGET_EXPIRY (R353). -/
  | saveBudgetExpiry
  /-- Event IMAGE_SWAP_OUT (R357). -/
  | imageSwapOut
  /-- Event IMAGE_READBACK (R357). -/
  | imageReadback
  /-- Event WATCHDOG_EXPIRY (R370). -/
  | watchdogExpiry
  /-- Event FROZEN_LEAF_REREAD (R320). -/
  | frozenLeafReread
  /-- Event LINK_TRAINING_END (R373). -/
  | linkTrainingEnd
  /-- Event FLIT_RESEND (R374). -/
  | flitResend
  /-- Event LINK_DOWN (R374). -/
  | linkDown
  /-- Event CLOCK_SYNC_EXCHANGE (R377). -/
  | clockSyncExchange
  /-- Event CLOCK_SYNC_LOSS (R377). -/
  | clockSyncLoss
  /-- Event ETHERNET_FRAME_RX (R378). -/
  | ethernetFrameRx
  /-- Event GET_DIGESTS (R308). -/
  | getDigests
  /-- Event GET_CERTIFICATE (R308). -/
  | getCertificate
  /-- Event CHALLENGE (R308). -/
  | challenge
  /-- Event GET_MEASUREMENTS (R308). -/
  | getMeasurements
  /-- Event KEY_EXCHANGE (R308). -/
  | keyExchange
  /-- Event FINISH (R309). -/
  | finish
  /-- Event KEY_UPDATE (R308). -/
  | keyUpdate
  /-- Event HEARTBEAT (R308). -/
  | heartbeat
  /-- Event END_SESSION (R308). -/
  | endSession
  /-- Event TENANT_APP_DATA (R378). -/
  | tenantAppData
  /-- Event CLUSTER_HOLD (R393). -/
  | clusterHold
  /-- Event CLUSTER_RELEASE (R393). -/
  | clusterRelease
  /-- Event FIREWALL_WRITE (R299). -/
  | firewallWrite
  /-- Event MOVED_FRAME_ENTER (R320). -/
  | movedFrameEnter
  /-- Event MOVED_FRAME_REMOVE (R320). -/
  | movedFrameRemove
  /-- Event INTERLEAVE_COMMIT (R325). -/
  | interleaveCommit
  /-- Event KEY_GENERATE (R380). -/
  | keyGenerate
  /-- Event KEY_RETIRE (R380). -/
  | keyRetire
  /-- Event MEASUREMENT_EXTEND (R305). -/
  | measurementExtend
  /-- Event LINK_ENABLE (R373). -/
  | linkEnable
  /-- Event LINK_DISABLE (R373). -/
  | linkDisable
  /-- Event INTCNT_CLEAR (R379). -/
  | intcntClear
  /-- Event UNALLOCATED_ENCODING (R119). -/
  | unallocatedEncoding
  /-- Event FETCH_FAULT (R119). -/
  | fetchFault
  /-- Event MAIL_RECORD_DELIVERY (R367). -/
  | mailRecordDelivery
deriving DecidableEq, Repr

/-- The events with what each happens to: instances by the model's numbers (log 4), messages and lanes by theirs, and
what the outside world supplies. -/
inductive Event where
  /-- DEVICE_RESET (R304). -/
  | deviceReset (dev : Nat)
  /-- RECOVERY_REQUEST (R306). -/
  | recoveryRequest (dev : Nat)
  /-- RECOVERY_DATA_FRAME (R306). -/
  | recoveryDataFrame (dev station seq : Nat) (data : List Byte)
  /-- RECOVERY_END_FRAME (R306). -/
  | recoveryEndFrame (dev station len : Nat)
  /-- RECOVERY_TIMEOUT (R306). -/
  | recoveryTimeout (dev : Nat)
  /-- RECOVERY_RETRY (R306). -/
  | recoveryRetry (dev : Nat)
  /-- PARK_EVENT (R31). -/
  | parkEvent (k : Nat)
  /-- PARKED_RESUME (R22). -/
  | parkedResume (k : Nat)
  /-- PARK_TIMEOUT (R32). -/
  | parkTimeout (k : Nat)
  /-- FILL_ARRIVAL (R35). -/
  | fillArrival (id : Nat)
  /-- DISPENSE (R41). -/
  | dispense (ck : Nat)
  /-- TASK_RECORD_WRITE (R329). -/
  | taskRecordWrite (core : Nat)
  /-- GANG_OPEN (R42). -/
  | gangOpen (ck : Nat)
  /-- GANG_STALL (R45). -/
  | gangStall (ck : Nat)
  /-- GANG_STALL_END (R45). -/
  | gangStallEnd (ck : Nat)
  /-- SLEEP_ENTRY (R47). -/
  | sleepEntry (core : Nat)
  /-- SLEEP_WAKE (R47). -/
  | sleepWake (core : Nat)
  /-- WAKE_END (R47). -/
  | wakeEnd (core : Nat)
  /-- STREAM_ELEMENT_ARRIVAL (R53). -/
  | streamElementArrival (core q : Nat)
  /-- STREAM_ELEMENT_ACCEPT (R100). -/
  | streamElementAccept (core q : Nat)
  /-- STORE_QUEUE_DEPART (R156). -/
  | storeQueueDepart (core : Nat)
  /-- STORE_ORDER_AT_HOME (R255). -/
  | storeOrderAtHome (id : Nat)
  /-- INVALIDATION_DELIVERY (R255). -/
  | invalidationDelivery (die : Nat)
  /-- REMOTE_STORE_ACK (R256). -/
  | remoteStoreAck (id : Nat)
  /-- LEASE_EXPIRY (R256). -/
  | leaseExpiry (core line : Nat)
  /-- POSTED_OP_APPLY (R158). -/
  | postedOpApply (lane : Nat)
  /-- POSTED_ACK (R158). -/
  | postedAck (lane : Nat)
  /-- REMOTE_FAULT_RECORD (R159). -/
  | remoteFaultRecord (lane : Nat)
  /-- REMOTE_RECORD_RESEND (R159). -/
  | remoteRecordResend (lane : Nat)
  /-- ATOMIC_AT_HOME (R165). -/
  | atomicAtHome (id : Nat)
  /-- MOVED_ANSWER (R167). -/
  | movedAnswer (id : Nat)
  /-- BARRIER_AT_HOME (R176). -/
  | barrierAtHome (id : Nat)
  /-- FE_WAITER_SERVICE (R161). -/
  | feWaiterService (word : Nat)
  /-- REGION_ACCESS_AT_SLICE (R180). -/
  | regionAccessAtSlice (id : Nat)
  /-- NARROWING_ARRIVAL (R287). -/
  | narrowingArrival (core : Nat)
  /-- BROADCAST_TURN_GRANT (R182). -/
  | broadcastTurnGrant (die : Nat)
  /-- FINAL_POSITION_BROADCAST (R182). -/
  | finalPositionBroadcast (die : Nat)
  /-- SERIAL_TOKEN_GRANT (R184). -/
  | serialTokenGrant (die : Nat)
  /-- SCOPE_MISS_MESSAGE (R262). -/
  | scopeMissMessage (id : Nat)
  /-- SCOPE_MISS_ANSWER (R262). -/
  | scopeMissAnswer (core : Nat)
  /-- TAG_EVICTION_REPAIR (R263). -/
  | tagEvictionRepair (line : Nat)
  /-- JOB_START (R236). -/
  | jobStart (ck i : Nat)
  /-- JOB_COMPLETE (R237). -/
  | jobComplete (ck i : Nat)
  /-- JOB_END_EARLY (R237). -/
  | jobEndEarly (ck i : Nat) (cause : Nat)
  /-- ARRAY_INSTR_START (R209). -/
  | arrayInstrStart (core : Nat) (loader : Bool)
  /-- ARRAY_INSTR_COMPLETE (R211). -/
  | arrayInstrComplete (core : Nat) (loader : Bool)
  /-- ARRAY_IDLE_GATE (R213). -/
  | arrayIdleGate (core : Nat)
  /-- ACCORD_RELEASE (R224). -/
  | accordRelease (core : Nat)
  /-- DIFFUSER_ISSUE (R227). -/
  | diffuserIssue (core : Nat)
  /-- GRANT_INVALIDATION (R392). -/
  | grantInvalidation (core : Nat)
  /-- CORE_INTERRUPT_TAKE (R345). -/
  | coreInterruptTake (k : Nat)
  /-- GRAPH_REGISTER (R331). -/
  | graphRegister (pid asid header : Nat) (reply : Option Nat)
  /-- GRAPH_UNREGISTER (R331). -/
  | graphUnregister (pid handle : Nat) (reply : Option Nat)
  /-- LAUNCH_WORD_ACCEPT (R332). -/
  | launchWordAccept (pid : Nat)
  /-- NODE_START (R332). -/
  | nodeStart (pid inst node : Nat)
  /-- NODE_COMPLETE (R332). -/
  | nodeComplete (pid inst node : Nat)
  /-- INSTANCE_COMPLETE (R333). -/
  | instanceComplete (pid inst : Nat)
  /-- RECOVERY_MODE_SET (R384). -/
  | recoveryModeSet (pid mode area : Nat) (reply : Option Nat)
  /-- CORRECTABLE_ERROR (R382). -/
  | correctableError (dev loc : Nat)
  /-- UNCORRECTABLE_ERROR (R383). -/
  | uncorrectableError (err : ErrSite)
  /-- CTX_SAVE (R391). -/
  | ctxSave (pid desc : Nat) (reply : Option Nat)
  /-- CTX_CLEAR (R391). -/
  | ctxClear (pid desc : Nat) (reply : Option Nat)
  /-- CTX_REPLACE (R391). -/
  | ctxReplace (pid desc : Nat) (reply : Option Nat)
  /-- SYNC_STOP (R347). -/
  | syncStop (ck : Nat)
  /-- SYNC_RESUME (R356). -/
  | syncResume (ck : Nat)
  /-- JOB_FREEZE (R348). -/
  | jobFreeze (ck i : Nat)
  /-- SILLAGE_SWEEP (R349). -/
  | sillageSweep (pid : Nat)
  /-- IMAGE_WRITE (R351). -/
  | imageWrite (pid core : Nat)
  /-- IMAGE_SEAL (R350). -/
  | imageSeal (pid core : Nat)
  /-- SAVE_BUDGET_EXPIRY (R353). -/
  | saveBudgetExpiry (pid : Nat)
  /-- IMAGE_SWAP_OUT (R357). -/
  | imageSwapOut (pid core lba : Nat)
  /-- IMAGE_READBACK (R357). -/
  | imageReadback (pid core : Nat) (good : Bool)
  /-- WATCHDOG_EXPIRY (R370). -/
  | watchdogExpiry (dev pid : Nat)
  /-- FROZEN_LEAF_REREAD (R320). -/
  | frozenLeafReread (k : Nat)
  /-- LINK_TRAINING_END (R373). -/
  | linkTrainingEnd (dev link : Nat) (lanes peer plink reason : Nat)
  /-- FLIT_RESEND (R374). -/
  | flitResend (dev link : Nat) (same : Bool)
  /-- LINK_DOWN (R374). -/
  | linkDown (dev link : Nat)
  /-- CLOCK_SYNC_EXCHANGE (R377). -/
  | clockSyncExchange (dev : Nat)
  /-- CLOCK_SYNC_LOSS (R377). -/
  | clockSyncLoss (dev : Nat)
  /-- ETHERNET_FRAME_RX (R378). -/
  | ethernetFrameRx (dev port etype : Nat) (station : Nat) (payload : List Byte)
  /-- GET_DIGESTS (R308). -/
  | getDigests (dev sess : Nat) (req : List Byte)
  /-- GET_CERTIFICATE (R308). -/
  | getCertificate (dev sess : Nat) (req : List Byte)
  /-- CHALLENGE (R308). -/
  | challenge (dev sess : Nat) (req : List Byte)
  /-- GET_MEASUREMENTS (R308). -/
  | getMeasurements (dev sess : Nat) (req : List Byte)
  /-- KEY_EXCHANGE (R308). -/
  | keyExchange (dev sess : Nat) (req : List Byte)
  /-- FINISH (R309). -/
  | finish (dev sess : Nat) (req : List Byte)
  /-- KEY_UPDATE (R308). -/
  | keyUpdate (dev sess : Nat) (req : List Byte)
  /-- HEARTBEAT (R308). -/
  | heartbeat (dev sess : Nat) (req : List Byte)
  /-- END_SESSION (R308). -/
  | endSession (dev sess : Nat) (req : List Byte)
  /-- TENANT_APP_DATA (R378). -/
  | tenantAppData (dev sess : Nat) (msg : TenantMsg)
  /-- CLUSTER_HOLD (R393). -/
  | clusterHold (ck : Nat)
  /-- CLUSTER_RELEASE (R393). -/
  | clusterRelease (ck : Nat)
  /-- FIREWALL_WRITE (R299). -/
  | firewallWrite (ck : Nat) (val : Word)
  /-- MOVED_FRAME_ENTER (R320). -/
  | movedFrameEnter (dev frame size : Nat)
  /-- MOVED_FRAME_REMOVE (R320). -/
  | movedFrameRemove (dev frame size : Nat)
  /-- INTERLEAVE_COMMIT (R325). -/
  | interleaveCommit (dev : Nat)
  /-- KEY_GENERATE (R380). -/
  | keyGenerate (dev id : Nat)
  /-- KEY_RETIRE (R380). -/
  | keyRetire (dev id : Nat)
  /-- MEASUREMENT_EXTEND (R305). -/
  | measurementExtend (dev reg : Nat) (data : List Byte)
  /-- LINK_ENABLE (R373). -/
  | linkEnable (dev link : Nat)
  /-- LINK_DISABLE (R373). -/
  | linkDisable (dev link : Nat)
  /-- INTCNT_CLEAR (R379). -/
  | intcntClear (dev : Nat)
  /-- UNALLOCATED_ENCODING (R119). -/
  | unallocatedEncoding (cause : Nat) (addr : Word) (nw : Nat)
  /-- FETCH_FAULT (R119). -/
  | fetchFault (cause : Nat) (addr : Word) (nw : Nat)
  /-- MAIL_RECORD_DELIVERY (R367). -/
  | mailRecordDelivery (core : Nat)
deriving DecidableEq, Repr

/-- The row of the opcode table an event belongs to. -/
def Event.instr : Event → Instr
  | .deviceReset .. => .deviceReset
  | .recoveryRequest .. => .recoveryRequest
  | .recoveryDataFrame .. => .recoveryDataFrame
  | .recoveryEndFrame .. => .recoveryEndFrame
  | .recoveryTimeout .. => .recoveryTimeout
  | .recoveryRetry .. => .recoveryRetry
  | .parkEvent .. => .parkEvent
  | .parkedResume .. => .parkedResume
  | .parkTimeout .. => .parkTimeout
  | .fillArrival .. => .fillArrival
  | .dispense .. => .dispense
  | .taskRecordWrite .. => .taskRecordWrite
  | .gangOpen .. => .gangOpen
  | .gangStall .. => .gangStall
  | .gangStallEnd .. => .gangStallEnd
  | .sleepEntry .. => .sleepEntry
  | .sleepWake .. => .sleepWake
  | .wakeEnd .. => .wakeEnd
  | .streamElementArrival .. => .streamElementArrival
  | .streamElementAccept .. => .streamElementAccept
  | .storeQueueDepart .. => .storeQueueDepart
  | .storeOrderAtHome .. => .storeOrderAtHome
  | .invalidationDelivery .. => .invalidationDelivery
  | .remoteStoreAck .. => .remoteStoreAck
  | .leaseExpiry .. => .leaseExpiry
  | .postedOpApply .. => .postedOpApply
  | .postedAck .. => .postedAck
  | .remoteFaultRecord .. => .remoteFaultRecord
  | .remoteRecordResend .. => .remoteRecordResend
  | .atomicAtHome .. => .atomicAtHome
  | .movedAnswer .. => .movedAnswer
  | .barrierAtHome .. => .barrierAtHome
  | .feWaiterService .. => .feWaiterService
  | .regionAccessAtSlice .. => .regionAccessAtSlice
  | .narrowingArrival .. => .narrowingArrival
  | .broadcastTurnGrant .. => .broadcastTurnGrant
  | .finalPositionBroadcast .. => .finalPositionBroadcast
  | .serialTokenGrant .. => .serialTokenGrant
  | .scopeMissMessage .. => .scopeMissMessage
  | .scopeMissAnswer .. => .scopeMissAnswer
  | .tagEvictionRepair .. => .tagEvictionRepair
  | .jobStart .. => .jobStart
  | .jobComplete .. => .jobComplete
  | .jobEndEarly .. => .jobEndEarly
  | .arrayInstrStart .. => .arrayInstrStart
  | .arrayInstrComplete .. => .arrayInstrComplete
  | .arrayIdleGate .. => .arrayIdleGate
  | .accordRelease .. => .accordRelease
  | .diffuserIssue .. => .diffuserIssue
  | .grantInvalidation .. => .grantInvalidation
  | .coreInterruptTake .. => .coreInterruptTake
  | .graphRegister .. => .graphRegister
  | .graphUnregister .. => .graphUnregister
  | .launchWordAccept .. => .launchWordAccept
  | .nodeStart .. => .nodeStart
  | .nodeComplete .. => .nodeComplete
  | .instanceComplete .. => .instanceComplete
  | .recoveryModeSet .. => .recoveryModeSet
  | .correctableError .. => .correctableError
  | .uncorrectableError .. => .uncorrectableError
  | .ctxSave .. => .ctxSave
  | .ctxClear .. => .ctxClear
  | .ctxReplace .. => .ctxReplace
  | .syncStop .. => .syncStop
  | .syncResume .. => .syncResume
  | .jobFreeze .. => .jobFreeze
  | .sillageSweep .. => .sillageSweep
  | .imageWrite .. => .imageWrite
  | .imageSeal .. => .imageSeal
  | .saveBudgetExpiry .. => .saveBudgetExpiry
  | .imageSwapOut .. => .imageSwapOut
  | .imageReadback .. => .imageReadback
  | .watchdogExpiry .. => .watchdogExpiry
  | .frozenLeafReread .. => .frozenLeafReread
  | .linkTrainingEnd .. => .linkTrainingEnd
  | .flitResend .. => .flitResend
  | .linkDown .. => .linkDown
  | .clockSyncExchange .. => .clockSyncExchange
  | .clockSyncLoss .. => .clockSyncLoss
  | .ethernetFrameRx .. => .ethernetFrameRx
  | .getDigests .. => .getDigests
  | .getCertificate .. => .getCertificate
  | .challenge .. => .challenge
  | .getMeasurements .. => .getMeasurements
  | .keyExchange .. => .keyExchange
  | .finish .. => .finish
  | .keyUpdate .. => .keyUpdate
  | .heartbeat .. => .heartbeat
  | .endSession .. => .endSession
  | .tenantAppData .. => .tenantAppData
  | .clusterHold .. => .clusterHold
  | .clusterRelease .. => .clusterRelease
  | .firewallWrite .. => .firewallWrite
  | .movedFrameEnter .. => .movedFrameEnter
  | .movedFrameRemove .. => .movedFrameRemove
  | .interleaveCommit .. => .interleaveCommit
  | .keyGenerate .. => .keyGenerate
  | .keyRetire .. => .keyRetire
  | .measurementExtend .. => .measurementExtend
  | .linkEnable .. => .linkEnable
  | .linkDisable .. => .linkDisable
  | .intcntClear .. => .intcntClear
  | .unallocatedEncoding .. => .unallocatedEncoding
  | .fetchFault .. => .fetchFault
  | .mailRecordDelivery .. => .mailRecordDelivery

end Sys2Proof
end

