-- ==== Sys2Proof/Decode.lean ====
section
/-! DEFINITION. Decoding (R112-R128): from the words of a chain to an instruction or the cause of the trap, and the
encoder beside it. -/

namespace Sys2Proof

/-! ### Codes of operand values -/

/-- The low two bits as a mask, accumulator or mode number. -/
def fin4 (n : Nat) : Fin 4 := ⟨n % 4, by omega⟩
/-- The low three bits. -/
def fin8 (n : Nat) : Fin 8 := ⟨n % 8, by omega⟩
/-- The low five bits. -/
def fin32 (n : Nat) : Fin 32 := ⟨n % 32, by omega⟩
/-- The low six bits. -/
def fin64 (n : Nat) : Fin 64 := ⟨n % 64, by omega⟩
/-- The low seven bits. -/
def fin128 (n : Nat) : Fin 128 := ⟨n % 128, by omega⟩
/-- The lowest bit. -/
def bit (n : Nat) : Bool := n % 2 == 1

/-- A 3-bit register class: a value above 7 is illegal (R114). -/
def reg8 (r : Fin 32) : Option (Fin 8) := if h : r.val < 8 then some ⟨r.val, h⟩ else none
/-- A v operand that takes no stream register (R114). -/
def reg16 (r : Fin 32) : Option (Fin 16) := if h : r.val < 16 then some ⟨r.val, h⟩ else none
/-- A v operand that takes a stream register at values 16 to 23 (R114). -/
def vopd (r : Fin 32) : Option VOpd :=
  if h : r.val < 16 then some (.v ⟨r.val, h⟩)
  else if r.val < 24 then some (.q (fin8 r.val)) else none
/-- The register value of a v operand. -/
def VOpd.code : VOpd → Nat
  | .v r => r.val
  | .q r => 16 + r.val

/-- Type codes (R123). -/
def vty (n : Nat) : VTy :=
  match n % 8 with
  | 0 => .f32 | 1 => .bf16 | 2 => .f16 | 3 => .e4m3 | 4 => .e5m2 | 5 => .i32 | 6 => .i16 | _ => .i8
/-- Type codes (R123). -/
def VTy.code : VTy → Nat
  | .f32 => 0 | .bf16 => 1 | .f16 => 2 | .e4m3 => 3 | .e5m2 => 4 | .i32 => 5 | .i16 => 6 | .i8 => 7
/-- Rounding codes (R69). -/
def rnd (n : Nat) : Rnd :=
  match n % 4 with
  | 0 => .rn | 1 => .rz | 2 => .ru | _ => .rd
/-- Rounding codes (R69). -/
def Rnd.code : Rnd → Nat
  | .rn => 0 | .rz => 1 | .ru => 2 | .rd => 3
/-- Local modes: code 3 is unallocated (R122, R126). -/
def lmode (n : Nat) : Option LMode :=
  match n % 4 with
  | 0 => some .own | 1 => some .blk | 2 => some .ilv | _ => none
/-- Local modes. -/
def LMode.code : LMode → Nat
  | .own => 0 | .blk => 1 | .ilv => 2
/-- The space codes of VLD and VST (R204). -/
def space (n : Nat) : Space :=
  match n % 4 with
  | 0 => .virt | 1 => .lm .own | 2 => .lm .blk | _ => .lm .ilv
/-- The space codes of VLD and VST (R204). -/
def Space.code : Space → Nat
  | .virt => 0 | .lm m => 1 + m.code
/-- Size codes 0 to 3. -/
def szOf (n : Nat) : Sz :=
  match n % 4 with
  | 0 => .b1 | 1 => .b2 | 2 => .b4 | _ => .b8
/-- Size codes 0 to 3. -/
def Sz.code : Sz → Nat
  | .b1 => 0 | .b2 => 1 | .b4 => 2 | .b8 => 3
/-- The signedness and size codes of the page-3 LDL; 7 is unallocated (R126). -/
def ldsz (n : Nat) : Option (Bool × Sz) :=
  match n % 8 with
  | 0 => some (true, .b1) | 1 => some (true, .b2) | 2 => some (true, .b4) | 3 => some (false, .b8)
  | 4 => some (false, .b1) | 5 => some (false, .b2) | 6 => some (false, .b4) | _ => none
/-- The signedness and size codes of the page-3 LDL. -/
def ldszCode : Bool → Sz → Nat
  | true, .b1 => 0 | true, .b2 => 1 | true, .b4 => 2 | _, .b8 => 3
  | false, .b1 => 4 | false, .b2 => 5 | false, .b4 => 6
/-- Scope codes; 7 is unallocated (R126). -/
def scope (n : Nat) : Option Scope :=
  match n % 16 with
  | 0 => some .thread | 1 => some .core | 2 => some .cluster | 3 => some .sector | 4 => some .die
  | 5 => some .device | 6 => some .span | 7 => none | m => some (.named (fin8 m))
/-- Scope codes (R126). -/
def Scope.code : Scope → Nat
  | .thread => 0 | .core => 1 | .cluster => 2 | .sector => 3 | .die => 4 | .device => 5 | .span => 6
  | .named n => 8 + n.val
/-- The a field of a TMM (R216). -/
def TSrc.code : TSrc → Nat
  | .local a => a.val | .stream q => q.val
/-- The f2 field of a TMM (R216). -/
def TSrc.sel : TSrc → Nat
  | .local _ => 0 | .stream _ => 1

/-! ### What the vector entries accept (R189, R200) -/

/-- VADD, VSUB, VMUL. -/
def arithTy : VTy → Bool
  | .e4m3 | .e5m2 => false
  | _ => true
/-- The fused family. -/
def fmaTy : VTy → Bool
  | .i32 | .i16 | .i8 => false
  | _ => true
/-- VCMP, VSEL, VRED, VGATHER. -/
def w32Ty : VTy → Bool
  | .f32 | .i32 => true
  | _ => false
/-- VSHL, VSHR, VSHRA. -/
def intTy : VTy → Bool
  | .i32 | .i16 | .i8 => true
  | _ => false
/-- The FP8 formats. -/
def fp8Ty : VTy → Bool
  | .e4m3 | .e5m2 => true
  | _ => false
/-- Element width in bits (R51). -/
def VTy.width : VTy → Nat
  | .f32 | .i32 => 32
  | .bf16 | .f16 | .i16 => 16
  | .e4m3 | .e5m2 | .i8 => 8
/-- A rounding field counts where the type is floating and is reserved for the integers (R188). -/
def floatRnd (t : VTy) (r : Rnd) : Rnd := if intTy t then .rn else r
/-- A q destination needs the mask m0 (R189). -/
def qdOk (d : VOpd) (m : Fin 4) : Bool :=
  match d with
  | .v _ => true
  | .q _ => m == 0
/-- The legal VCVT forms: different types, an even pair where the widths differ, a part only at ratio 4 (R200). -/
def cvtOk (tt st : VTy) (part : Bool) (d a : Fin 16) : Bool :=
  tt != st &&
  (!part || tt.width == 4 * st.width || st.width == 4 * tt.width) &&
  (tt.width ≤ st.width || d.val % 2 == 0) && (st.width ≤ tt.width || a.val % 2 == 0)

/-! ### Registers that KRD, KWR, SRD and SWR name -/

/-- The assigned k. and cap. registers (R57, R59, R60). -/
def krdOk (n : Fin 64) : Bool := n.val ≤ 0x0A || (0x10 ≤ n.val && n.val ≤ 0x17) || (0x20 ≤ n.val && n.val ≤ 0x2E)
/-- The writable k. registers (R57, R59). -/
def kwrOk (n : Fin 64) : Bool := n.val ≤ 0x08 || (0x10 ≤ n.val && n.val ≤ 0x17)
/-- The read class of a system register; none where it is unassigned or has none (R296, R315, R326, R372). -/
def srdClass (n : Fin 128) : Option Nat :=
  let k := n.val
  if k ≤ 0x05 then some 1
  else if k == 0x08 then some 2 else if k == 0x09 then some 1
  else if 0x0A ≤ k && k ≤ 0x0C then some 2
  else if 0x10 ≤ k && k ≤ 0x17 then some 2
  else if k == 0x18 || k == 0x19 then some 1
  else if k == 0x1A || k == 0x1B then some 2
  else if k == 0x20 || k == 0x21 then some 2
  else if 0x30 ≤ k && k ≤ 0x3F then some 1
  else if k == 0x40 then some 2 else if k == 0x41 then some 1 else if k == 0x42 then some 2
  else if k == 0x50 then some 1 else if k == 0x51 then some 2 else if k == 0x52 || k == 0x53 then some 1
  else if k == 0x54 then some 2 else if k == 0x55 then some 1
  else if 0x60 ≤ k && k ≤ 0x6F then some 1
  else none
/-- The write class of a system register; none where it is unassigned or has none. -/
def swrClass (n : Fin 128) : Option Nat :=
  let k := n.val
  if k ≤ 0x04 then some 1
  else if 0x08 ≤ k && k ≤ 0x0C then some 2
  else if 0x10 ≤ k && k ≤ 0x17 then some 2
  else if k == 0x1A || k == 0x1C then some 2
  else if k == 0x20 || k == 0x21 then some 2
  else if 0x30 ≤ k && k ≤ 0x3F then some 2
  else if k == 0x40 || k == 0x41 then some 2
  else if k == 0x50 || k == 0x51 || k == 0x52 || k == 0x54 || k == 0x55 then some 2
  else if 0x60 ≤ k && k ≤ 0x6F then some 2
  else none

/-! ### From the fields of a chain to an instruction -/

/-- The fields of a chain: register fields extended by XR (R114), immediates formed with XI (R113). -/
structure Raw where
  p : Pfx
  bare : Bool
  page : Nat
  fn : Nat
  maj : Nat
  d : Fin 32
  a : Fin 32
  b : Fin 32
  d3 : Nat
  a3 : Nat
  b3 : Nat
  f2 : Nat
  imm5 : Int
  imm11 : Int
deriving DecidableEq, Repr

/-- The row source of a TMM: an XR extension of a stream number is illegal (R216). -/
def tsrc (r : Raw) : Option TSrc :=
  match r.f2 with
  | 0 => some (.local r.a)
  | 1 => (reg8 r.a).map .stream
  | _ => none

/-- The map of page 0 (R122). -/
def mapPage0 (r : Raw) : Option Instr :=
  match r.maj with
  | 0 =>
    match r.f2 with
    | 0 => some (.add r.p r.d r.a r.b)
    | 1 => some (.sub r.p r.d r.a r.b)
    | 2 => some (.and r.p r.d r.a r.b)
    | 3 => some (.or r.p r.d r.a r.b)
    | _ => none
  | 1 =>
    match r.f2 with
    | 0 => some (.xor r.p r.d r.a r.b)
    | 1 => some (.mul r.p r.d r.a r.b)
    | 2 => some (.shl r.p r.d r.a r.b)
    | 3 => some (.shr r.p r.d r.a r.b)
    | _ => none
  | 2 =>
    match r.f2 with
    | 0 => some (.shra r.p r.d r.a r.b)
    | 1 => some (.andn r.p r.d r.a r.b)
    | 2 =>
      match r.d3 with
      | 0 => if r.bare then some (.gate r.p) else none
      | 1 => some (.retx r.p)
      | 2 => some (.exit r.p)
      | 3 => some (.brk r.p)
      | 4 => some (.trap r.p (fin64 (r.a3 * 8 + r.b3)))
      | _ => none
    | _ => none
  | 3 => some (.addi r.p r.d r.a r.imm5)
  | 4 => some (.shli r.p r.d r.a r.imm5)
  | 5 => some (.shri r.p r.d r.a r.imm5)
  | 6 => some (.shrai r.p r.d r.a r.imm5)
  | 7 => some (.ldS8 r.p r.d r.a r.imm5)
  | 8 => some (.ldS16 r.p r.d r.a r.imm5)
  | 9 => some (.ldS32 r.p r.d r.a r.imm5)
  | 10 => some (.ld64 r.p r.d r.a r.imm5)
  | 11 => some (.ldZ8 r.p r.d r.a r.imm5)
  | 12 => some (.ldZ16 r.p r.d r.a r.imm5)
  | 13 => some (.ldZ32 r.p r.d r.a r.imm5)
  | 14 => some (.st8 r.p r.d r.a r.imm5)
  | 15 => some (.st16 r.p r.d r.a r.imm5)
  | 16 => some (.st32 r.p r.d r.a r.imm5)
  | 17 => some (.st64 r.p r.d r.a r.imm5)
  | 18 => (lmode r.f2).bind fun mode => some (.ldl r.p mode r.d r.a (fin8 r.b3))
  | 19 => (lmode r.f2).bind fun mode => some (.stl r.p mode r.d r.a (fin8 r.b3))
  | 20 => some (.ldc r.p r.d r.a r.imm5)
  | 21 =>
    match r.f2 with
    | 0 => (reg8 r.d).bind fun d => some (.cmpEq r.p d r.a r.b)
    | 1 => (reg8 r.d).bind fun d => some (.cmpNe r.p d r.a r.b)
    | 2 => (reg8 r.d).bind fun d => some (.cmpLt r.p d r.a r.b)
    | 3 => (reg8 r.d).bind fun d => some (.cmpGe r.p d r.a r.b)
    | _ => none
  | 22 =>
    match r.f2 with
    | 0 => (reg8 r.d).bind fun d => some (.cmpuLtu r.p d r.a r.b)
    | 1 => (reg8 r.d).bind fun d => some (.cmpuGeu r.p d r.a r.b)
    | 2 => (reg8 r.d).bind fun d => some (.cmpuTst r.p d r.a r.b)
    | 3 => (reg8 r.d).bind fun d => some (.cmpuNtst r.p d r.a r.b)
    | _ => none
  | 23 =>
    match r.f2 with
    | 0 => (reg8 r.d).bind fun d => (reg8 r.a).bind fun a => (reg8 r.b).bind fun b => some (.pand r.p d a b)
    | 1 => (reg8 r.d).bind fun d => (reg8 r.a).bind fun a => (reg8 r.b).bind fun b => some (.por r.p d a b)
    | 2 => (reg8 r.d).bind fun d => (reg8 r.a).bind fun a => (reg8 r.b).bind fun b => some (.pxor r.p d a b)
    | 3 => (reg8 r.d).bind fun d => (reg8 r.a).bind fun a => (reg8 r.b).bind fun b => some (.pandn r.p d a b)
    | _ => none
  | 24 => some (.br r.p r.imm11)
  | 25 => some (.call r.p r.imm11)
  | 26 => some (.callx r.p r.imm11)
  | 27 =>
    match r.f2 with
    | 0 => some (.jmp r.p r.a)
    | 1 => some (.callReg r.p r.a)
    | 2 => some (.ret r.p)
    | 3 => some (.callxReg r.p r.a)
    | _ => none
  | _ => none

/-- The map of page 1 (R124). -/
def mapPage1 (r : Raw) : Option Instr :=
  match r.maj with
  | 0 =>
    match r.fn % 4 with
    | 0 => (vopd r.d).bind fun d => (vopd r.a).bind fun a => (vopd r.b).bind fun b => if arithTy (vty (r.fn / 4)) && qdOk d (fin4 r.f2) then some (.vadd r.p (vty (r.fn / 4)) (floatRnd (vty (r.fn / 4)) (rnd (r.fn / 32))) d a b (fin4 r.f2)) else none
    | 1 => (vopd r.d).bind fun d => (vopd r.a).bind fun a => (vopd r.b).bind fun b => if arithTy (vty (r.fn / 4)) && qdOk d (fin4 r.f2) then some (.vsub r.p (vty (r.fn / 4)) (floatRnd (vty (r.fn / 4)) (rnd (r.fn / 32))) d a b (fin4 r.f2)) else none
    | 2 => (vopd r.d).bind fun d => (vopd r.a).bind fun a => (vopd r.b).bind fun b => if arithTy (vty (r.fn / 4)) && qdOk d (fin4 r.f2) then some (.vmul r.p (vty (r.fn / 4)) (floatRnd (vty (r.fn / 4)) (rnd (r.fn / 32))) d a b (fin4 r.f2)) else none
    | _ => none
  | 1 =>
    match r.fn % 4 with
    | 0 => (reg16 r.d).bind fun d => (vopd r.a).bind fun a => (vopd r.b).bind fun b => if fmaTy (vty (r.fn / 4)) then some (.vfma r.p (vty (r.fn / 4)) (rnd (r.fn / 32)) d a b (fin4 r.f2)) else none
    | 1 => (reg16 r.d).bind fun d => (vopd r.a).bind fun a => (vopd r.b).bind fun b => if fmaTy (vty (r.fn / 4)) then some (.vfms r.p (vty (r.fn / 4)) (rnd (r.fn / 32)) d a b (fin4 r.f2)) else none
    | 2 => (reg16 r.d).bind fun d => (vopd r.a).bind fun a => (vopd r.b).bind fun b => if fmaTy (vty (r.fn / 4)) then some (.vfnma r.p (vty (r.fn / 4)) (rnd (r.fn / 32)) d a b (fin4 r.f2)) else none
    | 3 => (reg16 r.d).bind fun d => (vopd r.a).bind fun a => (vopd r.b).bind fun b => if fmaTy (vty (r.fn / 4)) then some (.vfnms r.p (vty (r.fn / 4)) (rnd (r.fn / 32)) d a b (fin4 r.f2)) else none
    | _ => none
  | 2 =>
    match r.fn % 4 with
    | 0 => (vopd r.d).bind fun d => (vopd r.a).bind fun a => (vopd r.b).bind fun b => if qdOk d (fin4 r.f2) then some (.vmax r.p (vty (r.fn / 4)) d a b (fin4 r.f2)) else none
    | 1 => (vopd r.d).bind fun d => (vopd r.a).bind fun a => (vopd r.b).bind fun b => if qdOk d (fin4 r.f2) then some (.vmin r.p (vty (r.fn / 4)) d a b (fin4 r.f2)) else none
    | 2 => (vopd r.d).bind fun d => (vopd r.a).bind fun a => (vopd r.b).bind fun b => if qdOk d (fin4 r.f2) then some (.vmaxa r.p (vty (r.fn / 4)) d a b (fin4 r.f2)) else none
    | 3 => (vopd r.d).bind fun d => (vopd r.a).bind fun a => (vopd r.b).bind fun b => if qdOk d (fin4 r.f2) then some (.vmina r.p (vty (r.fn / 4)) d a b (fin4 r.f2)) else none
    | _ => none
  | 3 =>
    match r.fn % 4 with
    | 0 => (reg8 r.d).bind fun d => (vopd r.a).bind fun a => (vopd r.b).bind fun b => if w32Ty (vty (r.fn / 4)) then some (.vcmpEq r.p (bit (r.fn / 64)) (vty (r.fn / 4)) d a b (fin4 r.f2)) else none
    | 1 => (reg8 r.d).bind fun d => (vopd r.a).bind fun a => (vopd r.b).bind fun b => if w32Ty (vty (r.fn / 4)) then some (.vcmpLt r.p (bit (r.fn / 64)) (vty (r.fn / 4)) d a b (fin4 r.f2)) else none
    | 2 => (reg8 r.d).bind fun d => (vopd r.a).bind fun a => (vopd r.b).bind fun b => if w32Ty (vty (r.fn / 4)) then some (.vcmpLe r.p (bit (r.fn / 64)) (vty (r.fn / 4)) d a b (fin4 r.f2)) else none
    | 3 => (reg8 r.d).bind fun d => (vopd r.a).bind fun a => (vopd r.b).bind fun b => if w32Ty (vty (r.fn / 4)) then some (.vcmpUn r.p (bit (r.fn / 64)) (vty (r.fn / 4)) d a b (fin4 r.f2)) else none
    | _ => none
  | 4 =>
    match r.fn % 4 with
    | 0 => (reg16 r.d).bind fun d => (vopd r.a).bind fun a => (vopd r.b).bind fun b => if w32Ty (vty (r.fn / 4)) then some (.vsel r.p (vty (r.fn / 4)) d a b (fin4 r.f2)) else none
    | _ => none
  | 5 =>
    match r.fn % 4 with
    | 0 => (vopd r.d).bind fun d => (vopd r.a).bind fun a => (vopd r.b).bind fun b => if qdOk d (fin4 r.f2) then some (.vand r.p d a b (fin4 r.f2)) else none
    | 1 => (vopd r.d).bind fun d => (vopd r.a).bind fun a => (vopd r.b).bind fun b => if qdOk d (fin4 r.f2) then some (.vor r.p d a b (fin4 r.f2)) else none
    | 2 => (vopd r.d).bind fun d => (vopd r.a).bind fun a => (vopd r.b).bind fun b => if qdOk d (fin4 r.f2) then some (.vxor r.p d a b (fin4 r.f2)) else none
    | 3 => (vopd r.d).bind fun d => (vopd r.a).bind fun a => (vopd r.b).bind fun b => if qdOk d (fin4 r.f2) then some (.vandn r.p d a b (fin4 r.f2)) else none
    | _ => none
  | 6 =>
    match r.fn % 4 with
    | 0 => (reg16 r.d).bind fun d => (vopd r.a).bind fun a => if intTy (vty (r.fn / 4)) then some (.vshl r.p (vty (r.fn / 4)) d a r.imm5 (fin4 (r.fn / 32))) else none
    | 1 => (reg16 r.d).bind fun d => (vopd r.a).bind fun a => if intTy (vty (r.fn / 4)) then some (.vshr r.p (vty (r.fn / 4)) d a r.imm5 (fin4 (r.fn / 32))) else none
    | 2 => (reg16 r.d).bind fun d => (vopd r.a).bind fun a => if intTy (vty (r.fn / 4)) then some (.vshra r.p (vty (r.fn / 4)) d a r.imm5 (fin4 (r.fn / 32))) else none
    | _ => none
  | 7 =>
    match r.fn % 4 with
    | 0 => (vopd r.a).bind fun a => if w32Ty (vty (r.fn / 4)) then some (.vredSum r.p (vty (r.fn / 4)) (floatRnd (vty (r.fn / 4)) (rnd (r.fn / 32))) r.d a (fin4 r.f2)) else none
    | 1 => (vopd r.a).bind fun a => if w32Ty (vty (r.fn / 4)) then some (.vredMax r.p (vty (r.fn / 4)) (floatRnd (vty (r.fn / 4)) (rnd (r.fn / 32))) r.d a (fin4 r.f2)) else none
    | 2 => (vopd r.a).bind fun a => if w32Ty (vty (r.fn / 4)) then some (.vredMin r.p (vty (r.fn / 4)) (floatRnd (vty (r.fn / 4)) (rnd (r.fn / 32))) r.d a (fin4 r.f2)) else none
    | _ => none
  | 8 => (reg16 r.d).bind fun d => (reg16 r.a).bind fun a => if cvtOk (vty (r.fn / 4)) (vty r.b3) (bit (r.fn / 2)) d a then some (.vcvt r.p (vty (r.fn / 4)) (vty r.b3) (rnd (r.fn / 32)) (fp8Ty (vty (r.fn / 4)) && bit r.fn) (bit (r.fn / 2)) d a (fin4 r.f2)) else none
  | 9 =>
    match r.fn % 4 with
    | 0 => (vopd r.d).bind fun d => (vopd r.a).bind fun a => if r.fn / 4 % 8 == 0 && qdOk d (fin4 r.f2) then some (.vexp2 r.p d a (fin4 r.f2)) else none
    | 1 => (vopd r.d).bind fun d => (vopd r.a).bind fun a => if r.fn / 4 % 8 == 0 && qdOk d (fin4 r.f2) then some (.vrcp r.p d a (fin4 r.f2)) else none
    | 2 => (vopd r.d).bind fun d => (vopd r.a).bind fun a => if r.fn / 4 % 8 == 0 && qdOk d (fin4 r.f2) then some (.vrsq r.p d a (fin4 r.f2)) else none
    | _ => none
  | 10 =>
    match r.fn % 4 with
    | 0 => (vopd r.d).bind fun d => (vopd r.a).bind fun a => if qdOk d (fin4 r.f2) then some (.vquant r.p d a r.b (fin4 r.f2)) else none
    | _ => none
  | 11 =>
    match r.fn % 4 with
    | 0 => (vopd r.d).bind fun d => (vopd r.a).bind fun a => if qdOk d (fin4 r.f2) then some (.vdeq r.p d a r.b (fin4 r.f2)) else none
    | _ => none
  | 12 =>
    match r.fn % 4 with
    | 0 => (vopd r.d).bind fun d => (vopd r.a).bind fun a => if qdOk d (fin4 r.f2) then some (.vmov r.p d a (fin4 r.f2)) else none
    | 1 => (reg16 r.d).bind fun d => some (.vbcast r.p d r.a (fin4 r.f2))
    | 2 => (reg16 r.a).bind fun a => some (.vgetl r.p r.d a r.b)
    | 3 => (reg16 r.d).bind fun d => some (.vsetl r.p d r.a r.b)
    | _ => none
  | 13 => (reg16 r.d).bind fun d => some (.vld r.p (space r.fn) (fin4 (r.fn / 4)) d r.a r.imm5)
  | 14 => (reg16 r.d).bind fun d => some (.vst r.p (space r.fn) (fin4 (r.fn / 4)) d r.a r.imm5)
  | 15 =>
    match r.fn % 4 with
    | 0 => (reg16 r.d).bind fun d => (reg16 r.b).bind fun b => if w32Ty (vty (r.fn / 4)) then some (.vgather r.p (vty (r.fn / 4)) d r.a b (fin4 r.f2)) else none
    | _ => none
  | 16 =>
    match r.fn % 4 with
    | 0 => (reg8 r.d).bind fun d => (reg8 r.a).bind fun a => (reg8 r.b).bind fun b => some (.mand r.p d a b)
    | 1 => (reg8 r.d).bind fun d => (reg8 r.a).bind fun a => (reg8 r.b).bind fun b => some (.mor r.p d a b)
    | 2 => (reg8 r.d).bind fun d => (reg8 r.a).bind fun a => (reg8 r.b).bind fun b => some (.mxor r.p d a b)
    | 3 => (reg8 r.d).bind fun d => (reg8 r.a).bind fun a => (reg8 r.b).bind fun b => some (.mandn r.p d a b)
    | _ => none
  | 17 =>
    if r.fn / 4 % 4 = 2 then none
    else match r.fn % 4 with
    | 0 => (reg8 r.a).bind fun a => some (.mpop r.p r.d a)
    | 1 => (reg8 r.d).bind fun d => some (.mset r.p d r.a)
    | 2 =>
      match r.fn / 4 % 4 with
      | 0 => (reg8 r.a).bind fun a => some (.mget r.p r.d a)
      | 1 => some (.mgetVs r.p r.d)
      | 3 => some (.mgetVsClr r.p r.d)
      | _ => none
    | _ => none
  | 18 =>
    match r.fn % 4 with
    | 0 => (vopd r.d).bind fun d => (vopd r.a).bind fun a => if qdOk d (fin4 r.f2) then some (.vabs r.p (vty (r.fn / 4)) d a (fin4 r.f2)) else none
    | 1 => (vopd r.d).bind fun d => (vopd r.a).bind fun a => if qdOk d (fin4 r.f2) then some (.vneg r.p (vty (r.fn / 4)) d a (fin4 r.f2)) else none
    | _ => none
  | _ => none

/-- The map of page 2 (R125). -/
def mapPage2 (r : Raw) : Option Instr :=
  match r.maj with
  | 0 =>
    match r.fn % 4 with
    | 0 => some (.gangStatic r.p)
    | 1 => some (.gangElastic r.p r.a)
    | 2 => some (.gangEnd r.p)
    | _ => none
  | 1 => some (.twld r.p (bit r.fn) r.a r.b)
  | 2 => (tsrc r).bind fun src => some (.tmm r.p (fin4 r.fn) (bit (r.fn / 4)) src r.b)
  | 3 =>
    match r.f2 % 2 with
    | 0 => some (.tdrain r.p (fin4 r.fn) r.d r.a r.b)
    | 1 => some (.tdrainAdd r.p (fin4 r.fn) r.d r.a r.b)
    | _ => none
  | 4 => some (.tzero r.p (fin4 r.fn))
  | 5 => some (.trda r.p (fin4 r.fn) r.a)
  | 6 => some (.twra r.p (fin4 r.fn) r.a r.b)
  | 7 => (reg16 r.d).bind fun d => (reg16 r.a).bind fun a => some (.tpack r.p d a r.b)
  | 8 => (reg16 r.d).bind fun d => (reg16 r.a).bind fun a => some (.tunpk r.p d a r.b)
  | 9 => (reg16 r.a).bind fun a => some (.tchk r.p r.d a)
  | 10 =>
    match r.fn / 64 with
    | 0 => some (.tstxSet r.p (fin64 r.fn) r.a r.imm5)
    | 1 => some (.tstxClr r.p (fin64 r.fn) r.a r.imm5)
    | _ => none
  | 11 =>
    match r.fn % 2 with
    | 0 => some (.accMax r.p r.d r.a r.b)
    | 1 => some (.accScale r.p r.d r.a r.b)
    | _ => none
  | 12 => some (.difs r.p r.a r.b)
  | 13 => some (.difgo r.p r.a r.imm5)
  | 14 => some (.difwait r.p)
  | _ => none

/-- The map of page 3 (R126). -/
def mapPage3 (r : Raw) : Option Instr :=
  match r.maj with
  | 0 => (lmode (r.fn / 8)).bind fun mode => (ldsz r.fn).bind fun sgsz => some (.ldlLong r.p mode sgsz.1 sgsz.2 r.d r.a r.imm5)
  | 1 => (lmode (r.fn / 8)).bind fun mode => some (.stlLong r.p mode (szOf r.fn) r.d r.a r.imm5)
  | 2 =>
    match r.fn % 2 with
    | 0 => (lmode (r.fn / 8)).bind fun mode => some (.ldfe r.p mode r.d r.a r.imm5)
    | 1 => (lmode (r.fn / 8)).bind fun mode => some (.ldff r.p mode r.d r.a r.imm5)
    | _ => none
  | 3 =>
    match r.fn % 2 with
    | 0 => (lmode (r.fn / 8)).bind fun mode => some (.stfe r.p mode r.d r.a r.imm5)
    | 1 => (lmode (r.fn / 8)).bind fun mode => some (.stff r.p mode r.d r.a r.imm5)
    | _ => none
  | 4 =>
    match r.fn % 2 with
    | 0 => (lmode (r.fn / 8)).bind fun mode => some (.seteE r.p mode r.a r.imm5)
    | 1 => (lmode (r.fn / 8)).bind fun mode => some (.seteF r.p mode r.a r.imm5)
    | _ => none
  | 5 => some (.rempty r.p r.d)
  | 6 => some (.fill r.p (fin32 r.fn) r.d r.a r.b)
  | 7 =>
    match r.fn % 16 with
    | 0 => some (.amoAdd r.p (bit (r.fn / 16)) r.d r.a r.b)
    | 1 => some (.amoAnd r.p (bit (r.fn / 16)) r.d r.a r.b)
    | 2 => some (.amoOr r.p (bit (r.fn / 16)) r.d r.a r.b)
    | 3 => some (.amoXor r.p (bit (r.fn / 16)) r.d r.a r.b)
    | 4 => some (.amoMin r.p (bit (r.fn / 16)) r.d r.a r.b)
    | 5 => some (.amoMax r.p (bit (r.fn / 16)) r.d r.a r.b)
    | 6 => some (.amoMinz r.p (bit (r.fn / 16)) r.d r.a r.b)
    | 7 => some (.amoMaxz r.p (bit (r.fn / 16)) r.d r.a r.b)
    | 8 => some (.amoSwap r.p (bit (r.fn / 16)) r.d r.a r.b)
    | 9 => some (.amoCas r.p (bit (r.fn / 16)) r.d r.a r.b)
    | _ => none
  | 8 =>
    match r.fn % 16 with
    | 0 => some (.amopAdd r.p (bit (r.fn / 16)) r.a r.b)
    | 1 => some (.amopAnd r.p (bit (r.fn / 16)) r.a r.b)
    | 2 => some (.amopOr r.p (bit (r.fn / 16)) r.a r.b)
    | 3 => some (.amopXor r.p (bit (r.fn / 16)) r.a r.b)
    | 4 => some (.amopMin r.p (bit (r.fn / 16)) r.a r.b)
    | 5 => some (.amopMax r.p (bit (r.fn / 16)) r.a r.b)
    | 6 => some (.amopMinz r.p (bit (r.fn / 16)) r.a r.b)
    | 7 => some (.amopMaxz r.p (bit (r.fn / 16)) r.a r.b)
    | _ => none
  | 9 =>
    match r.fn % 2 with
    | 0 => some (.famoF32 r.p r.a r.b)
    | 1 => some (.famoBf16 r.p r.a r.b)
    | _ => none
  | 10 => some (.ldr r.p r.d r.a r.imm5)
  | 11 => some (.stc r.p r.d r.a r.imm5)
  | 12 => some (.waitrs r.p r.d r.a)
  | 13 =>
    match r.fn % 4 with
    | 0 => (scope (r.fn / 8)).bind fun sc => some (.fenceAcq r.p sc)
    | 1 => (scope (r.fn / 8)).bind fun sc => some (.fenceRel r.p sc)
    | 2 => (scope (r.fn / 8)).bind fun sc => some (.fenceAr r.p sc)
    | 3 => (scope (r.fn / 8)).bind fun sc => some (.fenceSc r.p sc)
    | _ => none
  | 14 => some (.fencePost r.p)
  | 15 => some (.scopedef r.p r.d r.a)
  | 16 => some (.csync r.p)
  | 17 => some (.ebegin r.p r.d r.imm5)
  | 18 => some (.ecommit r.p)
  | 19 => some (.eabort r.p)
  | 20 => some (.ebnd r.p r.d r.a)
  | 21 => some (.epos r.p r.d)
  | 22 =>
    match r.fn % 4 with
    | 0 => (scope (r.fn / 8)).bind fun sc => some (.barArrive r.p sc r.d r.a)
    | 1 => (scope (r.fn / 8)).bind fun sc => some (.barWait r.p sc r.a r.b)
    | 2 => (scope (r.fn / 8)).bind fun sc => some (.barAw r.p sc r.d r.a)
    | 3 => (scope (r.fn / 8)).bind fun sc => some (.barTest r.p sc r.d r.a r.b)
    | _ => none
  | 23 => some (.barInit r.p r.a r.b)
  | 24 => (scope (r.fn / 8)).bind fun sc => some (.ldAcq r.p sc (szOf r.fn) r.d r.a r.imm5)
  | 25 => (scope (r.fn / 8)).bind fun sc => some (.stRel r.p sc (szOf r.fn) r.d r.a r.imm5)
  | _ => none

/-- The map of page 4 (R127). -/
def mapPage4 (r : Raw) : Option Instr :=
  match r.maj with
  | 0 => some (.copy r.p r.d r.a r.b)
  | 1 => (reg8 r.a).bind fun q => some (.copyq r.p r.d q r.b)
  | 2 => some (.cjwait r.p r.d r.a)
  | 3 => some (.cjtest r.p r.d r.a)
  | 4 => some (.mkgrant r.p (bit r.fn) r.d r.a r.b)
  | 5 => some (.addg r.p r.d r.a r.b)
  | 6 => some (.grantq r.p r.d r.a)
  | 7 => some (.revoke r.p r.d)
  | 8 => some (.wfw r.p)
  | 9 => some (.spawn r.p r.d r.a)
  | 10 => some (.launch r.p r.d r.a r.b)
  | 11 => some (.inrd r.p r.d r.a)
  | 12 => if krdOk (fin64 r.fn) then some (.krd r.p (fin64 r.fn) r.d) else none
  | 13 => if kwrOk (fin64 r.fn) then some (.kwr r.p (fin64 r.fn) r.a) else none
  | _ => none

/-- The map of page 5 (R127). -/
def mapPage5 (r : Raw) : Option Instr :=
  match r.maj with
  | 0 =>
    match r.fn % 4 with
    | 0 => some (.mulh r.p r.d r.a r.b)
    | 1 => some (.mulhz r.p r.d r.a r.b)
    | _ => none
  | 1 =>
    match r.fn % 4 with
    | 0 => some (.div r.p r.d r.a r.b)
    | 1 => some (.divz r.p r.d r.a r.b)
    | 2 => some (.rem r.p r.d r.a r.b)
    | 3 => some (.remz r.p r.d r.a r.b)
    | _ => none
  | 2 =>
    match r.fn / 64 with
    | 0 => some (.bfxZ r.p (fin64 r.fn) r.d r.a r.imm5)
    | 1 => some (.bfxS r.p (fin64 r.fn) r.d r.a r.imm5)
    | _ => none
  | 3 => some (.bfi r.p (fin64 r.fn) r.d r.a r.imm5)
  | 4 => some (.sel r.p (fin8 r.fn) r.d r.a r.b)
  | 5 =>
    match r.fn % 4 with
    | 0 => some (.clz r.p r.d r.a)
    | 1 => some (.ctz r.p r.d r.a)
    | 2 => some (.popc r.p r.d r.a)
    | 3 => some (.bswap r.p r.d r.a)
    | _ => none
  | 6 =>
    match r.fn % 4 with
    | 0 => some (.min r.p r.d r.a r.b)
    | 1 => some (.max r.p r.d r.a r.b)
    | 2 => some (.minz r.p r.d r.a r.b)
    | 3 => some (.maxz r.p r.d r.a r.b)
    | _ => none
  | 7 =>
    match r.fn % 4 with
    | 0 => some (.andi r.p r.d r.a r.imm5)
    | 1 => some (.ori r.p r.d r.a r.imm5)
    | 2 => some (.xori r.p r.d r.a r.imm5)
    | _ => none
  | 8 =>
    match r.fn % 2 with
    | 0 => (reg8 r.a).bind fun q => some (.qpop r.p r.d q)
    | 1 => (reg8 r.d).bind fun q => some (.qpush r.p q r.a)
    | _ => none
  | _ => none

/-- The map of page 7 (R128). -/
def mapPage7 (r : Raw) : Option Instr :=
  match r.maj with
  | 0 => if (srdClass (fin128 r.fn)).isSome then some (.srd r.p (fin128 r.fn) r.d r.a) else none
  | 1 => if (swrClass (fin128 r.fn)).isSome then some (.swr r.p (fin128 r.fn) r.a r.b) else none
  | 2 =>
    match r.fn with
    | 0 => some (.eret r.p)
    | 1 => some (.eretStart r.p r.d r.a)
    | _ => none
  | 3 =>
    match r.fn % 4 with
    | 0 => some (.tlbinvRange r.p (bit (r.fn / 4)) r.d r.a r.b)
    | 1 => some (.tlbinvAsid r.p (bit (r.fn / 4)) r.d r.a r.b)
    | 2 => some (.tlbinvS2range r.p (bit (r.fn / 4)) r.d r.a r.b)
    | 3 => some (.tlbinvPartition r.p (bit (r.fn / 4)) r.d r.a r.b)
    | _ => none
  | 4 => some (.tlbprobe r.p r.d r.a r.b)
  | 5 =>
    match r.fn % 8 with
    | 0 => some (.cacheopIc r.p (bit (r.fn / 8)) r.a r.b)
    | 1 => some (.cacheopL1 r.p (bit (r.fn / 8)) r.a r.b)
    | 2 => some (.cacheopCc r.p (bit (r.fn / 8)) r.a r.b)
    | 3 => some (.cacheopL2v r.p (bit (r.fn / 8)) r.a r.b)
    | 4 => some (.cacheopL2p r.p r.a r.b)
    | _ => none
  | 6 =>
    match r.fn % 2 with
    | 0 => some (.domsetRow r.p r.a r.b)
    | 1 => some (.domsetAll r.p r.b)
    | _ => none
  | 7 =>
    match r.fn % 2 with
    | 0 => some (.fwsend r.p r.d r.a r.b)
    | 1 => some (.fwsendReply r.p r.d r.a r.b)
    | _ => none
  | 8 =>
    match r.fn % 4 with
    | 0 => some (.stoparmCore r.p r.a)
    | 1 => some (.stoparmStop r.p r.d r.a r.b)
    | 2 => some (.stoparmResume r.p r.d r.a r.b)
    | _ => none
  | 9 => some (.step r.p r.a)
  | 10 => some (.slpset r.p r.d r.a)
  | 11 =>
    match r.fn % 4 with
    | 0 => some (.wdsetKick r.p)
    | 1 => some (.wdsetArm r.p r.a r.b)
    | 2 => some (.wdsetRead r.p r.d r.b)
    | _ => none
  | _ => none

/-- Map() of R119: the instruction of a page, or none where the encoding is unallocated. -/
def mapRaw (r : Raw) : Option Instr :=
  match r.page with
  | 0 => mapPage0 r
  | 1 => mapPage1 r
  | 2 => mapPage2 r
  | 3 => mapPage3 r
  | 4 => mapPage4 r
  | 5 => mapPage5 r
  | 7 => mapPage7 r
  | _ => none

/-- Whether a page and major have an immediate: formats I, M and J (R112, R122-R128). -/
def immMajor (page maj : Nat) : Bool :=
  match page with
  | 0 => (3 ≤ maj && maj ≤ 17) || maj == 20 || (24 ≤ maj && maj ≤ 26)
  | 1 => maj == 6 || maj == 13 || maj == 14
  | 2 => maj == 10 || maj == 13
  | 3 => maj ≤ 4 || maj == 10 || maj == 11 || maj == 17 || maj == 24 || maj == 25
  | 5 => maj == 2 || maj == 3 || maj == 7
  | _ => false

/-- The hints an instruction knows, bits [6:0] (R117): 1 nt, 2 l2keep, 4 nextline, 8 taken. -/
def knownHints : Instr → Nat
  | .ldS8 .. | .ldS16 .. | .ldS32 .. | .ld64 .. | .ldZ8 .. | .ldZ16 .. | .ldZ32 .. | .ldc .. | .vld .. => 7
  | .st8 .. | .st16 .. | .st32 .. | .st64 .. | .vst .. | .vgather .. | .ldAcq .. | .stRel .. | .ldr .. | .stc .. => 3
  | .amoAdd .. | .amoAnd .. | .amoOr .. | .amoXor .. | .amoMin .. | .amoMax .. | .amoMinz .. | .amoMaxz ..
  | .amoSwap .. | .amoCas .. => 3
  | .amopAdd .. | .amopAnd .. | .amopOr .. | .amopXor .. | .amopMin .. | .amopMax .. | .amopMinz .. | .amopMaxz ..
  | .famoF32 .. | .famoBf16 .. => 3
  | .br .. | .call .. | .callReg .. | .tstxSet .. | .tstxClr .. => 8
  | _ => 0

/-- Whether a required hint is unknown: bit 7 set and a set bit the instruction does not know (R117). -/
def hintUnknown (i : Instr) (h : BitVec 8) : Bool :=
  h.toNat / 128 == 1 && (List.range 7).any (fun k => bit (h.toNat / 2 ^ k) && !bit (knownHints i / 2 ^ k))

/-- The class an encoding requires (R128, R295, R359). -/
def Instr.cls : Instr → Nat
  | .inrd .. => 1
  | .srd _ n .. => (srdClass n).getD 0
  | .swr _ n .. => (swrClass n).getD 0
  | .eret .. | .eretStart .. | .tlbinvRange .. | .tlbinvAsid .. | .tlbprobe .. => 1
  | .tlbinvS2range .. | .tlbinvPartition .. => 2
  | .cacheopIc .. | .cacheopL1 .. | .cacheopCc .. | .cacheopL2v .. => 1
  | .cacheopL2p .. => 2
  | .domsetRow .. | .domsetAll .. | .fwsend .. => 1
  | .fwsendReply .. => 2
  | .stoparmCore .. => 1
  | .stoparmStop .. | .stoparmResume .. => 2
  | .step .. | .slpset .. | .wdsetKick .. | .wdsetRead .. => 1
  | .wdsetArm .. => 2
  | _ => 0

/-- What decoding a list of words gives: an instruction with its number of words, the cause of a trap with the
number of words read, or the need for another word. -/
inductive DecRes where
  | ok (i : Instr) (nw : Nat)
  | trap (cause : Nat) (nw : Nat)
  | more
deriving DecidableEq, Repr

/-- The prefixes met so far (R119): their number, the XI words as one number with their count, and the three others. -/
structure Chain where
  n : Nat
  xi : Nat
  xin : Nat
  xh : Option Nat
  xr : Option Nat
  xp : Option Nat
  dup : Bool
deriving DecidableEq, Repr

/-- No prefix met. -/
def Chain.start : Chain := { n := 0, xi := 0, xin := 0, xh := none, xr := none, xp := none, dup := false }

/-- One more prefix word (R116, R119). -/
def Chain.push (c : Chain) (w : Nat) : Chain :=
  match w / 2048 % 32 with
  | 28 => { c with n := c.n + 1, xi := c.xi * 2048 + w % 2048, xin := c.xin + 1 }
  | 29 => { c with n := c.n + 1, dup := c.dup || c.xh.isSome, xh := some (w % 2048) }
  | 30 => { c with n := c.n + 1, dup := c.dup || c.xr.isSome, xr := some (w % 2048) }
  | _ => { c with n := c.n + 1, dup := c.dup || c.xp.isSome, xp := some (w % 2048) }

/-- The value of an `n`-bit two's complement number (R113). -/
def sext (n : Nat) (v : Nat) : Int := if v < 2 ^ (n - 1) then v else (v : Int) - 2 ^ n

/-- The guard of an XR word (R11). -/
def xrGuard (x : Nat) : Option (Bool × Fin 8) := if bit (x / 16) then some (bit (x / 8), fin8 x) else none

/-- The fields of a chain with its base word. -/
def Chain.raw (c : Chain) (w : Nat) : Raw :=
  let xr := c.xr.getD 0
  let xp := c.xp.getD 0
  { p := { guard := xrGuard xr, hint := c.xh.map (BitVec.ofNat 8), xr := c.xr.isSome, xi := ⟨c.xin % 5, by omega⟩ },
    bare := c.n == 0, page := xp / 128, fn := xp % 128, maj := w / 2048,
    d := fin32 (xr / 512 % 4 * 8 + w / 256 % 8), a := fin32 (xr / 128 % 4 * 8 + w / 32 % 8),
    b := fin32 (xr / 32 % 4 * 8 + w / 4 % 8),
    d3 := w / 256 % 8, a3 := w / 32 % 8, b3 := w / 4 % 8, f2 := w % 4,
    imm5 := sext (11 * c.xin + 5) (c.xi * 32 + w % 32), imm11 := sext (11 * c.xin + 11) (c.xi * 2048 + w % 2048) }

/-- The decision once the base word is read, in the order of R119 (the class check follows at the fetch). -/
def Chain.finish (c : Chain) (w : Nat) : DecRes :=
  if c.dup then .trap 1 (c.n + 1)
  else if c.xp.isSome && (c.raw w).page == 0 then .trap 1 (c.n + 1)
  else if c.xin != 0 && !immMajor (c.raw w).page (c.raw w).maj then .trap 1 (c.n + 1)
  else match mapRaw (c.raw w) with
    | none => .trap 1 (c.n + 1)
    | some i =>
      match c.xh with
      | some h => if hintUnknown i (BitVec.ofNat 8 h) then .trap 3 (c.n + 1) else .ok i (c.n + 1)
      | none => .ok i (c.n + 1)

/-- Reads a chain word by word; the fifth prefix word traps before any other check (R116, R119). -/
def scan (c : Chain) : List Nat → DecRes
  | [] => .more
  | w :: ws =>
    if 28 ≤ w / 2048 then
      if c.n == 4 then .trap 2 5 else scan (c.push w) ws
    else c.finish w

/-- Decodes the instruction at the head of a list of 16-bit words. -/
def decodeWords (ws : List Nat) : DecRes := scan Chain.start ws

/-! ### The encoder -/

/-- The base formats that matter to the encoder: A and P have no immediate, I and M a 5-bit, J an 11-bit one (R112). -/
inductive Fmt where
  | A | I | J
deriving DecidableEq, Repr

/-- The fields an instruction is encoded from. -/
structure Fld where
  p : Pfx
  page : Nat
  fn : Nat
  maj : Nat
  fmt : Fmt
  d : Nat
  a : Nat
  b : Nat
  f2 : Nat
  imm : Int
deriving DecidableEq, Repr

/-- The constructor of `Fld` with its arguments in order. -/
def fld (p : Pfx) (page fn maj : Nat) (fmt : Fmt) (d a b f2 : Nat) (imm : Int) : Fld :=
  { p := p, page := page, fn := fn, maj := maj, fmt := fmt, d := d, a := a, b := b, f2 := f2, imm := imm }

/-- The encoding of every encoded instruction (R122-R128 and the entries); an event has none. -/
def Instr.fields : Instr → Option Fld
  | .add p d a b => some (fld p 0 (0) 0 .A (d.val) (a.val) (b.val) (0) (0))
  | .sub p d a b => some (fld p 0 (0) 0 .A (d.val) (a.val) (b.val) (1) (0))
  | .and p d a b => some (fld p 0 (0) 0 .A (d.val) (a.val) (b.val) (2) (0))
  | .or p d a b => some (fld p 0 (0) 0 .A (d.val) (a.val) (b.val) (3) (0))
  | .xor p d a b => some (fld p 0 (0) 1 .A (d.val) (a.val) (b.val) (0) (0))
  | .mul p d a b => some (fld p 0 (0) 1 .A (d.val) (a.val) (b.val) (1) (0))
  | .shl p d a b => some (fld p 0 (0) 1 .A (d.val) (a.val) (b.val) (2) (0))
  | .shr p d a b => some (fld p 0 (0) 1 .A (d.val) (a.val) (b.val) (3) (0))
  | .shra p d a b => some (fld p 0 (0) 2 .A (d.val) (a.val) (b.val) (0) (0))
  | .andn p d a b => some (fld p 0 (0) 2 .A (d.val) (a.val) (b.val) (1) (0))
  | .gate p => some (fld p 0 (0) 2 .A (0) (0) (0) (2) (0))
  | .retx p => some (fld p 0 (0) 2 .A (1) (0) (0) (2) (0))
  | .exit p => some (fld p 0 (0) 2 .A (2) (0) (0) (2) (0))
  | .brk p => some (fld p 0 (0) 2 .A (3) (0) (0) (2) (0))
  | .trap p code => some (fld p 0 (0) 2 .A (4) (code.val / 8) (code.val % 8) (2) (0))
  | .addi p d a imm => some (fld p 0 (0) 3 .I (d.val) (a.val) (0) (0) (imm))
  | .shli p d a imm => some (fld p 0 (0) 4 .I (d.val) (a.val) (0) (0) (imm))
  | .shri p d a imm => some (fld p 0 (0) 5 .I (d.val) (a.val) (0) (0) (imm))
  | .shrai p d a imm => some (fld p 0 (0) 6 .I (d.val) (a.val) (0) (0) (imm))
  | .ldS8 p d a off => some (fld p 0 (0) 7 .I (d.val) (a.val) (0) (0) (off))
  | .ldS16 p d a off => some (fld p 0 (0) 8 .I (d.val) (a.val) (0) (0) (off))
  | .ldS32 p d a off => some (fld p 0 (0) 9 .I (d.val) (a.val) (0) (0) (off))
  | .ld64 p d a off => some (fld p 0 (0) 10 .I (d.val) (a.val) (0) (0) (off))
  | .ldZ8 p d a off => some (fld p 0 (0) 11 .I (d.val) (a.val) (0) (0) (off))
  | .ldZ16 p d a off => some (fld p 0 (0) 12 .I (d.val) (a.val) (0) (0) (off))
  | .ldZ32 p d a off => some (fld p 0 (0) 13 .I (d.val) (a.val) (0) (0) (off))
  | .st8 p d a off => some (fld p 0 (0) 14 .I (d.val) (a.val) (0) (0) (off))
  | .st16 p d a off => some (fld p 0 (0) 15 .I (d.val) (a.val) (0) (0) (off))
  | .st32 p d a off => some (fld p 0 (0) 16 .I (d.val) (a.val) (0) (0) (off))
  | .st64 p d a off => some (fld p 0 (0) 17 .I (d.val) (a.val) (0) (0) (off))
  | .ldl p mode d a off => some (fld p 0 (0) 18 .A (d.val) (a.val) (off.val) (mode.code) (0))
  | .stl p mode d a off => some (fld p 0 (0) 19 .A (d.val) (a.val) (off.val) (mode.code) (0))
  | .ldc p d a off => some (fld p 0 (0) 20 .I (d.val) (a.val) (0) (0) (off))
  | .cmpEq p d a b => some (fld p 0 (0) 21 .A (d.val) (a.val) (b.val) (0) (0))
  | .cmpNe p d a b => some (fld p 0 (0) 21 .A (d.val) (a.val) (b.val) (1) (0))
  | .cmpLt p d a b => some (fld p 0 (0) 21 .A (d.val) (a.val) (b.val) (2) (0))
  | .cmpGe p d a b => some (fld p 0 (0) 21 .A (d.val) (a.val) (b.val) (3) (0))
  | .cmpuLtu p d a b => some (fld p 0 (0) 22 .A (d.val) (a.val) (b.val) (0) (0))
  | .cmpuGeu p d a b => some (fld p 0 (0) 22 .A (d.val) (a.val) (b.val) (1) (0))
  | .cmpuTst p d a b => some (fld p 0 (0) 22 .A (d.val) (a.val) (b.val) (2) (0))
  | .cmpuNtst p d a b => some (fld p 0 (0) 22 .A (d.val) (a.val) (b.val) (3) (0))
  | .pand p d a b => some (fld p 0 (0) 23 .A (d.val) (a.val) (b.val) (0) (0))
  | .por p d a b => some (fld p 0 (0) 23 .A (d.val) (a.val) (b.val) (1) (0))
  | .pxor p d a b => some (fld p 0 (0) 23 .A (d.val) (a.val) (b.val) (2) (0))
  | .pandn p d a b => some (fld p 0 (0) 23 .A (d.val) (a.val) (b.val) (3) (0))
  | .br p imm => some (fld p 0 (0) 24 .J (0) (0) (0) (0) (imm))
  | .call p imm => some (fld p 0 (0) 25 .J (0) (0) (0) (0) (imm))
  | .callx p imm => some (fld p 0 (0) 26 .J (0) (0) (0) (0) (imm))
  | .jmp p a => some (fld p 0 (0) 27 .A (0) (a.val) (0) (0) (0))
  | .callReg p a => some (fld p 0 (0) 27 .A (0) (a.val) (0) (1) (0))
  | .ret p => some (fld p 0 (0) 27 .A (0) (0) (0) (2) (0))
  | .callxReg p a => some (fld p 0 (0) 27 .A (0) (a.val) (0) (3) (0))
  | .vadd p t r d a b m => some (fld p 1 (t.code * 4 + r.code * 32) 0 .A (d.code) (a.code) (b.code) (m.val) (0))
  | .vsub p t r d a b m => some (fld p 1 (1 + t.code * 4 + r.code * 32) 0 .A (d.code) (a.code) (b.code) (m.val) (0))
  | .vmul p t r d a b m => some (fld p 1 (2 + t.code * 4 + r.code * 32) 0 .A (d.code) (a.code) (b.code) (m.val) (0))
  | .vfma p t r d a b m => some (fld p 1 (t.code * 4 + r.code * 32) 1 .A (d.val) (a.code) (b.code) (m.val) (0))
  | .vfms p t r d a b m => some (fld p 1 (1 + t.code * 4 + r.code * 32) 1 .A (d.val) (a.code) (b.code) (m.val) (0))
  | .vfnma p t r d a b m => some (fld p 1 (2 + t.code * 4 + r.code * 32) 1 .A (d.val) (a.code) (b.code) (m.val) (0))
  | .vfnms p t r d a b m => some (fld p 1 (3 + t.code * 4 + r.code * 32) 1 .A (d.val) (a.code) (b.code) (m.val) (0))
  | .vmax p t d a b m => some (fld p 1 (t.code * 4) 2 .A (d.code) (a.code) (b.code) (m.val) (0))
  | .vmin p t d a b m => some (fld p 1 (1 + t.code * 4) 2 .A (d.code) (a.code) (b.code) (m.val) (0))
  | .vmaxa p t d a b m => some (fld p 1 (2 + t.code * 4) 2 .A (d.code) (a.code) (b.code) (m.val) (0))
  | .vmina p t d a b m => some (fld p 1 (3 + t.code * 4) 2 .A (d.code) (a.code) (b.code) (m.val) (0))
  | .vcmpEq p neg t d a b m => some (fld p 1 (neg.toNat * 64 + t.code * 4) 3 .A (d.val) (a.code) (b.code) (m.val) (0))
  | .vcmpLt p neg t d a b m => some (fld p 1 (1 + neg.toNat * 64 + t.code * 4) 3 .A (d.val) (a.code) (b.code) (m.val) (0))
  | .vcmpLe p neg t d a b m => some (fld p 1 (2 + neg.toNat * 64 + t.code * 4) 3 .A (d.val) (a.code) (b.code) (m.val) (0))
  | .vcmpUn p neg t d a b m => some (fld p 1 (3 + neg.toNat * 64 + t.code * 4) 3 .A (d.val) (a.code) (b.code) (m.val) (0))
  | .vsel p t d a b m => some (fld p 1 (t.code * 4) 4 .A (d.val) (a.code) (b.code) (m.val) (0))
  | .vand p d a b m => some (fld p 1 (0) 5 .A (d.code) (a.code) (b.code) (m.val) (0))
  | .vor p d a b m => some (fld p 1 (1) 5 .A (d.code) (a.code) (b.code) (m.val) (0))
  | .vxor p d a b m => some (fld p 1 (2) 5 .A (d.code) (a.code) (b.code) (m.val) (0))
  | .vandn p d a b m => some (fld p 1 (3) 5 .A (d.code) (a.code) (b.code) (m.val) (0))
  | .vshl p t d a imm m => some (fld p 1 (t.code * 4 + m.val * 32) 6 .I (d.val) (a.code) (0) (0) (imm))
  | .vshr p t d a imm m => some (fld p 1 (1 + t.code * 4 + m.val * 32) 6 .I (d.val) (a.code) (0) (0) (imm))
  | .vshra p t d a imm m => some (fld p 1 (2 + t.code * 4 + m.val * 32) 6 .I (d.val) (a.code) (0) (0) (imm))
  | .vredSum p t r d a m => some (fld p 1 (t.code * 4 + r.code * 32) 7 .A (d.val) (a.code) (0) (m.val) (0))
  | .vredMax p t r d a m => some (fld p 1 (1 + t.code * 4 + r.code * 32) 7 .A (d.val) (a.code) (0) (m.val) (0))
  | .vredMin p t r d a m => some (fld p 1 (2 + t.code * 4 + r.code * 32) 7 .A (d.val) (a.code) (0) (m.val) (0))
  | .vcvt p tt st r ns part d a m => some (fld p 1 (tt.code * 4 + r.code * 32 + ns.toNat + part.toNat * 2) 8 .A (d.val) (a.val) (st.code) (m.val) (0))
  | .vexp2 p d a m => some (fld p 1 (0) 9 .A (d.code) (a.code) (0) (m.val) (0))
  | .vrcp p d a m => some (fld p 1 (1) 9 .A (d.code) (a.code) (0) (m.val) (0))
  | .vrsq p d a m => some (fld p 1 (2) 9 .A (d.code) (a.code) (0) (m.val) (0))
  | .vquant p d a b m => some (fld p 1 (0) 10 .A (d.code) (a.code) (b.val) (m.val) (0))
  | .vdeq p d a b m => some (fld p 1 (0) 11 .A (d.code) (a.code) (b.val) (m.val) (0))
  | .vmov p d a m => some (fld p 1 (0) 12 .A (d.code) (a.code) (0) (m.val) (0))
  | .vbcast p d a m => some (fld p 1 (1) 12 .A (d.val) (a.val) (0) (m.val) (0))
  | .vgetl p d a b => some (fld p 1 (2) 12 .A (d.val) (a.val) (b.val) (0) (0))
  | .vsetl p d a b => some (fld p 1 (3) 12 .A (d.val) (a.val) (b.val) (0) (0))
  | .vld p sp m d a off => some (fld p 1 (sp.code + m.val * 4) 13 .I (d.val) (a.val) (0) (0) (off))
  | .vst p sp m d a off => some (fld p 1 (sp.code + m.val * 4) 14 .I (d.val) (a.val) (0) (0) (off))
  | .vgather p t d a b m => some (fld p 1 (t.code * 4) 15 .A (d.val) (a.val) (b.val) (m.val) (0))
  | .mand p d a b => some (fld p 1 (0) 16 .A (d.val) (a.val) (b.val) (0) (0))
  | .mor p d a b => some (fld p 1 (1) 16 .A (d.val) (a.val) (b.val) (0) (0))
  | .mxor p d a b => some (fld p 1 (2) 16 .A (d.val) (a.val) (b.val) (0) (0))
  | .mandn p d a b => some (fld p 1 (3) 16 .A (d.val) (a.val) (b.val) (0) (0))
  | .mpop p d a => some (fld p 1 (0) 17 .A (d.val) (a.val) (0) (0) (0))
  | .mset p d a => some (fld p 1 (1) 17 .A (d.val) (a.val) (0) (0) (0))
  | .mget p d a => some (fld p 1 (2) 17 .A (d.val) (a.val) (0) (0) (0))
  | .mgetVs p d => some (fld p 1 (6) 17 .A (d.val) (0) (0) (0) (0))
  | .mgetVsClr p d => some (fld p 1 (14) 17 .A (d.val) (0) (0) (0) (0))
  | .vabs p t d a m => some (fld p 1 (t.code * 4) 18 .A (d.code) (a.code) (0) (m.val) (0))
  | .vneg p t d a m => some (fld p 1 (1 + t.code * 4) 18 .A (d.code) (a.code) (0) (m.val) (0))
  | .gangStatic p => some (fld p 2 (0) 0 .A (0) (0) (0) (0) (0))
  | .gangElastic p a => some (fld p 2 (1) 0 .A (0) (a.val) (0) (0) (0))
  | .gangEnd p => some (fld p 2 (2) 0 .A (0) (0) (0) (0) (0))
  | .twld p buf a b => some (fld p 2 (buf.toNat) 1 .A (0) (a.val) (b.val) (0) (0))
  | .tmm p acc buf src b => some (fld p 2 (acc.val + buf.toNat * 4) 2 .A (0) (src.code) (b.val) (src.sel) (0))
  | .tdrain p acc d a b => some (fld p 2 (acc.val) 3 .A (d.val) (a.val) (b.val) (0) (0))
  | .tdrainAdd p acc d a b => some (fld p 2 (acc.val) 3 .A (d.val) (a.val) (b.val) (1) (0))
  | .tzero p acc => some (fld p 2 (acc.val) 4 .A (0) (0) (0) (0) (0))
  | .trda p acc a => some (fld p 2 (acc.val) 5 .A (0) (a.val) (0) (0) (0))
  | .twra p acc a b => some (fld p 2 (acc.val) 6 .A (0) (a.val) (b.val) (0) (0))
  | .tpack p d a b => some (fld p 2 (0) 7 .A (d.val) (a.val) (b.val) (0) (0))
  | .tunpk p d a b => some (fld p 2 (0) 8 .A (d.val) (a.val) (b.val) (0) (0))
  | .tchk p d a => some (fld p 2 (0) 9 .A (d.val) (a.val) (0) (0) (0))
  | .tstxSet p bit a imm => some (fld p 2 (bit.val) 10 .I (0) (a.val) (0) (0) (imm))
  | .tstxClr p bit a imm => some (fld p 2 (64 + bit.val) 10 .I (0) (a.val) (0) (0) (imm))
  | .accMax p d a b => some (fld p 2 (0) 11 .A (d.val) (a.val) (b.val) (0) (0))
  | .accScale p d a b => some (fld p 2 (1) 11 .A (d.val) (a.val) (b.val) (0) (0))
  | .difs p a b => some (fld p 2 (0) 12 .A (0) (a.val) (b.val) (0) (0))
  | .difgo p a imm => some (fld p 2 (0) 13 .I (0) (a.val) (0) (0) (imm))
  | .difwait p => some (fld p 2 (0) 14 .A (0) (0) (0) (0) (0))
  | .ldlLong p mode sg sz d a off => some (fld p 3 (mode.code * 8 + ldszCode sg sz) 0 .I (d.val) (a.val) (0) (0) (off))
  | .stlLong p mode sz d a off => some (fld p 3 (mode.code * 8 + sz.code) 1 .I (d.val) (a.val) (0) (0) (off))
  | .ldfe p mode d a off => some (fld p 3 (mode.code * 8) 2 .I (d.val) (a.val) (0) (0) (off))
  | .ldff p mode d a off => some (fld p 3 (1 + mode.code * 8) 2 .I (d.val) (a.val) (0) (0) (off))
  | .stfe p mode d a off => some (fld p 3 (mode.code * 8) 3 .I (d.val) (a.val) (0) (0) (off))
  | .stff p mode d a off => some (fld p 3 (1 + mode.code * 8) 3 .I (d.val) (a.val) (0) (0) (off))
  | .seteE p mode a off => some (fld p 3 (mode.code * 8) 4 .I (0) (a.val) (0) (0) (off))
  | .seteF p mode a off => some (fld p 3 (1 + mode.code * 8) 4 .I (0) (a.val) (0) (0) (off))
  | .rempty p d => some (fld p 3 (0) 5 .A (d.val) (0) (0) (0) (0))
  | .fill p t d a b => some (fld p 3 (t.val) 6 .A (d.val) (a.val) (b.val) (0) (0))
  | .amoAdd p w64 d a b => some (fld p 3 (w64.toNat * 16) 7 .A (d.val) (a.val) (b.val) (0) (0))
  | .amoAnd p w64 d a b => some (fld p 3 (1 + w64.toNat * 16) 7 .A (d.val) (a.val) (b.val) (0) (0))
  | .amoOr p w64 d a b => some (fld p 3 (2 + w64.toNat * 16) 7 .A (d.val) (a.val) (b.val) (0) (0))
  | .amoXor p w64 d a b => some (fld p 3 (3 + w64.toNat * 16) 7 .A (d.val) (a.val) (b.val) (0) (0))
  | .amoMin p w64 d a b => some (fld p 3 (4 + w64.toNat * 16) 7 .A (d.val) (a.val) (b.val) (0) (0))
  | .amoMax p w64 d a b => some (fld p 3 (5 + w64.toNat * 16) 7 .A (d.val) (a.val) (b.val) (0) (0))
  | .amoMinz p w64 d a b => some (fld p 3 (6 + w64.toNat * 16) 7 .A (d.val) (a.val) (b.val) (0) (0))
  | .amoMaxz p w64 d a b => some (fld p 3 (7 + w64.toNat * 16) 7 .A (d.val) (a.val) (b.val) (0) (0))
  | .amoSwap p w64 d a b => some (fld p 3 (8 + w64.toNat * 16) 7 .A (d.val) (a.val) (b.val) (0) (0))
  | .amoCas p w64 d a b => some (fld p 3 (9 + w64.toNat * 16) 7 .A (d.val) (a.val) (b.val) (0) (0))
  | .amopAdd p w64 a b => some (fld p 3 (w64.toNat * 16) 8 .A (0) (a.val) (b.val) (0) (0))
  | .amopAnd p w64 a b => some (fld p 3 (1 + w64.toNat * 16) 8 .A (0) (a.val) (b.val) (0) (0))
  | .amopOr p w64 a b => some (fld p 3 (2 + w64.toNat * 16) 8 .A (0) (a.val) (b.val) (0) (0))
  | .amopXor p w64 a b => some (fld p 3 (3 + w64.toNat * 16) 8 .A (0) (a.val) (b.val) (0) (0))
  | .amopMin p w64 a b => some (fld p 3 (4 + w64.toNat * 16) 8 .A (0) (a.val) (b.val) (0) (0))
  | .amopMax p w64 a b => some (fld p 3 (5 + w64.toNat * 16) 8 .A (0) (a.val) (b.val) (0) (0))
  | .amopMinz p w64 a b => some (fld p 3 (6 + w64.toNat * 16) 8 .A (0) (a.val) (b.val) (0) (0))
  | .amopMaxz p w64 a b => some (fld p 3 (7 + w64.toNat * 16) 8 .A (0) (a.val) (b.val) (0) (0))
  | .famoF32 p a b => some (fld p 3 (0) 9 .A (0) (a.val) (b.val) (0) (0))
  | .famoBf16 p a b => some (fld p 3 (1) 9 .A (0) (a.val) (b.val) (0) (0))
  | .ldr p d a off => some (fld p 3 (0) 10 .I (d.val) (a.val) (0) (0) (off))
  | .stc p d a off => some (fld p 3 (0) 11 .I (d.val) (a.val) (0) (0) (off))
  | .waitrs p d a => some (fld p 3 (0) 12 .A (d.val) (a.val) (0) (0) (0))
  | .fenceAcq p sc => some (fld p 3 (sc.code * 8) 13 .A (0) (0) (0) (0) (0))
  | .fenceRel p sc => some (fld p 3 (1 + sc.code * 8) 13 .A (0) (0) (0) (0) (0))
  | .fenceAr p sc => some (fld p 3 (2 + sc.code * 8) 13 .A (0) (0) (0) (0) (0))
  | .fenceSc p sc => some (fld p 3 (3 + sc.code * 8) 13 .A (0) (0) (0) (0) (0))
  | .fencePost p => some (fld p 3 (0) 14 .A (0) (0) (0) (0) (0))
  | .scopedef p d a => some (fld p 3 (0) 15 .A (d.val) (a.val) (0) (0) (0))
  | .csync p => some (fld p 3 (0) 16 .A (0) (0) (0) (0) (0))
  | .ebegin p d imm => some (fld p 3 (0) 17 .I (d.val) (0) (0) (0) (imm))
  | .ecommit p => some (fld p 3 (0) 18 .A (0) (0) (0) (0) (0))
  | .eabort p => some (fld p 3 (0) 19 .A (0) (0) (0) (0) (0))
  | .ebnd p d a => some (fld p 3 (0) 20 .A (d.val) (a.val) (0) (0) (0))
  | .epos p d => some (fld p 3 (0) 21 .A (d.val) (0) (0) (0) (0))
  | .barArrive p sc d a => some (fld p 3 (sc.code * 8) 22 .A (d.val) (a.val) (0) (0) (0))
  | .barWait p sc a b => some (fld p 3 (1 + sc.code * 8) 22 .A (0) (a.val) (b.val) (0) (0))
  | .barAw p sc d a => some (fld p 3 (2 + sc.code * 8) 22 .A (d.val) (a.val) (0) (0) (0))
  | .barTest p sc d a b => some (fld p 3 (3 + sc.code * 8) 22 .A (d.val) (a.val) (b.val) (0) (0))
  | .barInit p a b => some (fld p 3 (0) 23 .A (0) (a.val) (b.val) (0) (0))
  | .ldAcq p sc sz d a off => some (fld p 3 (sc.code * 8 + sz.code) 24 .I (d.val) (a.val) (0) (0) (off))
  | .stRel p sc sz d a off => some (fld p 3 (sc.code * 8 + sz.code) 25 .I (d.val) (a.val) (0) (0) (off))
  | .copy p d a b => some (fld p 4 (0) 0 .A (d.val) (a.val) (b.val) (0) (0))
  | .copyq p d q b => some (fld p 4 (0) 1 .A (d.val) (q.val) (b.val) (0) (0))
  | .cjwait p d a => some (fld p 4 (0) 2 .A (d.val) (a.val) (0) (0) (0))
  | .cjtest p d a => some (fld p 4 (0) 3 .A (d.val) (a.val) (0) (0) (0))
  | .mkgrant p rw d a b => some (fld p 4 (rw.toNat) 4 .A (d.val) (a.val) (b.val) (0) (0))
  | .addg p d a b => some (fld p 4 (0) 5 .A (d.val) (a.val) (b.val) (0) (0))
  | .grantq p d a => some (fld p 4 (0) 6 .A (d.val) (a.val) (0) (0) (0))
  | .revoke p d => some (fld p 4 (0) 7 .A (d.val) (0) (0) (0) (0))
  | .wfw p => some (fld p 4 (0) 8 .A (0) (0) (0) (0) (0))
  | .spawn p d a => some (fld p 4 (0) 9 .A (d.val) (a.val) (0) (0) (0))
  | .launch p d a b => some (fld p 4 (0) 10 .A (d.val) (a.val) (b.val) (0) (0))
  | .inrd p d a => some (fld p 4 (0) 11 .A (d.val) (a.val) (0) (0) (0))
  | .krd p n d => some (fld p 4 (n.val) 12 .A (d.val) (0) (0) (0) (0))
  | .kwr p n a => some (fld p 4 (n.val) 13 .A (0) (a.val) (0) (0) (0))
  | .mulh p d a b => some (fld p 5 (0) 0 .A (d.val) (a.val) (b.val) (0) (0))
  | .mulhz p d a b => some (fld p 5 (1) 0 .A (d.val) (a.val) (b.val) (0) (0))
  | .div p d a b => some (fld p 5 (0) 1 .A (d.val) (a.val) (b.val) (0) (0))
  | .divz p d a b => some (fld p 5 (1) 1 .A (d.val) (a.val) (b.val) (0) (0))
  | .rem p d a b => some (fld p 5 (2) 1 .A (d.val) (a.val) (b.val) (0) (0))
  | .remz p d a b => some (fld p 5 (3) 1 .A (d.val) (a.val) (b.val) (0) (0))
  | .bfxZ p w d a imm => some (fld p 5 (w.val) 2 .I (d.val) (a.val) (0) (0) (imm))
  | .bfxS p w d a imm => some (fld p 5 (64 + w.val) 2 .I (d.val) (a.val) (0) (0) (imm))
  | .bfi p w d a imm => some (fld p 5 (w.val) 3 .I (d.val) (a.val) (0) (0) (imm))
  | .sel p pr d a b => some (fld p 5 (pr.val) 4 .A (d.val) (a.val) (b.val) (0) (0))
  | .clz p d a => some (fld p 5 (0) 5 .A (d.val) (a.val) (0) (0) (0))
  | .ctz p d a => some (fld p 5 (1) 5 .A (d.val) (a.val) (0) (0) (0))
  | .popc p d a => some (fld p 5 (2) 5 .A (d.val) (a.val) (0) (0) (0))
  | .bswap p d a => some (fld p 5 (3) 5 .A (d.val) (a.val) (0) (0) (0))
  | .min p d a b => some (fld p 5 (0) 6 .A (d.val) (a.val) (b.val) (0) (0))
  | .max p d a b => some (fld p 5 (1) 6 .A (d.val) (a.val) (b.val) (0) (0))
  | .minz p d a b => some (fld p 5 (2) 6 .A (d.val) (a.val) (b.val) (0) (0))
  | .maxz p d a b => some (fld p 5 (3) 6 .A (d.val) (a.val) (b.val) (0) (0))
  | .andi p d a imm => some (fld p 5 (0) 7 .I (d.val) (a.val) (0) (0) (imm))
  | .ori p d a imm => some (fld p 5 (1) 7 .I (d.val) (a.val) (0) (0) (imm))
  | .xori p d a imm => some (fld p 5 (2) 7 .I (d.val) (a.val) (0) (0) (imm))
  | .qpop p d q => some (fld p 5 (0) 8 .A (d.val) (q.val) (0) (0) (0))
  | .qpush p q a => some (fld p 5 (1) 8 .A (q.val) (a.val) (0) (0) (0))
  | .srd p n d a => some (fld p 7 (n.val) 0 .A (d.val) (a.val) (0) (0) (0))
  | .swr p n a b => some (fld p 7 (n.val) 1 .A (0) (a.val) (b.val) (0) (0))
  | .eret p => some (fld p 7 (0) 2 .A (0) (0) (0) (0) (0))
  | .eretStart p d a => some (fld p 7 (1) 2 .A (d.val) (a.val) (0) (0) (0))
  | .tlbinvRange p span d a b => some (fld p 7 (span.toNat * 4) 3 .A (d.val) (a.val) (b.val) (0) (0))
  | .tlbinvAsid p span d a b => some (fld p 7 (1 + span.toNat * 4) 3 .A (d.val) (a.val) (b.val) (0) (0))
  | .tlbinvS2range p span d a b => some (fld p 7 (2 + span.toNat * 4) 3 .A (d.val) (a.val) (b.val) (0) (0))
  | .tlbinvPartition p span d a b => some (fld p 7 (3 + span.toNat * 4) 3 .A (d.val) (a.val) (b.val) (0) (0))
  | .tlbprobe p d a b => some (fld p 7 (0) 4 .A (d.val) (a.val) (b.val) (0) (0))
  | .cacheopIc p span a b => some (fld p 7 (span.toNat * 8) 5 .A (0) (a.val) (b.val) (0) (0))
  | .cacheopL1 p span a b => some (fld p 7 (1 + span.toNat * 8) 5 .A (0) (a.val) (b.val) (0) (0))
  | .cacheopCc p span a b => some (fld p 7 (2 + span.toNat * 8) 5 .A (0) (a.val) (b.val) (0) (0))
  | .cacheopL2v p span a b => some (fld p 7 (3 + span.toNat * 8) 5 .A (0) (a.val) (b.val) (0) (0))
  | .cacheopL2p p a b => some (fld p 7 (4) 5 .A (0) (a.val) (b.val) (0) (0))
  | .domsetRow p a b => some (fld p 7 (0) 6 .A (0) (a.val) (b.val) (0) (0))
  | .domsetAll p b => some (fld p 7 (1) 6 .A (0) (0) (b.val) (0) (0))
  | .fwsend p d a b => some (fld p 7 (0) 7 .A (d.val) (a.val) (b.val) (0) (0))
  | .fwsendReply p d a b => some (fld p 7 (1) 7 .A (d.val) (a.val) (b.val) (0) (0))
  | .stoparmCore p a => some (fld p 7 (0) 8 .A (0) (a.val) (0) (0) (0))
  | .stoparmStop p d a b => some (fld p 7 (1) 8 .A (d.val) (a.val) (b.val) (0) (0))
  | .stoparmResume p d a b => some (fld p 7 (2) 8 .A (d.val) (a.val) (b.val) (0) (0))
  | .step p a => some (fld p 7 (0) 9 .A (0) (a.val) (0) (0) (0))
  | .slpset p d a => some (fld p 7 (0) 10 .A (d.val) (a.val) (0) (0) (0))
  | .wdsetKick p => some (fld p 7 (0) 11 .A (0) (0) (0) (0) (0))
  | .wdsetArm p a b => some (fld p 7 (1) 11 .A (0) (a.val) (b.val) (0) (0))
  | .wdsetRead p d b => some (fld p 7 (2) 11 .A (d.val) (0) (b.val) (0) (0))
  | .deviceReset => none
  | .recoveryRequest => none
  | .recoveryDataFrame => none
  | .recoveryEndFrame => none
  | .recoveryTimeout => none
  | .recoveryRetry => none
  | .parkEvent => none
  | .parkedResume => none
  | .parkTimeout => none
  | .fillArrival => none
  | .dispense => none
  | .taskRecordWrite => none
  | .gangOpen => none
  | .gangStall => none
  | .gangStallEnd => none
  | .sleepEntry => none
  | .sleepWake => none
  | .wakeEnd => none
  | .streamElementArrival => none
  | .streamElementAccept => none
  | .storeQueueDepart => none
  | .storeOrderAtHome => none
  | .invalidationDelivery => none
  | .remoteStoreAck => none
  | .leaseExpiry => none
  | .postedOpApply => none
  | .postedAck => none
  | .remoteFaultRecord => none
  | .remoteRecordResend => none
  | .atomicAtHome => none
  | .movedAnswer => none
  | .barrierAtHome => none
  | .feWaiterService => none
  | .regionAccessAtSlice => none
  | .narrowingArrival => none
  | .broadcastTurnGrant => none
  | .finalPositionBroadcast => none
  | .serialTokenGrant => none
  | .scopeMissMessage => none
  | .scopeMissAnswer => none
  | .tagEvictionRepair => none
  | .jobStart => none
  | .jobComplete => none
  | .jobEndEarly => none
  | .arrayInstrStart => none
  | .arrayInstrComplete => none
  | .arrayIdleGate => none
  | .accordRelease => none
  | .diffuserIssue => none
  | .grantInvalidation => none
  | .coreInterruptTake => none
  | .graphRegister => none
  | .graphUnregister => none
  | .launchWordAccept => none
  | .nodeStart => none
  | .nodeComplete => none
  | .instanceComplete => none
  | .recoveryModeSet => none
  | .correctableError => none
  | .uncorrectableError => none
  | .ctxSave => none
  | .ctxClear => none
  | .ctxReplace => none
  | .syncStop => none
  | .syncResume => none
  | .jobFreeze => none
  | .sillageSweep => none
  | .imageWrite => none
  | .imageSeal => none
  | .saveBudgetExpiry => none
  | .imageSwapOut => none
  | .imageReadback => none
  | .watchdogExpiry => none
  | .frozenLeafReread => none
  | .linkTrainingEnd => none
  | .flitResend => none
  | .linkDown => none
  | .clockSyncExchange => none
  | .clockSyncLoss => none
  | .ethernetFrameRx => none
  | .getDigests => none
  | .getCertificate => none
  | .challenge => none
  | .getMeasurements => none
  | .keyExchange => none
  | .finish => none
  | .keyUpdate => none
  | .heartbeat => none
  | .endSession => none
  | .tenantAppData => none
  | .clusterHold => none
  | .clusterRelease => none
  | .firewallWrite => none
  | .movedFrameEnter => none
  | .movedFrameRemove => none
  | .interleaveCommit => none
  | .keyGenerate => none
  | .keyRetire => none
  | .measurementExtend => none
  | .linkEnable => none
  | .linkDisable => none
  | .intcntClear => none
  | .unallocatedEncoding => none
  | .fetchFault => none
  | .mailRecordDelivery => none

/-- The width of an instruction's immediate in bits (R113). -/
def Fld.immBits (f : Fld) : Nat :=
  match f.fmt with
  | .A => 0
  | .I => 11 * f.p.xi.val + 5
  | .J => 11 * f.p.xi.val + 11

/-- The immediate as an unsigned number of its width. -/
def Fld.immNat (f : Fld) : Nat := (f.imm % (2 ^ f.immBits : Nat)).toNat

/-- The base word. -/
def Fld.base (f : Fld) : Nat :=
  match f.fmt with
  | .A => f.maj * 2048 + f.d % 8 * 256 + f.a % 8 * 32 + f.b % 8 * 4 + f.f2
  | .I => f.maj * 2048 + f.d % 8 * 256 + f.a % 8 * 32 + f.immNat % 32
  | .J => f.maj * 2048 + f.immNat % 2048

/-- The XI words of a value, most significant first. -/
def xiWords : Nat → Nat → List Nat
  | 0, _ => []
  | n + 1, v => xiWords n (v / 2048) ++ [57344 + v % 2048]

/-- The bits of an immediate above its base field. -/
def Fld.xiPart (f : Fld) : Nat :=
  match f.fmt with
  | .A => 0
  | .I => f.immNat / 32
  | .J => f.immNat / 2048

/-- The guard bits of an XR word (R11). -/
def guardBits : Option (Bool × Fin 8) → Nat
  | none => 0
  | some (neg, pr) => 16 + neg.toNat * 8 + pr.val

/-- The prefix words in the order ngas emits them (R10). -/
def Fld.prefixes (f : Fld) : List Nat :=
  (match f.p.hint with
    | some h => [59392 + h.toNat]
    | none => []) ++
  (if f.page = 0 then [] else [63488 + f.page * 128 + f.fn]) ++
  (if f.p.xr then [61440 + f.d / 8 * 512 + f.a / 8 * 128 + f.b / 8 * 32 + guardBits f.p.guard] else []) ++
  xiWords f.p.xi.val f.xiPart

/-- The words of an instruction; an event has none. -/
def encode (i : Instr) : List Nat :=
  match i.fields with
  | some f => f.prefixes ++ [f.base]
  | none => []

/-- The number of words of an instruction: its prefixes and its base word. -/
def Instr.nwords (i : Instr) : Nat :=
  match i.fields with
  | some f => (if f.p.hint.isSome then 1 else 0) + (if f.page = 0 then 0 else 1) + (if f.p.xr then 1 else 0) +
      f.p.xi.val + 1
  | none => 0

/-! ### The host's words -/

/-- The 16-bit words of a table word in the order they lie in memory: the table writes a prefixed row with its XP word
above its base word, and a prefix comes first (R11, R116). -/
def tableWords (nbits w : Nat) : List Nat :=
  if nbits ≤ 16 then [w % 65536]
  else if 28 ≤ w % 65536 / 2048 then [w % 65536, w / 65536 % 65536]
  else [w / 65536 % 65536, w % 65536]

/-- The instruction the decoder reads from a table word followed by zero words. -/
def decodeTableWord (nbits w : Nat) : Option Instr :=
  match decodeWords (tableWords nbits w ++ [0, 0, 0, 0]) with
  | .ok i _ => some i
  | _ => none

end Sys2Proof
end

