-- ==== Sys2Proof/Config.lean ====
section
/-! DEFINITION. What an implementation fixes and the values the spec leaves open. A constant without a body is a free
value or an unread function: no proof can see what it is. -/

namespace Sys2Proof.Config

/-! ### Free values (log 5) -/

/-- A value the spec leaves open, by the counter of the state. -/
opaque freeValue : Nat → Word

/-! ### Cryptography (log 8): functions of their inputs, not computed here -/

/-- The alias key derived from the device secret and measurement registers 0 to 3 (R307), as a number. -/
opaque aliasKey : Nat → List (BitVec 384) → Nat
/-- The signature of a key over a digest (R307, R308). -/
opaque sign : Nat → BitVec 384 → List Byte
/-- What the SPDM key schedule makes of a session's transcript (R308). -/
opaque spdmKey : List Byte → Nat
/-- The bytes of an SPDM response (R308): by the kind of request, the request, the numbered measurement blocks and the certificate
slots. -/
opaque spdmResponse : Nat → List Byte → List (Nat × BitVec 384) → List (Nat × List Byte) → List Byte
/-- The device identity key derived from the device secret alone (R307), as a number. -/
opaque identityKey : Nat → Nat
/-- The device identity certificate, which the boot flash holds (R307); the spec does not place it in the flash. -/
opaque identityCert : List Byte → List Byte
/-- What the alias certificate says of the alias key, to be signed (R307). -/
opaque aliasBody : Nat → List Byte
/-- Whether the requester of a session, by its certificate's digest, is firmware's own: such a session asks for partitions (R323). -/
opaque firmwareCert : BitVec 384 → Bool
/-- The digest of the requester certificate that a KEY_EXCHANGE and FINISH present, and whether the FINISH verifies (R309). -/
opaque requesterCert : List Byte → BitVec 384
opaque finishOk : Nat → List Byte → Bool
/-- A byte of a saved context where R352 does not give its layout: by the image and the offset (log 11). -/
opaque imageByte : Nat → Nat → Byte
/-- The device-local address of firmware's reserve for displaced image pages (R354). -/
opaque reserveBase : Nat → Nat
/-- A byte of a DRAM line whose recorded key serial differs from the key it is read under (R109, R381). -/
opaque wrongKeyByte : Nat → Nat → Nat → Byte
/-- SHA-384 of the ROM contents, measured into register 0 (R305). -/
opaque romDigest : BitVec 384

/-! ### What a device's fuses hold (R304), by device -/

/-- The hash of the root public key. -/
opaque fuseRootHash : Nat → BitVec 384
/-- The minimum security version. -/
opaque fuseMinSvn : Nat → Nat
/-- The device secret. -/
opaque fuseSecret : Nat → Nat
/-- The serial number (R306). -/
opaque fuseSerial : Nat → Nat
/-- The virtual address of the first instruction of a firmware image (R304 step 9). -/
opaque imageEntry : List Byte → Word
/-- The device-local address a firmware image is loaded at (R304 step 9). -/
opaque imageBase : Nat → Nat

/-! ### Figures of CPN-VX9-M (R60) -/

def isarev : Nat := 1
def flitmesh : Nat := 64
def flitdie : Nat := 64
def flitspan : Nat := 32
def qdepth : Nat := 16
def sqdepth : Nat := 8
def difdepth : Nat := 32
def cjslots : Nat := 16
def inbox : Nat := 4
def afifo : Nat := 8
def dspdepth : Nat := 32
def awake : Nat := 96
def sleep1 : Nat := 24
def sleep2 : Nat := 420

end Sys2Proof.Config
end

