-- ==== Sys2Proof/Machine/State.lean ====
section
/-! DEFINITION. The state of a span: threads, cores, clusters, dies, devices, partitions, memory and what is in flight
between them; the reasons a step can stop; the state right after reset.

Instances are numbered densely (log 4): device `d`; die `4 d + x`; cluster `160 d + i` with `i` its index in the device
(R87); core `8 * cluster + c`; slot `16 * core + s`. A number that is not listed in a map has the reset default. -/

namespace Sys2Proof.Machine

/-! ### Threads -/

/-- A general register: value, full/empty bit, grant tag (R48). -/
structure GReg where
  val : Word
  full : Bool
  tag : Option (BitVec 32)
deriving DecidableEq, Repr

/-- An empty, untagged register of value 0: what a vacant slot holds in g1 to g31 (R62). -/
def GReg.empty : GReg := { val := 0, full := false, tag := none }

/-- A full, untagged register (R34, R131). -/
def GReg.of (v : Word) : GReg := { val := v, full := true, tag := none }

/-- A stream binding of the launch record (R99). -/
structure QBind where
  bound : Bool
  outbound : Bool
  wide : Bool
  queue : Fin 8
  eng : Bool
  pcore : Nat
  pq : Fin 8
deriving DecidableEq, Repr

/-- An unbound q register. -/
def QBind.none : QBind := { bound := false, outbound := false, wide := false, queue := 0, eng := false, pcore := 0, pq := 0 }

/-- The control registers of a thread (R57). -/
structure KRegs where
  tfmt : BitVec 1
  tsca : Word
  tscw : Word
  tgrp : BitVec 16
  ewin : BitVec 32
  lease : BitVec 24
  slease : BitVec 24
  parkto : BitVec 32
  agate : BitVec 16
  scopes : Vector (BitVec 16) 8
deriving DecidableEq, Repr

/-- Their reset values (R57). -/
def KRegs.reset : KRegs :=
  { tfmt := 0, tsca := 0, tscw := 0, tgrp := 80, ewin := 0x10000, lease := 1024, slease := 4096, parkto := 0,
    agate := 512, scopes := Vector.replicate 8 0 }

/-- A domain return record: the caller's domain and the return address (R148). -/
structure DomRet where
  dom : BitVec 8
  rpc : Word
deriving DecidableEq, Repr

/-- A slot of the reservation set: the line (physical address / 64), whether it was written, and its place in the
order of arming (R168). -/
structure Resv where
  i : Fin 8
  line : Nat
  written : Bool
  armed : Nat
deriving DecidableEq, Repr

/-- A remote fault record (R159). -/
structure RemRec where
  va : Word
  cause : BitVec 8
  dev : BitVec 9
  seq : BitVec 32
  lastseq : BitVec 32
  ndisc : BitVec 32
deriving DecidableEq, Repr

/-- An open elastic region (R178, R179): its number (by which its die's slices know it), the handler, the result register, the
recorded registers, return stack, domain and class, the buffered bytes, the lines written (with their keys, and their virtual lines)
and read, and the accesses not yet answered. -/
structure Region where
  id : Nat
  serial : Bool
  h : Word
  gd : Fin 32
  g : Vector GReg 32
  p : Vector Bool 8
  drs : List DomRet
  dom : BitVec 8
  cls : BitVec 2
  writes : List Host.Cell
  wlines : FMap Nat
  wvas : FMap Nat
  rlines : List Nat
  out : Nat
deriving DecidableEq, Repr

/-- The held row of a slot: address space, domain and 256 codes of two bits (R104). -/
structure Row where
  asid : Nat
  dom : Nat
  codes : BitVec 512
deriving DecidableEq, Repr

/-- A fill held for a slot in its handler, with its sender (R341). -/
structure HeldFill where
  reg : Fin 32
  val : Word
  sender : Option Nat
deriving DecidableEq, Repr

/-- An instance of a scope (R259): which cores are in it. -/
inductive ScopeInst where
  | thread (k : Nat)
  | core (c : Nat)
  | cluster (ck : Nat)
  | sector (die row : Nat)
  | die (die : Nat)
  | device (dev : Nat)
  | span
  | named (pid idx : Nat)
deriving DecidableEq, Repr

/-- A release tag: the scope and the writer's core (R260). -/
structure RelTag where
  scope : ScopeInst
  core : Nat
deriving DecidableEq, Repr

/-- A write that the rest of a parked instruction makes (R22). -/
inductive Wr where
  | g (r : Fin 32) (x : Word)
  | v (r : Fin 16) (x : BitVec 1024)
  | vmerge (r : Fin 16) (mask : BitVec 32) (x : BitVec 1024) -- the lanes that a mask sets
  | arrv (b : Bool)
  | dropFar (span : Bool)          -- an acquire at device or span scope drops far lines (R258)
  | saw                            -- an acquire at a level no wider than an L1: what it has seen stands in that L1 (R261)
  | lmGet (r : Fin 32) (la : Word) (pa n : Nat) (signed : Bool)  -- a load of local memory (R160)
  | lmGetV (r : Fin 16) (la : Word) (mask : BitVec 32) (pas : List Nat) -- a vector load of local memory, by 4-byte elements (R204)
  | lmPut (cells : List Host.Cell) (tag : Option RelTag) -- a store of local memory, with its release tag (R260)
  | lmSet (pa : Nat) (full : Bool) -- SETE (R161)
  | unresv (line : Nat)            -- STC frees its line's slot (R169)
  | resvEmpty                      -- WAITRS empties the set (R170)
deriving DecidableEq, Repr

/-- A piece of a vector load that is read on its own (R205, R265): its virtual address, its address and key, its length, the
byte of the register it goes to, the lanes it writes, and whether its line enters the L1 as the least recently used one (R117). -/
structure Piece where
  va : Nat
  pa : Nat
  key : Nat
  len : Nat
  at_ : Nat
  lanes : BitVec 32
  nt : Bool
deriving DecidableEq, Repr

/-- What a parked thread awaits (R30). -/
inductive Wait where
  | time (t : Nat)                          -- a clock
  | latency                                 -- a reply whose time is open (R395)
  | after (t : Nat)                         -- the same, but not before the clock after `t` (R255)
  | pieces (ps : List Piece) (r : Fin 16)   -- pieces of a vector load still to be read (R265)
  | words (t : Option Nat) (ws : List Wr)   -- parts of a vector access of local memory still to be performed, by a clock where one is fixed (R265)
  | reg (r : Fin 32)                        -- a full register (R33)
  | bank (word : Nat) (full : Bool)         -- the state of a local word (R161)
  | resv (until_ : Option Nat) (d : Fin 32) -- a written reservation (R170)
  | barrier (va : Word) (pa : Nat) (phase : Word) -- a barrier's phase (R176)
  | accord                                  -- the Accord's release (R224)
  | work                                    -- a work item (R41)
  | streamIn (q : Fin 8) (n : Nat)          -- elements of an inbound queue (R52)
  | rowsIn (q : Fin 8)                      -- the element that holds a TMM's rows (R216)
  | streamOut (q : Fin 8)                   -- room in an outbound queue (R52)
  | storeQueue                              -- room in the store queue (R156)
  | dispenser                               -- room in the dispenser (R246)
  | jobDone (i : Fin 16)                    -- a copy engine job (R239)
  | jobSlot                                 -- a free job slot (R234)
  | jobQueue (q : Fin 8)                    -- a queue with no job attached (R235)
  | revoke (pa : Nat)                       -- the use count and the copies of a grant entry (R244)
  | diffuser                                -- the end of a sequence (R228)
  | fence (level : Nat) (visible : Bool)    -- stores performed, or visible, at a level (R172)
  | posted                                  -- every posted operation answered (R174)
  | lanes                                   -- every operation on a broken lane answered (R159)
  | storesOut                               -- stores performed and posted operations answered (R152)
  | inbox                                   -- an inbox record (R248)
  | gangJoin                                -- the other seven arrivals (R42)
  | gangEnd                                 -- the other members and their work (R214)
  | fifo (rows : Nat)                       -- FIFO rows; 0: the start of the placed TMM (R216)
  | stall                                   -- the end of a static-gang stall (R45)
  | answers                                 -- the answers of a region's accesses (R182)
  | turn                                    -- a broadcast turn (R182)
  | token                                   -- the serial token (R184)
  | reply (id : Nat)                        -- the reply to message `id`
  | frozen (next : Nat)                     -- a frozen leaf, reread at clock `next` (R320)
  | maint (upto pid : Nat) (asid : Option (BitVec 16)) (lo hi : Nat) (span : Bool) -- TLBINV: accesses numbered below `upto` (R317)
  | mail (dev : Nat)                        -- the answer to a FWSEND (R367)
  | held (ck : Nat)                         -- every core of a held cluster has stopped (R393)
deriving DecidableEq, Repr

/-- A system register read by SRD on a clock: the slot, the register it wrote, the number and the instance (R360). -/
structure SysGet where
  k : Nat
  d : Fin 32
  n : Nat
  key : Nat
deriving DecidableEq, Repr

/-- What a trap tells its frame (R338, R339). -/
structure TrapInfo where
  cause : Nat
  addr : Word
  nw : Nat
  pc : Word
  rpc : Word
  rec_ : Option RemRec
deriving DecidableEq, Repr

/-- What is left of a parked instruction: it issues again, or it makes its writes and completes, or it traps (R22, R23); or a trap
whose delivery met a frozen leaf (R320). -/
inductive Rest where
  | reissue
  | again                            -- reissue with every page of a COPY, COPYQ, TDRAIN or MKGRANT translated (R316)
  | finish (ws : List Wr)
  | fault (cause : Nat) (addr : Word)
  | trap (i : TrapInfo)
deriving DecidableEq, Repr

/-- A park: its cause, the clock it began, what it awaits, the words of the instruction, what is left of it, whether the
event has arrived, whether k.parkto spares it (R30-R32), and the links that its requests to other devices have left on, with the
fault address of their loss (R374, R376). -/
structure Park where
  cause : Nat
  since : Nat
  wait : Wait
  nw : Nat
  rest : Rest
  arrived : Bool
  exempt : Bool
  via : List (Nat × Nat × Word)
deriving DecidableEq, Repr

/-- Where the node that placed a thread stands: partition, instance, node (R332, R342). -/
structure Placed where
  pid : Nat
  inst : Nat
  node : Nat
deriving DecidableEq, Repr

/-- A thread slot (R24, R48-R63, R296, R340). `rel`: the release that the thread's stores carry after a releasing fence (R260).
`mailOld`: the withdrawn FWSENDs not yet answered (R367). `seen`: the clock by which every invalidation is delivered that was on its
die's network when the thread read local memory or received a fill: an acquire waits for it (R272, R275). `pcause`: the cause that a
stopped thread was parked under (R56). `inst` and `src`: the instruction that a park will go on with, and the registers as it found
them (R22). `wrote`: the registers that the instruction which issued last has written, whose values a fill of that clock does not
replace (R37). `behind`: the operations numbered below it that left its L1 may have been seen by the thread through an acquire, and its
releases cover them (R261). `item`: the node whose pushed work item the thread has been given (R329, R332). `saved`: its context
stands in a sealed image of the stop in progress, or was placed from one (R350, R353). -/
structure Slot where
  occ : Bool
  gen : BitVec 16
  pc : Word
  g : Vector GReg 32
  p : Vector Bool 8
  m : Vector (BitVec 32) 8
  v : Vector (BitVec 1024) 16
  vsw : BitVec 32
  q : Vector QBind 8
  eblo : Nat
  ebhi : Nat
  lastF : Nat
  dom : BitVec 8
  cls : BitVec 2
  streak : Nat
  arrv : Bool
  sstep : Bool
  drs : List DomRet
  k : KRegs
  seq : BitVec 32
  resv : List Resv
  region : Option Region
  recs : List RemRec
  park : Option Park
  inh : Bool
  shadow : List (Fin 32 × BitVec 32)
  held : List HeldFill
  heldInt : Bool
  stopped : Bool
  asid : BitVec 16
  asidNext : Option (BitVec 16)
  tsave : Word
  row : Option Row
  issued : Option Nat
  readyAt : Nat
  placed : Option Placed
  rel : Option RelTag
  mailOld : Nat
  seen : Nat
  pcause : Nat
  inst : Option Instr
  src : Option (Vector GReg 32)
  wrote : BitVec 32
  behind : Nat
  item : Option Placed
  saved : Bool
deriving DecidableEq, Repr

/-- A slot that never held a thread. -/
def Slot.vacant : Slot :=
  { occ := false, gen := 0, pc := 0, g := Vector.replicate 32 GReg.empty,
    p := Vector.replicate 8 false, m := Vector.replicate 8 0, v := Vector.replicate 16 0, vsw := 0,
    q := Vector.replicate 8 QBind.none, eblo := 0, ebhi := 0, lastF := 0, dom := 0, cls := 0, streak := 0, arrv := false,
    sstep := false, drs := [], k := KRegs.reset, seq := 0, resv := [], region := none, recs := [], park := none,
    inh := false, shadow := [], held := [], heldInt := false, stopped := false, asid := 0, asidNext := none,
    tsave := 0, row := none, issued := none, readyAt := 0, placed := none, rel := none, mailOld := 0, seen := 0,
    pcause := 0, inst := none, src := none, wrote := 0, behind := 0, item := none, saved := false }

/-! ### Operations on their way -/

/-- The atomic operations (R165). -/
inductive AmoOp where
  | add | and | or | xor | min | max | minz | maxz | swap | cas
deriving DecidableEq, Repr

/-- What a posted operation does at its home: a store of bytes, an atomic, a floating add (R156, R166). -/
inductive POp where
  | store (cells : List Host.Cell)
  | amop (op : AmoOp) (w64 : Bool) (pa : Nat) (b : Word)
  | famo (bf16 : Bool) (pa : Nat) (b : Word)
deriving DecidableEq, Repr

/-- An operation that takes a store-queue entry (R156): its number (numbers rise in the order of issue), its thread, its address,
and what its home must know (R158). -/
structure SqEntry where
  id : Nat
  k : Nat
  gen : BitVec 16
  va : Word
  pa : Nat
  op : POp
  tag : Option RelTag
  pid : Nat
  cls : Nat
  key : Nat
  seq : BitVec 32
deriving DecidableEq, Repr

/-- A barrier operation (R176). -/
inductive BarOp where
  | init (n : Word)
  | arrive (d : Fin 32) (thenWait : Bool)
  | test (d : Fin 32) (b : Word)
deriving DecidableEq, Repr

/-- A region access (R179): a read, with what its load makes of the bytes, or a write
at a virtual address. -/
inductive RegAcc where
  | read (d : Fin 32) (va : Word) (pa n : Nat) (signed : Bool)
  | write (va : Word)
deriving DecidableEq, Repr

/-- A message on its way to a home, a core or a slot. An acknowledgement names the writer as its notification will, and the operation
that it acknowledges (R256). A message
answered "moved" names the clock after which its page is looked up (again): 0 before the first time (R320). -/
inductive MsgKind where
  | op (e : SqEntry)                                                              -- R156
  | amo (op : AmoOp) (w64 : Bool) (va : Word) (pa : Nat) (key : Nat) (d : Fin 32) (b old : Word) (tag : Option RelTag)    -- R165
  | stc (va : Word) (pa key : Nat) (d : Fin 32) (x : Word) (tag : Option RelTag)      -- R169
  | bar (va : Word) (pa key : Nat) (o : BarOp) (tag : Option RelTag) (acq : Option ScopeInst)   -- R176
  | fill (target : Word) (t : Fin 32) (x : Word) (d : Option (Fin 32)) (job : Option (Nat × Nat))   -- R35, R164
  | region (rid line key lo hi : Nat) (acc : RegAcc)                                            -- R179
  | ack (line writer op : Nat)                                                           -- R256
  | scopeMiss (line : Nat) (tag : RelTag) (dev upto : Nat)                             -- R262
  | moved (e : MsgKind) (next : Nat)                                                           -- R167
deriving DecidableEq, Repr

/-- A message with its number, the thread that sent it, and the pid that its router stamped (R299). -/
structure Msg where
  id : Nat
  k : Nat
  gen : BitVec 16
  pid : Nat
  kind : MsgKind
deriving DecidableEq, Repr

/-- An ordering lane: one thread's posted operations to one device (R158, R159): those not yet applied, the answers on
their way back (with the sequence number where the operation was discarded), the link it is pinned to (R376), and, once
broken, the record, whether it has reached the core, and whether the core had no room for it (R159). `begun`: where the first piece of
its oldest operation has been performed (R265, R267). -/
structure Lane where
  k : Nat
  gen : BitVec 16
  dst : Nat
  flight : List SqEntry
  acks : List (Nat × Option (BitVec 32))
  path : Option Nat
  broken : Option RemRec
  delivered : Bool
  refused : Bool
  begun : Option (Nat × Nat)
deriving DecidableEq, Repr

/-- A notification in flight on a die's network (R182, R255): delivered at clock `due`. -/
inductive Notice where
  | inval (due line writer : Nat)
  | final (due rid f core : Nat) (serial : Bool) (tag : Option RelTag) (cells : List Host.Cell) (wl : FMap Nat) (rl : List Nat)
deriving DecidableEq, Repr

/-- The clock a notification is delivered at. -/
def Notice.due : Notice → Nat
  | .inval d _ _ => d
  | .final d .. => d

/-! ### Caches and translations -/

/-- A combined translation (R316): `base` is the device-local physical address, or the partition address where the page
lies on another device. -/
structure TlbEnt where
  pid : Nat
  asid : Nat
  vbase : Nat
  szlog : Nat
  dev : Nat
  remote : Bool
  base : Nat
  part : Nat
  dom : BitVec 8
  x : Bool
  gate : Bool
  cls : BitVec 2
  key : Nat
deriving DecidableEq, Repr

/-- An L1 line (R95): a snapshot of its home, with the end of its lease where it has one (R256). `from_`: every invalidation
that was on its way at the snapshot is delivered by then, and no reply gives the line's data before (R255). `bad`: an uncorrectable error has poisoned the copy (R382). -/
structure L1Line where
  pid : Nat
  asid : Nat
  vline : Nat
  pline : Nat
  dom : BitVec 8
  cls : BitVec 2
  key : Nat
  lease : Option Nat
  from_ : Nat
  data : BitVec 512
  bad : Bool
deriving DecidableEq, Repr

/-- A line of the instruction cache or the constant cache (R97, R144); `from_` and `bad` as for an L1 line. -/
structure RoLine where
  asid : Nat
  vline : Nat
  pline : Nat
  from_ : Nat
  data : BitVec 512
  bad : Bool
deriving DecidableEq, Repr

/-- A grant entry a core holds a copy of, by the address of the entry (R392). -/
structure GrantCopy where
  pa : Nat
  raw : BitVec 256
deriving DecidableEq, Repr

/-! ### Cores -/

/-- An entry of a core's store queue is an `SqEntry` (R156). A pending gang arrival (R42, R43): its thread, its mode, and
the virtual address, address and key of its status word where it has one (R211). -/
structure GangArr where
  k : Nat
  elastic : Bool
  stat : Option (Nat × Nat × Nat)
deriving DecidableEq, Repr

/-- A pending Accord arrival (R223): its thread, mask, operation, contribution and clock; once released, its result and
the clock the release reaches it. -/
structure AccArr where
  k : Nat
  mask : BitVec 64
  scale : Bool
  x : BitVec 32
  at_ : Nat
  d : Fin 32
  release : Option (Nat × Word)
deriving DecidableEq, Repr

/-- A latch buffer (R208): 512 bytes, the chunk index, the loaded bit, the first illegal byte's address. -/
structure Latch where
  bytes : List Byte
  kc : BitVec 16
  loaded : Bool
  illegal : Option Nat
  bad : Option (Nat × Nat)
deriving DecidableEq, Repr

/-- An accumulator tile (R208): 512 containers by 32 j + c, the group tag, the skip counters and the proof bit. -/
structure Tile where
  cells : Vector (BitVec 32) 512
  tag : Option (BitVec 16)
  askip : Nat
  wskip : Nat
  ofp : Bool
  bad : Option Nat
deriving DecidableEq, Repr

/-- A range of memory that a job touches, within one page: its address, its length, its key, and the virtual address it
came from, if any. -/
structure Chunk where
  va : Option Nat
  pa : Nat
  len : Nat
  key : Nat
deriving DecidableEq, Repr

/-- What an accepted TDRAIN captured (R108, R218), with the node that placed its thread (R332). -/
structure Drain where
  id : Nat
  acc : Fin 4
  add : Bool
  rows : List (List Chunk)
  stat : List Chunk
  scales : List Chunk
  codes : Option (List Chunk)
  gi : Nat
  tagv : Bool
  refs : List Nat
  k : Nat
  gen : BitVec 16
  asid : BitVec 16
  placed : Option Placed
  elastic : Bool
deriving DecidableEq, Repr

/-- An array instruction of the accumulate unit (R209); a TMM stands here once it has started. -/
inductive ArrOp where
  | tmm (buf : Bool)
  | tzero (acc : Fin 4)
  | trda (acc : Fin 4) (la : Nat)
  | twra (acc : Fin 4) (la : Nat) (tag : Word)
  | tdrain (d : Drain)
deriving DecidableEq, Repr

/-- A TWLD accepted into the latch loader (R215), a job of the scheduler, with the node that placed its thread (R332). -/
structure LoadOp where
  id : Nat
  buf : Bool
  pa : Nat
  kc : BitVec 16
  placed : Option Placed
deriving DecidableEq, Repr

/-- A TMM whose rows are being placed or in place (from clock `ready` on), waiting for its gang TMM to start (R216): the
rows' parts, and the queue whose element is popped at the start. `dif`: the Diffuser issued it. -/
structure TmmPend where
  k : Nat
  ready : Nat
  acc : Fin 4
  buf : Bool
  rows : List (List Byte)
  row0 : Nat
  pop : Option (Fin 8)
  dif : Bool
deriving DecidableEq, Repr

/-- A drain whose tile has been read (R218): what it captured, the tile, and once its rows are written the status word, and whether
that is written too. -/
structure DrainJob where
  d : Drain
  tile : Tile
  stat : Option (Nat × Bool)
deriving DecidableEq, Repr

/-- An array slice (R208-R213): buffers, tiles, its two units with the clock each is busy to, the drains whose tile is
read, the FIFO rows in use with the clock each is freed, the TMM waiting, the count of completed instructions, the clock the
last TMM ended, and whether it is gated. -/
structure Slice where
  b0 : Latch
  b1 : Latch
  tiles : Vector Tile 4
  accQ : List ArrOp
  accRun : Option ArrOp
  accEnd : Nat
  ldQ : List LoadOp
  ldRun : Option LoadOp
  ldEnd : Nat
  drains : List DrainJob
  fifo : List Nat
  tmm : Option TmmPend
  done : Nat
  lastTmm : Nat
  gated : Bool
deriving DecidableEq, Repr

/-- An empty latch buffer. -/
def Latch.empty : Latch := { bytes := [], kc := 0, loaded := false, illegal := none, bad := none }

/-- A tile of zeros: what TZERO leaves (R217), but for the proof bit. -/
def Tile.zero : Tile := { cells := Vector.replicate 512 0, tag := none, askip := 0, wskip := 0, ofp := false,
                           bad := none }

/-- A slice at device reset: gated (R213). Its latch buffers are zero, not loaded, with chunk index 0 and no illegal byte, its tiles zero
and untagged with their counters and proof bits 0 (log 48: DESIGN CHOICE; R208 gives them no reset values). -/
def Slice.reset : Slice :=
  { b0 := Latch.empty, b1 := Latch.empty, tiles := Vector.replicate 4 Tile.zero, accQ := [], accRun := none, accEnd := 0,
    ldQ := [], ldRun := none, ldEnd := 0, drains := [], fifo := [], tmm := none, done := 0, lastTmm := 0, gated := true }

/-- A running Diffuser sequence (R226, R227): N, the repetition, the next word, the snapshot, the stagger word, and for
each register the clock it was last written, whether its last try waited for a stream, and the words of its latest instruction. -/
structure DifRun where
  total : Nat
  rep : Nat
  next : Nat
  snap : Vector GReg 32
  stag : Word
  wrote : FMap Nat
  blocked : Bool
  nw : Nat
deriving DecidableEq, Repr

/-- The Diffuser of a core (R225-R227): owner, recorded words, running sequence, the trap it owes its owner, with its cause, its
address and the words of its instruction. -/
structure Dif where
  owner : Option Nat
  words : List Nat
  run : Option DifRun
  trap : Option (Nat × Word × Nat)
deriving DecidableEq, Repr

/-- A stream queue of a core (R52, R100): the elements, oldest first; an outbound element is freed on acceptance, and `taken` counts
the oldest ones that have arrived at their peer and whose acceptance is on its way. -/
abbrev Queue := List (BitVec 1024)

/-- A core (R24, R27, R47, R95, R156, R208, R223-R227, R262, R296, R298, R392). `vecAt`: the clock on which a thread last
used the vector unit or the array (R227); `slept`: the depth of the sleep in progress (R298). -/
structure Core where
  last : Fin 16
  sq : List SqEntry
  queues : Vector Queue 8
  taken : Vector Nat 8
  inbox : List (List Byte)
  mail : List (List Byte)
  tvec : Word
  astab : Word
  sdepth : BitVec 2
  asleep : Bool
  slept : BitVec 2
  wakeEnd : Option Nat
  idleSince : Option Nat
  heldFills : List Msg
  gangArr : Option GangArr
  accArr : Option AccArr
  grants : List GrantCopy
  misses : List Msg
  narrow : List (Nat × Nat × Nat × Nat)
  l1 : List L1Line
  ic : List RoLine
  dif : Dif
  slice : Slice
  agate : BitVec 16
  vecAt : Nat
deriving DecidableEq, Repr

/-- A core at device reset. -/
def Core.reset : Core :=
  { last := 15, sq := [], queues := Vector.replicate 8 [], taken := Vector.replicate 8 0, inbox := [], mail := [], tvec := 0, astab := 0, sdepth := 0,
    asleep := false, slept := 0, wakeEnd := none, idleSince := none, heldFills := [], gangArr := none, accArr := none,
    grants := [], misses := [], narrow := [], l1 := [], ic := [],
    dif := { owner := none, words := [], run := none, trap := none }, slice := Slice.reset, agate := 512, vecAt := 0 }

/-! ### Clusters -/

/-- A work item (R41, R246), with the node for which a resident loop pushed it (R329), and the node whose thread pushed it (R386). -/
structure Item where
  pc : Word
  args : List Word
  core : Option (Fin 8)
  asid : BitVec 16
  placed : Option Placed
  by_ : Option Placed
deriving DecidableEq, Repr

/-- A register destination of a job (R232). -/
structure RegDst where
  slot : Word
  reg : Fin 32
deriving DecidableEq, Repr

/-- A copy engine job (R232-R238): its number among the scheduler's jobs, its sequence number, its operation, its regions,
its issuer with its partition, address space, class and node (R332), the grant entries its references count in, the stream queue it is
attached to and the element width; whether it has started, the bytes of the destination sequence dealt with, the bytes read and
not yet written, the values for the registers passed, whether its fills have been sent, which are out and how many have been
applied, its cause, whether it is done and since when, whether it is frozen (R348). -/
structure Job where
  id : Nat
  seq : BitVec 32
  op : Nat
  src : List Chunk
  dst : List (Chunk ⊕ RegDst)
  k : Nat
  gen : BitVec 16
  pid : Nat
  asid : BitVec 16
  cls : BitVec 2
  placed : Option Placed
  refs : List Nat
  q : Option (Fin 8)
  wide : Bool
  started : Bool
  bytes : Nat
  buf : List Byte
  vals : List Word
  filled : Bool
  fillsOut : List Nat
  fillsIn : Nat
  cause : Nat
  done : Bool
  doneAt : Nat
  frozen : Bool
deriving DecidableEq, Repr

/-- A footprint in the job scheduler (R236): lines read and written, as ranges of addresses. -/
structure Foot where
  id : Nat
  reads : List Chunk
  writes : List Chunk
  regs : List RegDst
deriving DecidableEq, Repr

/-- An open gang (R42-R46, R209-R214): what was sampled, the members by core of the cluster, their status words (core,
virtual address, address, key), the members that have issued GANG.end, the core of the member that broke it off by its exit
(R214), the clock a wake from idle gating ends (R213). -/
structure Gang where
  elastic : Bool
  tfmt : BitVec 1
  tsca : Word
  tscw : Word
  tgrp : BitVec 16
  members : List (Nat × Nat)
  stat : List (Nat × Nat × Nat × Nat)
  ended : List Nat
  broken : Option Nat
  wake : Option Nat
deriving DecidableEq, Repr

/-- A thread waiting in the bank of a local word (R161): the word, the state awaited, the thread, its local address, what it does,
and the release tag of its store (R260). -/
structure BankWait where
  word : Nat
  full : Bool
  k : Nat
  d : Fin 32
  la : Word
  store : Option Word
  leave : Bool
  tag : Option RelTag
deriving DecidableEq, Repr

/-- A stop or a resume armed for a cluster (R368). -/
structure Arm where
  at_ : Nat
deriving DecidableEq, Repr

/-- A cluster (R24, R41, R97, R161, R214, R234, R296, R299, R316, R326, R368). `reserved`: the job slots that parked
COPYs hold, with their threads (R234). `stall`: the clock a stall of its static gang
began; `late`: an item that an outside event delays has still to arrive (R45). -/
structure Cluster where
  hold : Bool
  fwall : Word
  perm : Vector Word 3
  permdev : Vector Word 8
  qosw : BitVec 8
  tlb : List TlbEnt
  konst : List RoLine
  items : List Item
  served : Fin 8
  jobs : FMap Job
  jobseq : BitVec 32
  reserved : List (Nat × Nat)
  feet : List Foot
  gang : Option Gang
  stall : Option Nat
  late : Bool
  bank : List BankWait
  fused : Bool
  armStop : Option Arm
  armResume : Option Arm
  stopAt : Option Nat
deriving DecidableEq, Repr

/-- A cluster at device reset: held, in partition 0 (R296, R301). -/
def Cluster.reset : Cluster :=
  { hold := true, fwall := 0, perm := Vector.replicate 3 0, permdev := Vector.replicate 8 0, qosw := 1, tlb := [],
    konst := [], items := [], served := 7, jobs := [], jobseq := 0, reserved := [], feet := [], gang := none, stall := none, late := false, bank := [],
    fused := false, armStop := none, armResume := none, stopAt := none }

/-! ### Dies -/

/-- What a home slice keeps of a line touched by open regions or of a committed one (R180): positions, readers, writers
in arrival order, by the numbers of their regions. -/
structure LineRec where
  line : Nat
  wp : Nat
  rp : Nat
  readers : List Nat
  writers : List Nat
deriving DecidableEq, Repr

/-- The bounds a region carried to a slice on its latest access (R180). -/
structure Carried where
  slice : Nat
  rid : Nat
  lo : Nat
  hi : Nat
deriving DecidableEq, Repr

/-- An edge of a slice: region `r1` before region `r2` (R180). -/
structure Edge where
  slice : Nat
  r1 : Nat
  r2 : Nat
deriving DecidableEq, Repr

/-- A die (R178, R180-R184, R255, R316). `cc` is the commit clock, which a broadcast brings to every core of the die on one
clock (R182); `horizon` is that of each slice (R180). -/
structure Die where
  token : Option Nat
  tokenQ : List Nat
  lines : List LineRec
  carried : List Carried
  edges : List Edge
  horizon : FMap Nat
  turnQ : List Nat
  turnOf : Option Nat
  cc : Nat
  tlb : List TlbEnt
  notices : List Notice
deriving DecidableEq, Repr

/-- A die at reset. -/
def Die.reset : Die :=
  { token := none, tokenQ := [], lines := [], carried := [], edges := [], horizon := [], turnQ := [], turnOf := none, cc := 1, tlb := [], notices := [] }

/-! ### Devices -/

/-- A frame of the moved-frame set (R320): its address and its size code. -/
structure Moved where
  frame : Nat
  size : Nat
deriving DecidableEq, Repr

/-- An SPDM session (R308, R309): its number, key, the digest of its requester's certificate, whether FINISH succeeded,
and the partition it is the tenant session of. -/
structure Session where
  id : Nat
  key : Nat
  cert : BitVec 384
  open_ : Bool
  pid : Option Nat
deriving DecidableEq, Repr

/-- Network recovery (R306): whether it runs, the server, the data received, the clock of the first request of the
attempt and of the latest request, and the clock the next attempt starts; `got`: the sequence numbers received. -/
structure Recovery where
  on : Bool
  server : Option Nat
  data : List Byte
  got : List Nat
  first : Nat
  last : Nat
  retry : Option Nat
deriving DecidableEq, Repr

/-- A watchdog of a partition on a device (R370): its period and what remains, in microseconds, and the clocks of the
current microsecond. -/
structure Watchdog where
  period : Nat
  left : Nat
  frac : Nat
deriving DecidableEq, Repr

/-- A frame sent on an Ethernet port: port, EtherType, payload (R306, R308, R378). -/
structure Frame where
  port : Nat
  etype : Nat
  payload : List Byte
deriving DecidableEq, Repr

/-- A device (R296, R303-R308, R315, R320, R325, R372-R381, R382). `identity`: the device identity private key while it is on the
chip; `aliasId`: the alias key and its certificate (R307); `reports`: the slot names of the kills reported to the firmware scheduler
(R342); `train`: the clocks on which the training of links began (R373); `resends`: the resends of the flit that each link resent last
(R374). -/
structure Dev where
  clk : Nat
  colcfg : Word
  bootst : Word
  mrsel : Word
  mr : Vector (BitVec 384) 16
  mrcount : Vector (BitVec 32) 16
  s2dir : Word
  moved : List Moved
  mvovf : Bool
  milvStaged : Vector Word 16
  milv : Vector Word 16
  milvErr : Bool
  devno : Word
  frtab : Word
  spanrt : Word
  clksync : Word
  syncRun : Nat
  lastSync : Nat
  lastFix : Nat
  drift : Int
  keyErr : BitVec 2
  keys : FMap Nat
  bootCount : BitVec 16
  genCount : BitVec 32
  intcnt : BitVec 32
  flink : Vector Word 16
  flash : List Byte
  recovery : Recovery
  identity : Option Nat
  aliasId : Option (Nat × List Byte)
  sessions : List Session
  sent : List Frame
  log : List Nat
  dogs : FMap Watchdog
  roleNext : List Nat
  reports : List Word
  train : FMap Nat
  resends : FMap Nat
deriving DecidableEq, Repr

/-- The reset value of sys.milvI (R325): granule 1, the home die 1 << (i div 4). -/
def milvReset : Vector Word 16 :=
  Vector.ofFn fun i : Fin 16 => BitVec.ofNat 64 (256 + 2 ^ (i.val / 4))

/-- A device at reset. Key identifier 0 is active (R380). -/
def Dev.reset : Dev :=
  { clk := 0, colcfg := 0, bootst := 0, mrsel := 0, mr := Vector.replicate 16 0, mrcount := Vector.replicate 16 0,
    s2dir := 0, moved := [], mvovf := false, milvStaged := milvReset, milv := milvReset, milvErr := false, devno := 0,
    frtab := 0, spanrt := 0, clksync := 0, syncRun := 0, lastSync := 0, lastFix := 0, drift := 0, keyErr := 0,
    keys := [(0, 0)], bootCount := 0, genCount := 0, intcnt := 0, flink := Vector.replicate 16 0, flash := [],
    recovery := { on := false, server := none, data := [], got := [], first := 0, last := 0, retry := none },
    identity := none, aliasId := none, sessions := [], sent := [], log := [], dogs := [], roleNext := [], reports := [],
    train := [], resends := [] }

/-! ### Partitions -/

/-- A named scope: its cores and devices (R175). -/
structure ScopeDesc where
  cores : BitVec 1280
  devs : BitVec 512
  valid : Bool
deriving DecidableEq, Repr

/-- A work tier of a launch record (R38, R327). -/
structure Tier where
  groups : Nat
  members : Nat
  hw : Nat
  scope : Nat
deriving DecidableEq, Repr

/-- A launch record as read (R327). -/
structure LaunchRec where
  addr : Word
  entry : Word
  nargs : Nat
  fuse : Bool
  asid : BitVec 16
  sbind : Word
  tiers : List Tier
deriving DecidableEq, Repr

/-- A footprint entry (R330). -/
structure FootEnt where
  base : Word
  len : Nat
  write : Bool
deriving DecidableEq, Repr

/-- A node of a graph as read (R330). -/
structure NodeRec where
  lrec : Option LaunchRec
  fence : Bool
  derive_ : Bool
  foot : List FootEnt
  preds : List Nat
deriving DecidableEq, Repr

/-- A registered graph (R331). `stale`: a GRFENCE has discarded the copy of its records, which are read again before they are used
(R334). -/
structure Graph where
  serial : Nat
  asid : BitVec 16
  header : Word
  nodes : List NodeRec
  stale : Bool
deriving DecidableEq, Repr

/-- A word in a launch port (R332), with the session it came by, of its device, and the graph its handle named (R331). -/
structure PortWord where
  word : Word
  session : Option (Nat × Nat)
  graph : Graph
deriving DecidableEq, Repr

/-- Where a node of an instance stands: not started; running, with its record as it was read, the number of threads whose slots are
chosen, the slots that the resident loops have still to fill, and the chosen slots with their threads; done. -/
inductive NodeState where
  | waiting
  | running (n : NodeRec) (next : Nat) (todo : List Nat) (held : List (Nat × Nat))
  | done
deriving DecidableEq, Repr

/-- A saved copy of a write region (R385): its address, key and bytes. -/
structure Undo where
  node : Nat
  pa : Nat
  key : Nat
  bytes : List Byte
deriving DecidableEq, Repr

/-- An instance of a graph (R332, R333). `placedRecs`: the task records not yet in an inbox, with their node and core. `pushLeft`: for
each node and core, the work items that the core's resident loop has still to push by the records of kind 2 that it has (R329). -/
structure Inst where
  handle : BitVec 32
  graph : Graph
  argb : Word
  session : Option (Nat × Nat)
  nodes : List NodeState
  placedRecs : List (Nat × Nat × List Byte)
  pushLeft : List (Nat × Nat × Nat)
  undo : List Undo
  rolls : FMap Nat
  status : Option (Nat × Nat)
  ended : Bool
deriving DecidableEq, Repr

/-- An instance of which nothing is known. -/
def Inst.blank : Inst :=
  { handle := 0, graph := { serial := 0, asid := 0, header := 0, nodes := [], stale := false }, argb := 0, session := none, nodes := [],
    placedRecs := [], pushLeft := [], undo := [], rolls := [], status := none, ended := false }

/-- What firmware holds for a node of a recoverable partition (R385): a store, an atomic, a barrier operation; a launch word; a message
for a firmware role, by which a thread asks for an Ethernet send (log 49). -/
inductive Fx where
  | msg (m : Msg)
  | launch (w : PortWord)
  | mail (dev role : Nat) (rec : List Byte)
deriving DecidableEq, Repr

/-- An effect that firmware holds (R385): the instance, the node, its number in the order of issue, and whether it has been sent on
since its node committed. -/
structure HeldFx where
  inst : Nat
  node : Nat
  id : Nat
  fx : Fx
  sent : Bool
deriving DecidableEq, Repr

/-- A Flacon image (R351, R352): the header's fields and the saved state. `feet`: the scheduler edges of its jobs and of its queued
array work (R208, R348); `waits`: the clusters in which it found no room at a re-placing (R336). `base`: the partition address of the
core's image place (log 11); `led` and `boxed`: its slice, its inbox records have been placed already. -/
structure Image where
  core : Nat
  pid : Nat
  key : Nat
  place : Nat
  stop : Nat
  sealAt : Option Nat
  res : Bool
  dmap : Nat
  rsv : Nat
  lba : Nat
  slots : FMap Slot
  state : Core
  jobs : FMap Job
  feet : List Foot
  gang : Option Gang
  packets : List Msg
  waits : Option (List Nat)
  base : Nat
  led : Bool
  boxed : Bool
deriving DecidableEq, Repr

/-- A save in progress (R346-R353, R391): the stop clock, the clock of the request, the cores still to save, whether the
sweep has ended, the packets it captured, each with the core whose image takes it (R349, R352), and the waiting sender. -/
structure Save where
  stop : Nat
  request : Nat
  cores : List Nat
  swept : Bool
  packets : List (Nat × Msg)
  replyTo : Option Nat
deriving DecidableEq, Repr

/-- A partition (R323-R336, R353-R355, R384-R386, R391). `session`: its tenant session, by its device and number. `rolling`: a rollback
in progress, with its clock and the clusters stopped for it (R386). `places`: the partition address of the image place of each core
that has had one (R351, log 11). -/
structure Part where
  cert : BitVec 384
  keys : FMap Nat
  session : Option (Nat × Nat)
  scopes : FMap ScopeDesc
  port : List PortWord
  graphs : FMap Graph
  regSerial : Nat
  insts : FMap Inst
  nextInst : Nat
  discards : Nat
  recoverable : Bool
  area : Nat
  rolling : Option (Nat × List Nat)
  budget : Nat
  save : Option Save
  images : FMap Image
  places : FMap Nat
  killed : Bool
  heldFx : List HeldFx
  areaBase : Nat
deriving DecidableEq, Repr

/-- A partition nothing was done to; a save budget of 0 stands for the configuration table's (R302, R353). -/
def Part.reset : Part :=
  { cert := 0, keys := [], session := none, scopes := [], port := [], graphs := [], regSerial := 0, insts := [], nextInst := 0,
    discards := 0, recoverable := false, area := 0, rolling := none, budget := 0, save := none, images := [], places := [],
    killed := false, heldFx := [], areaBase := 0 }

/-! ### Memory -/

/-- Memory by span physical address (R87): the bytes that differ from `Memory.unlisted`, addresses rising. -/
abbrev Memory := List Host.Cell

/-- What an unlisted byte reads as: 0 (log 2: DESIGN CHOICE; unsafe). -/
def Memory.unlisted : Byte := 0

/-- The canonical form from an address on: addresses rise and no byte is the unlisted one. -/
def Memory.wfFrom (lo : Nat) : Memory → Bool
  | [] => true
  | (a, b) :: m => decide (lo ≤ a) && b != Memory.unlisted && Memory.wfFrom (a + 1) m

/-- The canonical form of a memory. -/
def Memory.wf (m : Memory) : Bool := Memory.wfFrom 0 m

/-- A line of DRAM that L2 holds under a key serial other than the one recorded for the line (R322). -/
structure L2Line where
  line : Nat
  ser : Nat
  data : BitVec 512
deriving DecidableEq, Repr

/-! ### The whole -/

/-- The state of the span. `clock`, `cur`, `turns`, `agenda`, `ev`, `oracle`, `fresh` and `nextId` are the model's own (log 4, log
5): the count of clocks, the slot whose instruction runs, the cores still to take their issue turn on this clock, the events that
come first, the event that is happening, the choices where an order or a time is open, what comes from outside with its clock
(errors, frames, links, requests), the counter of free values, the number of the next message or job. `checks` lists the check
values of the lines whose bytes do not have them (R110, R379); `l2` the second L2 lines of frames used under two keys (R322);
`frontLast` the partition whose launch word was taken last (R332); `srds` and `swrs` the system registers
read and written on the clock, by number and instance (R360). -/
structure State where
  clock : Nat
  cur : Nat
  turns : List Nat
  agenda : List Event
  ev : Option Event
  oracle : List Nat
  inputs : List (Nat × Event)
  fresh : Nat
  nextId : Nat
  slots : FMap Slot
  cores : FMap Core
  clusters : FMap Cluster
  dies : FMap Die
  devs : FMap Dev
  parts : FMap Part
  mem : Memory
  lmEmpty : List Nat
  poison : FMap Nat
  checks : FMap Nat
  l2 : List L2Line
  serials : FMap Nat
  tags : FMap RelTag
  net : List Msg
  lanes : List Lane
  revokes : List (Nat × Nat)
  frontLast : Nat
  srds : List SysGet
  swrs : List (Nat × Nat)
deriving DecidableEq, Repr

/-- Why a step of the machine ends in a fault. -/
inductive Fault where
  /-- A row of an event is run while that event is not happening. Raised by the meanings of the events; safe: `step` runs
  such a row only for the event of the agenda. -/
  | noEvent
deriving DecidableEq, Repr

/-- Why the model gives no next state. -/
inductive Refusal where
  /-- The instruction has no meaning in the model. Raised by arms of `exec` only; safe. -/
  | notModelled (mnemonic : String)
deriving DecidableEq, Repr

/-- The slot the boot ROM runs on: slot 0 of core 0 of cluster 7 of die 0 of device 0 (R304). -/
def romSlotKey : Nat := 7 * 8 * 16

/-- The ROM's thread at reset: its registers full (log 1). -/
def Slot.rom : Slot := { Slot.vacant with occ := true, g := Vector.replicate 32 (GReg.of 0) }

/-- The machine right after device reset: the boot ROM's slot holds a thread, every other slot is vacant, every cluster is
held but the ROM's, and the next step is the ROM's (R304, log 3). -/
def State.reset : State :=
  { clock := 0, cur := romSlotKey, turns := [], agenda := [.deviceReset 0], ev := none, oracle := [], inputs := [], fresh := 0, nextId := 0,
    slots := [(romSlotKey, Slot.rom)], cores := [], clusters := [(7, { Cluster.reset with hold := false })], dies := [],
    devs := [(0, Dev.reset)], parts := [], mem := [], lmEmpty := [], poison := [], checks := [], l2 := [], serials := [], tags := [], net := [],
    lanes := [], revokes := [], frontLast := 0, srds := [], swrs := [] }

end Sys2Proof.Machine
end

