-- ==== Sys2Proof/Machine/Base.lean ====
section
/-! DEFINITION. Named operations on the parts of the state: instances by number, memory bytes at their homes,
full/empty bits, the oracle and the counters. -/

namespace Sys2Proof.Machine

abbrev Res := Host.Outcome State Fault Refusal

/-! ### Instances -/

/-- Slot `k`. -/
def State.slot (s : State) (k : Nat) : Slot := s.slots.get Slot.vacant k
/-- Replaces slot `k`. -/
def State.setSlot (s : State) (k : Nat) (t : Slot) : State := { s with slots := s.slots.set k t }
/-- Changes slot `k`. -/
def State.modSlot (s : State) (k : Nat) (f : Slot → Slot) : State := s.setSlot k (f (s.slot k))
/-- Core `c`. -/
def State.core (s : State) (c : Nat) : Core := s.cores.get Core.reset c
/-- Changes core `c`. -/
def State.modCore (s : State) (c : Nat) (f : Core → Core) : State := { s with cores := s.cores.set c (f (s.core c)) }
/-- Cluster `ck`. -/
def State.cluster (s : State) (ck : Nat) : Cluster := s.clusters.get Cluster.reset ck
/-- Changes cluster `ck`. -/
def State.modCluster (s : State) (ck : Nat) (f : Cluster → Cluster) : State :=
  { s with clusters := s.clusters.set ck (f (s.cluster ck)) }
/-- Die `x`. -/
def State.die (s : State) (x : Nat) : Die := s.dies.get Die.reset x
/-- Changes die `x`. -/
def State.modDie (s : State) (x : Nat) (f : Die → Die) : State := { s with dies := s.dies.set x (f (s.die x)) }
/-- Device `d`. -/
def State.dev (s : State) (d : Nat) : Dev := s.devs.get Dev.reset d
/-- Changes device `d`. -/
def State.modDev (s : State) (d : Nat) (f : Dev → Dev) : State := { s with devs := s.devs.set d (f (s.dev d)) }
/-- Partition `pid`. -/
def State.part (s : State) (pid : Nat) : Part := s.parts.get Part.reset pid
/-- Changes partition `pid`. -/
def State.modPart (s : State) (pid : Nat) (f : Part → Part) : State :=
  { s with parts := s.parts.set pid (f (s.part pid)) }

/-- The core of a slot, the cluster of a slot and of a core, the die and the device of a cluster (R24). -/
def coreOf (k : Nat) : Nat := k / 16
def clusterOf (k : Nat) : Nat := k / 128
def clusterOfCore (c : Nat) : Nat := c / 8
def dieOf (ck : Nat) : Nat := ck / 40
def devOf (ck : Nat) : Nat := ck / 160
/-- The device of a slot and of a core. -/
def devOfSlot (k : Nat) : Nat := devOf (clusterOf k)
def devOfCore (c : Nat) : Nat := devOf (clusterOfCore c)

/-- The slot whose instruction runs. -/
def State.me (s : State) : Slot := s.slot s.cur
/-- Changes the slot whose instruction runs. -/
def State.modMe (s : State) (f : Slot → Slot) : State := s.modSlot s.cur f
/-- The core, cluster, die and device of the running instruction. -/
def State.myCore (s : State) : Nat := coreOf s.cur
def State.myCluster (s : State) : Nat := clusterOf s.cur
def State.myDie (s : State) : Nat := dieOf s.myCluster
def State.myDev (s : State) : Nat := devOf s.myCluster
/-- The pid that a cluster's router stamps (R299). -/
def State.pidOf (s : State) (ck : Nat) : Nat := (s.cluster ck).fwall.toNat % 65536
/-- The partition of the running instruction. -/
def State.myPid (s : State) : Nat := s.pidOf s.myCluster

/-- A device's number (R372). A number that no device has stands as device 512 + number. -/
def State.numOf (s : State) (d : Nat) : Nat := if 512 ≤ d then d % 512 else (s.dev d).devno.toNat % 512
/-- The device of a number: the device `d0` where it has it, otherwise the first listed one that has. -/
def State.keyOfNum (s : State) (d0 n : Nat) : Option Nat :=
  if s.numOf d0 = n then some d0 else (s.devs.find? (fun e => s.numOf e.1 == n)).map (·.1)

/-- The node that a thread works for: that of its work item, or that which placed it (R329, R332). -/
def Slot.node (t : Slot) : Option Placed := t.item.orElse fun _ => t.placed

/-- The slot name of a slot (R25). -/
def State.slotName (s : State) (k : Nat) : Word :=
  let i := clusterOf k % 160
  BitVec.ofNat 64 (s.numOf (devOfSlot k) * 2 ^ 31 + i / 40 * 2 ^ 29 + i % 40 * 2 ^ 23 + coreOf k % 8 * 2 ^ 20 +
    k % 16 * 2 ^ 16 + (s.slot k).gen.toNat)
/-- The slot a slot name names, apart from its generation; none for a cluster field above 39 (R25) or an unknown
device. -/
def State.slotOfName (s : State) (d0 : Nat) (w : Word) : Option Nat :=
  let n := w.toNat
  if 40 ≤ bits n 28 23 then none
  else (s.keyOfNum d0 (bits n 39 31)).map fun d =>
    (((d * 160 + bits n 30 29 * 40 + bits n 28 23) * 8 + bits n 22 20) * 16) + bits n 19 16
/-- The clusters of a partition (R323). -/
def State.clustersOf (s : State) (pid : Nat) : List Nat :=
  (s.clusters.map (·.1)).filter fun ck => s.pidOf ck == pid
/-- The cores of a partition. -/
def State.coresOf (s : State) (pid : Nat) : List Nat :=
  (s.clustersOf pid).flatMap fun ck => (List.range 8).map (ck * 8 + ·)
/-- The slots of a core. -/
def slotsOf (c : Nat) : List Nat := (List.range 16).map (c * 16 + ·)
/-- The cores of a cluster. -/
def coresIn (ck : Nat) : List Nat := (List.range 8).map (ck * 8 + ·)
/-- The devices on which a partition has clusters. -/
def State.devsOf (s : State) (pid : Nat) : List Nat := ((s.clustersOf pid).map devOf).eraseDups

/-! ### The model's own fields (log 4, log 5) -/

/-- Takes the next choice of the oracle; an empty oracle chooses 0. -/
def State.choose (s : State) : Nat × State :=
  match s.oracle with
  | [] => (0, s)
  | c :: cs => (c, { s with oracle := cs })
/-- Takes a fresh free value. -/
def State.free (s : State) : Word × State := (Config.freeValue s.fresh, { s with fresh := s.fresh + 1 })
/-- Takes a fresh number for a message or job. -/
def State.newId (s : State) : Nat × State := (s.nextId, { s with nextId := s.nextId + 1 })
/-- Sends a message (its number is the next one). -/
def State.send (s : State) (k : Nat) (kind : MsgKind) : State :=
  { s with net := s.net ++ [{ id := s.nextId, k := k, gen := (s.slot k).gen, pid := s.pidOf (clusterOf k), kind := kind }], nextId := s.nextId + 1 }
/-- Message `id`. -/
def State.msg (s : State) (id : Nat) : Option Msg := s.net.find? (·.id == id)
/-- Removes message `id`. -/
def State.drop (s : State) (id : Nat) : State := { s with net := s.net.filter (·.id != id) }

/-! ### Memory bytes at their homes -/

/-- The byte at an address. -/
def Memory.read : Memory → Nat → Byte
  | [], _ => Memory.unlisted
  | (a', b) :: m, a => if a' = a then b else Memory.read m a

/-- Puts a byte into the rising list. -/
def Memory.insert : Memory → Nat → Byte → Memory
  | [], a, b => [(a, b)]
  | (a', b') :: m, a, b =>
    if a < a' then (a, b) :: (a', b') :: m
    else if a = a' then (a, b) :: m
    else (a', b') :: Memory.insert m a b

/-- Takes an address out of the list. -/
def Memory.erase : Memory → Nat → Memory
  | [], _ => []
  | (a', b') :: m, a => if a' = a then m else (a', b') :: Memory.erase m a

/-- Writes a byte; the unlisted value takes the entry out. -/
def Memory.write (m : Memory) (a : Nat) (b : Byte) : Memory :=
  if b = Memory.unlisted then m.erase a else m.insert a b

/-- Writes a list of (address, byte) pairs in order. -/
def Memory.writeCells (m : Memory) : List Host.Cell → Memory
  | [] => m
  | (a, b) :: cs => (m.write a b).writeCells cs

/-- A number from bytes, least significant first (00: little-endian). -/
def ofBytes : List Byte → Nat
  | [] => 0
  | b :: bs => b.toNat + 256 * ofBytes bs

/-- The low `n` bytes of a number, least significant first. -/
def toBytes : Nat → Nat → List Byte
  | 0, _ => []
  | n + 1, x => BitVec.ofNat 8 x :: toBytes n (x / 256)

/-- Bytes as cells from an address on. -/
def cellsAt (a : Nat) : List Byte → List Host.Cell
  | [] => []
  | b :: bs => (a, b) :: cellsAt (a + 1) bs

/-- The address map of a device (R87), by device-local address. -/
def isDram (l : Nat) : Bool := l < 2 ^ 37
def isLocalWin (l : Nat) : Bool := 2 ^ 42 ≤ l && l < 2 ^ 42 + 160 * 2 ^ 21
def isWeightWin (l : Nat) : Bool := 2 ^ 43 ≤ l && l < 2 ^ 43 + 160 * 2 ^ 25
/-- The memory address of a device-local address. -/
def addrOf (dev l : Nat) : Nat := dev * 2 ^ 44 + l
/-- The device and the device-local part of a memory address. -/
def devOfAddr (a : Nat) : Nat := a / 2 ^ 44
def localOfAddr (a : Nat) : Nat := a % 2 ^ 44
/-- The address of a byte of a cluster's local memory, by its offset in blk layout (R88). -/
def lmAddr (ck off : Nat) : Nat := addrOf (devOf ck) (2 ^ 42 + ck % 160 * 2 ^ 21 + off % 2 ^ 21)
/-- The address of a byte of a slice's weight memory (R87). -/
def wmAddr (c off : Nat) : Nat :=
  addrOf (devOfCore c) (2 ^ 43 + clusterOfCore c % 160 * 2 ^ 25 + c % 8 * 2 ^ 22 + off)
/-- The cluster of a local memory window (R87). -/
def clusterOfWin (a : Nat) : Nat := devOfAddr a * 160 + (localOfAddr a - 2 ^ 42) / 2 ^ 21

/-- The home die of a line of a device (R325): the interleave in force for DRAM, the cluster's die for a window. -/
def State.homeDie (s : State) (a : Nat) : Nat :=
  let d := devOfAddr a
  let l := localOfAddr a
  if isDram l then
    let mv := ((s.dev d).milv[l / 2 ^ 33 % 16]'(by omega)).toNat
    let dies := (List.range 4).filter fun i => mv / 2 ^ i % 2 == 1
    let g := match bits mv 9 8 with
      | 0 => 12
      | 1 => 16
      | _ => 21
    d * 4 + dies.getD (l / 2 ^ g % dies.length) 0
  else if isLocalWin l then d * 4 + (l - 2 ^ 42) / 2 ^ 21 / 40
  else d * 4 + (l - 2 ^ 43) / 2 ^ 25 / 40

/-- The L2 slice of a line in its die, and its number in the span (R318). -/
def sliceOf (a : Nat) : Nat := ((bits a 27 12) ^^^ (bits a 43 28)) * 80 / 65536
def State.homeSlice (s : State) (a : Nat) : Nat := s.homeDie a * 80 + sliceOf a
/-- The colour of a frame (R318). -/
def colourOf (l : Nat) : Nat := bits l 21 16 ^^^ bits l 27 22 ^^^ bits l 33 28 ^^^ bits l 39 34

/-- The key serial of a key identifier on the device of an address (R381). -/
def State.serialOf (s : State) (key a : Nat) : Nat := (s.dev (devOfAddr a)).keys.get 0 key
/-- The L2 line of a line of DRAM under a serial other than the recorded one (R322). -/
def State.l2Find (s : State) (line ser : Nat) : Option L2Line := s.l2.find? fun l => l.line == line && l.ser == ser
/-- A byte of a line's data. -/
def lineByte (data : BitVec 512) (a : Nat) : Byte := BitVec.ofNat 8 (data.toNat / 2 ^ (8 * (a % 64)))
/-- Cells put into the data of a line. -/
def putLine (line : Nat) (data : BitVec 512) (cells : List Host.Cell) : BitVec 512 :=
  cells.foldl (fun d c =>
    if c.1 / 64 = line then
      (d &&& ~~~(BitVec.ofNat 512 (255 * 2 ^ (8 * (c.1 % 64))))) ||| BitVec.ofNat 512 (c.2.toNat * 2 ^ (8 * (c.1 % 64)))
    else d) data
/-- A byte read at its home under a key (R322, R381): the L2 line of that key; a DRAM line last written under another serial reads
as unrelated data. -/
def State.byteAt (s : State) (key a : Nat) : Byte :=
  if isDram (localOfAddr a) && s.serials.has (a / 64) && s.serials.get 0 (a / 64) != s.serialOf key a then
    match s.l2Find (a / 64) (s.serialOf key a) with
    | some l => lineByte l.data a
    | none => Config.wrongKeyByte (s.serials.get 0 (a / 64)) (s.serialOf key a) a
  else s.mem.read a

/-- `n` bytes read at their homes. -/
def State.bytesAt (s : State) (key a n : Nat) : List Byte := (List.range n).map fun i => s.byteAt key (a + i)
/-- `n` bytes read at their homes, as a number. -/
def State.numAt (s : State) (key a n : Nat) : Nat := ofBytes (s.bytesAt key a n)

/-- The bytes of local memory and weight memory, which no key encrypts. -/
def State.plainAt (s : State) (a n : Nat) : Nat := ofBytes ((List.range n).map fun i => s.mem.read (a + i))

/-- The lines that cells lie in. -/
def linesOf (cells : List Host.Cell) : List Nat := (cells.map (·.1 / 64)).eraseDups
/-- Writes the cells of one line under a key: a line of DRAM whose recorded serial is another one becomes a second L2 line
(R322, R381). -/
def State.writeLine (s : State) (key : Nat) (cells : List Host.Cell) (line : Nat) : State :=
  let mine := cells.filter (·.1 / 64 == line)
  let ser := s.serialOf key (line * 64)
  if !isDram (localOfAddr (line * 64)) then { s with mem := s.mem.writeCells mine }
  else if s.serials.has line && s.serials.get 0 line != ser then
    let old := match s.l2Find line ser with
      | some l => l.data
      | none => BitVec.ofNat 512 (s.numAt key (line * 64) 64)
    { s with l2 := { line := line, ser := ser, data := putLine line old mine } ::
        s.l2.filter fun l => !(l.line == line && l.ser == ser) }
  else { s with mem := s.mem.writeCells mine, serials := s.serials.set line ser }
/-- Writes cells under a key. -/
def State.writeUnder (s : State) (key : Nat) (cells : List Host.Cell) : State :=
  (linesOf cells).foldl (fun s l => s.writeLine key cells l) s
/-- Whether the key of a serial is active, so that L2 may hold lines under it (R322, R380). -/
def State.serialLive (s : State) (line ser : Nat) : Bool := (s.dev (devOfAddr (line * 64))).keys.any fun k => k.2 == ser
/-- What becomes of the second L2 lines on a clock, by the next choice for each: it reaches DRAM last, and the other line is gone;
it stays; or the other line, where its key is active, reaches DRAM last (R322). -/
def State.writeBacks (s : State) : State :=
  s.l2.foldl (fun s l =>
    let r := s.choose
    let gone := { r.2 with l2 := r.2.l2.filter (· != l) }
    if r.1 = 0 then
      { gone with mem := gone.mem.writeCells (cellsAt (l.line * 64) (toBytes 64 l.data.toNat)), serials := gone.serials.set l.line l.ser }
    else if r.1 = 1 ∨ !s.serialLive l.line (s.serials.get 0 l.line) then r.2 else gone) s

/-- Whether the 8-byte local word at an address is full (R94). -/
def State.wordFull (s : State) (a : Nat) : Bool := !(s.lmEmpty.contains (a / 8))
/-- Sets the full/empty bit of the local word at an address (R94). -/
def State.setWord (s : State) (a : Nat) (full : Bool) : State :=
  if full then { s with lmEmpty := s.lmEmpty.filter (· != a / 8) }
  else if s.lmEmpty.contains (a / 8) then s else { s with lmEmpty := a / 8 :: s.lmEmpty }
/-- The words that a store writes become full (R88, R94). -/
def State.setFull (s : State) : List Host.Cell → State
  | [] => s
  | (a, _) :: cs => State.setFull (s.setWord a true) cs

/-! ### Check values (R110, R111, R379) -/

/-- `n` bits of CRC-32C: the reflected polynomial, the least significant bit first (R379). -/
def crcBits : Nat → Nat → Nat
  | 0, c => c
  | n + 1, c => crcBits n (c / 2 ^^^ c % 2 * 0x82F63B78)
/-- CRC-32C of some bytes (R379). -/
def crc32c (bs : List Byte) : Nat := bs.foldl (fun c b => crcBits 8 (c ^^^ b.toNat)) 0xFFFFFFFF ^^^ 0xFFFFFFFF
/-- The check value that the bytes of a line have. -/
def State.checkOf (s : State) (line : Nat) : Nat := crc32c ((List.range 64).map fun i => s.mem.read (line * 64 + i))
/-- Whether the check value that travels with a line is not that of its bytes (R110). -/
def State.mismatch (s : State) (line : Nat) : Bool := s.checks.has line && s.checks.get 0 line != s.checkOf line
/-- Whether a line of DRAM was last written under another serial than that of a key: a read under the key gives unrelated data, with
no fault and no count (R381). -/
def State.unrelated (s : State) (key line : Nat) : Bool :=
  isDram (localOfAddr (line * 64)) && s.serials.has line && s.serials.get 0 line != s.serialOf key (line * 64)
/-- The cause that the consumer of a line under a key traps with: its poison's, or 0x17 where its check value fails (R111, R381,
R382). -/
def State.badLine (s : State) (key line : Nat) : Option Nat :=
  if s.unrelated key line then none
  else if s.poison.has line then some (s.poison.get 0 line) else if s.mismatch line then some 0x17 else none
/-- The lines of `n` bytes. -/
def linesIn (a n : Nat) : List Nat := (List.range ((a % 64 + n + 63) / 64)).map (a / 64 + ·)
/-- Whether a line of `n` bytes read under a key is poisoned or fails its verification, by the cause its consumer traps with (R111,
R382). -/
def State.poisonOf (s : State) (key a n : Nat) : Option Nat := (linesIn a n).findSome? (s.badLine key)
/-- A verification of a line read under a key: a mismatch poisons it and raises sys.intcnt by one (R111, R379, R381). -/
def State.verify (s : State) (key line : Nat) : State :=
  if !s.unrelated key line && s.mismatch line then
    let s := { s with poison := if s.poison.has line then s.poison else s.poison.set line 0x17, checks := s.checks.del line }
    s.modDev (devOfAddr (line * 64)) fun d => { d with intcnt := if d.intcnt = 0xFFFFFFFF then d.intcnt else d.intcnt + 1 }
  else s
/-- The verification of the lines of `n` bytes where they are consumed or filled (R110). -/
def State.verifyAll (s : State) (key a n : Nat) : State := (linesIn a n).foldl (fun s l => s.verify key l) s

/-! ### The notification networks (R255) -/

/-- The clock by which every notification now on the network of a core's die is delivered. -/
def State.quiet (s : State) (c : Nat) : Nat := (s.die (dieOf (clusterOfCore c))).notices.foldl (fun m n => max m n.due) 0
/-- What a reply with data read at a home waits for: its time is open, but it does not come before the invalidations that were
on their way when the data was read (R255, R395). -/
def State.replyWait (s : State) (c : Nat) : Wait := if s.clock ≤ s.quiet c then .after (s.quiet c) else .latency
/-- Sign extension of the low `8 n` bits of a number (R64). -/
def signExtend (n x : Nat) : Word :=
  if x % 2 ^ (8 * n) < 2 ^ (8 * n - 1) then BitVec.ofNat 64 (x % 2 ^ (8 * n))
  else BitVec.ofInt 64 ((x % 2 ^ (8 * n) : Nat) - (2 ^ (8 * n) : Nat))
/-- What a load of `n` bytes writes (R64). -/
def extend (signed : Bool) (n x : Nat) : Word :=
  if signed then signExtend n x else BitVec.ofNat 64 (x % 2 ^ (8 * n))

end Sys2Proof.Machine
end

