-- ==== Sys2Proof/Machine/Translate.lean ====
section
/-! DEFINITION. Translation in two stages (R297, R310-R316, R320), the TLBs, the held rights row (R101-R104) and the
grants an access is checked against (R105, R392). -/

namespace Sys2Proof.Machine

/-- What a translation step gives: a value, a fault with its cause, or a frozen leaf (R320). -/
inductive Tr (α : Type) where
  | ok (a : α)
  | fault (cause : Nat)
  | frozen
deriving Repr

/-- Continues a translation. -/
def Tr.bind {α β : Type} : Tr α → (α → Tr β) → Tr β
  | .ok a, f => f a
  | .fault c, _ => .fault c
  | .frozen, _ => .frozen

/-- Bit `n` of a number as a truth value. -/
def tb (x n : Nat) : Bool := x / 2 ^ n % 2 == 1

/-- A canonical address: bits [63:56] equal bit 56 (R86). -/
def canonical (va : Nat) : Bool := bits va 63 56 == (if tb va 56 then 255 else 0)

/-! ### Stage 2 -/

/-- A stage-2 leaf: frame, logarithm of the page size, class, key, and whether it is frozen. -/
structure S2 where
  frame : Nat
  szlog : Nat
  cls : Nat
  key : Nat
  fz : Bool
deriving DecidableEq, Repr

/-- Whether the colours of every 64 KiB part of a frame are in a mask (R313, R319). -/
def coloursOk (mask frame szlog : Nat) : Bool :=
  if szlog ≤ 16 then tb mask (colourOf frame)
  else if szlog ≤ 21 then (List.range 32).all fun i => tb mask (colourOf (frame + i * 65536))
  else mask % 2 ^ 64 == 2 ^ 64 - 1

/-- The entry of the partition directory of `pid` on a device (R314): root and colours. -/
def State.dirEntry (s : State) (dev pid : Nat) : Option (Nat × Nat) :=
  let a := addrOf dev ((s.dev dev).s2dir.toNat + pid * 16)
  let e := s.numAt 0 a 8
  if tb e 0 then some (bits e 43 14 * 2 ^ 14, s.numAt 0 (a + 8) 8) else none

/-- The tests of a stage-2 leaf (R313); `reqCls` is the class a request from another device carries. A frame larger than a local
memory window reaches into unbacked addresses (R87). -/
def State.leafOk (s : State) (dev pid colours : Nat) (reqCls : Option Nat) (l : S2) : Bool :=
  l.cls != 3 && (match reqCls with
    | some c => decide (l.cls ≤ c)
    | none => true) &&
  ((isDram l.frame && coloursOk colours l.frame l.szlog) ||
   (isLocalWin l.frame && decide (l.szlog ≤ 21) && decide (s.pidOf (clusterOfWin (addrOf dev l.frame)) = pid))) &&
  (s.dev dev).keys.has l.key

/-- The levels of a stage-2 walk: lowest address bit and index bits of each (R311). -/
def s2Levels : List (Nat × Nat) := [(33, 11), (29, 4), (21, 8), (16, 5)]

/-- The walk from a table on (R311-R313): entries of tables and leaves, their reserved bits and their alignment. A probe
goes through frozen leaves (R364). -/
def State.walk2 (s : State) (dev pid colours : Nat) (reqCls : Option Nat) (pa : Nat) (probe : Bool) :
    List (Nat × Nat) → Nat → Tr S2
  | [], _ => .fault 7
  | (lo, w) :: rest, table =>
    if table % (8 * 2 ^ w) != 0 then .fault 7
    else
      let e := s.numAt 0 (addrOf dev (table + 8 * (pa / 2 ^ lo % 2 ^ w))) 8
      if !tb e 0 || bits e 49 44 != 0 || tb e 5 then .fault 7
      else if tb e 1 then
        let l : S2 := { frame := bits e 43 16 * 2 ^ 16, szlog := lo, cls := bits e 3 2, key := bits e 63 50, fz := tb e 4 }
        if bits e 15 6 != 0 || l.frame % 2 ^ lo != 0 then .fault 7
        else if tb e 4 && !probe then .frozen
        else if s.leafOk dev pid colours reqCls l then .ok l else .fault 7
      else s.walk2 dev pid colours reqCls pa probe rest (bits e 43 6 * 64)

/-- Stage 2 of a device for a device-local partition address (R310, R314). -/
def State.stage2 (s : State) (dev pid : Nat) (reqCls : Option Nat) (pa : Nat) (probe : Bool := false) : Tr S2 :=
  match s.dirEntry dev pid with
  | none => .fault 7
  | some (root, colours) => s.walk2 dev pid colours reqCls (pa % 2 ^ 44) probe s2Levels root

/-- The memory address of a 53-bit partition address through stage 2 of the device it names, with its key (R297). -/
def State.partAddr (s : State) (dev pid : Nat) (p : Nat) (probe : Bool := false) : Tr (Nat × Nat) :=
  match s.keyOfNum dev (bits p 52 44) with
  | none => .fault 7
  | some d => (s.stage2 d pid none (p % 2 ^ 44) probe).bind fun l =>
      .ok (addrOf d (l.frame + p % 2 ^ l.szlog), l.key)

/-- Reads `n` bytes at a partition address. -/
def State.readPart (s : State) (dev pid p n : Nat) (probe : Bool := false) : Tr Nat :=
  (s.partAddr dev pid p probe).bind fun ak => .ok (s.numAt ak.2 ak.1 n)

/-! ### Stage 1 -/

/-- An address space descriptor (R297). -/
structure Asd where
  s1root : Nat
  rmat : Nat
  gtab : Nat
deriving DecidableEq, Repr

/-- The descriptor of an ASID at a core's sys.astab; one that is not valid faults with cause 0x06 (R297). -/
def State.asd (s : State) (c asid : Nat) (probe : Bool := false) : Tr Asd :=
  let ck := clusterOfCore c
  let base := (s.core c).astab.toNat + asid * 64
  let rd := fun o => s.readPart (devOf ck) (s.pidOf ck) (base + o) 8 probe
  (rd 24).bind fun v => if !tb v 0 then .fault 6 else
    (rd 0).bind fun a => (rd 8).bind fun b => (rd 16).bind fun g => .ok { s1root := a, rmat := b, gtab := g }

/-- A stage-1 leaf: partition address of the frame, page size, domain, fetch, gate, frozen. -/
structure S1 where
  frame : Nat
  szlog : Nat
  dom : Nat
  x : Bool
  gate : Bool
  fz : Bool
deriving DecidableEq, Repr

/-- The levels of a stage-1 walk (R311). -/
def s1Levels : List (Nat × Nat) := [(45, 12), (33, 12), (29, 4), (21, 8), (16, 5)]

/-- The walk from a table on (R311-R313); each table is read through stage 2. -/
def State.walk1 (s : State) (dev pid va : Nat) (probe : Bool) : List (Nat × Nat) → Nat → Tr S1
  | [], _ => .fault 6
  | (lo, w) :: rest, table =>
    if table % (8 * 2 ^ w) != 0 then .fault 6
    else (s.readPart dev pid (table + 8 * (va / 2 ^ lo % 2 ^ w)) 8 probe).bind fun e =>
      if !tb e 0 || bits e 55 53 != 0 || tb e 5 then .fault 6
      else if tb e 1 then
        if lo == 45 || bits e 15 6 != 0 || bits e 52 16 * 2 ^ 16 % 2 ^ lo != 0 then .fault 6
        else if tb e 4 && !probe then .frozen
        else .ok { frame := bits e 52 16 * 2 ^ 16, szlog := lo, dom := bits e 63 56, x := tb e 3, gate := tb e 2, fz := tb e 4 }
      else s.walk1 dev pid va probe rest (bits e 52 6 * 64)

/-- Stage 1 for a virtual address under an ASID of a core (R310). -/
def State.stage1 (s : State) (c asid va : Nat) (probe : Bool := false) : Tr S1 :=
  let ck := clusterOfCore c
  (s.asd c asid probe).bind fun d => s.walk1 (devOf ck) (s.pidOf ck) va probe s1Levels (bits d.s1root 52 15 * 2 ^ 15)

/-! ### Combined translations and the TLBs (R316) -/

/-- The combined translation that both walks give. -/
def State.combine (s : State) (c asid va : Nat) (l : S1) : Tr TlbEnt :=
  let ck := clusterOfCore c
  let pid := s.pidOf ck
  let part := l.frame + va % 2 ^ l.szlog
  match s.keyOfNum (devOf ck) (bits part 52 44) with
  | none =>
    .ok { pid := pid, asid := asid, vbase := va / 2 ^ l.szlog * 2 ^ l.szlog, szlog := l.szlog, dev := 512 + bits part 52 44,
          remote := true,
          base := l.frame, part := l.frame, dom := BitVec.ofNat 8 l.dom, x := l.x, gate := l.gate, cls := 0, key := 0 }
  | some d =>
    if d = devOf ck then
      (s.stage2 d pid none part).bind fun l2 =>
        let z := min l.szlog l2.szlog
        .ok { pid := pid, asid := asid, vbase := va / 2 ^ z * 2 ^ z, szlog := z, dev := d, remote := false,
              base := l2.frame + part % 2 ^ l2.szlog / 2 ^ z * 2 ^ z, part := part / 2 ^ z * 2 ^ z,
              dom := BitVec.ofNat 8 l.dom, x := l.x, gate := l.gate, cls := BitVec.ofNat 2 l2.cls, key := l2.key }
    else
      .ok { pid := pid, asid := asid, vbase := va / 2 ^ l.szlog * 2 ^ l.szlog, szlog := l.szlog, dev := d, remote := true,
            base := l.frame, part := l.frame, dom := BitVec.ofNat 8 l.dom, x := l.x, gate := l.gate, cls := 0, key := 0 }

/-- Whether an entry translates an address. -/
def TlbEnt.covers (e : TlbEnt) (pid asid va : Nat) : Bool :=
  e.pid == pid && e.asid == asid && va / 2 ^ e.szlog * 2 ^ e.szlog == e.vbase

/-- The entry of the boundary TLB, or else of the last-level TLB. -/
def State.tlbFind (s : State) (c asid va : Nat) : Option TlbEnt :=
  let ck := clusterOfCore c
  let hit := fun (l : List TlbEnt) => l.find? (·.covers (s.pidOf ck) asid va)
  (hit (s.cluster ck).tlb).orElse fun _ => hit (s.die (dieOf ck)).tlb

/-- Enters a translation into both TLBs; beyond 64 and 2,048 entries the oldest goes (log 7). -/
def State.tlbAdd (s : State) (c : Nat) (e : TlbEnt) : State :=
  let ck := clusterOfCore c
  let put := fun (n : Nat) (l : List TlbEnt) => (e :: l.filter (· != e)).take n
  (s.modCluster ck fun x => { x with tlb := put 64 x.tlb }).modDie (dieOf ck) fun x => { x with tlb := put 2048 x.tlb }

/-- Stage 1 alone, from a TLB or by a walk: what the row is checked with before stage 2 (R105). -/
def State.pageOf (s : State) (c asid va : Nat) : Tr (TlbEnt ⊕ S1) :=
  match s.tlbFind c asid va with
  | some e => .ok (.inl e)
  | none => (s.stage1 c asid va).bind fun l => .ok (.inr l)

/-- The translation of an address with the state that holds it in the TLBs. -/
def State.translate (s : State) (c asid va : Nat) : Tr (TlbEnt × State) :=
  if !canonical va then .fault 6
  else match s.tlbFind c asid va with
    | some e => .ok (e, s.tlbAdd c e)
    | none => (s.stage1 c asid va).bind fun l => (s.combine c asid va l).bind fun e => .ok (e, s.tlbAdd c e)

/-- The memory address of a byte of a page on the thread's own device, or the partition address on another. -/
def TlbEnt.pa (e : TlbEnt) (va : Nat) : Nat :=
  if e.remote then e.base + va % 2 ^ e.szlog else addrOf e.dev (e.base + va % 2 ^ e.szlog)

/-- The local form of a translation: a page of another device under that device's stage 2 (R310, R313), which tests the class of
the request. -/
def State.resolve (s : State) (e : TlbEnt) (va : Nat) (cls : Option Nat) : Tr TlbEnt :=
  if !e.remote then .ok e
  else if 512 ≤ e.dev then .fault 0x18
  else (s.stage2 e.dev e.pid cls (e.pa va % 2 ^ 44)).bind fun l =>
    .ok { e with remote := false, base := l.frame + e.pa va % 2 ^ l.szlog - va % 2 ^ min e.szlog l.szlog,
                 szlog := min e.szlog l.szlog, cls := BitVec.ofNat 2 l.cls, key := l.key }
/-- The translation of a page that the device itself reads or writes, on whatever device it lies (R310, R338). -/
def State.dataPage (s : State) (c asid va : Nat) : Tr (TlbEnt × State) :=
  (s.translate c asid va).bind fun es => (s.resolve es.1 va none).bind fun e => .ok (e, es.2)

/-! ### Routes (R375, R376) -/

/-- The entry of a device's route table for another device. -/
def State.routeEntry (s : State) (d0 d : Nat) : Nat := s.numAt 0 (addrOf d0 ((s.dev d0).frtab.toNat + 4 * s.numOf d)) 4
/-- Whether a device has a route to another: a valid entry that names a link in state 2 (R375). -/
def State.routeUp (s : State) (d0 d : Nat) : Bool :=
  d0 == d || (decide (d < 512) && tb (s.routeEntry d0 d) 16 &&
    (List.finRange 16).any fun i => tb (s.routeEntry d0 d) i.val && ((s.dev d0).flink[i]).toNat % 8 == 2)
/-- The link on which a packet of a slot's leaves a device for another (R376). -/
def State.pathFrom (s : State) (d0 dst k : Nat) : Option Nat :=
  let ls := (List.range 16).filter fun i => tb (s.routeEntry d0 dst) i
  ls[(coreOf k % 8 * 16 + k % 16) % ls.length]?
/-- The link that a packet of a slot to a device takes. -/
def State.pathOf (s : State) (k dst : Nat) : Option Nat := s.pathFrom (devOfSlot k) dst k
/-- The links of a request of a slot to a device and of its reply, with the fault address of their loss (R374, R376); none on the own
device. -/
def State.viaOf (s : State) (k dst : Nat) (va : Word) : List (Nat × Nat × Word) :=
  let d := devOfSlot k
  if dst = d then []
  else ((s.pathOf k dst).map fun i => (d, i, va)).toList ++ ((s.pathFrom dst d k).map fun i => (dst, i, va)).toList

/-! ### Moved frames (R320) -/

/-- The size in bytes, as a power of two, of a frame of the moved-frame set (R320). -/
def movedLog (size : Nat) : Nat := match size with
  | 0 => 16
  | 1 => 21
  | 2 => 29
  | _ => 33
/-- Whether the frame of an address is answered "moved" to a partition (R320). -/
def State.isMoved (s : State) (pid a : Nat) : Bool :=
  pid != 0 && (s.dev (devOfAddr a)).moved.any fun m => localOfAddr a / 2 ^ movedLog m.size * 2 ^ movedLog m.size == m.frame

/-! ### The row (R101-R104) -/

/-- The code of a row for a domain (R297). -/
def Row.code (r : Row) (dom : BitVec 8) : Nat := bits r.codes.toNat (2 * dom.toNat + 1) (2 * dom.toNat)

/-- The row of a domain read from the matrix in memory; a stage-2 fault is the instruction's, with cause 0x07 (R297). -/
def State.readRow (s : State) (c asid dom : Nat) : Tr Row :=
  let ck := clusterOfCore c
  (s.asd c asid).bind fun d =>
    (s.readPart (devOf ck) (s.pidOf ck) (d.rmat + 64 * dom) 64).bind fun x =>
      .ok { asid := asid, dom := dom, codes := BitVec.ofNat 512 x }

/-- The row a slot holds, reloaded where it holds none for its domain and address space (R104, R366). -/
def State.rowOf (s : State) (k : Nat) : Tr (Row × State) :=
  let t := s.slot k
  match t.row with
  | some r =>
    if r.asid = t.asid.toNat ∧ r.dom = t.dom.toNat then .ok (r, s)
    else (s.readRow (coreOf k) t.asid.toNat t.dom.toNat).bind fun r' =>
      .ok (r', s.modSlot k fun x => { x with row := some r' })
  | none => (s.readRow (coreOf k) t.asid.toNat t.dom.toNat).bind fun r' =>
      .ok (r', s.modSlot k fun x => { x with row := some r' })

/-- A held row that stands for none: the row is read at its next use (R104). -/
def Row.unloaded : Row := { asid := 65536, dom := 0, codes := 0 }
/-- The reload of a slot's row for the domain it is in (R104); a row whose reading fails is read again at its next use, whose
instruction then traps (R297). -/
def State.reloadRow (s : State) (k : Nat) : State :=
  let t := s.slot k
  let row := match s.readRow (coreOf k) t.asid.toNat t.dom.toNat with
    | .ok r => r
    | _ => Row.unloaded
  s.modSlot k fun t => { t with row := some row }

/-! ### Grant entries (R240, R392) -/

/-- The fields of a grant table entry (R240). -/
structure Grant where
  base : Nat
  len : Nat
  rw : Bool
  val : Bool
  rvk : Bool
  ret : Bool
  gen : Nat
  use : Nat
deriving DecidableEq, Repr

/-- Reads an entry from its 256 bits. -/
def Grant.ofRaw (x : Nat) : Grant :=
  { base := bits x 63 0, len := bits x 103 64 + 1, rw := tb x 104, val := tb x 105, rvk := tb x 106, ret := tb x 107,
    gen := bits x 147 128, use := bits x 191 160 }
/-- The 256 bits of an entry. -/
def Grant.toRaw (g : Grant) : Nat :=
  g.base % 2 ^ 64 + (g.len - 1) % 2 ^ 40 * 2 ^ 64 + g.rw.toNat * 2 ^ 104 + g.val.toNat * 2 ^ 105 + g.rvk.toNat * 2 ^ 106 +
    g.ret.toNat * 2 ^ 107 + g.gen % 2 ^ 20 * 2 ^ 128 + g.use % 2 ^ 32 * 2 ^ 160

/-- The memory address and key of entry `i` of an address space's table (R297). -/
def State.grantAddr (s : State) (c asid i : Nat) : Tr (Nat × Nat) :=
  let ck := clusterOfCore c
  (s.asd c asid).bind fun d => s.partAddr (devOf ck) (s.pidOf ck) (d.gtab + 32 * i)

/-- The copy a core holds of the entry at an address, moved to the front. -/
def State.grantCopy (s : State) (c pa : Nat) : Option Grant :=
  ((s.core c).grants.find? (·.pa == pa)).map fun g => Grant.ofRaw g.raw.toNat
/-- Takes a copy of an entry; of 16 copies the one used longest ago is dropped (R392). -/
def State.takeCopy (s : State) (c pa : Nat) (raw : Nat) : State :=
  s.modCore c fun x =>
    { x with grants := ({ pa := pa, raw := BitVec.ofNat 256 raw } :: x.grants.filter (·.pa != pa)).take 16 }
/-- Writes an entry at its home. -/
def State.putGrant (s : State) (key pa : Nat) (g : Grant) : State :=
  s.writeUnder key (cellsAt pa (toBytes 32 g.toRaw))
/-- The index and the generation of a grant reference (R48). -/
def refIndex (t : BitVec 32) : Nat := t.toNat / 2 ^ 20
def refGen (t : BitVec 32) : Nat := t.toNat % 2 ^ 20

end Sys2Proof.Machine
end

