-- ==== Sys2Proof/Machine/Ops.lean ====
section
/-! DEFINITION. The shared operations: registers, guards and parks, writes at a home, the end of a region, taking a trap
and returning from one. -/

namespace Sys2Proof.Machine

/-! ### Registers (R48-R50) -/

/-- The g registers that an instruction reads: those it found when it first issued, where it has parked since (R22). -/
def Slot.regs (t : Slot) : Vector GReg 32 := t.src.getD t.g
/-- The value of a g register; g0 reads zero. -/
def Slot.rd (t : Slot) (r : Fin 32) : Word := if r = 0 then 0 else t.regs[r].val
/-- Whether a g register is full; g0 always is. -/
def Slot.full (t : Slot) (r : Fin 32) : Bool := r == 0 || t.regs[r].full
/-- The grant tag of a g register; g0 has none. -/
def Slot.tagOf (t : Slot) (r : Fin 32) : Option (BitVec 32) := if r = 0 then none else t.regs[r].tag
/-- Replaces a g register; a write to g0 is discarded. -/
def Slot.setReg (t : Slot) (r : Fin 32) (x : GReg) : Slot :=
  if r = 0 then t else { t with g := t.g.set r x, wrote := t.wrote ||| (1#32 <<< r.val) }
/-- Writes a g register: full and untagged (R131). -/
def Slot.wr (t : Slot) (r : Fin 32) (x : Word) : Slot := t.setReg r (GReg.of x)
/-- Writes a g register with a tag (R241, R242). -/
def Slot.wrTag (t : Slot) (r : Fin 32) (x : Word) (tag : Option (BitVec 32)) : Slot :=
  t.setReg r { val := x, full := true, tag := tag }
/-- A predicate; p0 reads 1. -/
def Slot.rdP (t : Slot) (r : Fin 8) : Bool := r == 0 || t.p[r]
/-- Writes a predicate; p0 discards. -/
def Slot.wrP (t : Slot) (r : Fin 8) (b : Bool) : Slot := if r = 0 then t else { t with p := t.p.set r b }
/-- A lane mask; m0 reads all ones. -/
def Slot.rdM (t : Slot) (r : Fin 8) : BitVec 32 := if r = 0 then 0xFFFFFFFF else t.m[r]
/-- Writes a lane mask; m0 discards. -/
def Slot.wrM (t : Slot) (r : Fin 8) (x : BitVec 32) : Slot := if r = 0 then t else { t with m := t.m.set r x }
/-- A vector register. -/
def Slot.rdV (t : Slot) (r : Fin 16) : BitVec 1024 := t.v[r]
/-- Writes a vector register. -/
def Slot.wrV (t : Slot) (r : Fin 16) (x : BitVec 1024) : Slot := { t with v := t.v.set r x }

/-- The park cause that the status word shows: that of the park, or the one a stop found (R55, R56). -/
def Slot.parkCause (t : Slot) : Nat :=
  match t.park with
  | some p => p.cause % 16
  | none => if t.stopped then t.pcause % 16 else 0
/-- The thread status word (R55). -/
def Slot.tsw (t : Slot) : Word :=
  BitVec.ofNat 64 (t.gen.toNat * 2 ^ 48 + t.dom.toNat * 2 ^ 40 + t.cls.toNat * 2 ^ 38 + t.parkCause * 2 ^ 28 + t.streak * 2 ^ 21 +
    (match t.region with
      | some r => if r.serial then 2 else 1
      | none => 0) * 2 ^ 19 + (if t.recs.isEmpty then 0 else 1) * 2 ^ 18 + t.arrv.toNat * 2 ^ 17 + t.sstep.toNat * 2 ^ 16 +
    t.drs.length * 2 ^ 12)
/-- The status word as the thread itself reads it: one that issues is not parked (R56). -/
def Slot.ownTsw (t : Slot) : Word := { t with park := none, stopped := false }.tsw

/-- Whether the guard of an instruction holds (R9, R20). -/
def Slot.guard (t : Slot) (p : Pfx) : Bool :=
  match p.guard with
  | none => true
  | some (neg, r) => t.rdP r != neg

/-- The words of a chain on page 0, and on another page. -/
def nw0 (p : Pfx) : Nat := (if p.hint.isSome then 1 else 0) + (if p.xr then 1 else 0) + p.xi.val + 1
def nwX (p : Pfx) : Nat := nw0 p + 1

/-! ### Parks (R22, R30-R32) -/

/-- Whether a wait is for a frozen leaf. -/
def Wait.isFrozen : Wait → Bool
  | .frozen _ => true
  | _ => false
/-- The registers that an instruction goes on with after a park: as it found them, but for one that waits for a full register (R22,
R33). -/
def Slot.keeps (t : Slot) (cause : Nat) : Rest → Option (Vector GReg 32)
  | .reissue | .again => if cause = 2 then none else some t.regs
  | _ => none
/-- Parks a thread; a park at a frozen leaf that is reread counts from its start (R320). -/
def State.parkAt (s : State) (k : Nat) (cause : Nat) (w : Wait) (rest : Rest) (nw : Nat) (exempt : Bool) : State :=
  s.modSlot k fun t =>
    let since := match t.park with
      | some p => if p.wait.isFrozen && w.isFrozen then p.since else s.clock
      | none => s.clock
    { t with src := t.keeps cause rest,
             park := some { cause := cause, since := since, wait := w, nw := nw, rest := rest, arrived := false,
                            exempt := exempt, via := [] } }
/-- Parks the running thread; its instruction will issue again. -/
def State.parkRe (s : State) (cause : Nat) (w : Wait) (nw : Nat) : State :=
  s.parkAt s.cur cause w .reissue nw (cause == 6 || cause == 11)
/-- Parks the running thread for a memory reply with what the reply will write. -/
def State.parkFin (s : State) (cause : Nat) (w : Wait) (ws : List Wr) (nw : Nat) : State :=
  s.parkAt s.cur cause w (.finish ws) nw false
/-- Goes on when every source is full, and parks on the first that is empty (R131). -/
def withFull (s : State) (rs : List (Fin 32)) (nw : Nat) (f : State → State) : State :=
  match rs.find? fun r => !s.me.full r with
  | some r => s.parkRe 2 (.reg r) nw
  | none => f s

/-! ### L1 copies and writes at a home (R95, R96, R254-R257) -/

/-- The core whose L1 holds a virtual line: the thread's own, or the line's home core of a fused cluster (R96). -/
def State.l1Home (s : State) (c va : Nat) : Nat :=
  if (s.cluster (clusterOfCore c)).fused then clusterOfCore c * 8 + va / 128 % 8 else c
/-- Whether two cores see one L1: the same core, or one fused cluster (R252). -/
def State.sameL1 (s : State) (c1 c2 : Nat) : Bool :=
  c1 == c2 || (clusterOfCore c1 == clusterOfCore c2 && (s.cluster (clusterOfCore c1)).fused)
/-- Drops every copy of a line that the cores selected hold. -/
def State.dropLine (s : State) (line : Nat) (sel : Nat → Bool) : State :=
  { s with cores := s.cores.map fun e => if sel e.1 then (e.1, { e.2 with l1 := e.2.l1.filter (·.pline != line) }) else e }
/-- Sends an invalidation on a die's network: it is delivered 24 clocks after the clock that is over (R255). -/
def State.notify (s : State) (die line writer : Nat) : State :=
  s.modDie die fun x => { x with notices := x.notices ++ [.inval (s.clock + 23) line writer] }
/-- An event that wakes a core from retention sleep (R47). -/
def State.rouse (s : State) (c : Nat) : State :=
  if (s.core c).asleep && !s.agenda.contains (.sleepWake c) then { s with agenda := s.agenda ++ [.sleepWake c] } else s
/-- Marks the reservations on a line written (R168); the core of one that sleeps wakes (R47). -/
def State.markResv (s : State) (line : Nat) : State :=
  let s := s.slots.foldl (fun s e => if e.2.resv.any (·.line == line) then s.rouse (coreOf e.1) else s) s
  { s with slots := s.slots.map fun e =>
      (e.1, { e.2 with resv := e.2.resv.map fun r => if r.line = line then { r with written := true } else r }) }
/-- The slot whose open region has a number. -/
def State.regionSlot (s : State) (rid : Nat) : Option Nat :=
  (s.slots.find? fun e => (e.2.region.map (·.id)) == some rid).map (·.1)
/-- Sends a narrowing to the core of an open region: lo at least `lo`, hi at most `hi`; `causer` is the
region whose access caused it (R180, R182). -/
def State.narrowTo (s : State) (rid lo hi causer : Nat) : State :=
  match s.regionSlot rid with
  | some k => s.modCore (coreOf k) fun c => { c with narrow := c.narrow ++ [(rid, lo, hi, causer)] }
  | none => s
/-- Empties the interval of every open region of the home die that has read a line (R181): its core is told. -/
def State.hitReaders (s : State) (line : Nat) : State :=
  match (s.die (s.homeDie (line * 64))).lines.find? (·.line == line) with
  | none => s
  | some r => r.readers.foldl (fun s rid => s.narrowTo rid 1 0 rid) s
/-- Whether an ordinary write to a line is held: for an open serial region that has read it (R184), or for a region that
has read it and whose final position is on its way, so that what it read is current at the broadcast (R270). -/
def State.heldBySerial (s : State) (line : Nat) : Bool :=
  ((s.die (s.homeDie (line * 64))).notices.any fun n => match n with
    | .final _ _ _ _ _ _ _ _ rl => rl.contains line
    | .inval .. => false) ||
  match (s.die (s.homeDie (line * 64))).lines.find? (·.line == line) with
  | none => false
  | some r => r.readers.any fun rid => match s.regionSlot rid with
    | some k => ((s.slot k).region.map (·.serial)).getD false
    | none => false

/-- Whether cells hold every byte of a line. -/
def wholeLine (cells : List Host.Cell) (line : Nat) : Bool := (cells.filter (·.1 / 64 == line)).length == 64
/-- The verification of the old bytes of a line before a part of it is written (R110, R111). -/
def State.merge (s : State) (key : Nat) (cells : List Host.Cell) (line : Nat) : State :=
  if wholeLine cells line then s else s.verify key line
/-- What a write to one line does beside changing its bytes: poison, its new check value, reservations, tags, regions, the
invalidation (R110, R111, R168, R181, R255, R263). -/
def State.lineWritten (s : State) (cells : List Host.Cell) (writer : Nat) (tag : Option RelTag) (line : Nat) : State :=
  let s := { s with poison := if wholeLine cells line then s.poison.del line else s.poison,
                    checks := s.checks.del line,
                    tags := match tag with
                      | some t => s.tags.set line t
                      | none => s.tags.del line }
  let s := (s.markResv line).hitReaders line
  if isLocalWin (localOfAddr (line * 64)) then s else s.notify (s.homeDie (line * 64)) line writer

/-- A write of cells performed at their home, by a writer (a slot; a core's first slot stands for the core), under a key, with a
release tag or none; a store, not an atomic, sets the local words that it writes full (R88). -/
def State.homeWrite (s : State) (key : Nat) (cells : List Host.Cell) (writer : Nat) (tag : Option RelTag) (full : Bool := true) :
    State :=
  let s := ((linesOf cells).foldl (fun s l => s.merge key cells l) s).writeUnder key cells
  let s := if full then s.setFull (cells.filter fun c => isLocalWin (localOfAddr c.1)) else s
  (linesOf cells).foldl (fun s l => s.lineWritten cells writer tag l) s

/-- Puts cells into the data of an L1 line. -/
def L1Line.put (l : L1Line) (cells : List Host.Cell) : L1Line := { l with data := putLine l.pline l.data cells }
/-- Updates the copies that a core's L1 holds of the lines a store writes (R253). -/
def State.updateL1 (s : State) (c : Nat) (cells : List Host.Cell) : State :=
  { s with cores := s.cores.map fun e =>
      if s.sameL1 e.1 c then (e.1, { e.2 with l1 := e.2.l1.map (·.put cells) }) else e }

/-! ### The end of a region, and of a thread -/

/-- Takes a region out of its die's records (R183): readers, writers, edges, carried bounds, its messages. -/
def State.leaveDie (s : State) (die rid : Nat) : State :=
  let s := { s with net := s.net.filter fun m => match m.kind with
    | .region r .. => r != rid
    | _ => true }
  s.modDie die fun d =>
    { d with lines := d.lines.map fun l => { l with readers := l.readers.filter (· != rid),
                                                    writers := l.writers.filter (· != rid) },
             edges := d.edges.filter fun e => e.r1 != rid && e.r2 != rid,
             carried := d.carried.filter (·.rid != rid) }
/-- Releases what a thread holds or has asked for in its die: the serial token, a broadcast turn (R182-R184). -/
def State.leaveTurns (s : State) (k : Nat) : State :=
  s.modDie (dieOf (clusterOf k)) fun d =>
    { d with token := if d.token = some k then none else d.token, tokenQ := d.tokenQ.filter (· != k),
             turnQ := d.turnQ.filter (· != k), turnOf := if d.turnOf = some k then none else d.turnOf }

/-- The clock the first instruction of a domain may issue on, after the 8 clocks of the row's reload (R104, R144). -/
def State.reloadEnd (s : State) (k : Nat) : Nat :=
  max (max s.clock (s.slot k).readyAt) (((s.slot k).issued.map (· + 8)).getD 0) + 8
/-- A slot enters a page: the page's domain and class, and the row reloaded where the domain, or `cross`, says so (R101, R104,
R144). -/
def State.enterPage (s : State) (k : Nat) (dom : BitVec 8) (cls : BitVec 2) (cross : Bool) : State :=
  if cross || dom != (s.slot k).dom then
    ((s.modSlot k fun t => { t with dom := dom, cls := cls, readyAt := s.reloadEnd k })).reloadRow k
  else s.modSlot k fun t => { t with cls := cls }

/-- Aborts the open region of a slot with a code (R183). -/
def State.abort (s : State) (k code : Nat) : State :=
  match (s.slot k).region with
  | none => s
  | some r =>
    let s := (s.leaveDie (dieOf (clusterOf k)) r.id).leaveTurns k
    let s := s.modSlot k fun t =>
      let t := { t with g := r.g, src := none, p := r.p, drs := r.drs, region := none, pc := r.h, park := none, readyAt := max t.readyAt s.clock,
                        streak := if code = 1 then min 4 (t.streak + 1) else t.streak }
      t.wr r.gd (BitVec.ofNat 64 code)
    s.enterPage k r.dom r.cls false

/-- Ends an instance with a status at a node (R333): its last step will write the completion word. -/
def State.endInst (s : State) (pid inst node status : Nat) : State :=
  let p := s.part pid
  if p.insts.has inst then
    let i := p.insts.get Inst.blank inst
    if i.ended || i.status.isSome then s
    else { s.modPart pid fun p => { p with insts := p.insts.set inst { i with status := some (status, node) } } with
           agenda := s.agenda ++ [.instanceComplete pid inst] }
  else s

/-! ### Array slices and the end of a gang -/

/-- Changes the slice of a core. -/
def State.modSlice (s : State) (c : Nat) (f : Slice → Slice) : State := s.modCore c fun x => { x with slice := f x.slice }
/-- The slice of a core. -/
def State.slice (s : State) (c : Nat) : Slice := (s.core c).slice

/-- Whether every accepted instruction of a slice has completed. -/
def Slice.idle (x : Slice) : Bool :=
  x.accQ.isEmpty && x.accRun.isNone && x.ldQ.isEmpty && x.ldRun.isNone && x.drains.isEmpty && x.tmm.isNone
/-- Whether the slices of a cluster are idle. -/
def State.slicesIdle (s : State) (ck : Nat) : Bool := (coresIn ck).all fun c => (s.slice c).idle

/-- A broken gang closes once the slice of the member that left has completed its accepted work (R214). -/
def State.closeGang (s : State) (ck : Nat) : State :=
  s.modCluster ck fun x => match x.gang.bind (·.broken) with
    | some c => if (s.slice c).idle then { x with gang := none, stall := none, late := false } else x
    | none => x
/-- Whether a wait is that of an array instruction of a gang's member. -/
def Wait.inGang : Wait → Bool
  | .gangEnd | .fifo _ | .stall | .rowsIn _ => true
  | _ => false
/-- Discards the TMM that waits in a core's slice; a recorded one ends its sequence, which owes the trap (R214, R227). -/
def Core.dropTmm (x : Core) (cause : Nat) (addr : Word) : Core :=
  { x with slice := { x.slice with tmm := none },
           dif := if (x.slice.tmm.map (·.dif)) = some true then
             { x.dif with run := none, trap := some (cause, addr, (x.dif.run.map (·.nw)).getD 1) } else x.dif }
/-- A member of a gang has gone: the pending array instructions of the others trap with cause 0x0C, and the gang closes when
its work is done (R214). -/
def State.breakGang (s : State) (k : Nat) : State :=
  let ck := clusterOf k
  match (s.cluster ck).gang with
  | none => s
  | some g =>
    if g.broken.isSome || !g.members.any fun m => m.2 == k then s
    else
      let s := s.modCluster ck fun x => { x with gang := some { g with broken := some (coreOf k) } }
      let s := (coresIn ck).foldl (fun s c => s.modCore c fun x => x.dropTmm 0x0C 0) s
      let s := g.members.foldl (fun s m => match (s.slot m.2).park with
        | some p => if m.2 != k && !p.arrived && p.wait.inGang then
            (s.modSlot m.2 fun t => { t with park := some { p with rest := .fault 0x0C 0, arrived := true },
                                             readyAt := max t.readyAt s.clock }).rouse (coreOf m.2)
          else s
        | none => s) s
      s.closeGang ck

/-- Where the node of a thread stands, if its partition is recoverable and it has not committed (R385). -/
def State.uncommitted (s : State) (k : Nat) : Option Placed :=
  (s.slot k).placed.filter fun p => (s.part p.pid).recoverable &&
    match ((s.part p.pid).insts.get Inst.blank p.inst).nodes[p.node]? with
    | some (.running ..) => true
    | _ => false
/-- The uncommitted node that holds back what a thread directs to an address: one on a device outside the partition (R385). -/
def State.heldNode (s : State) (k a : Nat) : Option Placed :=
  (s.uncommitted k).filter fun p => !(s.devsOf p.pid).contains (devOfAddr a)
/-- Holds an effect of a node, in the order of issue (R385). -/
def State.holdFx (s : State) (p : Placed) (id : Nat) (fx : Fx) : State :=
  let before := fun (h : HeldFx) => decide (h.id ≤ id)
  s.modPart p.pid fun q => { q with heldFx := q.heldFx.takeWhile before ++
    { inst := p.inst, node := p.node, id := id, fx := fx, sent := false } :: q.heldFx.dropWhile before }

/-- Vacates a slot (R62) and advances its generation (R36). Values of emptied registers stay unread. Its bindings are broken, and
the elements in their queues go (R99, log 4). eb.lo and eb.hi keep their values for the slot's next thread (R62), though R54 says that
they are 0 when a thread is first placed (log 42: DESIGN CHOICE). The fills held for a handler that EXITs go with it, and their senders are
not answered (log 48: DESIGN CHOICE; R342 tells them only of a kill). -/
def State.vacate (s : State) (k : Nat) : State :=
  let t := s.slot k
  let c := coreOf k
  let ck := clusterOf k
  let ends := ((s.cluster ck).jobs.filter fun e => !e.2.done && e.2.k == k && e.2.gen == t.gen && e.2.q.isSome).map
    fun e => Event.jobEndEarly ck e.1 0x10
  let s := (match t.region with
    | some r => s.leaveDie (dieOf ck) r.id
    | none => s).leaveTurns k
  let s := s.modSlot k fun t =>
    { t with occ := false, gen := t.gen + 1, seq := 0, lastF := 0, g := t.g.map fun r => { r with full := false, tag := none }, drs := [],
             k := KRegs.reset, streak := 0, arrv := false, sstep := false, recs := [], region := none, dom := 0, cls := 0,
             park := none, q := Vector.replicate 8 QBind.none, resv := [], inh := false, shadow := [], held := [],
             heldInt := false, row := none, placed := none, asidNext := none, stopped := false,
             rel := none, mailOld := 0, seen := 0, pcause := 0, inst := none, src := none, wrote := 0, behind := 0, item := none, saved := false }
  let bound := fun (q : Nat) => t.q.any fun b => b.bound && b.queue.val == q
  let s := s.modCore c fun x =>
    { x with queues := Vector.ofFn fun q : Fin 8 => if bound q.val then [] else x.queues[q],
             taken := Vector.ofFn fun q : Fin 8 => if bound q.val then 0 else x.taken[q],
             gangArr := if (x.gangArr.map (·.k)) = some k then none else x.gangArr,
             accArr := if (x.accArr.map (·.k)) = some k then none else x.accArr,
             slice := { x.slice with tmm := if (x.slice.tmm.map (·.k)) = some k then none else x.slice.tmm },
             dif := if x.dif.owner = some k then { x.dif with run := none, owner := none, trap := none } else x.dif }
  let s := s.modCluster ck fun x =>
    { x with bank := x.bank.filter (·.k != k), reserved := x.reserved.filter (·.2 != k) }
  let s := s.breakGang k
  { s with agenda := s.agenda ++ ends }

/-- Answers the sender of a fill with a status: the FILL parked for it, or the job that counts it (R35, R341-R343). -/
def State.answerFill (s : State) (sender : Option Nat) (status : Nat) : State :=
  match sender with
  | none => s
  | some id =>
    let answer := fun (t : Slot) => match t.park with
      | some p => if p.wait = .reply id then
          { t with park := some { p with
              wait := .latency, rest := match p.rest with
                | .finish [.g d _] => .finish [.g d (BitVec.ofNat 64 status)]
                | r => r } } else t
      | none => t
    let told := fun (j : Job) => if j.fillsOut.contains id then
      { j with fillsOut := j.fillsOut.filter (· != id), fillsIn := if status = 0 then j.fillsIn + 1 else j.fillsIn,
               cause := if j.cause = 0 then status else j.cause } else j
    { s with slots := s.slots.map fun e => (e.1, answer e.2),
             clusters := s.clusters.map fun e => (e.1, { e.2 with jobs := e.2.jobs.map fun j => (j.1, told j.2) }) }

/-- Kills a slot (R342): held fills are answered with 0x16, the kill is reported, the node that placed it ends. The report is kept as
the killed thread's slot name (log 48: DESIGN CHOICE; the spec gives it no form). -/
def State.kill (s : State) (k : Nat) : State :=
  let t := s.slot k
  let name := s.slotName k
  let s := t.held.foldl (fun s h => s.answerFill h.sender 0x16) s
  let s := (s.vacate k).modDev (devOfSlot k) fun d => { d with reports := d.reports ++ [name] }
  match t.node with
  | some p => s.endInst p.pid p.inst p.node 0x32
  | none => s

/-! ### Traps (R337-R343) -/

/-- The code bytes at an address, through the instruction cache of a core or from their home (R144). -/
def State.codeByte (s : State) (c asid : Nat) (e : TlbEnt) (va : Nat) : Byte :=
  match (s.core c).ic.find? fun l => l.asid == asid && l.vline == va / 64 && l.pline == e.pa va / 64 with
  | some l => BitVec.ofNat 8 (l.data.toNat / 2 ^ (8 * (va % 64)))
  | none => s.byteAt e.key (e.pa va)
/-- The code word at an address of a translated page. -/
def State.codeWord (s : State) (c asid : Nat) (e : TlbEnt) (va : Nat) : Nat :=
  (s.codeByte c asid e va).toNat + 256 * (s.codeByte c asid e (va + 1)).toNat
/-- The translation of a fetch: a page that permits it, the page of another device under that device's stage 2 (R310,
R313). -/
def State.fetchPage (s : State) (c asid va : Nat) (cls : Nat) : Tr (TlbEnt × State) :=
  (s.translate c asid va).bind fun es =>
    if !es.1.x then .fault 6 else (s.resolve es.1 va (some cls)).bind fun e => .ok (e, es.2)

/-- Whether a word is a GATE: the a3 and b3 fields are reserved, hence ignored (R123, R149). -/
def isGate (w : Nat) : Bool := w / 256 == 16 && w % 4 == 2

/-- The vector group of a cause (R337). -/
def trapGroup (cause : Nat) : Nat := if cause = 0x12 ∨ cause = 0x13 then 1 else if cause = 0x21 then 2 else 0

/-- A domain return record as a doubleword (R148). -/
def DomRet.word (r : DomRet) : Nat := r.dom.toNat * 2 ^ 56 + bits r.rpc.toNat 56 1
/-- A domain return record from a doubleword. -/
def DomRet.ofWord (x : Nat) : DomRet :=
  { dom := BitVec.ofNat 8 (bits x 63 56), rpc := signExtend 8 (bits x 55 0 * 2 + (if tb x 55 then 127 * 2 ^ 57 else 0)) }

/-- The three doublewords of a remote fault record (R159). -/
def RemRec.words (r : RemRec) : List Nat :=
  [r.va.toNat, r.cause.toNat * 2 ^ 8 + r.dev.toNat * 2 ^ 23 + r.seq.toNat * 2 ^ 32,
   r.lastseq.toNat + r.ndisc.toNat * 2 ^ 32]

/-- A number from bits, lowest first. -/
def ofBits : List Bool → Nat
  | [] => 0
  | b :: bs => b.toNat + 2 * ofBits bs

/-- The 64 doublewords of a trap frame (R338). -/
def frameWords (t : Slot) (i : TrapInfo) : List Nat :=
  let regs := (List.finRange 32)
  let rw := match i.rec_ with
    | some r => r.words
    | none => [0, 0, 0]
  [i.cause + i.nw * 2 ^ 8 + trapGroup i.cause * 2 ^ 11 + (if i.rec_.isSome then 2 ^ 13 else 0) + 2 ^ 14,
   i.pc.toNat, i.rpc.toNat, i.addr.toNat, t.ownTsw.toNat] ++ rw ++
  [ofBits (regs.map t.full), ofBits (regs.map fun r => (t.tagOf r).isSome),
   ofBits ((List.finRange 8).map fun r => r != 0 && t.rdP r), 0] ++
  (List.range 8).map (fun j => match t.drs[j]? with
    | some r => r.word
    | none => 0) ++
  List.replicate 12 0 ++ regs.map fun r => (t.rd r).toNat

/-- The page of a slot's save area, when the area meets its conditions and every write of it succeeds (R338, R340); a frozen leaf
holds the access (R320). -/
def State.savePage (s : State) (k : Nat) : Tr (TlbEnt × State) :=
  let t := s.slot k
  if t.tsave.toNat % 1024 != 0 then .fault 6
  else (s.dataPage (coreOf k) t.asid.toNat t.tsave.toNat).bind fun es => if es.1.cls.toNat = 0 then .fault 8 else .ok es

/-- A write of the device into memory (a trap frame, an inbox record, a status word), with the core's own copy. -/
def State.devWrite (s : State) (c key a : Nat) (bs : List Byte) : State :=
  (s.homeWrite key (cellsAt a bs) (16 * c) none).updateL1 c (cellsAt a bs)

/-- The word at the entry point of a vector group is a GATE on a gate page of class 1 or more (R340); no word lies at an odd
address (R115). A frozen leaf holds the access (R320). -/
def State.vectorOk (s : State) (k grp : Nat) : Tr (TlbEnt × State) :=
  let c := coreOf k
  let t := (s.core c).tvec.toNat + 64 * grp
  if t % 2 != 0 then .fault 5
  else (s.fetchPage c (s.slot k).asid.toNat (t % 2 ^ 64) 2).bind fun es =>
    if es.1.gate && es.1.cls != 0 && isGate (es.2.codeWord c (s.slot k).asid.toNat es.1 (t % 2 ^ 64)) then .ok es else .fault 0x0A

/-- Delivers a trap to a slot as one indivisible effect, or kills the slot (R340, R342); while its vector or its save area lies behind
a frozen leaf, the delivery parks under cause 1 and reads the leaf again (R320). -/
def State.deliver (s : State) (k : Nat) (i : TrapInfo) : State :=
  if (s.slot k).inh then s.kill k
  else match (s.vectorOk k (trapGroup i.cause)).bind fun v => (v.2.savePage k).bind fun e => .ok (v.1, e) with
    | .fault _ => s.kill k
    | .frozen => s.parkAt k 1 (.frozen (s.clock + 256)) (.trap i) i.nw true
    | .ok (ve, e, s) =>
      let t := { s.slot k with src := none }
      let s := s.devWrite (coreOf k) e.key (e.pa t.tsave.toNat) ((frameWords t i).flatMap (toBytes 8))
      let s := s.modSlot k fun u =>
        { u with shadow := (List.finRange 32).filterMap fun r => (t.tagOf r).map fun g => (r, g),
                 g := u.g.map fun r => { r with full := true, tag := none }, src := none, drs := [], sstep := false, inh := true,
                 held := [], park := none, readyAt := max u.readyAt s.clock,
                 pc := (s.core (coreOf k)).tvec + BitVec.ofNat 64 (64 * trapGroup i.cause) }
      s.enterPage k ve.dom ve.cls (ve.dom != t.dom)

/-- Takes a trap in slot `k` at its instruction (R23, R183, R340): an open region is aborted first with code 6, and the
handler is then the resume PC. -/
def State.trapAt (s : State) (k cause : Nat) (addr : Word) (nw : Nat) (rec_ : Option RemRec) : State :=
  let t := s.slot k
  let rpc := match t.region with
    | some r => r.h
    | none => if cause = 0x12 ∨ (0x40 ≤ cause ∧ cause ≤ 0x7F) then t.pc + BitVec.ofNat 64 (2 * nw) else t.pc
  (s.abort k 6).deliver k { cause := cause, addr := addr, nw := nw, pc := t.pc, rpc := rpc, rec_ := rec_ }

/-- Takes a trap in the running thread. -/
def State.trap (s : State) (cause : Nat) (addr : Word) (nw : Nat) : State := s.trapAt s.cur cause addr nw none

/-- Completes the running instruction of `nw` words at a next PC; a single step then traps with cause 0x13 (R56, R120). -/
def State.doneAt (s : State) (nw : Nat) (pc : Word) : State :=
  let t := s.me
  let s := s.modMe fun t => { t with pc := pc, park := none, src := none }
  if t.sstep then s.deliver s.cur { cause := 0x13, addr := 0, nw := nw, pc := t.pc, rpc := pc, rec_ := none } else s

/-- Completes the running instruction: the next chain follows (R120). -/
def State.finish (s : State) (nw : Nat) : State := s.doneAt nw (s.me.pc + BitVec.ofNat 64 (2 * nw))

/-- Completes the running instruction after a change of its slot. -/
def State.finishMe (s : State) (nw : Nat) (f : Slot → Slot) : State := (s.modMe f).finish nw

/-- Whether a line is homed outside a core's die; lines of another device count where asked. -/
def State.isFar (s : State) (c line : Nat) (span : Bool) : Bool :=
  if devOfAddr (line * 64) = devOfCore c then s.homeDie (line * 64) != dieOf (clusterOfCore c) else span

/-- Drops the L1 lines that a core sees, its own or those of its fused cluster, homed on another die, and on another device too
where asked (R96, R258). -/
def State.dropFar (s : State) (c : Nat) (span : Bool) : State :=
  { s with cores := s.cores.map fun e =>
      if s.sameL1 e.1 c then (e.1, { e.2 with l1 := e.2.l1.filter fun l => !s.isFar c l.pline span }) else e }
/-- A thread has learned something outside a reply: an acquire waits for the invalidations on their way now (R272, R275). -/
def State.learn (s : State) (k : Nat) : State := s.modSlot k fun t => { t with seen := max t.seen (s.quiet (coreOf k)) }

/-- The 32-bit containers of a vector from a list, lowest first (R51). -/
def lanesNat : List Nat → Nat
  | [] => 0
  | x :: xs => x % 2 ^ 32 + 2 ^ 32 * lanesNat xs
/-- The lanes of a list in the containers whose mask bit is set, over an old register (R190). -/
def mergeLanes (old : BitVec 1024) (mask : BitVec 32) (xs : List Nat) : BitVec 1024 :=
  BitVec.ofNat 1024 (lanesNat ((List.range 32).map fun i =>
    if tb mask.toNat i then xs.getD i 0 else old.toNat / 2 ^ (32 * i)))
/-- The lanes that a vector load of local memory reads. -/
def State.lmLanes (s : State) (pas : List Nat) : List Nat := pas.map fun a => s.plainAt a 4
/-- Makes one write of the rest of a parked instruction (R22). -/
def State.applyWr (s : State) (k : Nat) : Wr → State
  | .g r x => s.modSlot k fun t => t.wr r x
  | .v r x => s.modSlot k fun t => t.wrV r x
  | .vmerge r mask x => s.modSlot k fun t => t.wrV r (mergeLanes (t.rdV r) mask ((List.range 32).map fun i => x.toNat / 2 ^ (32 * i)))
  | .arrv b => s.modSlot k fun t => { t with arrv := b }
  | .dropFar span => s.dropFar (coreOf k) span
  | .saw => s.modSlot k fun t => { t with behind := s.nextId }
  | .lmGet r _ pa n signed => (s.modSlot k fun t => t.wr r (extend signed n (s.plainAt pa n))).learn k
  | .lmGetV r _ mask pas => (s.modSlot k fun t => t.wrV r (mergeLanes (t.rdV r) mask (s.lmLanes pas))).learn k
  | .lmPut cells tag => s.homeWrite 0 cells k tag
  | .lmSet pa full => s.setWord pa full
  | .unresv line => s.modSlot k fun t => { t with resv := t.resv.filter (·.line != line) }
  | .resvEmpty => s.modSlot k fun t => { t with resv := [] }

/-- The parts of local memory that a write of the rest of an instruction reads, with its fault address. -/
def Wr.reads : Wr → Word × List (Nat × Nat)
  | .lmGet _ la pa n _ => (la, [(pa, n)])
  | .lmGetV _ la mask pas => (la, (pas.zipIdx.filter fun x => tb mask.toNat x.2).map fun x => (x.1, 4))
  | _ => (0, [])
/-- The trap of a read of local memory that meets a poisoned line, or one that fails its verification: its cause, its fault address and
the place (R111, R382). -/
def State.wrBad (s : State) (w : Wr) : Option (Nat × Word × Nat × Nat) :=
  w.reads.2.findSome? fun x => (s.poisonOf 0 x.1 x.2).map fun c => (c, w.reads.1, x)
/-- Completes the running instruction with some writes, or traps where they read a poisoned line of local memory (R23, R111). -/
def State.finishWith (s : State) (ws : List Wr) (nw : Nat) : State :=
  match ws.findSome? s.wrBad with
  | some (c, la, x) => ((s.verifyAll 0 x.1 x.2).modMe fun t => { t with park := none }).trap c la nw
  | none => (ws.foldl (fun s w => s.applyWr s.cur w) s).finish nw

/-- The rest of the running thread's parked instruction takes effect (R22). -/
def State.resume (s : State) : State :=
  match s.me.park with
  | none => s
  | some p =>
    match p.rest with
    | .reissue => s.modMe fun t => { t with park := none }
    | .again => s.modMe fun t => { t with park := none }
    | .fault cause addr => (s.modMe fun t => { t with park := none }).trap cause addr p.nw
    | .trap i => (s.modMe fun t => { t with park := none }).deliver s.cur i
    | .finish ws => s.finishWith ws p.nw

/-- Aborts the region of a slot by its instruction of `nw` words; a single step traps at the handler (R183, R186). -/
def State.abortAt (s : State) (k code nw : Nat) : State :=
  let t := s.slot k
  let s := s.abort k code
  if t.sstep then s.deliver k { cause := 0x13, addr := 0, nw := nw, pc := t.pc, rpc := (s.slot k).pc, rec_ := none } else s
/-- Aborts the running thread's region by its own instruction (R183). -/
def State.abortMe (s : State) (code nw : Nat) : State := s.abortAt s.cur code nw

/-- The event a thread is parked on has arrived, and its instruction is not to issue again (R22). -/
def Slot.replied (t : Slot) : Bool :=
  match t.park with
  | some p => p.arrived && p.rest != .reissue && p.rest != .again
  | none => false

/-- The frame of an instruction's effect: the rest of a park whose event has arrived; a false guard is a no-op (R9); an
instruction forbidden in an open region aborts it with code 6 (R183); then the body. -/
def run (p : Pfx) (nw : Nat) (forbidden : Bool) (s : State) (body : State → State) : Res :=
  .next (
    if s.me.replied then s.resume
    else if !s.me.guard p then s.finish nw
    else if forbidden && s.me.region.isSome then s.abortMe 6 nw
    else body s)

/-! ### Return from a trap (R343, R361, R362) -/

/-- A posted operation with its cells or its address moved to another address. -/
def POp.rebase (o : POp) (src dst : Nat) : POp :=
  match o with
  | .store cells => .store (cells.map fun c => (c.1 - src + dst, c.2))
  | .amop op w64 _ b => .amop op w64 dst b
  | .famo b16 _ b => .famo b16 dst b
/-- The operation of an entry as it is at its home: one to another device carries an address that its destination translates (R158). -/
def State.atHome (s : State) (e : SqEntry) : Option POp :=
  let d := devOfAddr e.pa
  if d = devOfSlot e.k then some e.op
  else match s.stage2 d e.pid none (localOfAddr e.pa) with
    | .ok l => some (e.op.rebase e.pa (addrOf d (l.frame + localOfAddr e.pa % 2 ^ l.szlog)))
    | _ => none
/-- The byte that an operation puts at an address, when it is a store of that byte. -/
def POp.byteAt (o : POp) (a : Nat) : Option Byte :=
  match o with
  | .store cells => (cells.reverse.find? (·.1 == a)).map (·.2)
  | _ => none
/-- The latest byte that the thread's own queued stores put at an address, under whatever virtual address (R156, R257). -/
def State.queuedByte (s : State) (k a : Nat) : Option Byte :=
  (s.core (coreOf k)).sq.reverse.findSome? fun e =>
    if e.k != k || devOfAddr e.pa != devOfAddr a then none else (s.atHome e).bind (·.byteAt a)
/-- The latest byte that stores on their way from a core's L1 put at an address (R253). -/
def State.flyingByte (s : State) (c a : Nat) : Option Byte :=
  s.net.reverse.findSome? fun m => match m.kind with
    | .op e => if s.sameL1 (coreOf e.k) c then e.op.byteAt a else none
    | _ => none
/-- A byte at its home, over which the core's own stores on their way stand. -/
def State.freshByte (s : State) (c key a : Nat) : Byte := (s.flyingByte c a).getD (s.byteAt key a)

/-- The doublewords of a slot's frame, as the running thread sees them: its own queued stores and those on their way from its core's L1
stand over the home (R156, R253, R361). -/
def State.frameAt (s : State) (e : TlbEnt) (a : Nat) (i : Nat) : Nat :=
  ofBytes ((List.range 8).map fun j =>
    let pa := e.pa a + 8 * i + j
    (s.queuedByte s.cur pa).getD (s.freshByte s.myCore e.key pa))

/-- Applies a fill to a register of a slot (R34, R35): an instruction that is parked does not read it any more (R22). -/
def State.applyFill (s : State) (k : Nat) (r : Fin 32) (x : Word) : State :=
  (s.modSlot k fun t => if r = 0 then t else { t with g := t.g.set r (GReg.of x) }).learn k

/-- Resumes slot `k` from the frame at its save area (R343); `inh`: the thread was in its handler, and its tags and held fills come
back; `step`: the value STEP gives sstep. The frame holds no eb.lo and eb.hi: a thread that ERET.start places reads those of the
slot's last thread (R62; log 42: DESIGN CHOICE). -/
def State.eretAt (s : State) (k : Nat) (inh : Bool) (step : Option Bool) (e : TlbEnt) : State :=
  let t := s.slot k
  let a := t.tsave.toNat
  let w := s.frameAt e a
  let tsw := w 4
  let fe := w 8
  let tm := w 9
  let pr := w 10
  let n := bits tsw 15 12
  let s := s.modSlot k fun t =>
    { t with g := Vector.ofFn fun r : Fin 32 =>
               { val := BitVec.ofNat 64 (w (32 + r.val)), full := tb fe r.val,
                 tag := if inh && tb tm r.val then (t.shadow.find? (·.1 == r)).map (·.2) else none },
             p := Vector.ofFn fun r : Fin 8 => tb pr r.val,
             drs := (List.range n).map fun j => DomRet.ofWord (w (12 + j)),
             streak := min 4 (bits tsw 23 21), arrv := tb tsw 17, sstep := step.getD (tb tsw 16),
             inh := false, shadow := [], held := [], park := none, src := none, row := none,
             pc := BitVec.ofNat 64 (w 2 / 2 * 2),
             asid := t.asidNext.getD t.asid, asidNext := none, readyAt := s.clock }
  let s := if inh then
      t.held.foldl (fun s h => (s.applyFill k h.reg h.val).answerFill h.sender 0) s
    else s
  s.devWrite (coreOf k) e.key (e.pa a) (toBytes 8 (w 0 - (if tb (w 0) 14 then 2 ^ 14 else 0)))

/-- ERET of the running thread (R343, R361): a record count above 8 traps with cause 0x01. -/
def State.eret (s : State) (step : Option Bool) (nw : Nat) : State :=
  match s.dataPage s.myCore s.me.asid.toNat s.me.tsave.toNat with
  | .fault c => s.trap c s.me.tsave nw
  | .frozen => s.parkRe 1 (.frozen (s.clock + 256)) nw
  | .ok (e, s) =>
    if 8 < bits (s.frameAt e s.me.tsave.toNat 4) 15 12 then s.trap 1 0 nw
    else s.eretAt s.cur s.me.inh step e

end Sys2Proof.Machine
end

