-- ==== Sys2Proof/Machine/Operands.lean ====
section
/-! DEFINITION. Operand forms: immediates, scaled offsets, local addresses, capability and control registers, vector
operands with their stream registers. -/

namespace Sys2Proof.Machine

/-- An immediate as a register value (R113). -/
def immWord (imm : Int) : Word := BitVec.ofInt 64 imm
/-- The effective address of a format-M operand: base plus the offset in units of `n` bytes (R6, R113, R157). -/
def eaOf (t : Slot) (a : Fin 32) (off : Int) (n : Nat) : Word := t.rd a + BitVec.ofInt 64 (off * n)
/-- A register or immediate shift count: bits [5:0] (R133). -/
def shiftCount (x : Word) : Nat := x.toNat % 64

/-- A local address mapped by its mode to a core of the cluster and an offset in its scratchpad (R90). -/
def lmMap (m : LMode) (own : Nat) (la : Nat) : Nat × Nat :=
  match m with
  | .own => (own, la % 2 ^ 18)
  | .blk => (bits la 20 18, la % 2 ^ 18)
  | .ilv => (bits la 5 3, bits la 20 6 * 8 + la % 8)
/-- The memory address of a local access of the running thread (R88, R90). -/
def State.lmPa (s : State) (m : LMode) (la : Nat) : Nat :=
  let co := lmMap m (s.myCore % 8) la
  lmAddr s.myCluster (co.1 * 2 ^ 18 + co.2)
/-- Whether a local access stays in the thread's own core (R92). -/
def State.lmOwn (s : State) (m : LMode) (la : Nat) : Bool := (lmMap m (s.myCore % 8) la).1 == s.myCore % 8
/-- The memory address of an offset in the running thread's own scratchpad. -/
def State.ownPa (s : State) (off : Nat) : Nat := lmAddr s.myCluster (s.myCore % 8 * 2 ^ 18 + off % 2 ^ 18)

/-! ### Control and capability registers (R57, R60, R249) -/

/-- The value KRD reads (R57, R60): reserved bits 0. -/
def State.krd (s : State) (n : Fin 64) : Word :=
  let t := s.me
  match n.val with
  | 0x00 => t.k.tfmt.setWidth 64
  | 0x01 => t.k.tsca
  | 0x02 => t.k.tscw
  | 0x03 => t.k.tgrp.setWidth 64
  | 0x04 => t.k.ewin.setWidth 64
  | 0x05 => t.k.lease.setWidth 64
  | 0x06 => t.k.slease.setWidth 64
  | 0x07 => t.k.parkto.setWidth 64
  | 0x08 => t.k.agate.setWidth 64
  | 0x09 => s.slotName s.cur
  | 0x0A => t.ownTsw
  | 0x20 => BitVec.ofNat 64 Config.isarev
  | 0x21 => BitVec.ofNat 64 Config.flitmesh
  | 0x22 => BitVec.ofNat 64 Config.flitdie
  | 0x23 => BitVec.ofNat 64 Config.flitspan
  | 0x24 => BitVec.ofNat 64 Config.qdepth
  | 0x25 => BitVec.ofNat 64 Config.sqdepth
  | 0x26 => BitVec.ofNat 64 Config.difdepth
  | 0x27 => BitVec.ofNat 64 Config.cjslots
  | 0x28 => BitVec.ofNat 64 Config.inbox
  | 0x29 => BitVec.ofNat 64 Config.afifo
  | 0x2A => BitVec.ofNat 64 Config.dspdepth
  | 0x2B => BitVec.ofNat 64 Config.awake
  | 0x2C => BitVec.ofNat 64 Config.sleep1
  | 0x2D => BitVec.ofNat 64 Config.sleep2
  | 0x2E => BitVec.ofNat 64 ((s.dev s.myDev).spanrt.toNat % 2 ^ 32)
  | k => if 0x10 ≤ k ∧ k ≤ 0x17 then (t.k.scopes[k % 8]'(by omega)).setWidth 64 else 0

/-- The write KWR makes (R57): only the writable bits. -/
def KRegs.write (r : KRegs) (n : Fin 64) (x : Word) : KRegs :=
  match n.val with
  | 0x00 => { r with tfmt := x.setWidth 1 }
  | 0x01 => { r with tsca := x }
  | 0x02 => { r with tscw := x &&& ~~~1 }
  | 0x03 => { r with tgrp := x.setWidth 16 }
  | 0x04 => { r with ewin := x.setWidth 32 }
  | 0x05 => { r with lease := x.setWidth 24 }
  | 0x06 => { r with slease := x.setWidth 24 }
  | 0x07 => { r with parkto := x.setWidth 32 }
  | 0x08 => { r with agate := x.setWidth 16 }
  | k => if 0x10 ≤ k ∧ k ≤ 0x17 then { r with scopes := r.scopes.set (k % 8) ((x &&& 0x8FFF).setWidth 16) (by omega) } else r

/-! ### Stream operands (R52, R53, R190) -/

/-- The q registers a list of vector operands names. -/
def qRegs : List VOpd → List (Fin 8)
  | [] => []
  | .q r :: l => r :: qRegs l
  | .v _ :: l => qRegs l
/-- A q register is misused: unbound, bound the other way, or bound with another width (R52). -/
def Slot.qBad (t : Slot) (r : Fin 8) (out wide : Bool) : Bool :=
  let b := t.q[r]
  !b.bound || b.outbound != out || b.wide != wide
/-- The elements that have arrived in the queue of a bound q register. -/
def State.queueOf (s : State) (k : Nat) (r : Fin 8) : Queue := (s.core (coreOf k)).queues[(s.slot k).q[r].queue]
/-- Replaces the queue of a bound q register. -/
def State.setQueue (s : State) (k : Nat) (r : Fin 8) (q : Queue) : State :=
  let i := (s.slot k).q[r].queue
  s.modCore (coreOf k) fun c => { c with queues := c.queues.set i q }
/-- Pops the elements that a list of operands reads, in order; each operand's value, and the state after. -/
def State.popOpds (s : State) : List VOpd → List (BitVec 1024) × State
  | [] => ([], s)
  | .v r :: l =>
    let rest := s.popOpds l
    (s.me.rdV r :: rest.1, rest.2)
  | .q r :: l =>
    let q := s.queueOf s.cur r
    let rest := (s.setQueue s.cur r q.tail).popOpds l
    (q.headD 0 :: rest.1, rest.2)
/-- How many elements of a q register a list of operands pops. -/
def popCount (r : Fin 8) (l : List VOpd) : Nat := ((qRegs l).filter (· == r)).length

end Sys2Proof.Machine
end

