-- ==== Sys2Proof/Machine/Access.lean ====
section
/-! DEFINITION. An access to virtual memory: the checks of R105 in their order, what a load reads (R156, R157, R254), and
how a store enters the store queue. -/

namespace Sys2Proof.Machine

/-- A checked access: its address and key, its page's domain and class, whether its home is on another device, and the
state after. Where a posted operation goes to another device, `pa` is the partition address its destination translates. -/
structure Acc where
  pa : Nat
  key : Nat
  dev : Nat
  remote : Bool
  s : State

/-- What the checks give: the access, a trap, or a park with the state after (R155). -/
inductive Chk where
  | ok (a : Acc)
  | trap (cause : Nat) (s : State)
  | park (w : Wait) (s : State)

/-- The clock a lease begun now ends at (R256, R257); none where the line is homed on the core's die. -/
def State.leaseEnd (s : State) (k line : Nat) : Option Nat :=
  let c := coreOf k
  if devOfAddr (line * 64) = devOfCore c then
    if s.isFar c line false then some (s.clock + (s.slot k).k.lease.toNat) else none
  else some (s.clock + (s.slot k).k.slease.toNat)

/-- Whether the lease of a copy runs (R256). -/
def L1Line.live (l : L1Line) (clock : Nat) : Bool :=
  match l.lease with
  | some e => decide (clock < e)
  | none => true
/-- The live copy of a virtual line in the L1 that holds it for a core. -/
def State.l1Find (s : State) (c asid va : Nat) : Option L1Line :=
  (s.core (s.l1Home c va)).l1.find? fun l =>
    l.asid == asid && l.pid == s.pidOf (clusterOfCore c) && l.vline == va / 64 && l.live s.clock

/-- Whether a cluster's messages may go to another cluster, by its permission table (R324). -/
def State.mayTo (s : State) (ck dst : Nat) : Bool :=
  if ck = dst then true
  else if devOf dst ≠ devOf ck then
    tb ((s.cluster ck).permdev[s.numOf (devOf dst) / 64 % 8]'(by omega)).toNat (s.numOf (devOf dst) % 64)
  else tb ((s.cluster ck).perm[dst % 160 / 64 % 3]'(by omega)).toNat (dst % 160 % 64)
/-- Whether a cluster's accesses may go to an address (R324): another device, or another cluster's local memory. -/
def State.mayReach (s : State) (ck : Nat) (a : Nat) : Bool :=
  if devOfAddr a ≠ devOf ck then s.mayTo ck (devOfAddr a * 160)
  else if isLocalWin (localOfAddr a) then s.mayTo ck (clusterOfWin a) else true
/-- Whether the router of a cluster admits a message of a partition (R300); `bit` is the bit of sys.fwall for its kind. -/
def State.admits (s : State) (pid ck : Nat) (bit : Option Nat) : Bool :=
  pid == s.pidOf ck || pid == 0 || (bit.map (tb (s.cluster ck).fwall.toNat)).getD false
/-- A message that is not admitted is counted (R299, R300). -/
def State.countDrop (s : State) (ck : Nat) : State :=
  s.modCluster ck fun x =>
    if bits x.fwall.toNat 47 32 = 65535 then x else { x with fwall := x.fwall + BitVec.ofNat 64 (2 ^ 32) }
/-- Whether the router of the local memory at an address refuses an access of a cluster (R300). -/
def State.walled (s : State) (ck pid a : Nat) : Bool :=
  isLocalWin (localOfAddr a) && clusterOfWin a != ck && !s.admits pid (clusterOfWin a) none
/-- A checked access past the router of a local memory, or its refusal, which is counted (R299, R300). -/
def State.pastWall (s : State) (a : Acc) : Chk :=
  if s.walled s.myCluster s.myPid a.pa then .trap 7 (s.countDrop (clusterOfWin a.pa)) else .ok a

/-- The rest of the checks once the partition address is known: permission, route, the destination's stage 2 (R105 step
6, R157, R324, R375). A posted operation without a route is lost on its lane (R374). -/
def State.remoteCheck (s : State) (e : TlbEnt) (va : Nat) (posted : Bool) : Chk :=
  if !s.mayReach s.myCluster (addrOf e.dev 0) then .trap 7 s
  else if !posted && !s.routeUp s.myDev e.dev then .trap 0x18 s
  else if posted then .ok { pa := addrOf e.dev (e.pa va % 2 ^ 44), key := 0, dev := e.dev, remote := true, s := s }
  else match s.stage2 e.dev e.pid (some s.me.cls.toNat) (e.pa va % 2 ^ 44) with
    | .fault c => .trap c s
    | .frozen => .park (.frozen (s.clock + 256)) s
    | .ok l => s.pastWall { pa := addrOf e.dev (l.frame + e.pa va % 2 ^ l.szlog), key := l.key, dev := e.dev, remote := true, s := s }

/-- Step 6 for a translation in hand: the class test on the thread's own device, the source check and the firewall (R102, R105,
R300, R324). -/
def State.step6 (s : State) (e : TlbEnt) (va : Nat) (posted : Bool) : Chk :=
  if e.remote then s.remoteCheck e va posted
  else if s.me.cls.toNat < e.cls.toNat then .trap 8 s
  else if !s.mayReach s.myCluster (e.pa va) then .trap 7 s
  else
    let a : Acc := { pa := e.pa va, key := e.key, dev := e.dev, remote := false, s := s }
    if posted then .ok a else s.pastWall a

/-- Step 5: the row's code for the page's domain, unless the base is tagged (R102, R105). -/
def State.step5 (s : State) (dom : BitVec 8) (need : Nat) (tagged : Bool) : Tr State :=
  if tagged then .ok s
  else (s.rowOf s.cur).bind fun rs => if rs.1.code dom < need then .fault 8 else .ok rs.2

/-- Steps 4 to 6 (R105): from the L1 line, from a TLB, or by the walks. A load that an L1 line answers sends no message to the line's
device; a store or an atomic does, and is checked (R324). -/
def State.steps456 (s : State) (va need : Nat) (tagged posted : Bool) : Chk :=
  let asid := s.me.asid.toNat
  match s.l1Find s.myCore asid va with
  | some l =>
    match s.step5 l.dom need tagged with
    | .fault c => .trap c s
    | .frozen => .park (.frozen (s.clock + 256)) s
    | .ok s =>
      if devOfAddr (l.pline * 64) ≠ s.myDev ∧ (posted ∨ 2 ≤ need) then
        match s.translate s.myCore asid va with
        | .fault c => .trap c s
        | .frozen => .park (.frozen (s.clock + 256)) s
        | .ok (e, s) => s.remoteCheck e va posted
      else if devOfAddr (l.pline * 64) = s.myDev ∧ s.me.cls.toNat < l.cls.toNat then .trap 8 s
      else .ok { pa := l.pline * 64 + va % 64, key := l.key, dev := devOfAddr (l.pline * 64),
                 remote := devOfAddr (l.pline * 64) ≠ s.myDev, s := s }
  | none =>
    match s.pageOf s.myCore asid va with
    | .fault c => .trap c s
    | .frozen => .park (.frozen (s.clock + 256)) s
    | .ok pg =>
      let dom := match pg with
        | .inl e => e.dom
        | .inr l => BitVec.ofNat 8 l.dom
      match s.step5 dom need tagged with
      | .fault c => .trap c s
      | .frozen => .park (.frozen (s.clock + 256)) s
      | .ok s =>
        match s.translate s.myCore asid va with
        | .fault c => .trap c s
        | .frozen => .park (.frozen (s.clock + 256)) s
        | .ok (e, s) => s.step6 e va posted

/-- Step 3: the grant of a tagged base, from the core's copy; a core without one fetches it (R105, R392). -/
def State.step3 (s : State) (tag : BitVec 32) (va n : Nat) (write : Bool) : Chk :=
  match s.grantAddr s.myCore s.me.asid.toNat (refIndex tag) with
  | .fault c => .trap c s
  | .frozen => .park (.frozen (s.clock + 256)) s
  | .ok (pa, key) =>
    match s.grantCopy s.myCore pa with
    | none => .park .latency (s.takeCopy s.myCore pa (s.numAt key pa 32))
    | some g =>
      let s := s.takeCopy s.myCore pa g.toRaw
      if g.gen ≠ refGen tag then .trap 9 s
      else if va < g.base ∨ g.base + g.len < va + n then .trap 9 s
      else if write && !g.rw then .trap 9 s
      else .ok { pa := 0, key := 0, dev := 0, remote := false, s := s }

/-- The number of lines that `n` bytes lie in. -/
def lineCount (va n : Nat) : Nat := (va % 64 + n + 63) / 64
/-- Steps 4 to 6 for every line of `n` bytes, each of which the L1 may answer or not (R95, R105). -/
def State.stepsAll (s : State) (va n need : Nat) (tagged posted : Bool) : Chk :=
  (List.range (lineCount va n - 1)).foldl (fun r i => match r with
    | .ok a => match a.s.steps456 (va / 64 * 64 + 64 * (i + 1)) need tagged posted with
      | .ok b => .ok { a with s := b.s }
      | q => q
    | q => q) (s.steps456 va need tagged posted)
/-- Steps 2 and 3 of R105 for `n` bytes at `va`, and then the others; `need` is the code of the row that the access needs. -/
def State.checkBy (s : State) (tag : Option (BitVec 32)) (va n need : Nat) (steps : State → Bool → Chk) : Chk :=
  if !canonical va then .trap 6 s
  else match tag with
    | none => steps s false
    | some t =>
      match s.step3 t va n (decide (2 ≤ need)) with
      | .ok a => steps a.s true
      | r => r
/-- The checks of R105 after alignment. -/
def State.check (s : State) (tag : Option (BitVec 32)) (va n need : Nat) (posted : Bool) : Chk :=
  s.checkBy tag va n need fun s tagged => s.stepsAll va n need tagged posted

/-- Goes on with a checked access, or traps at its address, or parks under cause 1 to issue again (R30, R392). -/
def withAcc (s : State) (tag : Option (BitVec 32)) (va : Word) (n need : Nat) (posted : Bool) (nw : Nat)
    (f : Acc → State) : State :=
  if va.toNat % n ≠ 0 then s.trap 5 va nw
  else match s.check tag va.toNat n need posted with
    | .trap c s => s.trap c va nw
    | .park w s => s.parkRe 1 w nw
    | .ok a => f a

/-! ### What a load reads (R156, R253, R254) -/

/-- Whether an operation is an atomic. -/
def POp.isAtomic : POp → Bool
  | .store _ => false
  | _ => true
/-- The copy that a load reads: the line its address hits, or the one that a miss finds under another address of the same frame
(R89, R95). -/
def State.copyAt (s : State) (va pa : Nat) : Option L1Line :=
  (s.l1Find s.myCore s.me.asid.toNat va).orElse fun _ =>
    (s.core (s.l1Home s.myCore va)).l1.find? fun l => l.pline == pa / 64 && l.live s.clock

/-- What the hints of an access ask of the L1 (R117): its line enters as the least recently used one, the following line is filled
too. Where a line stands in its L2 set shows in no result, so l2keep has no effect here. -/
structure Hints where
  nt : Bool
  next : Bool
  taken : Bool
deriving DecidableEq, Repr
/-- The hints of an instruction's prefixes (R117). -/
def hintsOf (p : Pfx) : Hints :=
  { nt := (p.hint.map fun h => h.getLsbD 0).getD false, next := (p.hint.map fun h => h.getLsbD 2).getD false,
    taken := (p.hint.map fun h => h.getLsbD 3).getD false }
/-- The hints of an instruction that does not know `nextline` (R117). -/
def hintsNt (p : Pfx) : Hints := { hintsOf p with next := false }
/-- The hints of an access that carries none. -/
def Hints.none : Hints := { nt := false, next := false, taken := false }

/-- The lines of a set of the L1 (R95). -/
def l1Ways : Nat := 12
/-- The set of a virtual line: address bits [15:6]; the 8,192 sets of a fused L1 lie 1,024 to a home core, by the bits beside
[9:7] (R95, R96; log 38: DESIGN CHOICE beyond the minimum page). -/
def l1Set (fused : Bool) (vline : Nat) : Nat := if fused then vline % 2 + vline / 16 % 512 * 2 else vline % 1024
/-- An L1 with a line entered, the most recently used line first: of the lines of a full set the one used longest ago goes (R95;
log 38: DESIGN CHOICE); a hint enters the line as that one (R117). -/
def l1Enter (fused nt : Bool) (x : L1Line) (ls : List L1Line) : List L1Line :=
  let rest := ls.filter (·.pline != x.pline)
  let set := rest.filter fun l => l1Set fused l.vline == l1Set fused x.vline
  let rest := match set.getLast? with
    | some z => if l1Ways ≤ set.length then rest.filter (·.pline != z.pline) else rest
    | none => rest
  if nt then rest ++ [x] else x :: rest
/-- A line that is used stands first (R95). -/
def l1Touch (x : L1Line) (ls : List L1Line) : List L1Line := if ls.contains x then x :: ls.erase x else ls

/-- Enters a line into the L1 of a core, as a snapshot of its home; a copy of the same line under another address is
retagged (R89, R254). A line whose lease is 0 clocks, and local memory, are not held (R57, R93). -/
def State.fillLine (s : State) (k : Nat) (nt : Bool) (va : Nat) (dom : BitVec 8) (cls : BitVec 2) (a : Acc) : State :=
  let ck := clusterOf k
  let c := s.l1Home (coreOf k) va
  let line := a.pa / 64
  if isLocalWin (localOfAddr a.pa) then s
  else if s.leaseEnd k line = some s.clock then s
  else
    let old := (s.core c).l1.find? fun l => l.pline == line && l.live s.clock
    let data := match old with
      | some l => l.data
      | none => BitVec.ofNat 512 (ofBytes ((List.range 64).map fun i => s.freshByte c a.key (line * 64 + i)))
    let x : L1Line := { pid := s.pidOf ck, asid := (s.slot k).asid.toNat, vline := va / 64, pline := line, dom := dom, cls := cls,
                        key := a.key, lease := (old.map (·.lease)).getD (s.leaseEnd k line),
                        from_ := (old.map (·.from_)).getD (s.quiet c), data := data,
                        bad := (old.map (·.bad)).getD false }
    s.modCore c fun y => { y with l1 := l1Enter (s.cluster ck).fused nt x y.l1 }
/-- The domain and class the page of an address has for the L1 line. -/
def State.lineTag (s : State) (va : Nat) : BitVec 8 × BitVec 2 :=
  match s.tlbFind s.myCore s.me.asid.toNat va with
  | some e => (e.dom, e.cls)
  | none => (s.me.dom, 0)

/-- The `n` bytes that the running thread's load reads: its own queued stores over its L1 copy, or over the home. -/
def State.viewBytes (s : State) (va : Nat) (a : Acc) (n : Nat) : List Byte :=
  (List.range n).map fun i =>
    (s.queuedByte s.cur (a.pa + i)).getD
      (match s.copyAt (va + i) (a.pa + i) with
        | some l => lineByte l.data (va + i)
        | none => s.freshByte s.myCore a.key (a.pa + i))

/-- The time of a load's reply: 8 clocks on an L1 hit, 12 on a hit in another core of a fused L1, open otherwise; none comes before
the invalidations that were on their way when its data was read at the home (R95, R96, R255, R395). -/
def State.loadWait (s : State) (va : Nat) : Wait :=
  match s.l1Find s.myCore s.me.asid.toNat va with
  | some l => .time (max (s.clock + (if s.l1Home s.myCore va = s.myCore then 8 else 12)) l.from_)
  | none => s.replyWait s.myCore

/-- Uses or enters the line of an address in the L1. -/
def State.fillOne (s : State) (nt : Bool) (va : Nat) (a : Acc) : State :=
  match s.l1Find s.myCore s.me.asid.toNat va with
  | some l => s.modCore (s.l1Home s.myCore va) fun x => { x with l1 := l1Touch l x.l1 }
  | none => s.fillLine s.cur nt va (s.lineTag va).1 (s.lineTag va).2 a
/-- By a hint, enters the line that follows `n` bytes in their page into the L1, where it is sound (R117). -/
def State.fillNext (s : State) (h : Hints) (va : Nat) (a : Acc) (n : Nat) : State :=
  let va' := va / 64 * 64 + 64 * lineCount va n
  let pa' := a.pa / 64 * 64 + 64 * lineCount va n
  if h.next && va' / 65536 == va / 65536 && (s.l1Find s.myCore s.me.asid.toNat va').isNone && (s.poisonOf a.key pa' 64).isNone then
    s.fillOne h.nt va' { a with pa := pa' }
  else s
/-- Uses or enters the lines of `n` bytes in the L1, and by a hint the following one (R117). -/
def State.fillFor (s : State) (h : Hints) (va : Nat) (a : Acc) (n : Nat) : State :=
  ((List.range (lineCount va n)).foldl (fun s i =>
    s.fillOne h.nt (va / 64 * 64 + 64 * i) { a with pa := a.pa / 64 * 64 + 64 * i }) s).fillNext h va a n

/-- The lines that an operation touches. -/
def POp.lines (o : POp) : List Nat :=
  match o with
  | .store cells => linesOf cells
  | .amop _ _ pa _ => [pa / 64]
  | .famo _ pa _ => [pa / 64]
/-- The lines that an operation of a store queue or a lane touches at its home (R158). -/
def State.opLines (s : State) (e : SqEntry) : List Nat :=
  match s.atHome e with
  | some o => o.lines
  | none => []
/-- Where a message answered "moved" will go: the line that its virtual address has now, or nowhere known while its leaf is frozen
(R268, R320). -/
def State.movedLine (s : State) (e : SqEntry) : Option Nat :=
  match s.dataPage (coreOf e.k) (s.slot e.k).asid.toNat e.va.toNat with
  | .ok (p, _) => some (p.pa e.va.toNat / 64)
  | _ => none
/-- Whether a message is a store on its way from a core's L1 that has been answered "moved" and may go to a line: no access from that
L1 passes it (R253, R268). -/
def State.movedAhead (s : State) (c va line : Nat) : Bool :=
  s.net.any fun m => match m.kind with
    | .moved (.op e) _ => s.sameL1 (coreOf e.k) c && (e.va.toNat / 64 == va / 64 || match s.movedLine e with
      | some l => l == line
      | none => true)
    | _ => false
/-- Whether an operation of a thread to a line is to be performed before its later load of the line: an atomic on its own device
that waits or flies, one from its L1 that is reissued, and, for a load that reads at the home, one on its lane (R156, R257, R268). -/
def State.loadBehind (s : State) (k va line : Nat) (home : Bool) : Bool :=
  let hit := fun (e : SqEntry) => e.k == k && e.op.isAtomic &&
    if devOfAddr e.pa = devOfSlot k then e.pa / 64 == line else home && (s.opLines e).contains line
  (s.core (coreOf k)).sq.any hit || (s.net.any fun m => match m.kind with
    | .op e => hit e
    | _ => false) || s.movedAhead (coreOf k) va line ||
  (home && s.lanes.any fun l => l.k == k && l.broken.isNone && l.flight.any fun e => (s.opLines e).contains line)
/-- Whether an earlier operation of a thread to a line is still to be performed, or one from its L1 where `mates` asks for those too:
an access that reads at the line's home waits for them (R156, R253, R260). -/
def State.opsAhead (s : State) (k va line : Nat) (mates : Bool) : Bool :=
  let hit := fun (e : SqEntry) (all : Bool) => (e.k == k || (all && s.sameL1 (coreOf e.k) (coreOf k))) && (s.opLines e).contains line
  (s.core (coreOf k)).sq.any (hit · false) || (s.net.any fun m => match m.kind with
    | .op e => hit e mates
    | _ => false) || s.movedAhead (coreOf k) va line ||
  s.lanes.any fun l => l.k == k && l.broken.isNone && l.flight.any fun e => (s.opLines e).contains line
/-- The cause that a load of a line traps with: its poisoned copy's; one that fills the L1 goes to the line's home, and verifies the
line (R110, R111, R324, R382). -/
def State.loadBad (s : State) (key va pa n : Nat) : Option Nat :=
  (List.range (lineCount va n)).findSome? fun i =>
    match s.copyAt (va / 64 * 64 + 64 * i) (pa / 64 * 64 + 64 * i) with
    | some l => if l.bad then some 0x18 else none
    | none => if !s.mayReach s.myCluster (pa / 64 * 64 + 64 * i) then some 7 else s.badLine key (pa / 64 + i)
/-- Whether a load of `n` bytes waits before it reads: for the thread's earlier operations to its lines, or for the home of a page
that is moving (R156, R268, R320). -/
def State.loadHeld (s : State) (va pa n : Nat) : Bool :=
  (List.range (lineCount va n)).any fun i =>
    let home := (s.copyAt (va / 64 * 64 + 64 * i) (pa / 64 * 64 + 64 * i)).isNone
    s.loadBehind s.cur (va + 64 * i) (pa / 64 + i) home

/-- An access of a core that is answered "moved" (R320): the cached translation goes. -/
def State.rereadAt (s : State) (c asid va : Nat) : State :=
  let ck := clusterOfCore c
  let gone := fun (l : List TlbEnt) => l.filter fun e => !e.covers (s.pidOf ck) asid va
  (s.modCluster ck fun x => { x with tlb := gone x.tlb }).modDie (dieOf ck) fun x => { x with tlb := gone x.tlb }
/-- The same for the running thread, whose access issues again. -/
def State.reread (s : State) (va : Nat) : State := s.rereadAt s.myCore s.me.asid.toNat va

/-- Goes on with a load of `n` bytes whose access is checked, once nothing holds it: its thread's earlier operations, a home that has
moved; a poisoned line traps it with its reply (R111, R156, R320). -/
def withLoad (va : Word) (a : Acc) (n nw : Nat) (f : State → State) : State :=
  if a.s.loadHeld va.toNat a.pa n then a.s.parkRe 1 .latency nw
  else if (a.s.copyAt va.toNat a.pa).isNone && a.s.isMoved a.s.myPid a.pa then (a.s.reread va.toNat).parkRe 1 .latency nw
  else match a.s.loadBad a.key va.toNat a.pa n with
  | some c => (a.s.verifyAll a.key a.pa n).parkAt a.s.cur 1 .latency (.fault c va) nw false
  | none => f a.s
/-- A park of the running thread for a request that goes to another device leaves on a link (R374, R376). -/
def State.onPath (s : State) (a : Acc) (va : Word) : State :=
  if a.remote then s.modMe fun t => { t with park := t.park.map fun p => { p with via := s.viaOf s.cur a.dev va } }
  else s
/-- The reading of a load: what it reads is fixed now, and the thread parks for the reply (R157). -/
def State.loadNow (s : State) (h : Hints) (va : Word) (a : Acc) (n nw : Nat) (ws : Nat → List Wr) : State :=
  ((s.fillFor h va.toNat a n).parkFin 1 (s.loadWait va.toNat) (ws (ofBytes (s.viewBytes va.toNat a n))) nw).onPath
    { a with remote := a.remote && (s.l1Find s.myCore s.me.asid.toNat va.toNat).isNone } va
/-- A load of `n` bytes whose access is checked (R157). -/
def doLoad (h : Hints) (va : Word) (a : Acc) (n nw : Nat) (ws : Nat → List Wr) : State :=
  withLoad va a n nw fun s => s.loadNow h va a n nw ws

/-! ### The store queue (R156, R158) -/

/-- An entry of the store queue for an operation of the running thread, with a number for each line it writes, on which it leaves as
an operation of its own (R265). A posted operation to another device takes the next sequence number (R158, R289). -/
def State.enqueue (s : State) (va : Word) (a : Acc) (op : POp) (tag : Option RelTag) : State :=
  let t := s.me
  let e : SqEntry := { id := s.nextId, k := s.cur, gen := t.gen, va := va, pa := a.pa, op := op, tag := tag, pid := s.myPid,
                       cls := t.cls.toNat, key := a.key, seq := t.seq }
  let s := { s with nextId := s.nextId + op.lines.length }.modCore s.myCore fun c => { c with sq := c.sq ++ [e] }
  if a.remote then s.modMe fun t => { t with seq := t.seq + 1 } else s

/-- Whether a checked access goes to a local memory window of the own device (R88). -/
def Acc.window (a : Acc) : Bool := !a.remote && isLocalWin (localOfAddr a.pa)

/-- A store to a local memory window, which parks for its reply and is performed then; it waits while a region holds the line; a router
that does not admit it traps it (R88, R184, R300). -/
def windowStore (va : Word) (a : Acc) (cells : List Host.Cell) (tag : Option RelTag) (trap : State → Nat → Word → α)
    (again : State → Wait → α) (fin : State → List Wr → α) : α :=
  if a.s.walled a.s.myCluster a.s.myPid a.pa then trap (a.s.countDrop (clusterOfWin a.pa)) 7 va
  else if (linesOf cells).any a.s.heldBySerial then again a.s .latency
  else fin a.s [.lmPut cells tag]

/-- Takes a store-queue entry, or parks under cause 8 while all eight are taken (R156). A store to a local memory window, and a posted
atomic to one, park under cause 1 until they are performed (R88). -/
def State.post (s : State) (va : Word) (a : Acc) (op : POp) (tag : Option RelTag) (nw : Nat) : State :=
  if Config.sqdepth ≤ (a.s.core s.myCore).sq.length then a.s.parkRe 8 .storeQueue nw
  else match op with
    | .store cells =>
      if a.window then windowStore va a cells tag (fun s c va => s.trap c va nw) (fun s w => s.parkRe 1 w nw)
        (fun s ws => s.parkFin 1 .latency ws nw)
      else (a.s.enqueue va a op tag).finish nw
    | _ =>
      if a.window then (a.s.enqueue va a op tag).parkAt a.s.cur 1 (.reply a.s.nextId) (.finish []) nw true
      else (a.s.enqueue va a op tag).finish nw

end Sys2Proof.Machine
end

