-- ==== Sys2Proof/Machine/Footprint.lean ====
section
/-! DEFINITION. Footprints of copy engine and array jobs: what they touch, the order of the cluster's scheduler (R236), the
rights captured at issue (R108). -/

namespace Sys2Proof.Machine

/-! ### The scheduler (R236) -/

/-- Whether two chunks share a 64-byte line of the same storage. -/
def Chunk.sameLine (a b : Chunk) : Bool :=
  decide (0 < a.len) && decide (0 < b.len) && decide (a.pa / 64 ≤ (b.pa + b.len - 1) / 64) &&
    decide (b.pa / 64 ≤ (a.pa + a.len - 1) / 64)
/-- Whether two chunks share a byte. -/
def Chunk.sameByte (a b : Chunk) : Bool := decide (a.pa < b.pa + b.len) && decide (b.pa < a.pa + a.len)
/-- Whether any chunk of one list meets one of another. -/
def meets (f : Chunk → Chunk → Bool) (as bs : List Chunk) : Bool := as.any fun a => bs.any fun b => f a b
/-- Whether two register destinations are one register of one slot, under whatever generation (R236). -/
def RegDst.same (a b : RegDst) : Bool := a.slot.toNat / 65536 == b.slot.toNat / 65536 && a.reg == b.reg
/-- Whether a job waits for an earlier one: an edge of R236. -/
def Foot.waitsFor (n e : Foot) : Bool :=
  meets Chunk.sameLine n.reads e.writes || meets Chunk.sameLine n.writes e.reads || meets Chunk.sameLine n.writes e.writes ||
    n.regs.any fun r => e.regs.any r.same
/-- Whether a job may start: no earlier unfinished job of the cluster meets it. -/
def State.footFree (s : State) (ck id : Nat) : Bool :=
  let feet := (s.cluster ck).feet
  match feet.find? (·.id == id) with
  | none => true
  | some n => (feet.takeWhile (·.id != id)).all fun e => !n.waitsFor e
/-- A job enters the scheduler. -/
def State.enterFoot (s : State) (ck : Nat) (f : Foot) : State := s.modCluster ck fun c => { c with feet := c.feet ++ [f] }
/-- A job leaves the scheduler. -/
def State.leaveFoot (s : State) (ck id : Nat) : State :=
  s.modCluster ck fun c => { c with feet := c.feet.filter (·.id != id) }

/-! ### Reading and writing chunks -/

/-- The bytes of chunks, in order. -/
def State.chunkBytes (s : State) (cs : List Chunk) : List Byte := cs.flatMap fun c => s.bytesAt c.key c.pa c.len
/-- Writes bytes over chunks, in order, as a writer, with a release tag or none. -/
def State.putChunks (s : State) (writer : Nat) (tag : Option RelTag) : List Chunk → List Byte → State
  | [], _ => s
  | c :: cs, bs =>
    (s.homeWrite c.key (cellsAt c.pa (bs.take c.len)) writer tag).putChunks writer tag cs (bs.drop c.len)
/-- The poison that chunks meet (R111). -/
def State.chunkPoison (s : State) (cs : List Chunk) : Option Nat :=
  cs.findSome? fun c => s.poisonOf c.key c.pa c.len
/-- The verification of the lines of chunks (R110). -/
def State.verifyChunks (s : State) (cs : List Chunk) : State := cs.foldl (fun s c => s.verifyAll c.key c.pa c.len) s
/-- Chunks where their pages are now: one whose frame is answered "moved" to a partition is translated again, for a core under an
address space (R320). -/
def State.rehomeChunks (s : State) (pid c asid : Nat) : List Chunk → Tr (List Chunk)
  | [] => .ok []
  | x :: xs =>
    let now : Tr Chunk := match x.va with
      | some va => if !s.isMoved pid x.pa then .ok x
          else ((s.rereadAt c asid va).dataPage c asid va).bind fun e => .ok { x with pa := e.1.pa va, key := e.1.key }
      | none => .ok x
    now.bind fun x => (s.rehomeChunks pid c asid xs).bind fun xs => .ok (x :: xs)
/-- Whether a write to any line of the chunks is held for a region (R184, R270). -/
def State.chunksHeld (s : State) (cs : List Chunk) : Bool :=
  cs.any fun c => (List.range ((c.pa % 64 + c.len + 63) / 64)).any fun i => s.heldBySerial (c.pa / 64 + i)

/-! ### Capture (R108) -/

/-- What a capture gives: the chunks, a trap at an address, or a park. -/
inductive Cap where
  | ok (cs : List Chunk) (s : State)
  | trap (cause : Nat) (addr : Word) (s : State)
  | park (w : Wait) (s : State)

/-- The pieces of a virtual range that lie within one 64 KiB page each: address and length. -/
def pieces : Nat → Nat → Nat → List (Nat × Nat)
  | 0, _, _ => []
  | fuel + 1, va, n =>
    let n1 := min n (65536 - va % 65536)
    if n = 0 then [] else (va % 2 ^ 64, n1) :: pieces fuel (va + n1) (n - n1)
/-- The pieces of a range of `n` bytes. -/
def piecesOf (va n : Nat) : List (Nat × Nat) := pieces (n / 65536 + 2) va n

/-- The first byte of a range that a grant does not permit (R105, R290). -/
def State.grantEnd (s : State) (tag : BitVec 32) (va : Nat) : Word :=
  match s.grantAddr s.myCore s.me.asid.toNat (refIndex tag) with
  | .ok (pa, _) =>
    match s.grantCopy s.myCore pa with
    | some g => if g.gen = refGen tag ∧ g.base ≤ va ∧ va < g.base + g.len then BitVec.ofNat 64 (g.base + g.len)
        else BitVec.ofNat 64 va
    | none => BitVec.ofNat 64 va
  | _ => BitVec.ofNat 64 va

/-- Whether a grant gives read rights only. -/
def State.grantReadOnly (s : State) (t : BitVec 32) : Bool :=
  match s.grantAddr s.myCore s.me.asid.toNat (refIndex t) with
  | .ok (pa, _) => (s.grantCopy s.myCore pa).any fun g => !g.rw
  | _ => false

/-- Checks pieces as R102 and R105 would check the accesses, which go to the home of each page (R324); a refusal is cause 0x0F. -/
def State.capture (s : State) (tag : Option (BitVec 32)) (need : Nat) : List (Nat × Nat) → List Chunk → Cap
  | [], acc => .ok acc.reverse s
  | (va, n) :: ps, acc =>
    match s.checkBy tag va n need fun s tagged => match s.steps456 va need tagged false with
      | .ok a => if s.mayReach s.myCluster a.pa then .ok a else .trap 7 a.s
      | r => r with
    | .trap c s' =>
      .trap (if c = 8 ∨ c = 9 then 0x0F else c)
        (match tag with
          | some t => if c = 9 then (if decide (2 ≤ need) && s.grantReadOnly t then BitVec.ofNat 64 va else s'.grantEnd t va)
              else BitVec.ofNat 64 va
          | none => BitVec.ofNat 64 va) s'
    | .park w s' => .park w s'
    | .ok a => State.capture a.s tag need ps ({ va := some va, pa := a.pa, len := n, key := a.key } :: acc)

/-- Translates the pages of pieces, without rights (R234). A page of another device has its stage 2 there, where the job meets
a fault (R237, R310): until then it stands at its partition address, or where the stage 2 puts it. -/
def State.translateAll (s : State) : List (Nat × Nat) → List Chunk → Cap
  | [], acc => .ok acc.reverse s
  | (va, n) :: ps, acc =>
    match s.translate s.myCore s.me.asid.toNat va with
    | .fault c => .trap c (BitVec.ofNat 64 va) s
    | .frozen => .park (.frozen (s.clock + 256)) s
    | .ok (e, s) =>
      let ak := if !e.remote then (e.pa va, e.key)
        else match s.stage2 e.dev e.pid (some s.me.cls.toNat) (e.pa va % 2 ^ 44) with
          | .ok l => (addrOf e.dev (l.frame + e.pa va % 2 ^ l.szlog), l.key)
          | _ => (addrOf e.dev (e.pa va % 2 ^ 44), 0)
      State.translateAll s ps ({ va := some va, pa := ak.1, len := n, key := ak.2 } :: acc)

/-- Step 5 and the class test of step 6 for a byte of a job's region: the row unless the base is tagged, the class on the thread's own
device (R102, R105, R108). -/
def State.regionRights (s : State) (tagged : Bool) (need va : Nat) : Tr (Bool × State) :=
  (s.translate s.myCore s.me.asid.toNat va).bind fun es =>
    match es.2.step5 es.1.dom need tagged with
    | .fault c => if c = 8 then .ok (false, es.2) else .fault c
    | .frozen => .frozen
    | .ok s => .ok (es.1.remote || decide (es.1.cls.toNat ≤ s.me.cls.toNat), s)
/-- Checks the rights of translated pieces for a job (R102, R105, R108, R234): the tag's grant or the row, and the class on the
thread's own device; where its messages may go is found by the job itself (R324). A refusal is cause 0x0F at the first byte that
fails (R290). -/
def State.captureRights (s : State) (tag : Option (BitVec 32)) (need : Nat) : List (Nat × Nat) → Cap
  | [] => .ok [] s
  | (va, n) :: ps =>
    let at_ := BitVec.ofNat 64 va
    let go := fun (s : State) (f : State → Cap) => match s.regionRights tag.isSome need va with
      | .fault c => .trap c at_ s
      | .frozen => .park (.frozen (s.clock + 256)) s
      | .ok (true, s) => f s
      | .ok (false, s) => .trap 0x0F at_ s
    match (match tag with
      | none => Chk.ok { pa := 0, key := 0, dev := 0, remote := false, s := s }
      | some t => s.step3 t va n (decide (2 ≤ need))) with
    | .trap c s' =>
      if c != 9 then .trap c at_ s'
      else match tag with
        | some t => if decide (2 ≤ need) && s'.grantReadOnly t || s'.grantEnd t va == at_ then .trap 0x0F at_ s'
            else go s' fun s => .trap 0x0F (s'.grantEnd t va) s
        | none => .trap 0x0F at_ s'
    | .park w s => .park w s
    | .ok a => go a.s fun s => State.captureRights s tag need ps

/-- The entries that the tags of captured registers name, by address (R108). -/
def State.refsOf (s : State) (rs : List (Fin 32)) : List Nat :=
  rs.filterMap fun r => match s.me.tagOf r with
    | some t => (match s.grantAddr s.myCore s.me.asid.toNat (refIndex t) with
        | .ok (pa, _) => some pa
        | _ => none)
    | none => none
/-- Raises or lowers the use counts of entries at their homes (R108, R392). -/
def State.useCounts (s : State) (up : Bool) (refs : List Nat) : State :=
  refs.foldl (fun s pa =>
    let a := pa + 20
    let n := s.plainAt a 4
    { s with mem := s.mem.writeCells (cellsAt a (toBytes 4 (if up then n + 1 else n - 1))) }) s

end Sys2Proof.Machine
end

