-- ==== Sys2Proof/Machine/Elastic.lean ====
section
/-! DEFINITION. Elastic regions: the accesses of a region (R179), the home slice's narrowings (R180), the commit (R182), and
the region instructions (R178, R185). -/

namespace Sys2Proof.Machine

/-- Whether a list holds a number once it is added, and the list then. -/
def addNew (x : Nat) (l : List Nat) : List Nat := if l.contains x then l else x :: l

/-- Changes the open region of a slot. -/
def State.modRegion (s : State) (k : Nat) (f : Region → Region) : State :=
  s.modSlot k fun t => { t with region := t.region.map f }

/-- A line that a region access may touch: homed on the thread's die (R179). -/
def State.onDie (s : State) (a : Acc) : Bool := !a.remote && s.homeDie a.pa == s.myDie

/-- A written line of a region at a new home (R320). -/
def Region.relocate (r : Region) (old new key : Nat) : Region :=
  { r with writes := r.writes.map fun c => if c.1 / 64 = old then (new * 64 + c.1 % 64, c.2) else c,
           wlines := (r.wlines.del old).set new key, wvas := (r.wvas.del old).set new (r.wvas.get 0 old) }
/-- The lines that an open region has written, where their pages are now: a line whose frame is answered "moved" is looked up again
(R320). -/
def State.rehome (s : State) (k : Nat) (r : Region) : Tr State :=
  let c := coreOf k
  let asid := (s.slot k).asid.toNat
  (r.wvas.foldl (fun (acc : Tr (Region × State)) e => acc.bind fun rs =>
      if !rs.2.isMoved (s.pidOf (clusterOf k)) (e.1 * 64) then .ok rs
      else ((rs.2.rereadAt c asid (e.2 * 64)).dataPage c asid (e.2 * 64)).bind fun p =>
        .ok (rs.1.relocate e.1 (p.1.pa (e.2 * 64) / 64) p.1.key, p.2)) (.ok (r, s))).bind fun rs =>
    .ok (rs.2.modRegion k fun _ => rs.1)

/-- A region read of the running thread (R179): its access goes to the line's home slice, carrying the bounds, and the
thread parks for the answer. -/
def State.regionLoad (s : State) (r : Region) (va : Word) (a : Acc) (n : Nat) (signed : Bool) (d : Fin 32) (nw : Nat) : State :=
  let line := a.pa / 64
  if !s.onDie a then s.abortMe 3 nw
  else if 2048 < (addNew line r.rlines).length then s.abortMe 2 nw
  else
    let t := s.me
    let id := s.nextId
    let s := s.modRegion s.cur fun r => { r with rlines := addNew line r.rlines, out := r.out + 1 }
    let s := s.send s.cur (.region r.id line a.key t.eblo t.ebhi (.read d va a.pa n signed))
    s.parkFin 1 (.reply id) [] nw

/-- Whether one more written line passes the capacity of R179: 512 lines, and fewer than all the ways of one L1 set, which its
virtual line names (R95). -/
def Region.fits (r : Region) (fused : Bool) (vline line : Nat) : Bool :=
  let same := fun (v : Nat) => l1Set fused v == l1Set fused vline && (!fused || v / 2 % 8 == vline / 2 % 8)
  r.wlines.has line ||
  (decide (r.wlines.length < 512) && decide ((r.wlines.filter fun e => same (r.wvas.get 0 e.1)).length + 1 < l1Ways))
/-- The same for some lines, by virtual line and line, each tested after those before it. -/
def Region.fitsAll (r : Region) (fused : Bool) : List (Nat × Nat) → Bool
  | [] => true
  | (v, l) :: ls => r.fits fused v l && { r with wlines := r.wlines.set l 0, wvas := r.wvas.set l v }.fitsAll fused ls

/-- The region writes of the running thread to one line (R179): buffered, and its access goes to the home slice. -/
def State.regionStoreLine (s : State) (rid key va line : Nat) (cells : List Host.Cell) : State :=
  let t := s.me
  let s := s.modRegion s.cur fun r =>
    { r with writes := r.writes ++ cells, wlines := r.wlines.set line key, wvas := r.wvas.set line (va / 64), out := r.out + 1 }
  s.send s.cur (.region rid line key t.eblo t.ebhi (.write (BitVec.ofNat 64 (va / 64 * 64))))

/-- A region write of cells by the running thread (R179), line by line; the router of a local memory may refuse it (R300). -/
def State.regionStore (s : State) (r : Region) (va : Word) (a : Acc) (cells : List Host.Cell) (nw : Nat) : State :=
  let lines := linesOf cells
  if !a.remote && s.walled s.myCluster s.myPid a.pa then (s.countDrop (clusterOfWin a.pa)).trap 7 va nw
  else if !s.onDie a then s.abortMe 3 nw
  else if !r.fitsAll (s.cluster s.myCluster).fused (lines.map fun l => (va.toNat / 64 + (l - a.pa / 64), l)) then s.abortMe 2 nw
  else (lines.foldl (fun s l => s.regionStoreLine r.id a.key (va.toNat + (l - a.pa / 64) * 64) l (cells.filter (·.1 / 64 == l))) s).finish nw

/-! ### The home slice (R180) -/

/-- The record a home slice keeps of a line; without one, both positions are the horizon of its slice. -/
def Die.lineRec (d : Die) (line : Nat) : LineRec :=
  let h := d.horizon.get 0 (sliceOf (line * 64))
  (d.lines.find? (·.line == line)).getD { line := line, wp := h, rp := h, readers := [], writers := [] }
/-- Replaces a record. -/
def Die.setRec (d : Die) (r : LineRec) : Die := { d with lines := r :: d.lines.filter (·.line != r.line) }
/-- A slice drops the committed positions of a line that no open region has touched, and its horizon rises to both (R180). -/
def Die.dropRec (d : Die) (r : LineRec) : Die :=
  let slice := sliceOf (r.line * 64)
  if r.readers.isEmpty && r.writers.isEmpty then
    { d with lines := d.lines.filter (·.line != r.line), horizon := d.horizon.set slice (max (d.horizon.get 0 slice) (max r.wp r.rp)) }
  else d
/-- Whether a slice drops the positions of a line is its own affair: the next choice says it for each line (R180). -/
def State.dropRecs (s : State) (die : Nat) : State :=
  (s.die die).lines.foldl (fun s r => if s.choose.1 = 0 then s.choose.2 else s.choose.2.modDie die fun d => d.dropRec r) s
/-- The bounds a region carried to a slice on its latest access. -/
def Die.boundsAt (d : Die) (slice rid : Nat) : Nat × Nat :=
  match d.carried.find? fun c => c.slice == slice && c.rid == rid with
  | some c => (c.lo, c.hi)
  | none => (0, 2 ^ 48 - 1)

/-- Whether an open region is serial. -/
def State.isSerial (s : State) (rid : Nat) : Bool :=
  match s.regionSlot rid with
  | some k => ((s.slot k).region.map (·.serial)).getD false
  | none => false

/-- An edge, region `x` before region `y` with the bounds of each, and its narrowings, caused by `causer`: x.hi at most
y.hi - 1, y.lo at least x.lo + 1; a serial region always comes first and keeps its hi (R180, R184). -/
def State.edge (s : State) (die slice causer x y : Nat) (bx bY : Nat × Nat) : State :=
  let swap := s.isSerial y && !s.isSerial x
  let e := if swap then (y, x, bY, bx) else (x, y, bx, bY)
  let s := s.modDie die fun d => { d with edges := { slice := slice, r1 := e.1, r2 := e.2.1 } :: d.edges }
  let s := s.narrowTo e.2.1 (e.2.2.1.1 + 1) (2 ^ 48 - 1) causer
  if s.isSerial e.1 then s else s.narrowTo e.1 0 (e.2.2.2.2 - 1) causer

/-- A region access at its home slice: the region's own narrowing, one edge for each other region the table of R180 names,
and the record. -/
def State.atSlice (s : State) (rid line lo hi : Nat) (write : Bool) : State :=
  let die := s.homeDie (line * 64)
  let slice := sliceOf (line * 64)
  let d := s.die die
  let r := d.lineRec line
  let others := ((if write then r.readers ++ r.writers else r.writers).eraseDups).filter (· != rid)
  let s := s.modDie die fun d =>
    { d with carried := { slice := slice, rid := rid, lo := lo, hi := hi } ::
        d.carried.filter (fun c => !(c.slice == slice && c.rid == rid)) }
  let s := s.narrowTo rid ((if write then max r.wp r.rp else r.wp) + 1) (2 ^ 48 - 1) rid
  let s := others.foldl (fun s y =>
    if write then s.edge die slice rid y rid (d.boundsAt slice y) (lo, hi)
    else s.edge die slice rid rid y (lo, hi) (d.boundsAt slice y)) s
  s.modDie die fun d => d.setRec
    { r with readers := if write then r.readers else addNew rid r.readers,
             writers := if write && !r.writers.contains rid then r.writers ++ [rid] else r.writers }

/-- What a region read returns: the thread's own buffered bytes over the committed ones (R179). -/
def State.regionBytes (s : State) (r : Region) (key a n : Nat) : List Byte :=
  (List.range n).map fun i => ((r.writes.reverse.find? (·.1 == a + i)).map (·.2)).getD (s.byteAt key (a + i))

/-! ### Narrowing at a core (R180, R287) -/

/-- Applies a narrowing to the open region of a slot. -/
def State.narrow (s : State) (k lo hi : Nat) : State :=
  s.modSlot k fun t => { t with eblo := max t.eblo lo, ebhi := min t.ebhi hi }
/-- Aborts the region of a slot with code 1, by its ECOMMIT where that has it parked (R180, R186). -/
def State.abortEmpty (s : State) (k : Nat) : State :=
  match (s.slot k).park with
  | some p => if p.cause = 0xD then s.abortAt k 1 p.nw else s.abort k 1
  | none => s.abort k 1
/-- Aborts the region of a slot with code 1 where its interval is empty; a serial region never is (R180, R184). -/
def State.testEmpty (s : State) (k : Nat) : State :=
  let t := s.slot k
  match t.region with
  | none => s
  | some r => if !r.serial && decide (t.ebhi < t.eblo) then s.abortEmpty k else s
/-- Applies every narrowing that has been sent to a region's core for it. -/
def State.applyNarrows (s : State) (k rid : Nat) : State :=
  let c := coreOf k
  let mine := (s.core c).narrow.filter (·.1 == rid)
  let s := s.modCore c fun x => { x with narrow := x.narrow.filter (·.1 != rid) }
  mine.foldl (fun s n => s.narrow k n.2.1 n.2.2.1) s

/-! ### The commit (R182) -/

/-- Whether an operation that waits in a store queue or is on its way is by a thread and on its own device. -/
def SqEntry.isOf (e : SqEntry) (k dev : Nat) : Bool := e.k == k && devOfAddr e.pa == dev

/-- Whether every store of a thread on its own device is ordered at its home. -/
def State.storesHome (s : State) (k : Nat) : Bool :=
  !(s.core (coreOf k)).sq.any (·.isOf k (devOfSlot k)) &&
  s.net.all fun m => match m.kind with
    | .op e => !e.isOf k (devOfSlot k)
    | .moved (.op e) _ => !e.isOf k (devOfSlot k)
    | .ack .. => m.k != k
    | _ => true

/-- Whether an open serial region comes before a region (R184). -/
def State.behindSerial (s : State) (die rid : Nat) : Bool :=
  (s.die die).edges.any fun e => e.r2 == rid && s.isSerial e.r1

/-- Whether a region's ECOMMIT may ask for its broadcast turn: every access answered, every narrowing that it caused or
that is meant for it has arrived, no open serial region before it, the thread's earlier stores performed (R182, R184,
R270). -/
def State.commitReady (s : State) (k : Nat) (r : Region) : Bool :=
  r.out == 0 && !s.behindSerial (dieOf (clusterOf k)) r.id && s.storesHome k &&
  s.cores.all fun e => e.2.narrow.all fun n => n.1 != r.id && n.2.2.2 != r.id

/-- The commit of the region of slot `k` in its broadcast turn, which is granted on the clock that is over (R182): an empty interval
aborts; otherwise the final position is broadcast, is delivered 24 clocks later, and the thread waits until then (R270). -/
def State.commitNow (s : State) (k : Nat) : State :=
  let die := dieOf (clusterOf k)
  match (s.slot k).region with
  | none => s.leaveTurns k
  | some r =>
    let s := s.applyNarrows k r.id
    let t := s.slot k
    if !r.serial && decide (t.ebhi < t.eblo) then s.abortEmpty k
    else
      let f := t.eblo
      let n : Notice := .final (s.clock + 23) r.id f (coreOf k) r.serial t.rel r.writes r.wlines r.rlines
      let s := s.modDie die fun d => { d with notices := d.notices ++ [n], token := if d.token = some k then none else d.token }
      s.modSlot k fun t =>
        { t with region := none, streak := 0, lastF := f,
                 park := t.park.map fun p => { p with wait := .time (s.clock + 23), exempt := true } }

/-! ### The instructions -/

/-- The page of a transfer's target or of a handler: Translate of R143 is that of a fetch, so a page that may not be executed traps
with cause 0x06, and the fault address of every trap of Check is the target (log 37: DESIGN CHOICE; R143 and R338 name
neither). A frozen leaf parks. -/
def withPage (s : State) (va : Word) (nw : Nat) (f : TlbEnt → State → State) : State :=
  match s.fetchPage s.myCore s.me.asid.toNat va.toNat s.me.cls.toNat with
  | .fault c => s.trap c va nw
  | .frozen => s.parkRe 1 (.frozen (s.clock + 256)) nw
  | .ok (e, s) => f e s

/-- EBEGIN (R178): nested, it aborts the open region; a handler on another domain or class traps, with the handler as the fault
address (log 37: DESIGN CHOICE; the spec gives none); a thread whose streak
is 4 first takes the die's serial token. -/
def execEbegin (p : Pfx) (d : Fin 32) (imm : Int) (s : State) : Res :=
  let nw := nwX p
  run p nw true s fun s =>
    let t := s.me
    let h := t.pc + BitVec.ofInt 64 (2 * imm)
    withPage s h nw fun e s =>
      if e.dom ≠ t.dom ∨ e.cls ≠ t.cls then s.trap 0x15 h nw
      else
        let die := s.die s.myDie
        let ser := t.streak == 4
        if ser && die.token != some s.cur then
          (s.modDie s.myDie fun x => { x with tokenQ := if x.tokenQ.contains s.cur then x.tokenQ else x.tokenQ ++ [s.cur] }).parkRe
            1 .token nw
        else
          let id := s.nextId
          { s with nextId := id + 1 }.finishMe nw fun t =>
            { t with region := some { id := id, serial := ser, h := h, gd := d, g := t.g, p := t.p, drs := t.drs,
                                      dom := t.dom, cls := t.cls, writes := [], wlines := [], wvas := [], rlines := [], out := 0 },
                     eblo := die.cc, ebhi := if ser then 2 ^ 48 - 1 else min (die.cc + t.k.ewin.toNat) (2 ^ 48 - 1),
                     streak := if ser then 0 else t.streak }

/-- ECOMMIT (R182): outside a region it traps; otherwise it parks under cause 13 for the answers, then for its broadcast
turn, in which the region commits. -/
def execEcommit (p : Pfx) (s : State) : Res :=
  let nw := nwX p
  run p nw false s fun s =>
    if s.me.region.isNone then s.trap 0x15 0 nw else s.parkFin 0xD .answers [] nw

/-- EABORT (R185). -/
def execEabort (p : Pfx) (s : State) : Res :=
  let nw := nwX p
  run p nw false s fun s => if s.me.region.isNone then s.trap 0x15 0 nw else s.abortMe 5 nw

/-- EBND (R185): both bounds; one register for both receives eb.hi. -/
def execEbnd (p : Pfx) (d a : Fin 32) (s : State) : Res :=
  run p (nwX p) false s fun s =>
    s.finishMe (nwX p) fun t => (t.wr d (BitVec.ofNat 64 t.eblo)).wr a (BitVec.ofNat 64 t.ebhi)

/-- EPOS (R185). -/
def execEpos (p : Pfx) (d : Fin 32) (s : State) : Res :=
  run p (nwX p) false s fun s => s.finishMe (nwX p) fun t => t.wr d (BitVec.ofNat 64 t.lastF)

end Sys2Proof.Machine
end

