-- ==== Sys2Proof/Machine/Flags.lean ====
section
/-! DEFINITION. The arithmetic flags (R70) and the vector status word (R191). -/

namespace Sys2Proof.Machine

/-- The eight sticky flags, bit for bit as R70 numbers them. -/
abbrev AFlags := BitVec 8

def AFlags.none : AFlags := 0
def AFlags.nx : AFlags := 0x01
def AFlags.uf : AFlags := 0x02
def AFlags.of : AFlags := 0x04
def AFlags.dz : AFlags := 0x08
def AFlags.nv : AFlags := 0x10
def AFlags.sat : AFlags := 0x20
def AFlags.nsc : AFlags := 0x40
def AFlags.flz : AFlags := 0x80

/-- A flag when a condition holds. -/
def AFlags.when (f : AFlags) (b : Bool) : AFlags := if b then f else 0

/-- The flags of several results together. -/
def AFlags.union : List AFlags → AFlags
  | [] => 0
  | f :: fs => f ||| AFlags.union fs

/-- ORs flags into VSW and adds flushed lanes to its count, which saturates (R191). -/
def vswAdd (vsw : BitVec 32) (f : AFlags) (flushed : Nat) : BitVec 32 :=
  BitVec.ofNat 32 (min 65535 (vsw.toNat / 65536 + flushed) * 65536 + ((vsw.setWidth 8) ||| f).toNat)

end Sys2Proof.Machine
end

