-- ==== Sys2Proof/Machine/Float.lean ====
section
/-! DEFINITION. Number formats (R64-R85): decoding, exact sums rounded once, conversions, the E8 scale, the residue triple,
the drain, and the exponential. -/

namespace Sys2Proof.Machine

/-! ### Formats (R66, R67) -/

/-- A floating format: the widths of exponent and fraction, the bias, the encodings of the largest finite value, of
infinity (none in E4M3) and of the canonical NaN. -/
structure FFmt where
  eb : Nat
  fb : Nat
  bias : Nat
  maxFin : Nat
  inf : Option Nat
  nan : Nat
deriving DecidableEq, Repr

def fp32 : FFmt := { eb := 8, fb := 23, bias := 127, maxFin := 0x7F7FFFFF, inf := some 0x7F800000, nan := 0x7FC00000 }
def fp16 : FFmt := { eb := 5, fb := 10, bias := 15, maxFin := 0x7BFF, inf := some 0x7C00, nan := 0x7E00 }
def bf16 : FFmt := { eb := 8, fb := 7, bias := 127, maxFin := 0x7F7F, inf := some 0x7F80, nan := 0x7FC0 }
def fpE4M3 : FFmt := { eb := 4, fb := 3, bias := 7, maxFin := 0x7E, inf := none, nan := 0x7F }
def fpE5M2 : FFmt := { eb := 5, fb := 2, bias := 15, maxFin := 0x7B, inf := some 0x7C, nan := 0x7E }

/-- The format of a type code; an integer type has none and reads as FP32. -/
def tyFmt : VTy → FFmt
  | .f32 | .i32 | .i16 | .i8 => fp32
  | .bf16 => bf16
  | .f16 => fp16
  | .e4m3 => fpE4M3
  | .e5m2 => fpE5M2

/-- The sign bit's weight. -/
def FFmt.sign (f : FFmt) : Nat := 2 ^ (f.eb + f.fb)

/-- A value: a NaN (signalling or quiet), an infinity, or (-1)^neg * m * 2^e. -/
inductive FVal where
  | nan (sig : Bool)
  | inf (neg : Bool)
  | fin (neg : Bool) (m : Nat) (e : Int)
deriving DecidableEq, Repr

/-- Decodes an encoding (R66, R67); FP8 NaNs are quiet. -/
def FFmt.decode (f : FFmt) (x : Nat) : FVal :=
  let neg := tb x (f.eb + f.fb)
  let mag := x % f.sign
  let ex := mag / 2 ^ f.fb
  let fr := mag % 2 ^ f.fb
  if f.maxFin < mag then
    if f.inf = some mag then .inf neg
    else .nan (8 < f.eb + f.fb && !tb fr (f.fb - 1))
  else if ex = 0 then .fin neg fr (1 - (f.bias + f.fb : Int))
  else .fin neg (2 ^ f.fb + fr) ((ex : Int) - (f.bias + f.fb : Int))

def FVal.isNan : FVal → Bool
  | .nan _ => true
  | _ => false
def FVal.isSig : FVal → Bool
  | .nan s => s
  | _ => false
/-- The value with its sign inverted. -/
def FVal.neg : FVal → FVal
  | .nan s => .nan s
  | .inf n => .inf (!n)
  | .fin n m e => .fin (!n) m e

/-- An encoding with its sign. -/
def FFmt.signed (f : FFmt) (neg : Bool) (mag : Nat) : Nat := mag + (if neg then f.sign else 0)

/-! ### Rounding (R69) -/

/-- Whether a magnitude with integer part `t` and a remainder of `lo` parts in `2^sh` rounds up. -/
def roundsUp (r : Rnd) (neg : Bool) (t lo sh : Nat) : Bool :=
  match r with
  | .rn => decide (2 ^ sh < 2 * lo) || (decide (2 * lo = 2 ^ sh) && t % 2 == 1)
  | .rz => false
  | .ru => lo != 0 && !neg
  | .rd => lo != 0 && neg

/-- A magnitude `m * 2^e` rounded to a multiple of `2^q`: the multiple, and whether it differs. -/
def roundQ (r : Rnd) (neg : Bool) (m : Nat) (e q : Int) : Nat × Bool :=
  if q ≤ e then (m * 2 ^ (e - q).toNat, false)
  else
    let sh := (q - e).toNat
    let t := m / 2 ^ sh
    let lo := m % 2 ^ sh
    (t + (roundsUp r neg t lo sh).toNat, lo != 0)

/-- The overflow result of a mode: infinity or the largest finite value (R69). -/
def FFmt.overflow (f : FFmt) (r : Rnd) (neg : Bool) : Nat :=
  let big := match f.inf with
    | some i => i
    | none => f.nan
  f.signed neg (match r with
    | .rn => big
    | .rz => f.maxFin
    | .ru => if neg then f.maxFin else big
    | .rd => if neg then big else f.maxFin)

/-- What rounding to a format gives before the format's own overflow rule: the magnitude's encoding, and whether it was
inexact and tiny; the encoding is above the largest finite value where it overflows. -/
def FFmt.roundMag (f : FFmt) (r : Rnd) (neg : Bool) (m : Nat) (e : Int) : Nat × Bool × Bool :=
  let top := (m.log2 : Int) + e
  let emin : Int := 1 - (f.bias : Int)
  let q := max (top - f.fb) (emin - f.fb)
  let a := roundQ r neg m e q
  let tiny := decide (top < emin) && !(decide (top = emin - 1) && (roundQ r neg m e (top - f.fb)).1 == 2 ^ (f.fb + 1))
  ((q - (emin - f.fb)).toNat * 2 ^ f.fb + a.1, a.2, tiny)

/-- Rounds an exact non-zero value once (R69, R70). -/
def FFmt.round (f : FFmt) (r : Rnd) (neg : Bool) (m : Nat) (e : Int) : Nat × AFlags :=
  let a := f.roundMag r neg m e
  if f.maxFin < a.1 then (f.overflow r neg, AFlags.of ||| AFlags.nx)
  else (f.signed neg a.1, AFlags.nx.when a.2.1 ||| AFlags.uf.when (a.2.1 && a.2.2))

/-! ### Exact sums and products, rounded once (R68, R192, R193) -/

/-- The product of two values, and the flags it raises. -/
def FVal.mul : FVal → FVal → FVal × AFlags
  | .nan s, y => (.nan false, AFlags.nv.when (s || y.isSig))
  | x, .nan s => (.nan false, AFlags.nv.when (s || x.isSig))
  | .inf n, .inf n' => (.inf (n != n'), 0)
  | .inf n, .fin n' m _ => if m = 0 then (.nan false, AFlags.nv) else (.inf (n != n'), 0)
  | .fin n m _, .inf n' => if m = 0 then (.nan false, AFlags.nv) else (.inf (n != n'), 0)
  | .fin n m e, .fin n' m' e' => (.fin (n != n') (m * m') (e + e'), 0)

/-- The least exponent of the terms that are not zero. -/
def leastExp : List FVal → Option Int
  | [] => none
  | .fin _ m e :: ts =>
    if m = 0 then leastExp ts
    else match leastExp ts with
      | none => some e
      | some e' => some (min e e')
  | _ :: ts => leastExp ts
/-- The sum of the finite terms in units of `2^e0`. -/
def sumInt (e0 : Int) : List FVal → Int
  | [] => 0
  | .fin n m e :: ts =>
    (if m = 0 then 0 else (if n then -1 else 1) * ((m * 2 ^ (e - e0).toNat : Nat) : Int)) + sumInt e0 ts
  | _ :: ts => sumInt e0 ts
/-- The sign of an exact zero sum: the terms' own when all are zeros of one sign, otherwise the mode's (R193). -/
def zeroNeg (r : Rnd) (ts : List FVal) : Bool :=
  if ts.all fun t => t == .fin true 0 0 then true
  else if ts.all fun t => t == .fin false 0 0 then false
  else r == .rd
/-- A zero with exponent 0, so that zeros of one sign are one value. -/
def FVal.norm : FVal → FVal
  | .fin n 0 _ => .fin n 0 0
  | t => t

/-- The exact sum of terms, rounded once to a format; `fl` are the flags raised so far. -/
def FFmt.sum (f : FFmt) (r : Rnd) (ts : List FVal) (fl : AFlags) : Nat × AFlags :=
  let pos := ts.any (· == .inf false)
  let neg := ts.any (· == .inf true)
  let fl := fl ||| AFlags.nv.when (ts.any FVal.isSig || (pos && neg))
  if ts.any FVal.isNan || (pos && neg) then (f.nan, fl)
  else if pos then (f.signed false (f.inf.getD f.nan), fl)
  else if neg then (f.signed true (f.inf.getD f.nan), fl)
  else
    let e0 := (leastExp ts).getD 0
    let x := sumInt e0 ts
    if x = 0 then (f.signed (zeroNeg r (ts.map FVal.norm)) 0, fl)
    else
      let a := f.round r (decide (x < 0)) x.natAbs e0
      (a.1, fl ||| a.2)

def FFmt.add (f : FFmt) (r : Rnd) (a b : Nat) : Nat × AFlags := f.sum r [f.decode a, f.decode b] 0
def FFmt.sub (f : FFmt) (r : Rnd) (a b : Nat) : Nat × AFlags := f.sum r [f.decode a, (f.decode b).neg] 0
def FFmt.mul (f : FFmt) (r : Rnd) (a b : Nat) : Nat × AFlags :=
  let p := (f.decode a).mul (f.decode b)
  f.sum r [p.1] p.2

/-- The four fused forms: which of the product and the addend is negated (R193). -/
inductive FusedOp where
  | fma | fms | fnma | fnms
deriving DecidableEq, Repr

def FusedOp.negP : FusedOp → Bool
  | .fma | .fnms => false
  | .fms | .fnma => true
def FusedOp.negD : FusedOp → Bool
  | .fma | .fms => false
  | .fnma | .fnms => true
def FVal.negIf (b : Bool) (x : FVal) : FVal := if b then x.neg else x

/-- The elementwise fused form, with the addend `d`. -/
def FFmt.fused (f : FFmt) (o : FusedOp) (r : Rnd) (a b d : Nat) : Nat × AFlags :=
  let p := (f.decode a).mul (f.decode b)
  f.sum r [p.1.negIf o.negP, (f.decode d).negIf o.negD] p.2

/-- The four-way dot of FP8 elements into an FP32 addend (R193). Its four products and the addend are the terms of one exact sum: an
exact zero has the sign of such a sum, where the rule gives none for a p whose products cancel or are zeros of both signs (log 43:
DESIGN CHOICE). -/
def FFmt.dot (f : FFmt) (o : FusedOp) (r : Rnd) (as bs : List Nat) (d : Nat) : Nat × AFlags :=
  let ps := List.zipWith (fun a b => (f.decode a).mul (f.decode b)) as bs
  fp32.sum r (ps.map (fun p => p.1.negIf o.negP) ++ [(fp32.decode d).negIf o.negD]) (AFlags.union (ps.map (·.2)))

/-! ### Comparisons and extremes (R194, R197) -/

/-- Orders the encodings of finite values and infinities; -0 lies below +0. -/
def FFmt.key (f : FFmt) (x : Nat) : Int := if f.sign ≤ x then -((x - f.sign : Nat) : Int) - 1 else x

/-- The larger (or smaller) of two operands; `mag` compares magnitudes first (R194). -/
def FFmt.extreme (f : FFmt) (larger mag : Bool) (a b : Nat) : Nat × AFlags :=
  let x := f.decode a
  let y := f.decode b
  if x.isNan || y.isNan then (f.nan, AFlags.nv.when (x.isSig || y.isSig))
  else if mag && a % f.sign != b % f.sign then (if decide (b % f.sign < a % f.sign) == larger then a else b, 0)
  else (if decide (f.key b ≤ f.key a) == larger then a else b, 0)

/-- The integer forms (R194): `w` is the width; the magnitude of the most negative value is `2^(w-1)`. -/
def intExtreme (w : Nat) (larger mag : Bool) (a b : Nat) : Nat :=
  let x := (BitVec.ofNat w a).toInt
  let y := (BitVec.ofNat w b).toInt
  if mag && x.natAbs != y.natAbs then (if decide (y.natAbs < x.natAbs) == larger then a else b)
  else if decide (y ≤ x) == larger then a else b

/-- A compare of FP32 values, by the code of VCMP: eq, lt, le, un (R197). -/
def fpCmp (cc : Nat) (a b : Nat) : Bool × AFlags :=
  let x := fp32.decode a
  let y := fp32.decode b
  if x.isNan || y.isNan then (cc == 3, AFlags.nv.when (cc == 1 || cc == 2 || x.isSig || y.isSig))
  else
    let k := fun (n : Nat) => if fp32.sign ≤ n then -((n - fp32.sign : Nat) : Int) else (n : Int)
    (match cc with
      | 0 => k a == k b
      | 1 => decide (k a < k b)
      | 2 => decide (k a ≤ k b)
      | _ => false, 0)

/-! ### Conversions (R71-R73) -/

/-- Rounds an exact value to a format by the rules of a conversion: FP8 targets saturate, or follow .ns (R72). -/
def FFmt.convRound (f : FFmt) (r : Rnd) (ns : Bool) (neg : Bool) (m : Nat) (e : Int) : Nat × AFlags :=
  if m = 0 then (f.signed neg 0, 0)
  else if 8 < f.eb + f.fb then f.round r neg m e
  else if f.maxFin < (f.roundMag r neg m e).1 then
    if ns then (match f.inf with
      | some _ => f.overflow r neg
      | none => f.nan, AFlags.of ||| AFlags.nx)
    else (f.signed neg f.maxFin, AFlags.of ||| AFlags.sat ||| AFlags.nx)
  else f.round r neg m e

/-- From float to float (R71, R72). -/
def FFmt.convert (src dst : FFmt) (r : Rnd) (ns : Bool) (x : Nat) : Nat × AFlags :=
  match src.decode x with
  | .nan s => (dst.nan, AFlags.nv.when s)
  | .inf n =>
    if 8 < dst.eb + dst.fb then (dst.signed n (dst.inf.getD dst.nan), 0)
    else if !ns then (dst.signed n dst.maxFin, AFlags.sat)
    else match dst.inf with
      | some i => (dst.signed n i, 0)
      | none => (dst.nan, AFlags.nv)
  | .fin n m e => dst.convRound r ns n m e

/-- A signed integer of width `w`, saturated, and whether it was. -/
def saturate (w : Nat) (x : Int) : Nat × Bool :=
  let hi : Int := 2 ^ (w - 1) - 1
  let lo : Int := -(2 ^ (w - 1))
  let y := if x < lo then lo else if hi < x then hi else x
  ((BitVec.ofInt w y).toNat, x != y)

/-- From float to a signed integer of width `w` (R73). -/
def FFmt.toIntW (src : FFmt) (w : Nat) (r : Rnd) (x : Nat) : Nat × AFlags :=
  let bad := AFlags.sat ||| AFlags.nv ||| AFlags.nx
  match src.decode x with
  | .nan _ => (0, AFlags.nv)
  | .inf n => ((saturate w (if n then -(2 ^ w) else 2 ^ w)).1, bad)
  | .fin n m e =>
    let a := roundQ r n m e 0
    let s := saturate w (if n then -(a.1 : Int) else a.1)
    (s.1, if s.2 then bad else AFlags.nx.when a.2)

/-- An element of a source type as an element of a target type (R71-R73, R200). -/
def convertElem (tt st : VTy) (r : Rnd) (ns : Bool) (x : Nat) : Nat × AFlags :=
  if intTy st then
    let v := (BitVec.ofNat st.width x).toInt
    if intTy tt then
      let s := saturate tt.width v
      (s.1, if s.2 then AFlags.sat ||| AFlags.nx else 0)
    else (tyFmt tt).convRound r ns (decide (v < 0)) v.natAbs 0
  else if intTy tt then (tyFmt st).toIntW tt.width r x
  else (tyFmt st).convert (tyFmt tt) r ns x

/-! ### The E8 scale (R74-R77) -/

/-- Quantisation of an FP32 value with a code: the int8 value (R76). -/
def quantise (x code : Nat) : Int × AFlags :=
  if code = 255 then (0, AFlags.nsc)
  else match fp32.decode x with
    | .nan _ => (0, AFlags.nv)
    | .inf n => (if n then -127 else 127, AFlags.sat)
    | .fin n m e =>
      let a := roundQ .rn n m (e - ((code : Int) - 127)) 0
      let q := if 127 < a.1 then 127 else a.1
      (if n then -(q : Int) else q, AFlags.nx.when (a.2 || decide (127 < a.1)) ||| AFlags.sat.when (decide (127 < a.1)))

/-- Dequantisation: q * 2^(c-127) in FP32 (R77); a product beyond FP32 overflows by R69 (log 14). -/
def dequantise (q : Int) (code : Nat) : Nat × AFlags :=
  if code = 255 then (fp32.nan, AFlags.nsc)
  else fp32.convRound .rn false (decide (q < 0)) q.natAbs ((code : Int) - 127)

/-- Whether a magnitude `m * 2^e` is at most `127 * 2^k`. -/
def le127 (m : Nat) (e k : Int) : Bool :=
  if k ≤ e then decide (m * 2 ^ (e - k).toNat ≤ 127) else decide (m ≤ 127 * 2 ^ (k - e).toNat)

/-- The larger of two magnitudes. -/
def maxMag (a b : Nat × Int) : Nat × Int :=
  if a.1 = 0 then b else if b.1 = 0 then a
  else
    let e0 := min a.2 b.2
    if a.1 * 2 ^ (a.2 - e0).toNat < b.1 * 2 ^ (b.2 - e0).toNat then b else a

/-- The Accord scale rule (R75): the code for the largest magnitude of FP32 values. -/
def e8Code (xs : List Nat) : Nat :=
  let vs := xs.map fp32.decode
  if vs.any FVal.isNan then 255
  else if vs.any fun v => v == .inf false || v == .inf true then 254
  else
    let m := vs.foldl (fun a v => match v with
      | .fin _ m e => maxMag a (m, e)
      | _ => a) (0, (0 : Int))
    if m.1 = 0 then 0
    else
      let c := (List.range 254).findIdx fun (i : Nat) => le127 m.1 m.2 ((i : Int) - 126)
      min c 253 + 1

/-! ### The residue triple (R79-R81) -/

/-- The channels of a container, each reduced (R79). -/
def resCh (x : Nat) : Nat × Nat × Nat := (x % 256 % 255, x / 256 % 256, x / 65536 % 512 % 257)
/-- The container of three residues. -/
def resPack (a b c : Nat) : Nat := c * 65536 + b * 256 + a
/-- A container with its fields reduced and its top bits zero (R79). -/
def resCanon (x : Nat) : Nat := let r := resCh x; resPack r.1 r.2.1 r.2.2
/-- The residues of an integer. -/
def resOf (x : Int) : Nat := resPack (x % 255).toNat (x % 256).toNat (x % 257).toNat
/-- A residue sum with an integer added (R80). -/
def resAdd (x : Nat) (d : Int) : Nat :=
  let r := resCh x
  resPack (((r.1 : Int) + d) % 255).toNat (((r.2.1 : Int) + d) % 256).toNat (((r.2.2 : Int) + d) % 257).toNat
/-- CRT(r) (R81). -/
def crt (x : Nat) : Int :=
  let r := resCh x
  let y := (r.1 * 8421376 + r.2.1 * 16711425 + r.2.2 * 8421120) % 16776960
  if 8388480 ≤ y then (y : Int) - 16776960 else y

/-- One group's step of a drain (R83): the output element after it, and the flags. -/
def drainStep (res ea w16 o : Nat) : Nat × AFlags :=
  let s := crt res
  let f := if ea = 255 then (fp32.nan, AFlags.nsc)
    else fp32.convRound .rn false (decide (s < 0)) s.natAbs ((ea : Int) - 127)
  let w := fp16.convert fp32 .rn false w16
  let p := fp32.mul .rn f.1 w.1
  let z := fp32.add .rn o p.1
  (z.1, f.2 ||| w.2 ||| p.2 ||| z.2)

/-! ### The exponential, the reciprocal and its square root (R84, R202) -/

/-- The integer square root of `x`, by bits from `2^n` down; `r` is the root so far. -/
def isqrt (x : Nat) : Nat → Nat → Nat
  | 0, r => r
  | n + 1, r => isqrt x n (if (r + 2 ^ n) * (r + 2 ^ n) ≤ x then r + 2 ^ n else r)

/-- 2 to a fraction, to 160 bits: the product of the roots 2^(1/2^i) for the bits of the fraction; `c` is the root before,
`acc` the product, both in units of 2^-160 (R84: no FP32 argument needs more to round its result). -/
def exp2Frac (f : Nat) : Nat → Nat → Nat → Nat
  | 0, _, acc => acc
  | n + 1, c, acc =>
    let c := isqrt (c * 2 ^ 160) 162 0
    exp2Frac f n c (if tb f n then acc * c / 2 ^ 160 else acc)

/-- VEXP2 of an FP32 value (R84); the flag flz marks a flushed lane. -/
def fpExp2 (x : Nat) : Nat × AFlags :=
  match fp32.decode x with
  | .nan s => (fp32.nan, AFlags.nv.when s)
  | .inf n => (if n then 0 else 0x7F800000, 0)
  | .fin n m e =>
    let mag := m * 2 ^ (e + 160).toNat
    let y : Int := if n then -(mag : Int) else mag
    if y ≥ 128 * 2 ^ 160 then (0x7F800000, AFlags.of ||| AFlags.nx)
    else if y < -126 * 2 ^ 160 then (0, AFlags.flz ||| AFlags.nx)
    else
      let k := y.ediv (2 ^ 160)
      let f := (y.emod (2 ^ 160)).toNat
      if f = 0 then fp32.round .rn false 1 k
      else fp32.round .rn false (2 * exp2Frac f 160 (2 * 2 ^ 160) (2 ^ 160) + 1) (k - 161)

/-- VRCP of an FP32 value (R202). -/
def fpRcp (x : Nat) : Nat × AFlags :=
  match fp32.decode x with
  | .nan s => (fp32.nan, AFlags.nv.when s)
  | .inf n => (fp32.signed n 0, 0)
  | .fin n m e =>
    if m = 0 then (fp32.signed n 0x7F800000, AFlags.dz)
    else
      let k := m.log2 + 64
      fp32.round .rn n (2 * (2 ^ k / m) + (if 2 ^ k % m = 0 then 0 else 1)) (-(k : Int) - e - 1)

/-- VRSQ of an FP32 value (R202). -/
def fpRsq (x : Nat) : Nat × AFlags :=
  match fp32.decode x with
  | .nan s => (fp32.nan, AFlags.nv.when s)
  | .inf n => if n then (fp32.nan, AFlags.nv) else (0, 0)
  | .fin n m e =>
    if m = 0 then (fp32.signed n 0x7F800000, AFlags.dz)
    else if n then (fp32.nan, AFlags.nv)
    else
      let m' := if e % 2 = 0 then m else 2 * m
      let e' := if e % 2 = 0 then e else e - 1
      let k := 128
      let r := isqrt (2 ^ (2 * k) / m') (k + 1) 0
      fp32.round .rn false (2 * r + (if r * r * m' = 2 ^ (2 * k) then 0 else 1)) (-(k : Int) - e' / 2 - 1)

end Sys2Proof.Machine
end

