-- ==== Sys2Proof/Machine/Vector.lean ====
section
/-! DEFINITION. The vector instructions (R187-R207). Each instruction's effect is an `Eff`, which says nothing of the PC, so
that a thread and its core's Diffuser run the same effect (R190, R227). -/

namespace Sys2Proof.Machine

/-! ### Effects -/

/-- What an effect gives: it is done; it parks to issue again; it parks with what is left of it; it traps (R22, R23). -/
inductive Eff where
  | done (s : State)
  | park (cause : Nat) (w : Wait) (s : State)
  | rest (cause : Nat) (w : Wait) (r : Rest) (s : State)
  | trap (cause : Nat) (addr : Word) (s : State)

/-- Whether a Diffuser sequence of the running thread runs (R227). -/
def State.seqRuns (s : State) : Bool :=
  (s.core s.myCore).dif.owner == some s.cur && (s.core s.myCore).dif.run.isSome

/-- The address that a piece's trap names: its own for an element, that of the access for a piece of a VLD. -/
def Piece.addr (p : Piece) : Word := BitVec.ofNat 64 (if p.len = 4 then p.va else p.va / 128 * 128)
/-- The link of a park for pieces of a vector load from another device (R374, R376). -/
def State.onLink (s : State) (w : Wait) : State :=
  match w with
  | .pieces ps _ => (match ps.find? fun p => devOfAddr p.pa != s.myDev with
    | some p => s.modMe fun t => { t with park := t.park.map fun q => { q with
        via := s.viaOf s.cur (devOfAddr p.pa) p.addr } }
    | none => s)
  | _ => s
/-- The effect as the end of the running instruction of `nw` words. -/
def Eff.toState (e : Eff) (nw : Nat) : State :=
  match e with
  | .done s => s.finish nw
  | .park c w s => s.parkRe c w nw
  | .rest c w r s => (s.parkAt s.cur c w r nw false).onLink w
  | .trap c a s => s.trap c a nw

/-- The state of an effect. -/
def Eff.state : Eff → State
  | .done s => s
  | .park _ _ s => s
  | .rest _ _ _ s => s
  | .trap _ _ s => s

/-- An effect that translates pages one after another (R316): where one misses the boundary TLB, the thread parks under
cause 1 until every page is translated, and then issues again. -/
def withWalks (s : State) (f : State → Eff) : Eff :=
  let ck := s.myCluster
  let t := (f s).state
  if (s.me.park.map (·.rest)) = some .again ∨ (t.cluster ck).tlb.all (s.cluster ck).tlb.contains then f s
  else .rest 1 .latency .again
    ((s.modCluster ck fun x => { x with tlb := (t.cluster ck).tlb }).modDie (dieOf ck) fun x =>
      { x with tlb := (t.die (dieOf ck)).tlb })

/-- Whether a vector destination is a v register: a region forbids its write, but no push (R183, R206). -/
def isVreg : VOpd → Bool
  | .v _ => true
  | .q _ => false
/-- An instruction of page 1 or 2 by its effect: it waits for the thread's own sequence, and takes the vector unit's clock
(R227). -/
def runEff (p : Pfx) (forbidden : Bool) (eff : State → Eff) (s : State) : Res :=
  run p (nwX p) forbidden s fun s =>
    if s.seqRuns then s.parkRe 9 .diffuser (nwX p)
    else (eff (s.modCore s.myCore fun c => { c with vecAt := s.clock })).toState (nwX p)

/-- The stream and register sources and the stream destination of an effect: misuse, empty registers, a full queue, elements
that have not arrived, and then the pops (R52, R53, R190). -/
def withVec (srcs : List VOpd) (gs : List (Fin 32)) (dst : List VOpd) (s : State) (f : List (BitVec 1024) → State → Eff) :
    Eff :=
  if ((qRegs srcs).any fun r => s.me.qBad r false true) || (qRegs dst).any fun r => s.me.qBad r true true then
    .trap 0x10 0 s
  else match gs.find? fun r => !s.me.full r with
    | some r => .park 2 (.reg r) s
    | none =>
      match (qRegs dst).find? fun r => decide (Config.qdepth ≤ (s.queueOf s.cur r).length) with
      | some r => .park 8 (.streamOut r) s
      | none =>
        let need := fun r => ((qRegs srcs).filter fun r' => s.me.q[r'].queue == s.me.q[r].queue).length
        match (qRegs srcs).find? fun r => decide ((s.queueOf s.cur r).length < need r) with
        | some r => .park 7 (.streamIn r (need r)) s
        | none =>
          let x := s.popOpds srcs
          f x.1 x.2

/-! ### Lanes and elements (R51, R65) -/

/-- Lane `i` of a vector. -/
def laneOf (x : BitVec 1024) (i : Nat) : Nat := x.toNat / 2 ^ (32 * i) % 2 ^ 32
/-- A number from fields of `w` bits, lowest first. -/
def packElems (w : Nat) : List Nat → Nat
  | [] => 0
  | x :: xs => x % 2 ^ w + 2 ^ w * packElems w xs
/-- Element `p` of `w` bits of a lane. -/
def elemOf (w lane p : Nat) : Nat := lane / 2 ^ (w * p) % 2 ^ w
/-- A function of elements over the lanes of its sources. -/
def byElem (w : Nat) (f : List Nat → Nat × AFlags) (xs : List Nat) : Nat × AFlags :=
  let rs := (List.range (32 / w)).map fun p => f (xs.map fun x => elemOf w x p)
  (packElems w (rs.map (·.1)), AFlags.union (rs.map (·.2)))
/-- The lane mask that the mask operand of a format-A word names. -/
def Slot.mask (t : Slot) (m : Fin 4) : BitVec 32 := t.rdM ⟨m.val, by omega⟩
/-- The flags of the lanes a mask sets, and how many of those lanes were flushed (R84, R190, R191). -/
def laneFlags (mask : BitVec 32) (fs : List AFlags) : AFlags × Nat :=
  let on := ((List.range 32).filter fun i => tb mask.toNat i).map fun i => fs.getD i 0
  (AFlags.union on, (on.filter fun f => f &&& AFlags.flz != 0).length)

/-- Writes a v register or pushes an outbound queue. -/
def State.putVec (s : State) (d : VOpd) (x : BitVec 1024) : State :=
  match d with
  | .v r => s.modMe fun t => t.wrV r x
  | .q r => s.setQueue s.cur r (s.queueOf s.cur r ++ [x])
/-- ORs flags into the VSW. -/
def State.flag (s : State) (f : AFlags × Nat) : State := s.modMe fun t => { t with vsw := vswAdd t.vsw f.1 f.2 }
/-- The value a destination holds before: a pushed element has none. -/
def Slot.oldVec (t : Slot) (d : VOpd) : BitVec 1024 :=
  match d with
  | .v r => t.rdV r
  | .q _ => 0

/-- The lane loop of R190: `f` gives lane `i` from the source lanes and the old destination lane. -/
def vop (srcs : List VOpd) (gs : List (Fin 32)) (d : VOpd) (mask : BitVec 32)
    (f : Nat → List Nat → Nat → Nat × AFlags) (s : State) : Eff :=
  withVec srcs gs [d] s fun xs s =>
    let old := s.me.oldVec d
    let rs := (List.range 32).map fun i => f i (xs.map (laneOf · i)) (laneOf old i)
    .done ((s.flag (laneFlags mask (rs.map (·.2)))).putVec d (mergeLanes old mask (rs.map (·.1))))

/-- A function of one element. -/
def un (f : Nat → Nat × AFlags) : List Nat → Nat × AFlags
  | a :: _ => f a
  | _ => (0, 0)
/-- A function of two elements. -/
def bin (f : Nat → Nat → Nat × AFlags) : List Nat → Nat × AFlags
  | a :: b :: _ => f a b
  | _ => (0, 0)

/-! ### Elementwise arithmetic -/

/-- A two-source instruction by elements of a type. -/
def vbin (t : VTy) (d a b : VOpd) (m : Fin 4) (f : Nat → Nat → Nat × AFlags) (s : State) : Eff :=
  vop [a, b] [] d (s.me.mask m) (fun _ xs _ => byElem t.width (bin f) xs) s

/-- VADD, VSUB and VMUL on elements (R192). -/
def vaddE (t : VTy) (r : Rnd) (a b : Nat) : Nat × AFlags := if intTy t then (a + b, 0) else (tyFmt t).add r a b
def vsubE (t : VTy) (r : Rnd) (a b : Nat) : Nat × AFlags :=
  if intTy t then (a + 2 ^ t.width - b, 0) else (tyFmt t).sub r a b
def vmulE (t : VTy) (r : Rnd) (a b : Nat) : Nat × AFlags := if intTy t then (a * b, 0) else (tyFmt t).mul r a b

def effVadd (t : VTy) (r : Rnd) (d a b : VOpd) (m : Fin 4) (s : State) : Eff := vbin t d a b m (vaddE t r) s
def effVsub (t : VTy) (r : Rnd) (d a b : VOpd) (m : Fin 4) (s : State) : Eff := vbin t d a b m (vsubE t r) s
def effVmul (t : VTy) (r : Rnd) (d a b : VOpd) (m : Fin 4) (s : State) : Eff := vbin t d a b m (vmulE t r) s

/-- A lane of the fused family (R193): the FP8 types form a four-way dot into FP32. -/
def fusedLane (o : FusedOp) (t : VTy) (r : Rnd) (a b d : Nat) : Nat × AFlags :=
  if t.width = 8 then
    (tyFmt t).dot o r ((List.range 4).map (elemOf 8 a)) ((List.range 4).map (elemOf 8 b)) d
  else byElem t.width (fun xs => match xs with
    | [x, y, z] => (tyFmt t).fused o r x y z
    | _ => (0, 0)) [a, b, d]

/-- The fused family. -/
def effFused (o : FusedOp) (t : VTy) (r : Rnd) (d : Fin 16) (a b : VOpd) (m : Fin 4) (s : State) : Eff :=
  vop [a, b] [] (.v d) (s.me.mask m) (fun _ xs old => match xs with
    | [x, y] => fusedLane o t r x y old
    | _ => (0, 0)) s

/-- VMAX, VMIN, VMAXA and VMINA on elements (R194). -/
def extremeE (t : VTy) (larger mag : Bool) (a b : Nat) : Nat × AFlags :=
  if intTy t then (intExtreme t.width larger mag a b, 0) else (tyFmt t).extreme larger mag a b
def effExtreme (larger mag : Bool) (t : VTy) (d a b : VOpd) (m : Fin 4) (s : State) : Eff :=
  vbin t d a b m (extremeE t larger mag) s

/-- VABS and VNEG on elements (R195). -/
def signE (t : VTy) (neg : Bool) (a : Nat) : Nat × AFlags :=
  if intTy t then (if neg || tb a (t.width - 1) then (2 ^ t.width - a, 0) else (a, 0))
  else match (tyFmt t).decode a with
    | .nan sg => ((tyFmt t).nan, AFlags.nv.when sg)
    | _ => (if neg then a ^^^ (tyFmt t).sign else a % (tyFmt t).sign, 0)
def effSign (neg : Bool) (t : VTy) (d a : VOpd) (m : Fin 4) (s : State) : Eff :=
  vop [a] [] d (s.me.mask m) (fun _ xs _ => byElem t.width (un (signE t neg)) xs) s

/-! ### Bits and shifts (R196) -/

def effBits (f : Nat → Nat → Nat) (d a b : VOpd) (m : Fin 4) (s : State) : Eff :=
  vop [a, b] [] d (s.me.mask m) (fun _ xs _ => bin (fun x y => (f x y, 0)) xs) s

/-- A shift of an element by a count modulo its width. -/
def shiftE (t : VTy) (f : Nat → Nat → Nat → Nat) (imm : Int) (x : Nat) : Nat := f t.width x (imm % t.width).toNat
def effShift (f : Nat → Nat → Nat → Nat) (t : VTy) (d : Fin 16) (a : VOpd) (imm : Int) (m : Fin 4) (s : State) : Eff :=
  vop [a] [] (.v d) (s.me.mask m) (fun _ xs _ => byElem t.width (un fun x => (shiftE t f imm x, 0)) xs) s
def shlE (_ x n : Nat) : Nat := x * 2 ^ n
def shrE (_ x n : Nat) : Nat := x / 2 ^ n
def sraE (w x n : Nat) : Nat := ((BitVec.ofNat w x).sshiftRight n).toNat

/-! ### Compare and select (R197) -/

/-- A compare of lanes by the code of VCMP. -/
def cmpLane (cc : Nat) (t : VTy) (a b : Nat) : Bool × AFlags :=
  if intTy t then
    let x := (BitVec.ofNat 32 a).toInt
    let y := (BitVec.ofNat 32 b).toInt
    (match cc with
      | 0 => x == y
      | 1 => decide (x < y)
      | 2 => decide (x ≤ y)
      | _ => false, 0)
  else fpCmp cc a b

/-- VCMP: bit i of mD for each lane of the mask. -/
def effVcmp (cc : Nat) (neg : Bool) (t : VTy) (d : Fin 8) (a b : VOpd) (m : Fin 4) (s : State) : Eff :=
  withVec [a, b] [] [] s fun xs s =>
    let mask := s.me.mask m
    let rs := (List.range 32).map fun i => cmpLane cc t (laneOf (xs.getD 0 0) i) (laneOf (xs.getD 1 0) i)
    let new := BitVec.ofNat 32 (ofBits (rs.map fun r => r.1 != neg))
    .done ((s.flag (laneFlags mask (rs.map (·.2)))).modMe fun t => t.wrM d ((t.rdM d &&& ~~~mask) ||| (new &&& mask)))

/-- VSEL writes every lane. -/
def effVsel (d : Fin 16) (a b : VOpd) (m : Fin 4) (s : State) : Eff :=
  let mask := s.me.mask m
  vop [a, b] [] (.v d) 0xFFFFFFFF (fun i xs _ => bin (fun x y => (if tb mask.toNat i then x else y, 0)) xs) s

/-! ### Masks (R198) -/

/-- mand, mor, mxor, mandn. -/
def effMask (f : BitVec 32 → BitVec 32 → BitVec 32) (d a b : Fin 8) (s : State) : Eff :=
  .done (s.modMe fun t => t.wrM d (f (t.rdM a) (t.rdM b)))
/-- The number of one bits. -/
def popc32 (x : BitVec 32) : Nat := ((List.range 32).filter fun i => tb x.toNat i).length

/-! ### Reductions (R199) -/

/-- Combine, where an absent term is neutral. -/
def combine (f : Nat → Nat → Nat × AFlags) (x y : Option Nat × AFlags) : Option Nat × AFlags :=
  match x.1, y.1 with
  | some a, some b => (some (f a b).1, x.2 ||| y.2 ||| (f a b).2)
  | some a, none => (some a, x.2 ||| y.2)
  | none, b => (b, x.2 ||| y.2)
/-- The levels of a reduction: the upper half is combined into the lower one. -/
def redLevels (f : Nat → Nat → Nat × AFlags) : Nat → List (Option Nat × AFlags) → List (Option Nat × AFlags)
  | 0, l => l
  | n + 1, l => redLevels f n (List.zipWith (combine f) (l.take (2 ^ n)) (l.drop (2 ^ n)))

/-- VRED by its Combine. -/
def effVred (t : VTy) (f : Nat → Nat → Nat × AFlags) (d : Fin 32) (a : VOpd) (m : Fin 4) (s : State) : Eff :=
  withVec [a] [] [] s fun xs s =>
    let mask := s.me.mask m
    let ts := (List.range 32).map fun i =>
      (if tb mask.toNat i then some (laneOf (xs.getD 0 0) i) else none, AFlags.none)
    let r := (redLevels f 5 ts).headD (none, 0)
    let x := r.1.getD 0 % 2 ^ 32
    .done ((s.flag (r.2, 0)).modMe fun u => u.wr d (if intTy t then signExtend 4 x else BitVec.ofNat 64 x))

/-! ### Conversions (R200, R201) -/

/-- The lanes that VCVT writes of a lane of its sources, lowest register first, with the flags; `old` is the lane of vD. -/
def cvtLane (tt st : VTy) (r : Rnd) (ns part : Bool) (a0 a1 old : Nat) : List Nat × AFlags :=
  let ws := st.width
  let wt := tt.width
  let s := 32 / ws
  let t := 32 / wt
  let cv := convertElem tt st r ns
  let all := fun (rs : List (Nat × AFlags)) => AFlags.union (rs.map (·.2))
  if ws = wt then
    let rs := (List.range s).map fun p => cv (elemOf ws a0 p)
    ([packElems wt (rs.map (·.1))], all rs)
  else if ws = 2 * wt then
    let rs := (List.range (2 * s)).map fun i => cv (elemOf ws (if i < s then a0 else a1) (i % s))
    ([packElems wt (rs.map (·.1))], all rs)
  else if wt < ws then
    let rs := [cv a0, cv a1]
    let at_ := 2 * part.toNat
    ([packElems wt ((List.range 4).map fun p => if at_ ≤ p ∧ p < at_ + 2 then ((rs.map (·.1)).getD (p - at_) 0) else
      elemOf wt old p)], all rs)
  else if wt = 2 * ws then
    let rs := (List.range (2 * t)).map fun i => cv (elemOf ws a0 i)
    ([packElems wt ((rs.take t).map (·.1)), packElems wt ((rs.drop t).map (·.1))], all rs)
  else
    let rs := [cv (elemOf ws a0 (2 * part.toNat)), cv (elemOf ws a0 (2 * part.toNat + 1))]
    (rs.map (·.1), all rs)

/-- VCVT: a masked-off lane is kept in every register written. -/
def effVcvt (tt st : VTy) (r : Rnd) (ns part : Bool) (d a : Fin 16) (m : Fin 4) (s : State) : Eff :=
  let t := s.me
  let mask := t.mask m
  let rs := (List.range 32).map fun i =>
    cvtLane tt st r ns part (laneOf (t.rdV a) i) (laneOf (t.rdV (a + 1)) i) (laneOf (t.rdV d) i)
  let s := s.flag (laneFlags mask (rs.map (·.2)))
  .done (s.modMe fun t =>
    let u := t.wrV d (mergeLanes (t.rdV d) mask (rs.map fun x => x.1.getD 0 0))
    if st.width < tt.width then u.wrV (d + 1) (mergeLanes (t.rdV (d + 1)) mask (rs.map fun x => x.1.getD 1 0)) else u)

/-- VQUANT: the int8 result sign-extended (R76). -/
def effVquant (d a : VOpd) (b : Fin 32) (m : Fin 4) (s : State) : Eff :=
  let code := (s.me.rd b).toNat % 256
  vop [a] [b] d (s.me.mask m) (fun _ xs _ => un (fun x =>
    ((BitVec.ofInt 32 (quantise x code).1).toNat, (quantise x code).2)) xs) s
/-- VDEQ (R77). -/
def effVdeq (d a : VOpd) (b : Fin 32) (m : Fin 4) (s : State) : Eff :=
  let code := (s.me.rd b).toNat % 256
  vop [a] [b] d (s.me.mask m) (fun _ xs _ => un (fun x => dequantise (BitVec.ofNat 8 x).toInt code) xs) s

/-- VEXP2, VRCP and VRSQ (R202). -/
def effUnary (f : Nat → Nat × AFlags) (d a : VOpd) (m : Fin 4) (s : State) : Eff :=
  vop [a] [] d (s.me.mask m) (fun _ xs _ => un f xs) s

/-! ### Lane moves (R203) -/

def effVmov (d a : VOpd) (m : Fin 4) (s : State) : Eff :=
  vop [a] [] d (s.me.mask m) (fun _ xs _ => un (fun x => (x, 0)) xs) s
def effVbcast (d : Fin 16) (a : Fin 32) (m : Fin 4) (s : State) : Eff :=
  let x := (s.me.rd a).toNat
  vop [] [a] (.v d) (s.me.mask m) (fun _ _ _ => (x, 0)) s
def effVgetl (d : Fin 32) (a : Fin 16) (b : Fin 32) (s : State) : Eff :=
  withVec [] [b] [] s fun _ s =>
    .done (s.modMe fun t => t.wr d (BitVec.ofNat 64 (laneOf (t.rdV a) ((t.rd b).toNat % 32))))
def effVsetl (d : Fin 16) (a b : Fin 32) (s : State) : Eff :=
  withVec [] [a, b] [] s fun _ s =>
    .done (s.modMe fun t =>
      let x := (t.rd a).toNat
      t.wrV d (mergeLanes (t.rdV d) (BitVec.ofNat 32 (2 ^ ((t.rd b).toNat % 32))) (List.replicate 32 x)))

/-! ### Memory (R204, R205) -/

/-- The lanes a mask sets, rising. -/
def lanesOn (mask : BitVec 32) : List Nat := (List.range 32).filter fun i => tb mask.toNat i
/-- Whether a mask sets a lane of each half of a vector. -/
def halfOn (mask : BitVec 32) (h : Nat) : Bool := (lanesOn mask).any fun i => i / 16 == h
/-- The cells of the lanes a mask sets, from an address on, lane `i` at `at_ i`. -/
def laneCells (x : BitVec 1024) (mask : BitVec 32) (at_ : Nat → Nat) : List Host.Cell :=
  (lanesOn mask).flatMap fun i => cellsAt (at_ i) (toBytes 4 (laneOf x i))

/-- A checked access of an effect. -/
def effAcc (s : State) (tag : Option (BitVec 32)) (va : Word) (n al need : Nat) (posted : Bool) (f : Acc → Eff) : Eff :=
  if va.toNat % al ≠ 0 then .trap 5 va s
  else match s.check tag va.toNat n need posted with
    | .trap c s => .trap c va s
    | .park w s => .park 1 w s
    | .ok a => f a

/-- The later of two waits for replies. -/
def Wait.later : Wait → Wait → Wait
  | .time a, .time b => .time (max a b)
  | .after a, .after b => .after (max a b)
  | .after a, .time b => .after (max a b)
  | .time a, .after b => .after (max a b)
  | .after a, _ => .after a
  | _, .after b => .after b
  | _, _ => .latency

/-! ### Pieces (R205, R265) -/

/-- A piece as a checked access. -/
def Piece.acc (p : Piece) (s : State) : Acc :=
  { pa := p.pa, key := p.key, dev := devOfAddr p.pa, remote := devOfAddr p.pa ≠ s.myDev, s := s }
/-- The bytes of a piece in the lanes it writes of a register. -/
def Piece.put (p : Piece) (bs : List Byte) (v : BitVec 1024) : BitVec 1024 :=
  mergeLanes v p.lanes ((List.range 32).map fun j => ofBytes bs * 2 ^ (8 * p.at_) / 2 ^ (32 * j))
/-- Whether the L1 holds what a piece reads. -/
def State.pieceHit (s : State) (p : Piece) : Bool := (s.copyAt p.va p.pa).isSome
/-- What the reading of a piece traps with: that of its poisoned copy, or of its line at the home (R111, R382). -/
def State.pieceBad (s : State) (p : Piece) : Option (Nat × Word) :=
  match s.copyAt p.va p.pa with
  | some l => if l.bad then some (0x18, p.addr) else none
  | none => (s.badLine p.key (p.pa / 64)).map fun c => (c, p.addr)
/-- The reading of the pieces of a vector load: those that the L1 holds are read at once, the others on their own, at times the
spec leaves open (R205, R265). -/
def State.startPieces (s : State) (d : Fin 16) (ps : List Piece) : Eff :=
  let now := ps.filter s.pieceHit
  let late := ps.filter fun p => !s.pieceHit p
  let v := now.foldl (fun v p => p.put (s.viewBytes p.va (p.acc s) p.len) v) (s.me.rdV d)
  let w := match late, now with
    | [], [] => .latency
    | [], p :: l => l.foldl (fun w p => w.later (s.loadWait p.va)) (s.loadWait p.va)
    | late, _ => .pieces late d
  match now.findSome? s.pieceBad with
  | some b => .rest 1 .latency (.fault b.1 b.2) s
  | none => .rest 1 w (.finish [.v d v]) (now.foldl (fun s p => s.fillOne p.nt p.va (p.acc s)) s)
/-- A piece where its page is now: its home may have moved since it was translated (R320). -/
def State.pieceNow (s : State) (p : Piece) : Tr Piece :=
  if s.pieceHit p || !s.isMoved s.myPid p.pa then .ok p
  else ((s.reread p.va).dataPage s.myCore s.me.asid.toNat p.va).bind fun e => .ok { p with pa := e.1.pa p.va, key := e.1.key }
/-- One of the pieces that a thread waits for is read; with the last one the reply is on its way (R205, R255, R265). Where several
pieces are bad, the lowest of them traps. -/
def State.readPiece (s : State) (k i : Nat) : State :=
  let s := { s with cur := k }
  match s.me.park with
  | none => s
  | some q => match q.wait with
    | .pieces ps r => (match ps[i % ps.length]? with
      | none => s
      | some p =>
        let ends := fun (s : State) (c : Nat) (a : Word) =>
          s.modMe fun t => { t with park := some { q with wait := .latency, rest := .fault c a } }
        match s.pieceNow p with
        | .frozen => s
        | .fault c => ends s c p.addr
        | .ok x => match s.pieceBad x with
          | some b => let b := (ps.findSome? s.pieceBad).getD b
            ends (s.verify x.key (x.pa / 64)) b.1 b.2
          | none =>
            let put := fun (w : Wr) => match w with
              | .v r v => .v r (x.put (s.viewBytes x.va (x.acc s) x.len) v)
              | w => w
            let left := ps.eraseIdx (i % ps.length)
            let s := s.modMe fun t => { t with park := some { q with
              wait := if left.isEmpty then s.replyWait s.myCore else .pieces left r,
              rest := match q.rest with
                | .finish ws => .finish (ws.map put)
                | w => w } }
            if left.any fun y => y.pa / 64 == p.pa / 64 then s else s.fillOne x.nt x.va (x.acc s))
    | _ => s

/-- The pieces of a VLD: the bytes of the mask's lanes, 64 bytes within a device and 32 bytes from another (R60, R265). -/
def vldPieces (va : Nat) (a : Acc) (mask : BitVec 32) (nt : Bool) : List Piece :=
  let n := if a.remote then 32 else 64
  (List.range (128 / n)).filterMap fun i =>
    let lanes := mask &&& BitVec.ofNat 32 ((2 ^ (n / 4) - 1) * 2 ^ (n / 4 * i))
    if lanes = 0 then none
    else some { va := va + n * i, pa := a.pa + n * i, key := a.key, len := n, at_ := n * i, lanes := lanes, nt := nt }
/-- VLD of virtual memory: the bytes of all lanes are checked, those of the mask's lanes are read (R204). -/
def effVldVirt (h : Hints) (m : Fin 4) (d : Fin 16) (a : Fin 32) (off : Int) (s : State) : Eff :=
  withVec [] [a] [] s fun _ s =>
    let va := eaOf s.me a off 128
    effAcc s (s.me.tagOf a) va 128 128 1 false fun acc =>
      let ps := vldPieces va.toNat acc (acc.s.me.mask m) h.nt
      if ps.any fun p => acc.s.loadHeld p.va p.pa p.len then .park 1 .latency acc.s
      else (acc.s.fillNext h va.toNat acc 128).startPieces d ps

/-- The wait for the parts of a vector access that are still to be performed: once there is none, for the reply's time (R205, R265). -/
def partsWait (t : Option Nat) (ws : List Wr) : Wait :=
  match ws, t with
  | [], some t => .time t
  | [], none => .latency
  | ws, t => .words t ws
/-- A local vector access by its 8-byte words: at the own core on its clock, otherwise in the order that the next choices say, until
its reply (R92, R204, R265; log 23: DESIGN CHOICE for the own core). -/
def localEff (mode : LMode) (la : Nat) (ws : List Wr) (s : State) : Eff :=
  if mode != .ilv && s.lmOwn mode la then
    match ws.findSome? s.wrBad with
    | some (c, a, x) => .trap c a (s.verifyAll 0 x.1 x.2)
    | none => .done (ws.foldl (fun s w => s.applyWr s.cur w) s)
  else .rest 1 (partsWait (some (s.clock + 14)) ws) (.finish []) s
/-- The loads of the 8-byte words of a local VLD in which a mask sets a lane (R204, R265). -/
def lmLoads (d : Fin 16) (la : Word) (mask : BitVec 32) (pas : List Nat) : List Wr :=
  (List.range 16).filterMap fun i =>
    let m := mask &&& BitVec.ofNat 32 (3 * 2 ^ (2 * i))
    if m = 0 then none else some (.lmGetV d la m pas)
/-- Stores of some cells, by parts of `n` bytes (R265). -/
def lmStores (n : Nat) (cells : List Host.Cell) (tag : Option RelTag) : List Wr :=
  (cells.map (·.1 / n)).eraseDups.map fun b => .lmPut (cells.filter (·.1 / n == b)) tag
/-- One part of a vector access of local memory is performed (R265): what a load reads is kept for the end. -/
def State.doWord (s : State) (k i : Nat) : State :=
  match (s.slot k).park with
  | none => s
  | some q => match q.wait with
    | .words t ws => (match ws[i % ws.length]? with
      | none => s
      | some w =>
        let on := partsWait t (ws.eraseIdx (i % ws.length))
        let set := fun (s : State) (r : Rest) (on : Wait) => s.modSlot k fun u => { u with park := some { q with wait := on, rest := r } }
        match w with
        | .lmGetV r _ mask pas => (match s.wrBad w with
          | some (c, a, x) => set (s.verifyAll 0 x.1 x.2) (.fault c a) (partsWait t [])
          | none => (set s (match q.rest with
            | .finish l => .finish (l ++ [.vmerge r mask (BitVec.ofNat 1024 (lanesNat (s.lmLanes pas)))])
            | r => r) on).learn k)
        | w => set (s.applyWr k w) q.rest on)
    | _ => s

/-- The parts of a vector access still to be performed, of the park of slot `k`, are performed, lowest first (R205, R265). -/
def State.runParts (s : State) (k : Nat) : Nat → State
  | 0 => s
  | n + 1 => match (s.slot k).park with
    | some q => (match q.wait with
      | .pieces .. => (s.readPiece k 0).runParts k n
      | .words _ (_ :: _) => (s.doWord k 0).runParts k n
      | _ => s)
    | none => s

/-- VLD (R204). -/
def effVld (h : Hints) (sp : Space) (m : Fin 4) (d : Fin 16) (a : Fin 32) (off : Int) (s : State) : Eff :=
  match sp with
  | .virt => effVldVirt h m d a off s
  | .lm mode => withVec [] [a] [] s fun _ s =>
      let la := eaOf s.me a off 128
      if la.toNat % 128 ≠ 0 then .trap 5 la s
      else
        let pas := (List.range 32).map fun i => s.lmPa mode (la.toNat + 4 * i)
        localEff mode la.toNat (lmLoads d la (s.me.mask m) pas) s

/-- VST outside a region (R204). -/
def effVst (sp : Space) (m : Fin 4) (d : Fin 16) (a : Fin 32) (off : Int) (s : State) : Eff :=
  withVec [] [a] [] s fun _ s =>
    let va := eaOf s.me a off 128
    let x := s.me.rdV d
    let mask := s.me.mask m
    match sp with
    | .lm mode =>
      if va.toNat % 128 ≠ 0 then .trap 5 va s
      else
        let cells := laneCells x mask fun i => s.lmPa mode (va.toNat + 4 * i)
        localEff mode va.toNat (lmStores 8 cells s.me.rel) s
    | .virt => effAcc s (s.me.tagOf a) va 128 128 2 true fun acc =>
        if Config.sqdepth ≤ (acc.s.core acc.s.myCore).sq.length then .park 8 .storeQueue acc.s
        else
          let cells := laneCells x mask fun i => acc.pa + 4 * i
          if acc.window then windowStore va acc cells acc.s.me.rel (fun s c va => .trap c va s) (fun s w => .park 1 w s)
            (fun s _ => .rest 1 (partsWait none (lmStores 64 cells s.me.rel)) (.finish []) s)
          else .done (acc.s.enqueue va acc (.store cells) acc.s.me.rel)

/-- A virtual VST in a region: only the bytes of lanes set in its mask; none, no access (R206). -/
def vstRegion (nw : Nat) (m : Fin 4) (d : Fin 16) (a : Fin 32) (off : Int) (s : State) : State :=
  withFull s [a] nw fun s =>
    let va := eaOf s.me a off 128
    if va.toNat % 128 ≠ 0 then s.trap 5 va nw
    else match s.check (s.me.tagOf a) va.toNat 128 2 true with
      | .trap c s => s.trap c va nw
      | .park w s => s.parkRe 1 w nw
      | .ok acc =>
        let cells := laneCells (s.me.rdV d) (s.me.mask m) fun i => acc.pa + 4 * i
        match acc.s.me.region with
        | some r => if cells.isEmpty then acc.s.finish nw else acc.s.regionStore r va acc cells nw
        | none => acc.s.finish nw

/-- The elements of VGATHER in rising order of lanes; the first that fails a check ends it (R205). -/
def gather (tag : Option (BitVec 32)) (base : Word) (idx : BitVec 1024) (nt : Bool) : List Nat → List Piece → State →
    Eff ⊕ (List Piece × State)
  | [], ps, s => .inr (ps, s)
  | i :: l, ps, s =>
    let va := base + signExtend 4 (laneOf idx i) * 4
    if va.toNat % 4 ≠ 0 then .inl (.trap 5 va s)
    else match s.check tag va.toNat 4 1 false with
      | .trap c s => .inl (.trap c va s)
      | .park w s => .inl (.park 1 w s)
      | .ok acc =>
        if acc.s.loadHeld va.toNat acc.pa 4 then .inl (.park 1 .latency acc.s)
        else
          let p : Piece := { va := va.toNat, pa := acc.pa, key := acc.key, len := 4, at_ := 4 * i, lanes := BitVec.ofNat 32 (2 ^ i), nt := nt }
          gather tag base idx nt l (ps ++ [p]) acc.s

/-- VGATHER (R205). -/
def effVgather (h : Hints) (d : Fin 16) (a : Fin 32) (b : Fin 16) (m : Fin 4) (s : State) : Eff :=
  withVec [] [a] [] s fun _ s =>
    match gather (s.me.tagOf a) (s.me.rd a) (s.me.rdV b) h.nt (lanesOn (s.me.mask m)) [] s with
    | .inl e => e
    | .inr (ps, s) => if ps.isEmpty then .done s else s.startPieces d ps

/-! ### The instructions -/

/-- VADD (R192). -/
def execVadd (p : Pfx) (t : VTy) (r : Rnd) (d a b : VOpd) (m : Fin 4) (s : State) : Res :=
  runEff p (isVreg d) (effVadd t r d a b m) s
/-- VSUB (R192). -/
def execVsub (p : Pfx) (t : VTy) (r : Rnd) (d a b : VOpd) (m : Fin 4) (s : State) : Res :=
  runEff p (isVreg d) (effVsub t r d a b m) s
/-- VMUL (R192). -/
def execVmul (p : Pfx) (t : VTy) (r : Rnd) (d a b : VOpd) (m : Fin 4) (s : State) : Res :=
  runEff p (isVreg d) (effVmul t r d a b m) s
/-- VFMA (R193). -/
def execVfma (p : Pfx) (t : VTy) (r : Rnd) (d : Fin 16) (a b : VOpd) (m : Fin 4) (s : State) : Res :=
  runEff p true (effFused .fma t r d a b m) s
/-- VFMS (R193). -/
def execVfms (p : Pfx) (t : VTy) (r : Rnd) (d : Fin 16) (a b : VOpd) (m : Fin 4) (s : State) : Res :=
  runEff p true (effFused .fms t r d a b m) s
/-- VFNMA (R193). -/
def execVfnma (p : Pfx) (t : VTy) (r : Rnd) (d : Fin 16) (a b : VOpd) (m : Fin 4) (s : State) : Res :=
  runEff p true (effFused .fnma t r d a b m) s
/-- VFNMS (R193). -/
def execVfnms (p : Pfx) (t : VTy) (r : Rnd) (d : Fin 16) (a b : VOpd) (m : Fin 4) (s : State) : Res :=
  runEff p true (effFused .fnms t r d a b m) s
/-- VMAX (R194). -/
def execVmax (p : Pfx) (t : VTy) (d a b : VOpd) (m : Fin 4) (s : State) : Res :=
  runEff p (isVreg d) (effExtreme true false t d a b m) s
/-- VMIN (R194). -/
def execVmin (p : Pfx) (t : VTy) (d a b : VOpd) (m : Fin 4) (s : State) : Res :=
  runEff p (isVreg d) (effExtreme false false t d a b m) s
/-- VMAXA (R194). -/
def execVmaxa (p : Pfx) (t : VTy) (d a b : VOpd) (m : Fin 4) (s : State) : Res :=
  runEff p (isVreg d) (effExtreme true true t d a b m) s
/-- VMINA (R194). -/
def execVmina (p : Pfx) (t : VTy) (d a b : VOpd) (m : Fin 4) (s : State) : Res :=
  runEff p (isVreg d) (effExtreme false true t d a b m) s
/-- VCMP.eq (R197). -/
def execVcmpEq (p : Pfx) (neg : Bool) (t : VTy) (d : Fin 8) (a b : VOpd) (m : Fin 4) (s : State) : Res :=
  runEff p true (effVcmp 0 neg t d a b m) s
/-- VCMP.lt (R197). -/
def execVcmpLt (p : Pfx) (neg : Bool) (t : VTy) (d : Fin 8) (a b : VOpd) (m : Fin 4) (s : State) : Res :=
  runEff p true (effVcmp 1 neg t d a b m) s
/-- VCMP.le (R197). -/
def execVcmpLe (p : Pfx) (neg : Bool) (t : VTy) (d : Fin 8) (a b : VOpd) (m : Fin 4) (s : State) : Res :=
  runEff p true (effVcmp 2 neg t d a b m) s
/-- VCMP.un (R197). -/
def execVcmpUn (p : Pfx) (neg : Bool) (t : VTy) (d : Fin 8) (a b : VOpd) (m : Fin 4) (s : State) : Res :=
  runEff p true (effVcmp 3 neg t d a b m) s
/-- VSEL (R197): both types act alike (R189). -/
def execVsel (p : Pfx) (_ : VTy) (d : Fin 16) (a b : VOpd) (m : Fin 4) (s : State) : Res :=
  runEff p true (effVsel d a b m) s
/-- VAND (R196). -/
def execVand (p : Pfx) (d a b : VOpd) (m : Fin 4) (s : State) : Res := runEff p (isVreg d) (effBits (fun x y => x &&& y) d a b m) s
/-- VOR (R196). -/
def execVor (p : Pfx) (d a b : VOpd) (m : Fin 4) (s : State) : Res := runEff p (isVreg d) (effBits (fun x y => x ||| y) d a b m) s
/-- VXOR (R196). -/
def execVxor (p : Pfx) (d a b : VOpd) (m : Fin 4) (s : State) : Res := runEff p (isVreg d) (effBits (fun x y => x ^^^ y) d a b m) s
/-- VANDN (R196). -/
def execVandn (p : Pfx) (d a b : VOpd) (m : Fin 4) (s : State) : Res :=
  runEff p (isVreg d) (effBits (fun x y => x &&& (0xFFFFFFFF - y)) d a b m) s
/-- VSHL (R196). -/
def execVshl (p : Pfx) (t : VTy) (d : Fin 16) (a : VOpd) (imm : Int) (m : Fin 4) (s : State) : Res :=
  runEff p true (effShift shlE t d a imm m) s
/-- VSHR (R196). -/
def execVshr (p : Pfx) (t : VTy) (d : Fin 16) (a : VOpd) (imm : Int) (m : Fin 4) (s : State) : Res :=
  runEff p true (effShift shrE t d a imm m) s
/-- VSHRA (R196). -/
def execVshra (p : Pfx) (t : VTy) (d : Fin 16) (a : VOpd) (imm : Int) (m : Fin 4) (s : State) : Res :=
  runEff p true (effShift sraE t d a imm m) s
/-- VRED.sum (R199). -/
def execVredSum (p : Pfx) (t : VTy) (r : Rnd) (d : Fin 32) (a : VOpd) (m : Fin 4) (s : State) : Res :=
  runEff p false (effVred t (vaddE t r) d a m) s
/-- VRED.max (R199): it does not round. -/
def execVredMax (p : Pfx) (t : VTy) (_ : Rnd) (d : Fin 32) (a : VOpd) (m : Fin 4) (s : State) : Res :=
  runEff p false (effVred t (extremeE t true false) d a m) s
/-- VRED.min (R199): it does not round. -/
def execVredMin (p : Pfx) (t : VTy) (_ : Rnd) (d : Fin 32) (a : VOpd) (m : Fin 4) (s : State) : Res :=
  runEff p false (effVred t (extremeE t false false) d a m) s
/-- VCVT (R200). -/
def execVcvt (p : Pfx) (tt st : VTy) (r : Rnd) (ns part : Bool) (d a : Fin 16) (m : Fin 4) (s : State) : Res :=
  runEff p true (effVcvt tt st r ns part d a m) s
/-- VEXP2 (R202). -/
def execVexp2 (p : Pfx) (d a : VOpd) (m : Fin 4) (s : State) : Res := runEff p (isVreg d) (effUnary fpExp2 d a m) s
/-- VRCP (R202). -/
def execVrcp (p : Pfx) (d a : VOpd) (m : Fin 4) (s : State) : Res := runEff p (isVreg d) (effUnary fpRcp d a m) s
/-- VRSQ (R202). -/
def execVrsq (p : Pfx) (d a : VOpd) (m : Fin 4) (s : State) : Res := runEff p (isVreg d) (effUnary fpRsq d a m) s
/-- VQUANT (R201). -/
def execVquant (p : Pfx) (d a : VOpd) (b : Fin 32) (m : Fin 4) (s : State) : Res := runEff p (isVreg d) (effVquant d a b m) s
/-- VDEQ (R201). -/
def execVdeq (p : Pfx) (d a : VOpd) (b : Fin 32) (m : Fin 4) (s : State) : Res := runEff p (isVreg d) (effVdeq d a b m) s
/-- VMOV (R203). -/
def execVmov (p : Pfx) (d a : VOpd) (m : Fin 4) (s : State) : Res := runEff p (isVreg d) (effVmov d a m) s
/-- VBCAST (R203). -/
def execVbcast (p : Pfx) (d : Fin 16) (a : Fin 32) (m : Fin 4) (s : State) : Res := runEff p true (effVbcast d a m) s
/-- VGETL (R203). -/
def execVgetl (p : Pfx) (d : Fin 32) (a : Fin 16) (b : Fin 32) (s : State) : Res := runEff p false (effVgetl d a b) s
/-- VSETL (R203). -/
def execVsetl (p : Pfx) (d : Fin 16) (a b : Fin 32) (s : State) : Res := runEff p true (effVsetl d a b) s
/-- VLD (R204). -/
def execVld (p : Pfx) (sp : Space) (m : Fin 4) (d : Fin 16) (a : Fin 32) (off : Int) (s : State) : Res :=
  runEff p true (effVld (hintsOf p) sp m d a off) s
/-- VST (R204): in a region a region access in virtual space, an abort in local space (R206). -/
def execVst (p : Pfx) (sp : Space) (m : Fin 4) (d : Fin 16) (a : Fin 32) (off : Int) (s : State) : Res :=
  if s.me.region.isSome && sp == .virt then
    run p (nwX p) false s fun s =>
      if s.seqRuns then s.parkRe 9 .diffuser (nwX p)
      else vstRegion (nwX p) m d a off (s.modCore s.myCore fun c => { c with vecAt := s.clock })
  else runEff p true (effVst sp m d a off) s
/-- VGATHER (R205): both types act alike (R189). -/
def execVgather (p : Pfx) (_ : VTy) (d : Fin 16) (a : Fin 32) (b : Fin 16) (m : Fin 4) (s : State) : Res :=
  runEff p true (effVgather (hintsOf p) d a b m) s
/-- MAND (R198). -/
def execMand (p : Pfx) (d a b : Fin 8) (s : State) : Res := runEff p true (effMask (fun x y => x &&& y) d a b) s
/-- MOR (R198). -/
def execMor (p : Pfx) (d a b : Fin 8) (s : State) : Res := runEff p true (effMask (fun x y => x ||| y) d a b) s
/-- MXOR (R198). -/
def execMxor (p : Pfx) (d a b : Fin 8) (s : State) : Res := runEff p true (effMask (fun x y => x ^^^ y) d a b) s
/-- MANDN (R198). -/
def execMandn (p : Pfx) (d a b : Fin 8) (s : State) : Res := runEff p true (effMask (fun x y => x &&& ~~~y) d a b) s
/-- MPOP (R198). -/
def execMpop (p : Pfx) (d : Fin 32) (a : Fin 8) (s : State) : Res :=
  runEff p false (fun s => .done (s.modMe fun t => t.wr d (BitVec.ofNat 64 (popc32 (t.rdM a))))) s
/-- MSET (R198). -/
def execMset (p : Pfx) (d : Fin 8) (a : Fin 32) (s : State) : Res :=
  runEff p true (fun s => withVec [] [a] [] s fun _ s => .done (s.modMe fun t => t.wrM d ((t.rd a).setWidth 32))) s
/-- MGET (R198). -/
def execMget (p : Pfx) (d : Fin 32) (a : Fin 8) (s : State) : Res :=
  runEff p false (fun s => .done (s.modMe fun t => t.wr d ((t.rdM a).setWidth 64))) s
/-- mget.vs (R198). -/
def execMgetVs (p : Pfx) (d : Fin 32) (s : State) : Res :=
  runEff p false (fun s => .done (s.modMe fun t => t.wr d (t.vsw.setWidth 64))) s
/-- mget.vs.clr (R198). -/
def execMgetVsClr (p : Pfx) (d : Fin 32) (s : State) : Res :=
  runEff p false (fun s => .done (s.modMe fun t => { t.wr d (t.vsw.setWidth 64) with vsw := 0 })) s
/-- VABS (R195). -/
def execVabs (p : Pfx) (t : VTy) (d a : VOpd) (m : Fin 4) (s : State) : Res := runEff p (isVreg d) (effSign false t d a m) s
/-- VNEG (R195). -/
def execVneg (p : Pfx) (t : VTy) (d a : VOpd) (m : Fin 4) (s : State) : Res := runEff p (isVreg d) (effSign true t d a m) s

end Sys2Proof.Machine
end

