-- ==== Sys2Proof/Machine/Array.lean ====
section
/-! DEFINITION. The ternary array (R208-R222) and the Accord (R223, R224): the instructions and what the slices do. -/

namespace Sys2Proof.Machine

/-- Whether a slot is a member of its cluster's open gang (R209, R214). -/
def State.isMember (s : State) (k : Nat) : Bool :=
  match (s.cluster (clusterOf k)).gang with
  | some g => g.broken.isNone && g.members.contains (coreOf k % 8, k)
  | none => false

/-- An array instruction goes on for a member (R209); in a stall of its gang it parks (R45), but for a recorded one, which
issues in a stall only where its own wait is the stall (R227). -/
def withMember (dif : Bool) (gs : List (Fin 32)) (s : State) (f : State → Eff) : Eff :=
  withVec [] gs [] s fun _ s =>
    if !s.isMember s.cur then .trap 0x0C 0 s
    else if !dif && (s.cluster s.myCluster).stall.isSome then .park 12 .stall s
    else f s

/-! ### Gangs (R42-R45, R211, R214) -/

/-- Records the arrival of the running thread and parks it under cause 12 (R42, R43). A GANG of the member itself while its own gang is
open traps with cause 0x0C as another thread's does (log 48: DESIGN CHOICE; R43 names only another thread). -/
def gangJoin (elastic : Bool) (stat : Option (Nat × Nat × Nat)) (s : State) : Eff :=
  let c := s.core s.myCore
  if c.gangArr.isSome || (s.cluster s.myCluster).gang.isSome then .trap 0x0C 0 s
  else
    let a : GangArr := { k := s.cur, elastic := elastic, stat := stat }
    .rest 12 .gangJoin (.finish []) (s.modCore s.myCore fun x => { x with gangArr := some a })

/-- GANG.static (R214). -/
def execGangStatic (p : Pfx) (s : State) : Res := runEff p true (gangJoin false none) s

/-- GANG.elastic (R214): the status word is checked as for an 8-byte store. -/
def execGangElastic (p : Pfx) (a : Fin 32) (s : State) : Res :=
  runEff p true (fun s => withVec [] [a] [] s fun _ s =>
    effAcc s (s.me.tagOf a) (s.me.rd a) 8 8 2 false fun acc => gangJoin true (some ((s.me.rd a).toNat, acc.pa, acc.key)) acc.s) s

/-- GANG.end (R214): parks until every member has issued it and the work is done. -/
def execGangEnd (p : Pfx) (s : State) : Res :=
  runEff p true (fun s => withMember false [] s fun s =>
    .rest 12 .gangEnd (.finish []) (s.modCluster s.myCluster fun x =>
      { x with gang := x.gang.map fun g => { g with ended := (s.myCore % 8) :: g.ended } })) s

/-! ### Acceptance (R209) -/

/-- Accepts an instruction into the accumulate unit of the running thread's slice. -/
def State.accept (s : State) (o : ArrOp) : State := s.modSlice s.myCore fun x => { x with accQ := x.accQ ++ [o] }

/-- TWLD (R215). -/
def effTwld (buf : Bool) (a b : Fin 32) (s : State) : Eff :=
  withMember false [a, b] s fun s =>
    let off := (s.me.rd a).toNat
    if off % 16 ≠ 0 then .trap 5 (s.me.rd a) s
    else if 2 ^ 22 ≤ off ∨ 3145728 < off + 512 then .trap 0x0C 0 s
    else
      let id := s.nextId
      let pa := wmAddr s.myCore off
      let op : LoadOp := { id := id, buf := buf, pa := pa, kc := (s.me.rd b).setWidth 16, placed := s.me.node }
      let ch : Chunk := { va := none, pa := pa, len := 512, key := 0 }
      let s := ({ s with nextId := id + 1 }.enterFoot s.myCluster { id := id, reads := [ch], writes := [], regs := [] })
      .done (s.modSlice s.myCore fun x => { x with ldQ := x.ldQ ++ [op] })

/-- TWLD. -/
def execTwld (p : Pfx) (buf : Bool) (a b : Fin 32) (s : State) : Res := runEff p true (effTwld buf a b) s

/-- The FIFO rows of a slice that are in use on a clock (R216). -/
def Slice.rowsUsed (x : Slice) (clock : Nat) : Nat :=
  (x.fifo.filter fun t => decide (clock < t)).length + ((x.tmm.map fun t => t.rows.length).getD 0)

/-- TMM up to its wait for the gang TMM (R216): the checks, the free rows, the placement. A stream element's rows take the 6 clocks
that the spec gives for local parts (log 36: DESIGN CHOICE; it gives no number for them). -/
def effTmm (dif : Bool) (acc : Fin 4) (buf : Bool) (src : TSrc) (b : Fin 32) (s : State) : Eff :=
  let gs := match src with
    | .local a => [a, b]
    | .stream _ => [b]
  withMember dif gs s fun s =>
    let gb := (s.me.rd b).toNat
    let m := gb % 8 + 1
    let row0 := bits gb 7 4
    let place := fun (s : State) (rows : List (List Byte)) (pop : Option (Fin 8)) =>
      let t : TmmPend := { k := s.cur, ready := s.clock + 7, acc := acc, buf := buf, rows := rows, row0 := row0, pop := pop,
                           dif := dif }
      Eff.rest 12 (.fifo 0) (.finish []) (s.modSlice s.myCore fun x => { x with tmm := some t })
    if 16 < row0 + m then .trap 0x0C 0 s
    else match src with
      | .local a =>
        let la := (s.me.rd a).toNat % 2 ^ 18
        if la % 16 ≠ 0 ∨ 2 ^ 18 < la + 16 * m then .trap 5 (BitVec.ofNat 64 la) s
        else if Config.afifo < (s.slice s.myCore).rowsUsed s.clock + m then .park 12 (.fifo m) s
        else match s.poisonOf 0 (s.ownPa la) (16 * m) with
          | some c => .trap c (BitVec.ofNat 64 la) (s.verifyAll 0 (s.ownPa la) (16 * m))
          | none => place s ((List.range m).map fun j => (List.range 10).map fun i => s.mem.read (s.ownPa (la + 16 * j + i))) none
      | .stream q =>
        if s.me.qBad q false true then .trap 0x10 0 s
        else if Config.afifo < (s.slice s.myCore).rowsUsed s.clock + m then .park 12 (.fifo m) s
        else match s.queueOf s.cur q with
          | [] => .park 7 (.rowsIn q) s
          | x :: _ => place s ((List.range m).map fun j => (List.range 10).map fun i =>
              BitVec.ofNat 8 (x.toNat / 2 ^ (8 * (16 * j + i)))) (some q)

/-- TMM. -/
def execTmm (p : Pfx) (acc : Fin 4) (buf : Bool) (src : TSrc) (b : Fin 32) (s : State) : Res :=
  runEff p true (effTmm false acc buf src b) s

/-- TZERO (R217). -/
def effTzero (acc : Fin 4) (s : State) : Eff := withMember false [] s fun s => .done (s.accept (.tzero acc))
/-- TZERO. -/
def execTzero (p : Pfx) (acc : Fin 4) (s : State) : Res := runEff p true (effTzero acc) s

/-- The local offset of TRDA and TWRA (R219). -/
def withTile (a : Fin 32) (s : State) (f : Nat → State → Eff) : Eff :=
  let la := (s.me.rd a).toNat % 2 ^ 18
  if la % 128 ≠ 0 ∨ 2 ^ 18 < la + 2056 then .trap 5 (BitVec.ofNat 64 la) s else f la s

/-- TRDA (R219). -/
def execTrda (p : Pfx) (acc : Fin 4) (a : Fin 32) (s : State) : Res :=
  runEff p true (fun s => withMember false [a] s fun s => withTile a s fun la s => .done (s.accept (.trda acc la))) s
/-- TWRA (R219). -/
def execTwra (p : Pfx) (acc : Fin 4) (a b : Fin 32) (s : State) : Res :=
  runEff p true (fun s => withMember false [a, b] s fun s => withTile a s fun la s =>
    .done (s.accept (.twra acc la (s.me.rd b)))) s

/-! ### TDRAIN (R218) -/

/-- The tag of a tile after what the accumulate unit has accepted (R218). -/
def Slice.tagAfter (x : Slice) (acc : Fin 4) : Option (BitVec 16) :=
  x.accQ.foldl (fun t o => match o with
    | .tzero a => if a = acc then none else t
    | .twra a _ w => if a = acc then (if tb w.toNat 16 then some (w.setWidth 16) else none) else t
    | _ => t) x.tiles[acc].tag

/-- Captures ranges one after the other. -/
def captureAll (s : State) : List (Option (BitVec 32) × Nat × Nat × Nat) → List (List Chunk) →
    (List (List Chunk) → State → Eff) → Eff
  | [], acc, f => f acc.reverse s
  | (tag, need, va, n) :: rs, acc, f =>
    match s.capture tag need (piecesOf va n) [] with
    | .trap c a s => .trap c a s
    | .park w s => .park 1 w s
    | .ok cs s => captureAll s rs (cs :: acc) f

/-- TDRAIN (R218): checks, capture, acceptance; it enters the scheduler when accepted (R236). -/
def effTdrain (acc : Fin 4) (add : Bool) (d a b : Fin 32) (s : State) : Eff :=
  withMember false [d, a, b] s fun s =>
    let out := s.me.rd d
    let st := s.me.rd a
    let gb := (s.me.rd b).toNat
    let stride := gb % 65536
    if out.toNat % 4 ≠ 0 ∨ stride % 4 ≠ 0 then .trap 5 out s
    else if st.toNat % 8 ≠ 0 then .trap 5 st s
    else if stride < 128 then .trap 0x0C 0 s
    else match (s.cluster s.myCluster).gang with
      | none => .trap 0x0C 0 s
      | some g =>
        let tag := (s.slice s.myCore).tagAfter acc
        let gi := (tag.map (·.toNat)).getD 0
        let row := fun (j : Nat) => (s.me.tagOf d, 2, (out.toNat + j * stride) % 2 ^ 64, 128)
        let scales := (none, 1, (g.tscw.toNat + 2 * (gi * bits gb 63 48 + bits gb 47 32)) % 2 ^ 64, 64)
        let codes := if g.tfmt = 1 then [] else [(none, 1, (g.tsca.toNat + bits gb 31 16) % 2 ^ 64, 16)]
        captureAll s ((List.range 16).map row ++ [(s.me.tagOf a, 2, st.toNat, 8), scales] ++ codes) [] fun cs s =>
          let id := s.nextId
          let refs := s.refsOf [d, a]
          let rows := cs.take 16
          let sc := cs.getD 17 []
          let dr : Drain := { id := id, acc := acc, add := add, rows := rows, stat := cs.getD 16 [], scales := sc,
                              codes := cs[18]?, gi := gi, tagv := tag.isSome, refs := refs, k := s.cur, gen := s.me.gen,
                              asid := s.me.asid, placed := s.me.node, elastic := g.elastic }
          let foot : Foot := { id := id, reads := sc ++ cs.getD 18 [] ++ (if add then rows.flatten else []),
                               writes := rows.flatten ++ cs.getD 16 [], regs := [] }
          .done (((({ s with nextId := id + 1 }).useCounts true refs).enterFoot s.myCluster foot).accept (.tdrain dr))

/-- TDRAIN. -/
def execTdrain (p : Pfx) (acc : Fin 4) (d a b : Fin 32) (s : State) : Res := runEff p true (fun s => withWalks s (effTdrain acc false d a b)) s
/-- TDRAIN.add. -/
def execTdrainAdd (p : Pfx) (acc : Fin 4) (d a b : Fin 32) (s : State) : Res := runEff p true (fun s => withWalks s (effTdrain acc true d a b)) s

/-! ### Weight conversions (R78, R222) -/

/-- Byte `i` of a vector. -/
def byteOf (x : BitVec 1024) (i : Nat) : Nat := x.toNat / 2 ^ (8 * i) % 256
/-- Digit `i` of a byte: its weight (R78). -/
def trit (b i : Nat) : Int :=
  match b / 3 ^ i % 3 with
  | 1 => 1
  | 2 => -1
  | _ => 0
/-- The digit of an int8 element, by its sign. -/
def digitOf (x : Nat) : Nat := if x = 0 then 0 else if x < 128 then 1 else 2
/-- The packed byte of five elements of a vector from element `i` on. -/
def packFive (x : BitVec 1024) (i : Nat) : Nat :=
  ((List.range 5).map fun k => digitOf (byteOf x (i + k)) * 3 ^ k).sum
/-- A vector with its 16 bytes from byte `i` on replaced. -/
def putBytes (x : BitVec 1024) (i : Nat) (bs : List Nat) : BitVec 1024 :=
  BitVec.ofNat 1024 (packElems 8 ((List.range 128).map fun j =>
    if i ≤ j ∧ j < i + 16 then bs.getD (j - i) 0 else byteOf x j))

/-- TPACK. -/
def effTpack (d a : Fin 16) (b : Fin 32) (s : State) : Eff :=
  withVec [] [b] [] s fun _ s =>
    let x := s.me.rdV a
    let j := (s.me.rd b).toNat % 8
    let bad := (List.range 80).any fun i => byteOf x i != 0 && byteOf x i != 1 && byteOf x i != 255
    .done ((s.flag (AFlags.sat.when bad, 0)).modMe fun t =>
      t.wrV d (putBytes (t.rdV d) (16 * j) ((List.range 16).map fun i => packFive x (5 * i))))
/-- TPACK. -/
def execTpack (p : Pfx) (d a : Fin 16) (b : Fin 32) (s : State) : Res := runEff p true (effTpack d a b) s

/-- The five int8 elements of a packed byte; an illegal one gives zeros. -/
def unpackFive (b : Nat) : List Nat :=
  (List.range 5).map fun k => if 243 ≤ b then 0 else (trit b k % 256).toNat
/-- TUNPK. -/
def effTunpk (d a : Fin 16) (b : Fin 32) (s : State) : Eff :=
  withVec [] [b] [] s fun _ s =>
    let x := s.me.rdV a
    let j := (s.me.rd b).toNat % 8
    let bs := (List.range 16).map fun i => byteOf x (16 * j + i)
    .done ((s.flag (AFlags.nv.when (bs.any fun b => decide (243 ≤ b)), 0)).modMe fun t =>
      t.wrV d (BitVec.ofNat 1024 (packElems 8 (bs.flatMap unpackFive))))
/-- TUNPK. -/
def execTunpk (p : Pfx) (d a : Fin 16) (b : Fin 32) (s : State) : Res := runEff p true (effTunpk d a b) s

/-- What TCHK reports of a vector. -/
def chkWord (x : BitVec 1024) : Nat :=
  let bad := (List.range 128).filter fun i => decide (243 ≤ byteOf x i)
  ofBits ((List.range 8).map fun j => bad.any fun i => i / 16 == j) + 256 * bad.headD 255
/-- TCHK: permitted in a region (R229). -/
def execTchk (p : Pfx) (d : Fin 32) (a : Fin 16) (s : State) : Res :=
  runEff p false (fun s => .done (s.modMe fun t => t.wr d (BitVec.ofNat 64 (chkWord (t.rdV a))))) s

/-! ### The Accord (R223, R224) -/

/-- The cores a mask names in the sector of a cluster. -/
def sectorCores (ck mask : Nat) : List Nat :=
  ((List.range 64).filter fun i => tb mask i).map fun i => (ck - ck % 40 % 8) * 8 + i
/-- The result of an Accord: the maximum by VMAX's rules, or the E8 code. -/
def accordResult (scale : Bool) (xs : List Nat) : Word :=
  if scale then BitVec.ofNat 64 (e8Code xs)
  else BitVec.ofNat 64 (xs.foldl (fun a b => (fp32.extreme true false a b).1)
    (fp32.extreme true false (xs.headD 0) (xs.headD 0)).1)
/-- The pending, unreleased arrival of a core at an operation. -/
def State.accAt (s : State) (c : Nat) (mask : BitVec 64) (scale : Bool) : Option AccArr :=
  (s.core c).accArr.filter fun a => a.mask == mask && a.scale == scale && a.release.isNone
/-- Releases an operation when every named core has arrived: 12 clocks later in the last arriver's cluster, 40 in the
others (R224). -/
def State.accordTry (s : State) (ck : Nat) (mask : BitVec 64) (scale : Bool) : State :=
  let cs := sectorCores ck mask.toNat
  let arrs := cs.map fun c => s.accAt c mask scale
  if arrs.all Option.isSome then
    let r := accordResult scale (arrs.filterMap fun a => a.map fun a => a.x.toNat)
    cs.foldl (fun s c => s.modCore c fun x =>
      { x with accArr := x.accArr.map fun a =>
          { a with release := some (s.clock + (if clusterOfCore c = ck then 12 else 40), r) } }) s
  else s

/-- An Accord instruction: the checks, the arrival, the park under cause 5. -/
def effAccord (scale : Bool) (d a b : Fin 32) (s : State) : Eff :=
  withVec [] [a, b] [] s fun _ s =>
    let mask := s.me.rd b
    let cs := sectorCores s.myCluster mask.toNat
    if !cs.contains s.myCore || cs.any fun c => s.pidOf (clusterOfCore c) != s.myPid then .trap 0x0C 0 s
    else if (s.core s.myCore).accArr.isSome then .trap 0x0C 0 s
    else
      let r : AccArr := { k := s.cur, mask := mask, scale := scale, x := (s.me.rd a).setWidth 32, at_ := s.clock, d := d,
                          release := none }
      let s := s.modCore s.myCore fun x => { x with accArr := some r }
      .rest 5 .accord (.finish []) (s.accordTry s.myCluster mask scale)
/-- ACC.MAX. -/
def execAccMax (p : Pfx) (d a b : Fin 32) (s : State) : Res := runEff p true (effAccord false d a b) s
/-- ACC.SCALE. -/
def execAccScale (p : Pfx) (d a b : Fin 32) (s : State) : Res := runEff p true (effAccord true d a b) s

end Sys2Proof.Machine
end

