-- ==== Sys2Proof/WellFormed.lean ====
section
/-! DEFINITION. Which terms of `Instr` are instructions of the machine: prefixes that fit, operands the entry accepts.
Events are well-formed as they stand. -/

namespace Sys2Proof

/-- Whether an instruction has an encoding; the events have none. -/
def Instr.encoded (i : Instr) : Bool := i.fields.isSome

/-- Registers above 7 and guards need an XR word (R10, R11). -/
def Fld.xrOk (f : Fld) : Bool := f.p.xr || (f.p.guard.isNone && decide (f.d < 8 ∧ f.a < 8 ∧ f.b < 8))

/-- A chain holds at most four prefix words (R116). -/
def Fld.lengthOk (f : Fld) : Bool :=
  decide ((if f.p.hint.isSome then 1 else 0) + (if f.page = 0 then 0 else 1) + (if f.p.xr then 1 else 0) +
    f.p.xi.val ≤ 4)

/-- The immediate fits its width; formats A and P take no XI (R113). -/
def Fld.immOk (f : Fld) : Bool :=
  match f.fmt with
  | .A => f.p.xi == 0
  | _ => decide (-(2 ^ (f.immBits - 1)) ≤ f.imm ∧ f.imm < 2 ^ (f.immBits - 1))

/-- A rounding mode is rn where the type is an integer (R188). -/
def rndOk (t : VTy) (r : Rnd) : Bool := !intTy t || r == .rn

/-- What an entry asks of its operands beyond their ranges. -/
def Instr.operandsOk : Instr → Bool
  | .gate p => p == Pfx.none
  | .vadd _ t r d _ _ m | .vsub _ t r d _ _ m | .vmul _ t r d _ _ m => arithTy t && rndOk t r && qdOk d m
  | .vfma _ t .. | .vfms _ t .. | .vfnma _ t .. | .vfnms _ t .. => fmaTy t
  | .vmax _ _ d _ _ m | .vmin _ _ d _ _ m | .vmaxa _ _ d _ _ m | .vmina _ _ d _ _ m => qdOk d m
  | .vcmpEq _ _ t .. | .vcmpLt _ _ t .. | .vcmpLe _ _ t .. | .vcmpUn _ _ t .. => w32Ty t
  | .vsel _ t .. => w32Ty t
  | .vand _ d _ _ m | .vor _ d _ _ m | .vxor _ d _ _ m | .vandn _ d _ _ m => qdOk d m
  | .vshl _ t .. | .vshr _ t .. | .vshra _ t .. => intTy t
  | .vredSum _ t r .. | .vredMax _ t r .. | .vredMin _ t r .. => w32Ty t && rndOk t r
  | .vcvt _ tt st _ ns part d a _ => cvtOk tt st part d a && (fp8Ty tt || !ns)
  | .vexp2 _ d _ m | .vrcp _ d _ m | .vrsq _ d _ m => qdOk d m
  | .vquant _ d _ _ m | .vdeq _ d _ _ m => qdOk d m
  | .vmov _ d _ m => qdOk d m
  | .vgather _ t .. => w32Ty t
  | .vabs _ _ d _ m | .vneg _ _ d _ m => qdOk d m
  | .ldlLong _ _ sg sz .. => !(sg && sz == .b8)
  | .krd _ n _ => krdOk n
  | .kwr _ n _ => kwrOk n
  | .srd _ n .. => (srdClass n).isSome
  | .swr _ n .. => (swrClass n).isSome
  | _ => true

/-- A required hint is known (R117). -/
def Instr.hintOk (i : Instr) (p : Pfx) : Bool :=
  match p.hint with
  | some h => !hintUnknown i h
  | none => true

/-- Well-formed: an event, or an instruction that the device decodes without a trap. -/
def Instr.wf (i : Instr) : Bool :=
  match i.fields with
  | none => true
  | some f => f.xrOk && f.lengthOk && f.immOk && i.operandsOk && i.hintOk f.p

end Sys2Proof
end

