-- ==== Sys2Proof/Machine/Fetch.lean ====
section
/-! DEFINITION. The barrel's choice of a slot (R26, R27) and the fetch of a chain (R103, R119, R144). -/

namespace Sys2Proof.Machine

/-- Whether the turns of a slot go to the hardware handler of scope-misses: slot 15 of a core at which one is pending (R26, R262). -/
def State.handles (s : State) (k : Nat) : Bool := k % 16 == 15 && !(s.core (coreOf k)).misses.isEmpty
/-- Whether the previous issue of a slot lies at least 8 clocks back (R27). -/
def State.spaced (s : State) (k : Nat) : Bool :=
  match (s.slot k).issued with
  | none => true
  | some i => decide (i + 8 ≤ s.clock)
/-- Whether a slot may issue on this clock (R26, R27, R104): it holds a thread that is neither parked nor stopped (a stopped one
still completes the instruction whose effect was made at its home, R347), its
previous issue lies at least 8 clocks back; the handler, which acts for the core and not for a thread, needs no thread. -/
def State.canIssue (s : State) (k : Nat) : Bool :=
  let t := s.slot k
  let c := s.core (coreOf k)
  if s.handles k then s.spaced k
  else t.occ && ((!t.stopped && !(s.cluster (clusterOf k)).hold) || t.replied) && decide (t.readyAt ≤ s.clock) &&
  (match t.park with
    | none => true
    | some p => p.arrived) &&
  s.spaced k && !c.asleep && c.wakeEnd.isNone

/-- The slots of a core in the order the barrel examines them (R27). -/
def State.barrelOrder (s : State) (c : Nat) : List Nat :=
  (List.range 16).map fun i => c * 16 + ((s.core c).last.val + 1 + i) % 16

/-- The slot that issues on this clock, if one qualifies. -/
def State.pick (s : State) (c : Nat) : Option Nat := (s.barrelOrder c).find? s.canIssue

/-- What a fetch gives: an instruction with its number of words; a park at a word of the chain; a trap, which is an event of the
table; or the delay of a row reload, after which the fetch begins again. -/
inductive FetchRes where
  | instr (i : Instr) (nw : Nat) (s : State)
  | park (w : Wait) (nw : Nat) (s : State)
  | event (e : Event) (s : State)
  | again (s : State)

/-- Whether the word at an address is a GATE that may be landed on (R103, R143). -/
def State.gateAt (s : State) (c asid : Nat) (e : TlbEnt) (va : Nat) : Bool :=
  e.gate && va % 64 == 0 && isGate (s.codeWord c asid e va)

/-- The address that a decode trap names: that of the XH word for cause 0x03 (R293), otherwise 0 (R338). -/
def decodeAddr (pc : Word) (cause : Nat) (ws : List Nat) : Word :=
  if cause = 3 then pc + BitVec.ofNat 64 (2 * ws.findIdx fun w => w / 2048 == 29) else 0

/-- The decision about the words of a chain read so far: the class check comes last (R119). -/
def decideWords (t : Slot) (ws : List Nat) (s : State) : Option FetchRes :=
  match decodeWords ws with
  | .more => none
  | .trap cause nw => some (.event (.unallocatedEncoding cause (decodeAddr t.pc cause ws) nw) s)
  | .ok i nw =>
    if t.cls.toNat < i.cls then some (.event (.unallocatedEncoding 4 0 nw) s) else some (.instr i nw s)

/-- Whether a core's instruction cache holds the line of an address; local memory is not cached (R93). -/
def State.icHit (s : State) (c asid : Nat) (e : TlbEnt) (va : Nat) : Bool :=
  isLocalWin (localOfAddr (e.pa va)) || (s.core c).ic.any fun l => l.asid == asid && l.vline == va / 64 && l.pline == e.pa va / 64
/-- The lines of the 64 KiB instruction cache (R144); beyond them the one entered first goes (log 7). -/
def icLines : Nat := 1024
/-- Enters a code line into a core's instruction cache. -/
def State.icFill (s : State) (c asid : Nat) (e : TlbEnt) (va : Nat) : State :=
  let line := e.pa va / 64
  let data := BitVec.ofNat 512 (s.numAt e.key (line * 64) 64)
  let l0 : RoLine := { asid := asid, vline := va / 64, pline := line, from_ := s.quiet c, data := data, bad := false }
  s.modCore c fun x =>
    { x with ic := (l0 :: x.ic.filter fun l => !(l.asid == asid && l.vline == va / 64)).take icLines }

/-- Reads the words of the chain of slot `k` from word `ws.length` on; `e0` is the page of the first word. -/
def State.fetchWords (s : State) (k : Nat) (e0 : TlbEnt) (ws : List Nat) : Nat → FetchRes
  | 0 => .event (.unallocatedEncoding 2 0 5) s
  | fuel + 1 =>
    let t := s.slot k
    let c := coreOf k
    let va := (t.pc + BitVec.ofNat 64 (2 * ws.length)).toNat
    match s.fetchPage c t.asid.toNat va t.cls.toNat with
    | .fault cause => .event (.fetchFault cause (BitVec.ofNat 64 va) (ws.length + 1)) s
    | .frozen => .park (.frozen (s.clock + 256)) (ws.length + 1) s
    | .ok (e, s) =>
      if e.dom != e0.dom || e.cls != e0.cls then .event (.fetchFault 0x0A (BitVec.ofNat 64 va) (ws.length + 1)) s
      else if !s.icHit c t.asid.toNat e va then
        if !s.routeUp (devOfCore c) e.dev then .event (.fetchFault 0x18 (BitVec.ofNat 64 va) (ws.length + 1)) s
        else match s.poisonOf e.key (e.pa va) 1 with
        | some cause => .event (.fetchFault cause (BitVec.ofNat 64 va) (ws.length + 1)) (s.verifyAll e.key (e.pa va) 1)
        | none => .park .latency (ws.length + 1) (s.icFill c t.asid.toNat e va)
      else
        let ws := ws ++ [s.codeWord c t.asid.toNat e va]
        match decideWords t ws s with
        | some r => r
        | none => s.fetchWords k e0 ws fuel

/-- The fetch of the instruction at the PC of slot `k`. A slot with no row has just been started, resumed or left a trap
handler: its domain and class are those of its page. Otherwise a page of another domain or a higher class is run off to,
and must be entered through a gate (R101, R103, R121). -/
def State.fetch (s : State) (k : Nat) : FetchRes :=
  let t := s.slot k
  let c := coreOf k
  let va := t.pc.toNat
  match s.fetchPage c t.asid.toNat va (if t.row.isNone then 2 else t.cls.toNat) with
  | .fault cause => .event (.fetchFault cause t.pc 1) s
  | .frozen => .park (.frozen (s.clock + 256)) 1 s
  | .ok (e, s) =>
    if t.row.isNone then
      ((s.modSlot k fun t => { t with dom := e.dom, cls := e.cls }).reloadRow k).fetchWords k e [] 5
    else if e.dom = t.dom ∧ e.cls ≤ t.cls then
      (s.modSlot k fun t => { t with cls := e.cls }).fetchWords k e [] 5
    else if !s.gateAt c t.asid.toNat e va then .event (.fetchFault 0x0A t.pc 1) s
    else match s.rowOf k with
      | .fault cause => .event (.fetchFault cause t.pc 1) s
      | .frozen => .park (.frozen (s.clock + 256)) 1 s
      | .ok (r, s) =>
        if r.code e.dom != 3 then .event (.fetchFault 8 t.pc 1) s
        else .again ((s.modSlot k fun t => { t with dom := e.dom, cls := e.cls, readyAt := s.clock + 8 }).reloadRow k)

/-- The thread of slot `k` takes its turn (R27). -/
def State.beginIssue (s : State) (k : Nat) : State :=
  ({ s with cur := k }.modCore (coreOf k) fun c => { c with last := ⟨k % 16, Nat.mod_lt _ (by decide)⟩ }).modSlot k
    fun t => { t with issued := some s.clock, wrote := 0 }

/-- Whether a park stays while its instruction issues again: one with its walks done (R316), and one at a frozen leaf, whose
time counts on (R32, R320). -/
def Park.stays (p : Park) : Bool := p.rest == .again || p.wait.isFrozen

/-- The instruction that a thread goes on with: that of a park whose event has arrived, with its number of words, where the park was
its own and not that of its fetch (R22). -/
def Slot.again (t : Slot) : Option (Instr × Nat) :=
  match t.park, t.inst with
  | some p, some i => if p.arrived && (p.rest == .reissue || p.rest == .again) then some (i, p.nw) else none
  | _, _ => none
/-- A slot that fetches its next instruction: what an earlier one kept is forgotten. -/
def Slot.anew (t : Slot) : Slot := { t with inst := none, src := none }
/-- The instruction of slot `k`, which was `t`: the one it goes on with, or the one it fetches, which a park of it will go on with
(R22). -/
def State.next (s : State) (k : Nat) (t : Slot) : FetchRes :=
  match t.again with
  | some (i, nw) => .instr i nw s
  | none => match (s.modSlot k Slot.anew).fetch k with
    | .instr i nw s => .instr i nw (s.modSlot k fun t => { t with inst := some i })
    | r => r

/-- What slot `k` does at its turn (R22, R26, R31, R227, R345): the handler's work; the rest of its parked instruction; a held
interrupt; the trap that its Diffuser sequence owes; a parked instruction that goes on; otherwise the fetch of its next instruction. -/
def State.atIssue (s : State) (k : Nat) : FetchRes :=
  let t := s.slot k
  let c := coreOf k
  if s.handles k then .event (.scopeMissAnswer c) s
  else if t.replied then .event (.parkedResume k) s
  else if t.heldInt && !t.inh then .event (.coreInterruptTake k) s
  else
    let s := s.modSlot k fun t => { t with park := t.park.filter Park.stays }
    match (s.core c).dif.trap with
    | some (cause, addr, nw) =>
      if (s.core c).dif.owner = some k then
        let s := s.modCore c fun x => { x with dif := { x.dif with trap := none } }
        .event (.parkedResume k) (s.modSlot k fun t =>
          { t with park := some { cause := 0, since := s.clock, wait := .latency, nw := nw, rest := .fault cause addr,
                                  arrived := true, exempt := true, via := [] } })
      else s.next k t
    | none => s.next k t

/-! ### Placing code where the next fetch finds it -/

/-- The bytes of 16-bit words, in the order they lie in memory (R115). -/
def wordBytes : List Nat → List Byte
  | [] => []
  | w :: ws => BitVec.ofNat 8 w :: BitVec.ofNat 8 (w / 256) :: wordBytes ws

/-- The code line at `line` (an address of a device, divided by 64) as an instruction-cache line. -/
def State.codeLine (s : State) (asid va pa : Nat) : RoLine :=
  { asid := asid, vline := va / 64, pline := pa / 64, from_ := 0, data := BitVec.ofNat 512 (ofBytes ((List.range 64).map fun i =>
      s.mem.read (pa / 64 * 64 + i))), bad := false }

/-- Words at the PC of the running slot, through one 8 GiB page at address 0 of its own device. -/
def State.placeCode (s : State) (ws : List Nat) : State :=
  let k := s.cur
  let c := coreOf k
  let ck := clusterOf k
  let t := s.slot k
  let va := t.pc.toNat
  let pa := addrOf (devOf ck) (va % 2 ^ 33)
  let s := { s with mem := s.mem.writeCells (cellsAt pa (wordBytes ws)), agenda := [], turns := [c], ev := none }
  let e : TlbEnt := { pid := s.pidOf ck, asid := t.asid.toNat, vbase := va / 2 ^ 33 * 2 ^ 33, szlog := 33, dev := devOf ck,
                      remote := false, base := 0, part := 0, dom := t.dom, x := true, gate := false, cls := 2, key := 0 }
  let s := s.modCluster ck fun x => { x with hold := false, tlb := e :: x.tlb }
  let s := s.modCore c fun x =>
    { x with last := ⟨(k + 15) % 16, Nat.mod_lt _ (by decide)⟩, asleep := false, wakeEnd := none, misses := [],
             dif := { x.dif with trap := none },
             ic := [s.codeLine t.asid.toNat va pa, s.codeLine t.asid.toNat (va + 16) (pa + 16)] }
  s.modSlot k fun t =>
    { t with occ := true, stopped := false, readyAt := s.clock, issued := none, park := none, heldInt := false,
             row := none, inst := none, src := none }

end Sys2Proof.Machine
end

