-- ==== Sys2Proof/Machine/Diffuser.lean ====
section
/-! DEFINITION. The Diffuser (R225-R228): recording, renaming, and the issue of a recorded instruction. -/

namespace Sys2Proof.Machine

/-! ### Recording (R225) -/

/-- Whether an instruction may be recorded: page 1 but for VRED, VGATHER and the forms that name a g register, and TMM and
TZERO. -/
def recordable : Instr → Bool
  | .vadd .. | .vsub .. | .vmul .. | .vfma .. | .vfms .. | .vfnma .. | .vfnms .. | .vmax .. | .vmin .. | .vmaxa ..
  | .vmina .. | .vcmpEq .. | .vcmpLt .. | .vcmpLe .. | .vcmpUn .. | .vsel .. | .vand .. | .vor .. | .vxor .. | .vandn ..
  | .vshl .. | .vshr .. | .vshra .. | .vcvt .. | .vexp2 .. | .vrcp .. | .vrsq .. | .vquant .. | .vdeq .. | .vmov ..
  | .vld .. | .vst .. | .mand .. | .mor .. | .mxor .. | .mandn .. | .vabs .. | .vneg .. | .tmm .. | .tzero .. => true
  | _ => false

/-- Whether words form whole chains of recordable instructions; otherwise the place of the first word of the chain that
does not. -/
def recordBad : Nat → Nat → List Nat → Option Nat
  | 0, at_, _ => some at_
  | fuel + 1, at_, ws =>
    if ws.isEmpty then none
    else match decodeWords ws with
      | .ok i nw => if recordable i && 0 < nw && nw ≤ ws.length then recordBad fuel (at_ + nw) (ws.drop nw) else some at_
      | _ => some at_

/-- Reads words one after the other (R225): a fault of the fetch, a page of another domain or class, a miss. -/
def readDif (va : Word) : Nat → State → List Nat → Eff ⊕ (List Nat × State)
  | 0, s, ws => .inr (ws, s)
  | n + 1, s, ws =>
    let a := (va + BitVec.ofNat 64 (2 * ws.length))
    let c := s.myCore
    let asid := s.me.asid.toNat
    match s.fetchPage c asid a.toNat s.me.cls.toNat with
    | .fault cause => .inl (.trap cause a s)
    | .frozen => .inl (.park 1 (.frozen (s.clock + 256)) s)
    | .ok (e, s) =>
      if e.dom ≠ s.me.dom ∨ e.cls ≠ s.me.cls then .inl (.trap 0x0A a s)
      else if !s.icHit c asid e a.toNat then
        if !s.routeUp (devOfCore c) e.dev then .inl (.trap 0x18 a s)
        else match s.poisonOf e.key (e.pa a.toNat) 1 with
        | some cause => .inl (.trap cause a (s.verifyAll e.key (e.pa a.toNat) 1))
        | none => .inl (.park 1 .latency (s.icFill c asid e a.toNat))
      else readDif va n s (ws ++ [s.codeWord c asid e a.toNat])

/-- Changes the Diffuser of the running thread's core. -/
def State.modDif (s : State) (f : Dif → Dif) : State := s.modCore s.myCore fun x => { x with dif := f x.dif }
/-- The Diffuser of the running thread's core. -/
def State.dif (s : State) : Dif := (s.core s.myCore).dif

/-- DIFS (R225): another thread's sequence, or the trap it still owes, is waited for. A cleared recording has no owner, and the
offending word of a chain that may not be recorded is the chain's first (log 36: DESIGN CHOICE; the spec names neither). -/
def effDifs (a b : Fin 32) (s : State) : Eff :=
  withVec [] [a, b] [] s fun _ s =>
    if s.dif.run.isSome || s.dif.trap.isSome then .park 9 .diffuser s
    else
      let n := (s.me.rd b).toNat % 64
      let va := s.me.rd a
      if n = 0 then .done (s.modDif fun x => { x with words := [], owner := none })
      else if 32 < n then .trap 0x0C 0 s
      else if va.toNat % 2 = 1 then .trap 5 va s
      else match readDif va n s [] with
        | .inl e => e
        | .inr (ws, s) =>
          match recordBad 33 0 ws with
          | some i => .trap 1 (va + BitVec.ofNat 64 (2 * i)) s
          | none => .done (s.modDif fun x => { x with words := ws, owner := some s.cur })
/-- DIFS. -/
def execDifs (p : Pfx) (a b : Fin 32) (s : State) : Res := runEff p true (effDifs a b) s

/-! ### Renaming (R226) -/

/-- A register of a class of size `n` renamed for a repetition: stride, base and window. -/
def rename (n stride base window i x : Nat) : Nat :=
  let w := if window = 0 then n else window
  let o := (x + n - base % n) % n
  if o < w then (base + (o + i * stride) % w) % n else x
/-- A v, q or accumulator register renamed by the stagger word. -/
def renV (g i : Nat) (x : Fin 16) : Fin 16 := Fin.ofNat 16 (rename 16 (bits g 3 0) (bits g 7 4) (bits g 11 8) i x.val)
def renQ (g i : Nat) (x : Fin 8) : Fin 8 := Fin.ofNat 8 (rename 8 (bits g 14 12) (bits g 17 15) (bits g 20 18) i x.val)
def renA (g i : Nat) (x : Fin 4) : Fin 4 := Fin.ofNat 4 (rename 4 (bits g 22 21) (bits g 24 23) (bits g 26 25) i x.val)
/-- A v operand renamed. -/
def renO (g i : Nat) : VOpd → VOpd
  | .v r => .v (renV g i r)
  | .q r => .q (renQ g i r)
/-- A row source renamed. -/
def renS (g i : Nat) : TSrc → TSrc
  | .local a => .local a
  | .stream q => .stream (renQ g i q)

/-- A recorded instruction renamed for a repetition. -/
def renInstr (g i : Nat) (x : Instr) : Instr :=
  let v := renV g i
  let o := renO g i
  match x with
  | .vadd p t r d a b m => .vadd p t r (o d) (o a) (o b) m
  | .vsub p t r d a b m => .vsub p t r (o d) (o a) (o b) m
  | .vmul p t r d a b m => .vmul p t r (o d) (o a) (o b) m
  | .vfma p t r d a b m => .vfma p t r (v d) (o a) (o b) m
  | .vfms p t r d a b m => .vfms p t r (v d) (o a) (o b) m
  | .vfnma p t r d a b m => .vfnma p t r (v d) (o a) (o b) m
  | .vfnms p t r d a b m => .vfnms p t r (v d) (o a) (o b) m
  | .vmax p t d a b m => .vmax p t (o d) (o a) (o b) m
  | .vmin p t d a b m => .vmin p t (o d) (o a) (o b) m
  | .vmaxa p t d a b m => .vmaxa p t (o d) (o a) (o b) m
  | .vmina p t d a b m => .vmina p t (o d) (o a) (o b) m
  | .vcmpEq p n t d a b m => .vcmpEq p n t d (o a) (o b) m
  | .vcmpLt p n t d a b m => .vcmpLt p n t d (o a) (o b) m
  | .vcmpLe p n t d a b m => .vcmpLe p n t d (o a) (o b) m
  | .vcmpUn p n t d a b m => .vcmpUn p n t d (o a) (o b) m
  | .vsel p t d a b m => .vsel p t (v d) (o a) (o b) m
  | .vand p d a b m => .vand p (o d) (o a) (o b) m
  | .vor p d a b m => .vor p (o d) (o a) (o b) m
  | .vxor p d a b m => .vxor p (o d) (o a) (o b) m
  | .vandn p d a b m => .vandn p (o d) (o a) (o b) m
  | .vshl p t d a n m => .vshl p t (v d) (o a) n m
  | .vshr p t d a n m => .vshr p t (v d) (o a) n m
  | .vshra p t d a n m => .vshra p t (v d) (o a) n m
  | .vcvt p tt st r ns pt d a m => .vcvt p tt st r ns pt (v d) (v a) m
  | .vexp2 p d a m => .vexp2 p (o d) (o a) m
  | .vrcp p d a m => .vrcp p (o d) (o a) m
  | .vrsq p d a m => .vrsq p (o d) (o a) m
  | .vquant p d a b m => .vquant p (o d) (o a) b m
  | .vdeq p d a b m => .vdeq p (o d) (o a) b m
  | .vmov p d a m => .vmov p (o d) (o a) m
  | .vld p sp m d a n => .vld p sp m (v d) a n
  | .vst p sp m d a n => .vst p sp m (v d) a n
  | .vabs p t d a m => .vabs p t (o d) (o a) m
  | .vneg p t d a m => .vneg p t (o d) (o a) m
  | .tmm p acc bf src b => .tmm p (renA g i acc) bf (renS g i src) b
  | .tzero p acc => .tzero p (renA g i acc)
  | x => x

/-! ### What a recorded instruction names -/

/-- A v operand's register as a number; stream registers are not counted. -/
def vNum : VOpd → List Nat
  | .v r => [r.val]
  | .q _ => []
/-- A mask register as a number. -/
def mNum (m : Nat) : List Nat := [16 + m]
/-- The v and m registers a recorded instruction reads and writes: v as 0 to 15, m as 16 to 23. -/
def recRegs : Instr → List Nat × List Nat
  | .vadd _ _ _ d a b m | .vsub _ _ _ d a b m | .vmul _ _ _ d a b m => (vNum d ++ vNum a ++ vNum b ++ mNum m, vNum d)
  | .vfma _ _ _ d a b m | .vfms _ _ _ d a b m | .vfnma _ _ _ d a b m | .vfnms _ _ _ d a b m =>
    (d.val :: vNum a ++ vNum b ++ mNum m, [d.val])
  | .vmax _ _ d a b m | .vmin _ _ d a b m | .vmaxa _ _ d a b m | .vmina _ _ d a b m =>
    (vNum d ++ vNum a ++ vNum b ++ mNum m, vNum d)
  | .vcmpEq _ _ _ d a b m | .vcmpLt _ _ _ d a b m | .vcmpLe _ _ _ d a b m | .vcmpUn _ _ _ d a b m =>
    (vNum a ++ vNum b ++ mNum m ++ mNum d, mNum d)
  | .vsel _ _ d a b m => (vNum a ++ vNum b ++ mNum m, [d.val])
  | .vand _ d a b m | .vor _ d a b m | .vxor _ d a b m | .vandn _ d a b m => (vNum d ++ vNum a ++ vNum b ++ mNum m, vNum d)
  | .vshl _ _ d a _ m | .vshr _ _ d a _ m | .vshra _ _ d a _ m => (d.val :: vNum a ++ mNum m, [d.val])
  | .vcvt _ _ _ _ _ _ d a m => ([d.val, d.val + 1, a.val, a.val + 1] ++ mNum m, [d.val, d.val + 1])
  | .vexp2 _ d a m | .vrcp _ d a m | .vrsq _ d a m | .vmov _ d a m => (vNum d ++ vNum a ++ mNum m, vNum d)
  | .vquant _ d a _ m | .vdeq _ d a _ m => (vNum d ++ vNum a ++ mNum m, vNum d)
  | .vabs _ _ d a m | .vneg _ _ d a m => (vNum d ++ vNum a ++ mNum m, vNum d)
  | .vld _ _ m d _ _ => (d.val :: mNum m, [d.val])
  | .vst _ _ m d _ _ => (d.val :: mNum m, [])
  | .mand _ d a b | .mor _ d a b | .mxor _ d a b | .mandn _ d a b => (mNum a ++ mNum b, mNum d)
  | _ => ([], [])

/-- The g operands of a recorded instruction: the base of its memory address first, where it has one. -/
def recG : Instr → Option (Fin 32) × List (Fin 32)
  | .vld _ _ _ _ a _ | .vst _ _ _ _ a _ => (some a, [])
  | .vquant _ _ _ b _ | .vdeq _ _ _ b _ => (none, [b])
  | .tmm _ _ _ (.local a) b => (some a, [b])
  | .tmm _ _ _ (.stream _) b => (none, [b])
  | _ => (none, [])
/-- The q operands of a recorded instruction: sources and destination. -/
def recQ : Instr → List (Fin 8) × List (Fin 8)
  | .vadd _ _ _ d a b _ | .vsub _ _ _ d a b _ | .vmul _ _ _ d a b _ | .vmax _ _ d a b _ | .vmin _ _ d a b _
  | .vmaxa _ _ d a b _ | .vmina _ _ d a b _ | .vand _ d a b _ | .vor _ d a b _ | .vxor _ d a b _ | .vandn _ d a b _ =>
    (qRegs [a, b], qRegs [d])
  | .vfma _ _ _ _ a b _ | .vfms _ _ _ _ a b _ | .vfnma _ _ _ _ a b _ | .vfnms _ _ _ _ a b _ | .vcmpEq _ _ _ _ a b _
  | .vcmpLt _ _ _ _ a b _ | .vcmpLe _ _ _ _ a b _ | .vcmpUn _ _ _ _ a b _ | .vsel _ _ _ a b _ => (qRegs [a, b], [])
  | .vshl _ _ _ a _ _ | .vshr _ _ _ a _ _ | .vshra _ _ _ a _ _ => (qRegs [a], [])
  | .vexp2 _ d a _ | .vrcp _ d a _ | .vrsq _ d a _ | .vmov _ d a _ | .vquant _ d a _ _ | .vdeq _ d a _ _
  | .vabs _ _ d a _ | .vneg _ _ d a _ => (qRegs [a], qRegs [d])
  | .tmm _ _ _ (.stream q) _ => ([q], [])
  | _ => ([], [])

/-- The instructions that words record, in order. -/
def recorded : Nat → List Nat → List Instr
  | 0, _ => []
  | fuel + 1, ws =>
    match decodeWords ws with
    | .ok i nw => i :: recorded fuel (ws.drop nw)
    | _ => []
/-- The instructions a Diffuser holds. -/
def Dif.instrs (d : Dif) : List Instr := if d.words.isEmpty then [] else recorded d.words.length d.words

/-! ### Start and end of a sequence (R226, R228) -/

/-- Whether a q register that a recording names in any repetition is misused; the renaming of q registers repeats at the
latest after 8 repetitions. -/
def difMisuse (t : Slot) (is : List Instr) (g n : Nat) : Bool :=
  (List.range (min n 8)).any fun i => is.any fun x =>
    let q := recQ (renInstr g i x)
    (q.1.any fun r => t.qBad r false true) || q.2.any fun r => t.qBad r true true

/-- DIFGO (R226). N = 0, which ngas does not write, starts no sequence (log 36: DESIGN CHOICE). -/
def effDifgo (a : Fin 32) (imm : Int) (s : State) : Eff :=
  withVec [] [a] [] s fun _ s =>
    if s.dif.owner ≠ some s.cur then .trap 0x0C 0 s
    else
      let is := s.dif.instrs
      let n := (imm % 65536).toNat
      match (is.flatMap fun i => (recG i).1.toList ++ (recG i).2).find? fun r => !s.me.full r with
      | some r => .park 2 (.reg r) s
      | none =>
        if difMisuse s.me is (s.me.rd a).toNat n then .trap 0x10 0 s
        else if n = 0 then .done s
        else
          let r : DifRun :=
            { total := n, rep := 0, next := 0, snap := s.me.g, stag := s.me.rd a, wrote := [], blocked := false, nw := 1 }
          .done (s.modDif fun x => { x with run := some r })
/-- DIFGO. -/
def execDifgo (p : Pfx) (a : Fin 32) (imm : Int) (s : State) : Res := runEff p true (effDifgo a imm) s

/-- DIFWAIT (R228): permitted in a region (R229). -/
def execDifwait (p : Pfx) (s : State) : Res :=
  run p (nwX p) false s fun s => if s.seqRuns then s.parkRe 9 .diffuser (nwX p) else s.finish (nwX p)

/-! ### A recorded instruction's issue (R227) -/

/-- The effect of a recorded instruction on a state whose running thread is the owner, its g registers the snapshot; `base`
stands for the register of a memory address. -/
def recEff (base : Fin 32) : Instr → State → Eff
  | .vadd _ t r d a b m, s => effVadd t r d a b m s
  | .vsub _ t r d a b m, s => effVsub t r d a b m s
  | .vmul _ t r d a b m, s => effVmul t r d a b m s
  | .vfma _ t r d a b m, s => effFused .fma t r d a b m s
  | .vfms _ t r d a b m, s => effFused .fms t r d a b m s
  | .vfnma _ t r d a b m, s => effFused .fnma t r d a b m s
  | .vfnms _ t r d a b m, s => effFused .fnms t r d a b m s
  | .vmax _ t d a b m, s => effExtreme true false t d a b m s
  | .vmin _ t d a b m, s => effExtreme false false t d a b m s
  | .vmaxa _ t d a b m, s => effExtreme true true t d a b m s
  | .vmina _ t d a b m, s => effExtreme false true t d a b m s
  | .vcmpEq _ n t d a b m, s => effVcmp 0 n t d a b m s
  | .vcmpLt _ n t d a b m, s => effVcmp 1 n t d a b m s
  | .vcmpLe _ n t d a b m, s => effVcmp 2 n t d a b m s
  | .vcmpUn _ n t d a b m, s => effVcmp 3 n t d a b m s
  | .vsel _ _ d a b m, s => effVsel d a b m s
  | .vand _ d a b m, s => effBits (fun x y => x &&& y) d a b m s
  | .vor _ d a b m, s => effBits (fun x y => x ||| y) d a b m s
  | .vxor _ d a b m, s => effBits (fun x y => x ^^^ y) d a b m s
  | .vandn _ d a b m, s => effBits (fun x y => x &&& (0xFFFFFFFF - y)) d a b m s
  | .vshl _ t d a n m, s => effShift shlE t d a n m s
  | .vshr _ t d a n m, s => effShift shrE t d a n m s
  | .vshra _ t d a n m, s => effShift sraE t d a n m s
  | .vcvt _ tt st r ns pt d a m, s =>
    if (st.width < tt.width && d.val % 2 == 1) || (tt.width < st.width && a.val % 2 == 1) then .trap 1 0 s
    else effVcvt tt st r ns pt d a m s
  | .vexp2 _ d a m, s => effUnary fpExp2 d a m s
  | .vrcp _ d a m, s => effUnary fpRcp d a m s
  | .vrsq _ d a m, s => effUnary fpRsq d a m s
  | .vquant _ d a b m, s => effVquant d a b m s
  | .vdeq _ d a b m, s => effVdeq d a b m s
  | .vmov _ d a m, s => effVmov d a m s
  | .vld p sp m d _ n, s => effVld (hintsOf p) sp m d base n s
  | .vst _ sp m d _ n, s => effVst sp m d base n s
  | .mand _ d a b, s => effMask (fun x y => x &&& y) d a b s
  | .mor _ d a b, s => effMask (fun x y => x ||| y) d a b s
  | .mxor _ d a b, s => effMask (fun x y => x ^^^ y) d a b s
  | .mandn _ d a b, s => effMask (fun x y => x &&& ~~~y) d a b s
  | .vabs _ t d a m, s => effSign false t d a m s
  | .vneg _ t d a m, s => effSign true t d a m s
  | .tmm _ acc bf (.local _) b, s => effTmm true acc bf (.local base) b s
  | .tmm _ acc bf (.stream q) b, s => effTmm true acc bf (.stream q) b s
  | .tzero _ acc, s => effTzero acc s
  | _, s => .done s

/-- The prefixes of a recorded instruction. -/
def recPfx : Instr → Pfx
  | .vadd p .. | .vsub p .. | .vmul p .. | .vfma p .. | .vfms p .. | .vfnma p .. | .vfnms p .. | .vmax p .. | .vmin p ..
  | .vmaxa p .. | .vmina p .. | .vcmpEq p .. | .vcmpLt p .. | .vcmpLe p .. | .vcmpUn p .. | .vsel p .. | .vand p ..
  | .vor p .. | .vxor p .. | .vandn p .. | .vshl p .. | .vshr p .. | .vshra p .. | .vcvt p .. | .vexp2 p .. | .vrcp p ..
  | .vrsq p .. | .vquant p .. | .vdeq p .. | .vmov p .. | .vld p .. | .vst p .. | .mand p .. | .mor p .. | .mxor p ..
  | .mandn p .. | .vabs p .. | .vneg p .. | .tmm p .. | .tzero p .. => p
  | _ => Pfx.none

/-- The next recorded instruction of a running sequence, renamed. -/
def Dif.current (d : Dif) (r : DifRun) : Option Instr := (d.instrs[r.next]?).map (renInstr r.stag.toNat r.rep)

/-- The sequence goes on after its current instruction has issued on a clock; after the last one of the last repetition it
ends. -/
def Dif.advance (d : Dif) (clock : Nat) : Dif :=
  match d.run with
  | none => d
  | some r =>
    let wrote := match d.current r with
      | some x => (recRegs x).2.foldl (fun m w => FMap.set m w clock) r.wrote
      | none => r.wrote
    if r.next + 1 < d.instrs.length then { d with run := some { r with next := r.next + 1, wrote := wrote, blocked := false } }
    else if r.rep + 1 < r.total then
      { d with run := some { r with next := 0, rep := r.rep + 1, wrote := wrote, blocked := false } }
    else { d with run := none }

/-- The owner's slot as a recorded instruction sees it: its g registers are the snapshot, and `base` holds the address of the
instruction's memory operand raised by the repetition's step. -/
def difView (t : Slot) (r : DifRun) (x : Instr) (base : Fin 32) : Slot :=
  match (recG x).1 with
  | none => { t with g := r.snap, src := none }
  | some a =>
    let step := (BitVec.ofNat 16 (bits r.stag.toNat 63 48)).toInt
    let old := if a = 0 then GReg.of 0 else r.snap[a]
    { t with src := none, g := r.snap.set base { old with val := old.val + BitVec.ofInt 64 (r.rep * step * 16) } }

/-- Issues the current instruction of a core's sequence on the clock of the state. The parts of a vector access that a thread would
await are performed on that clock (log 36: DESIGN CHOICE; R227 gives a sequence no wait for a reply); one whose page is on its way is
tried again. -/
def State.difTry (s : State) (c : Nat) : State :=
  match (s.core c).dif.run, (s.core c).dif.owner with
  | some r, some k =>
    match (s.core c).dif.current r with
    | none => s.modCore c fun x => { x with dif := { x.dif with run := none } }
    | some x =>
      let t := s.slot k
      let base : Fin 32 := if (recG x).2.contains 1 then 2 else 1
      let back := fun (s : State) => s.modSlot k fun u => { u with g := t.g, src := t.src, park := t.park }
      let wait := fun (s : State) (b : Bool) => (back s).modCore c fun y =>
        { y with dif := { y.dif with run := some { r with blocked := b, nw := nwX (recPfx x) } } }
      let owe := fun (s : State) (cause : Nat) (addr : Word) => (back s).modCore c fun y =>
        { y with dif := { y.dif with run := none, trap := some (cause, addr, nwX (recPfx x)) } }
      let next := fun (s : State) => (back s).modCore c fun y => { y with dif := y.dif.advance s.clock }
      let s := { s with cur := k }
      if !t.guard (recPfx x) then next s
      else match recEff base x (s.setSlot k (difView t r x base)) with
        | .done s => next s
        | .rest 12 _ _ s => wait s false
        | .rest c w rest s0 =>
          let q : Park := { cause := c, since := s.clock, wait := w, nw := 1, rest := rest, arrived := false, exempt := true,
                            via := [] }
          let s := (s0.modSlot k fun u => { u with park := some q }).runParts k 64
          let q := ((s.slot k).park).getD q
          (match q.wait, q.rest with
          | .pieces .., _ => wait s0 false
          | _, .fault cause addr => owe s cause addr
          | _, .finish ws => (match ws.findSome? s.wrBad with
            | some (cause, addr, x) => owe (s.verifyAll 0 x.1 x.2) cause addr
            | none => next (ws.foldl (fun s w => s.applyWr k w) s))
          | _, _ => wait s0 false)
        | .park cause _ s => wait s (cause == 7 || cause == 8)
        | .trap cause addr s => owe s cause addr
  | _, _ => s

/-- Whether a core's sequence may try an instruction on a clock (R227): the vector unit is free, no recorded TMM waits for
its start, no register it reads was written less than 8 clocks ago, and its gang is not stalled but by itself. -/
def State.difReady (s : State) (c clock : Nat) : Bool :=
  let x := s.core c
  match x.dif.run with
  | none => false
  | some r =>
    x.vecAt != clock && x.slice.tmm.isNone && !x.asleep && ((s.cluster (clusterOfCore c)).stall.isNone || r.blocked) &&
    (match x.dif.current r with
      | none => true
      | some i => (recRegs i).1.all fun w => !FMap.has r.wrote w || decide (FMap.get 0 r.wrote w + 8 ≤ clock))

end Sys2Proof.Machine
end

