-- ==== Sys2Proof/Machine/Scope.lean ====
section
/-! DEFINITION. Scopes, levels, what is performed or visible at a level (R252, R253, R259), and acquires and releases
(R258, R260-R263). -/

namespace Sys2Proof.Machine

/-- The index of the named scope that a thread's selector holds, when its valid bit is set (R57, R58). -/
def Slot.named (t : Slot) (n : Fin 8) : Option Nat :=
  let x := t.k.scopes[n].toNat
  if tb x 15 then some (x % 4096) else none

/-- A thread's instance of a scope; none for an invalid selector (R58, R259), or one of an entry that has been invalidated (R336). -/
def State.scopeInst (s : State) (k : Nat) : Scope → Option ScopeInst
  | .thread => some (.thread k)
  | .core => some (.core (coreOf k))
  | .cluster => some (.cluster (clusterOf k))
  | .sector => some (.sector (dieOf (clusterOf k)) (clusterOf k % 40 / 8))
  | .die => some (.die (dieOf (clusterOf k)))
  | .device => some (.device (devOfSlot k))
  | .span => some .span
  | .named n => ((s.slot k).named n).bind fun i =>
      if (s.part (s.pidOf (clusterOf k))).scopes.any fun e => e.1 == i && !e.2.valid then none else some (.named (s.pidOf (clusterOf k)) i)

/-- A named scope's descriptor. -/
def State.scopeDesc (s : State) (pid i : Nat) : ScopeDesc :=
  (s.part pid).scopes.get { cores := 0, devs := 0, valid := false } i

/-- Whether a core is in an instance of a scope (R259). A thread scope holds no core but for its own thread. -/
def State.holdsCore (s : State) (i : ScopeInst) (c : Nat) : Bool :=
  match i with
  | .thread _ => false
  | .core c' => c == c'
  | .cluster ck => clusterOfCore c == ck
  | .sector die row => dieOf (clusterOfCore c) == die && clusterOfCore c % 40 / 8 == row
  | .die die => dieOf (clusterOfCore c) == die
  | .device d => devOfCore c == d
  | .span => true
  | .named pid n =>
    let e := s.scopeDesc pid n
    e.valid && tb e.cores.toNat (c % 1280) && tb e.devs.toNat (s.numOf (devOfCore c))

/-- Whether a thread is in an instance of a scope. -/
def State.holdsThread (s : State) (i : ScopeInst) (k : Nat) : Bool :=
  match i with
  | .thread k' => k == k'
  | _ => s.holdsCore i (coreOf k)

/-- The levels of R253: 0 store queue, 1 core, 2 fused cluster, 3 die, 4 device, 5 span. -/
def State.levelOf (s : State) (c : Nat) : ScopeInst → Nat
  | .thread _ => 0
  | .core _ => 1
  | .cluster ck => if (s.cluster ck).fused then 2 else 3
  | .sector .. => 3
  | .die _ => 3
  | .device _ => 4
  | .span => 5
  | .named pid n =>
    let e := s.scopeDesc pid n
    let own := c % 1280
    let cores := (List.range 1280).filter fun i => tb e.cores.toNat i
    let me := s.numOf (devOfCore c)
    if (List.range 512).any fun d => tb e.devs.toNat d && d != me then 5
    else if cores.any fun i => i / 320 != own / 320 then 4
    else if cores.any fun i => i / 8 != own / 8 then 3
    else if cores.all (· == own) then 1
    else if (s.cluster (clusterOfCore c)).fused then 2 else 3

/-- Whether an operation not yet at its home counts as performed at a level (R253): a store to local memory is performed
at its bank only, a posted operation is ordered by its lane only, and no L1 shows what an atomic will write. -/
def SqEntry.performed (e : SqEntry) (dev level : Nat) (queued : Bool) : Bool :=
  if devOfAddr e.pa ≠ dev then true
  else if isLocalWin (localOfAddr e.pa) then false
  else if queued || e.op.isAtomic then level == 0 else decide (level ≤ 2)

/-- Whether a release of a thread numbered `upto` covers an operation: an earlier one of its own, or one that has left the same L1 and
that the thread may have seen by an acquire (R260, R261). -/
def State.covers (s : State) (k upto k' id : Nat) : Bool :=
  decide (id < upto) && (k' == k || (s.sameL1 (coreOf k') (coreOf k) && decide (id < (s.slot k).behind)))
/-- Whether the operations that a release of a thread covers are performed at a level, of those on their way the ones in `net` (R172,
R253, R261): from the die up, a store to a far line is announced on the thread's die first, so that a wider scope serves as well (R256,
R273). -/
def State.performedBy (s : State) (k level upto : Nat) (net : List Msg) : Bool :=
  let dev := devOfSlot k
  ((s.core (coreOf k)).sq.all fun e => !(e.k == k && decide (e.id < upto)) || e.performed dev level true) &&
  (net.all fun m => match m.kind with
    | .op e => !s.covers k upto e.k e.id || e.performed dev level false
    | .moved (.op e) _ => !s.covers k upto e.k e.id || e.performed dev level false
    | _ => true) &&
  (decide (level < 3) || s.net.all fun m => match m.kind with
    | .ack _ _ op => !s.covers k upto m.k op
    | _ => true)
/-- Whether every earlier store and same-device posted atomic of a thread is performed at a level, with what its release covers (R172,
R253, R261). -/
def State.performedAt (s : State) (k level : Nat) : Bool := s.performedBy k level s.nextId s.net
/-- Whether a store or an atomic that a releasing fence has made a release waits at its home: what it covers is not yet performed at
its scope's level (R260). At the levels of an L1 the store queue's order serves. -/
def State.relHeld (s : State) (k id : Nat) (tag : Option RelTag) : Bool :=
  match tag with
  | none => false
  | some t =>
    let level := s.levelOf t.core t.scope
    decide (3 ≤ level) && !s.performedBy k level id (s.net.takeWhile (·.id != id))

/-- The writers that stand for jobs and slices begin here: no slot has such a number, so every L1 loses its copy. -/
def jobWriter : Nat := 2 ^ 60
/-- The writer that stands for a job or an accepted drain. -/
def jobMark (id : Nat) : Nat := jobWriter + 1 + id
/-- Whether the invalidations of a thread's performed stores have reached every core of its die, with those of jobs, whose writes
count as its stores once it has acquired them (R252, R269). -/
def State.invalsOut (s : State) (k : Nat) : Bool :=
  (s.die (dieOf (clusterOf k))).notices.all fun n => match n with
    | .inval _ _ w => w != k && decide (w ≤ jobWriter)
    | .final .. => true

/-- Whether every store of a thread is performed at its home, on whatever device (R97). -/
def State.allHome (s : State) (k : Nat) : Bool :=
  s.storesHome k && !(s.core (coreOf k)).sq.any (·.k == k) &&
  s.lanes.all fun l => l.k != k || l.gen != (s.slot k).gen || l.flight.isEmpty

/-- What a fence at a level waits for (R172, R264): the stores performed, and for `sc` visible; 6 stands for the homes of
every device. -/
def State.fenceMet (s : State) (k level : Nat) (visible : Bool) : Bool :=
  if level = 6 then s.allHome k else
  s.performedAt k level && (!visible || decide (level < 3) || s.invalsOut k)

/-! ### Remote faults at fences (R159) -/

/-- Whether every operation of a thread on a broken lane has been answered, those that its store queue has still to send among
them, which are discarded at the source (R159 steps 3 and 4, R281). -/
def State.lanesAnswered (s : State) (k : Nat) : Bool :=
  s.lanes.all fun l => !(l.k == k && l.gen == (s.slot k).gen && l.broken.isSome && l.delivered) ||
    (l.flight.isEmpty && l.acks.isEmpty && (s.core (coreOf k)).sq.all fun e => e.k != k || devOfAddr e.pa != l.dst)
/-- How many undelivered records a core holds for a thread (R159). -/
def recMax : Nat := 4
/-- Whether a remote fault record of a thread is on its way to its core; one that found no room is, once there is room (R152, R159). -/
def State.recComing (s : State) (k : Nat) : Bool :=
  s.lanes.any fun l => l.k == k && l.gen == (s.slot k).gen && l.broken.isSome && !l.delivered &&
    (!l.refused || decide ((s.slot k).recs.length < recMax))
/-- Whether every posted operation of a thread has been answered (R174): a faulting one counts from the break. -/
def State.postedAnswered (s : State) (k : Nat) : Bool :=
  ((s.core (coreOf k)).sq.all fun e => e.k != k || (devOfAddr e.pa == devOfSlot k && match e.op with
    | .store _ => true
    | _ => false)) &&
  (s.net.all fun m => match m.kind with
    | .op e => e.k != k || (match e.op with
      | .store _ => true
      | _ => false)
    | .moved (.op e) _ => e.k != k
    | _ => true) &&
  s.lanes.all fun l => l.k != k || l.gen != (s.slot k).gen || (l.flight.isEmpty && l.acks.isEmpty)

/-- The trap of cause 0x0E with the oldest record, which reopens its lane (R56, R159). -/
def State.trapRemote (s : State) (nw : Nat) : State :=
  match s.me.recs with
  | [] => s
  | r :: rs =>
    let gen := s.me.gen
    let s := s.modMe fun t => { t with recs := rs }
    let s := { s with lanes := s.lanes.filter fun l =>
      !(l.k == s.cur && l.gen == gen && l.delivered && (l.broken.map fun b : RemRec => b.dev) == some r.dev) }
    s.trapAt s.cur 0x0E 0 nw (some r)

/-- The start of a fence, ST.rel, FENCE.POST or EXIT (R159): a pending remote fault waits for its lane and traps, but not in a
trap handler (R341). -/
def withLanes (s : State) (nw : Nat) (f : State → State) : State :=
  if s.me.inh || s.me.recs.isEmpty then f s
  else if s.lanesAnswered s.cur then s.trapRemote nw
  else s.parkRe 10 .lanes nw

/-! ### Acquires -/

/-- What an acquire at a level does beside its read, as a write of the rest of a parked instruction: what it drops (R258), and that a
release of the thread covers what its L1 has let it see (R261). -/
def acqWr (level : Nat) : List Wr :=
  if level = 4 then [.dropFar false] else if level = 5 then [.dropFar true] else if level = 3 then [] else [.saw]

/-- The release tag that an acquire at a scope finds on a line: at a level of its L1 that of the latest store on its way from there,
otherwise the line's own (R260). -/
def State.tagSeen (s : State) (k line : Nat) (inst : ScopeInst) : Option RelTag :=
  let home := if s.tags.has line then (s.tags.find? (·.1 == line)).map (·.2) else none
  if 3 ≤ s.levelOf (coreOf k) inst then home
  else (s.net.reverse.findSome? fun m => match m.kind with
    | .op e => if s.sameL1 (coreOf e.k) (coreOf k) && (s.opLines e).contains line then some e.tag else none
    | _ => none).getD home

/-- The tag that an acquire of thread `k` must have repaired first (R261 case 3): the writer is in the acquire's scope, the
reader is not in the release's. -/
def State.tooNarrow (s : State) (k line : Nat) (inst : ScopeInst) : Option RelTag :=
  match s.tagSeen k line inst with
  | some t => if s.holdsCore inst t.core && !s.holdsThread t.scope k then some t else none
  | none => none

/-- Sends a scope-miss to the writer's core; the acquire parks and issues again once it is answered (R262). -/
def State.scopeMiss (s : State) (line : Nat) (t : RelTag) (cause nw : Nat) : State :=
  let id := s.nextId
  ((s.send s.cur (.scopeMiss line t s.myDev 0)).parkRe cause (.reply id) nw).modSlot s.cur fun x =>
    { x with park := x.park.map fun p => { p with via := s.viaOf s.cur (devOfCore t.core) 0 } }

/-- Goes on with the running thread's instance of a scope, or traps with cause 0x14. -/
def withScope (s : State) (sc : Scope) (nw : Nat) (f : ScopeInst → State) : State :=
  match s.scopeInst s.cur sc with
  | some i => f i
  | none => s.trap 0x14 0 nw

/-- The release tag of a scope instance for the running thread (R260). -/
def State.relTag (s : State) (i : ScopeInst) : RelTag := { scope := i, core := s.myCore }

end Sys2Proof.Machine
end

