-- ==== Sys2Proof/Machine/LocalMem.lean ====
section
/-! DEFINITION. Local memory: LDL and STL in both forms (R160), the full/empty operations (R161). -/

namespace Sys2Proof.Machine

/-- The local address of an operand (R7, R160). -/
def laOf (t : Slot) (a : Fin 32) (off : Int) (n : Nat) : Word := eaOf t a off n

/-- An access of a local word: at the own core at once, at another with its reply (R92). -/
def localAt (nw : Nat) (m : LMode) (la : Nat) (w : Wr) (s : State) : State :=
  if s.lmOwn m la then s.finishWith [w] nw
  else s.parkFin 1 (.time (s.clock + 14)) [w] nw

/-- LDL of `n` bytes (R92, R160): at the own core at once, at another after the reply. -/
def ldlAt (nw : Nat) (p : Pfx) (m : LMode) (d a : Fin 32) (off : Int) (n : Nat) (signed : Bool) (s : State) : Res :=
  run p nw true s fun s => withFull s [a] nw fun s =>
    let la := laOf s.me a off n
    if la.toNat % n ≠ 0 then s.trap 5 la nw
    else localAt nw m la.toNat (.lmGet d la (s.lmPa m la.toNat) n signed) s

/-- STL of `n` bytes (R92, R94, R160), with the thread's release tag (R260, R275). -/
def stlAt (nw : Nat) (p : Pfx) (m : LMode) (d a : Fin 32) (off : Int) (n : Nat) (s : State) : Res :=
  run p nw true s fun s => withFull s [a, d] nw fun s =>
    let la := laOf s.me a off n
    if la.toNat % n ≠ 0 then s.trap 5 la nw
    else localAt nw m la.toNat (.lmPut (cellsAt (s.lmPa m la.toNat) (toBytes n (s.me.rd d).toNat)) s.me.rel) s

/-- LDL, short form: 8 bytes (R160). -/
def execLdl (p : Pfx) (mode : LMode) (d a : Fin 32) (off : Fin 8) (s : State) : Res :=
  ldlAt (nw0 p) p mode d a (Int.ofNat off.val) 8 false s
/-- STL, short form: 8 bytes (R160). -/
def execStl (p : Pfx) (mode : LMode) (d a : Fin 32) (off : Fin 8) (s : State) : Res :=
  stlAt (nw0 p) p mode d a (Int.ofNat off.val) 8 s
/-- LDL, page-3 form (R160). -/
def execLdlLong (p : Pfx) (mode : LMode) (sg : Bool) (sz : Sz) (d a : Fin 32) (off : Int) (s : State) : Res :=
  ldlAt (nwX p) p mode d a off sz.bytes sg s
/-- STL, page-3 form (R160). -/
def execStlLong (p : Pfx) (mode : LMode) (sz : Sz) (d a : Fin 32) (off : Int) (s : State) : Res :=
  stlAt (nwX p) p mode d a off sz.bytes s

/-! ### Full/empty operations (R161) -/

/-- What a full/empty operation of slot `k` does at its bank: its store with a release tag (R260), and the state it leaves
the word in; what it read it has learned (R275). -/
def State.feDo (s : State) (k pa : Nat) (store : Option Word) (tag : Option RelTag) (leave : Bool) : State :=
  match store with
  | some x => (s.homeWrite 0 (cellsAt pa (toBytes 8 x.toNat)) k tag).setWord pa leave
  | none => (s.setWord pa leave).learn k

/-- A full/empty operation that waits for a state of its word (R161): at once at the own core in the right state; otherwise
it enters its bank's list, under cause 1 while the state is right and under cause 3 while it is wrong. -/
def fe (p : Pfx) (m : LMode) (d a : Fin 32) (off : Int) (wantFull isStore leave : Bool) (s : State) : Res :=
  let nw := nwX p
  run p nw true s fun s => withFull s (if isStore then [a, d] else [a]) nw fun s =>
    let la := laOf s.me a off 8
    if la.toNat % 8 ≠ 0 then s.trap 5 la nw
    else
      let pa := s.lmPa m la.toNat
      let st := if isStore then some (s.me.rd d) else none
      let right := s.wordFull pa == wantFull
      if right && s.lmOwn m la.toNat then
        match if isStore then none else s.poisonOf 0 pa 8 with
        | some c => (s.verifyAll 0 pa 8).trap c la nw
        | none =>
        let x := BitVec.ofNat 64 (s.plainAt pa 8)
        (s.feDo s.cur pa st s.me.rel leave).finishMe nw fun t => if isStore then t else t.wr d x
      else
        let b : BankWait := { word := pa / 8, full := wantFull, k := s.cur, d := d, la := la, store := st, leave := leave, tag := s.me.rel }
        (s.modCluster s.myCluster fun c => { c with bank := c.bank ++ [b] }).parkFin (if right then 1 else 3)
          (.bank (pa / 8) wantFull) [] nw

/-- LDFE (R161). -/
def execLdfe (p : Pfx) (mode : LMode) (d a : Fin 32) (off : Int) (s : State) : Res := fe p mode d a off true false false s
/-- LDFF (R161). -/
def execLdff (p : Pfx) (mode : LMode) (d a : Fin 32) (off : Int) (s : State) : Res := fe p mode d a off true false true s
/-- STFE (R161). -/
def execStfe (p : Pfx) (mode : LMode) (d a : Fin 32) (off : Int) (s : State) : Res := fe p mode d a off false true true s
/-- STFF (R161). -/
def execStff (p : Pfx) (mode : LMode) (d a : Fin 32) (off : Int) (s : State) : Res := fe p mode d a off true true true s

/-- SETE (R161). -/
def sete (p : Pfx) (m : LMode) (a : Fin 32) (off : Int) (full : Bool) (s : State) : Res :=
  let nw := nwX p
  run p nw true s fun s => withFull s [a] nw fun s =>
    let la := laOf s.me a off 8
    if la.toNat % 8 ≠ 0 then s.trap 5 la nw
    else localAt nw m la.toNat (.lmSet (s.lmPa m la.toNat) full) s

/-- SETE.e (R161). -/
def execSeteE (p : Pfx) (mode : LMode) (a : Fin 32) (off : Int) (s : State) : Res := sete p mode a off false s
/-- SETE.f (R161). -/
def execSeteF (p : Pfx) (mode : LMode) (a : Fin 32) (off : Int) (s : State) : Res := sete p mode a off true s

end Sys2Proof.Machine
end

