-- ==== Sys2Proof/Machine/Firmware.lean ====
section
/-! DEFINITION. What the boot flash holds (R302, R304, log 3) and the firmware roles (R301, R302). -/

namespace Sys2Proof.Machine

/-- The `n` bytes of a list from byte `i` on. -/
def bytesIn (bs : List Byte) (i n : Nat) : List Byte := (bs.drop i).take n
/-- The sizes of the root public key, of the firmware key certificate (public key, svn, signature), and of what follows the
image: its digest, the digest's signature, the configuration table (log 3). -/
def rootLen : Nat := 96
def certLen : Nat := 196
def tailLen : Nat := 48 + 96 + 256
/-- The parts of the flash. -/
def rootKey (f : List Byte) : List Byte := bytesIn f 0 rootLen
def certOf (f : List Byte) : List Byte := bytesIn f rootLen certLen
def imageOf (f : List Byte) : List Byte := bytesIn f (rootLen + certLen) (f.length - rootLen - certLen - tailLen)
def digestOf (f : List Byte) : List Byte := bytesIn f (f.length - tailLen) 48
def digestSig (f : List Byte) : List Byte := bytesIn f (f.length - tailLen + 48) 96
def tableOf (f : List Byte) : List Byte := bytesIn f (f.length - 256) 256

/-- The flash that the running firmware was loaded from: boot flash, or what network recovery received (R303). -/
def Dev.bootBytes (d : Dev) : List Byte := if d.bootst.toNat / 2 ^ 16 % 2 = 1 then d.recovery.data else d.flash
/-- The Ethernet port that an SPDM session came by: the model numbers the sessions of port `p` by numbers whose remainder by 2 is `p`
(R308, log 8). -/
def sessPort (id : Nat) : Nat := id % 2
/-- The core mask of a role (R302). -/
def roleMask (table : List Byte) (role : Nat) : Nat := ofBytes (bytesIn table (16 + 8 * role) 8)
/-- Firmware core `j` of a device (R301). -/
def firmwareCore (dev j : Nat) : Nat := (dev * 160 + 8 * (j / 8) + 7) * 8 + j % 8
/-- The cores of a role on a device, in ascending order; none before firmware runs. -/
def State.roleCores (s : State) (dev role : Nat) : List Nat :=
  let d := s.dev dev
  if d.bootst.toNat % 16 = 2 then
    ((List.range 40).filter fun j => roleMask (tableOf d.bootBytes) role / 2 ^ j % 2 == 1).map (firmwareCore dev)
  else []
/-- The core of a role that takes the next message, in circular order (R367), and the state after. -/
def State.nextRole (s : State) (dev role : Nat) : Option Nat × State :=
  let cs := s.roleCores dev role
  let n := (s.dev dev).roleNext.getD role 0
  match cs[n % cs.length]? with
  | none => (none, s)
  | some c => (some c, s.modDev dev fun d =>
      { d with roleNext := (List.range 6).map fun r => if r = role then n % cs.length + 1 else d.roleNext.getD r 0 })

end Sys2Proof.Machine
end

