-- ==== Sys2Proof/Machine/Atomic.lean ====
section
/-! DEFINITION. Atomics (R165, R166), reservations (R168-R170) and barriers (R176, R177): what issues. Their effects at the
home are the events'. -/

namespace Sys2Proof.Machine

/-- A 32-bit operand sign-extended, or all 64 bits (R165). -/
def amoS (w64 : Bool) (x : Nat) : Int := (signExtend (if w64 then 8 else 4) x).toInt
/-- The low 32 or 64 bits of an operand. -/
def amoU (w64 : Bool) (x : Nat) : Nat := x % 2 ^ (if w64 then 64 else 32)

/-- What memory becomes (R165): `m` is its value, `b` the operand, `o` the old gD of a compare and swap. -/
def AmoOp.apply (op : AmoOp) (w64 : Bool) (m b o : Nat) : Nat :=
  let m := amoU w64 m
  let b := amoU w64 b
  match op with
  | .add => amoU w64 (m + b)
  | .and => m &&& b
  | .or => m ||| b
  | .xor => m ^^^ b
  | .min => if amoS w64 m ≤ amoS w64 b then m else b
  | .max => if amoS w64 m ≤ amoS w64 b then b else m
  | .minz => if m ≤ b then m else b
  | .maxz => if m ≤ b then b else m
  | .swap => b
  | .cas => if m = amoU w64 o then b else m

/-- What gD receives: the old value, sign-extended for add, min and max (R165). -/
def AmoOp.result (op : AmoOp) (w64 : Bool) (m : Nat) : Word :=
  match op with
  | .add | .min | .max => signExtend (if w64 then 8 else 4) m
  | _ => BitVec.ofNat 64 (amoU w64 m)

/-- The size of an atomic in bytes. -/
def amoSize (w64 : Bool) : Nat := if w64 then 8 else 4

/-- A returning atomic (R165): checked, sent to the home, where it comes after the thread's earlier operations on the line (R156),
parked for the reply. -/
def amo (op : AmoOp) (p : Pfx) (w64 : Bool) (d a b : Fin 32) (s : State) : Res :=
  let nw := nwX p
  run p nw true s fun s => withFull s (if op = .cas then [a, b, d] else [a, b]) nw fun s =>
    let va := s.me.rd a
    withAcc s (s.me.tagOf a) va (amoSize w64) 2 false nw fun acc =>
      let id := acc.s.nextId
      let s := acc.s.send acc.s.cur (.amo op w64 va acc.pa acc.key d (s.me.rd b) (s.me.rd d) s.me.rel)
      (s.parkAt s.cur 1 (.reply id) (.finish []) nw true).onPath acc va

/-- AMO.add (R165). -/
def execAmoAdd (p : Pfx) (w64 : Bool) (d a b : Fin 32) (s : State) : Res := amo .add p w64 d a b s
/-- AMO.and (R165). -/
def execAmoAnd (p : Pfx) (w64 : Bool) (d a b : Fin 32) (s : State) : Res := amo .and p w64 d a b s
/-- AMO.or (R165). -/
def execAmoOr (p : Pfx) (w64 : Bool) (d a b : Fin 32) (s : State) : Res := amo .or p w64 d a b s
/-- AMO.xor (R165). -/
def execAmoXor (p : Pfx) (w64 : Bool) (d a b : Fin 32) (s : State) : Res := amo .xor p w64 d a b s
/-- AMO.min (R165). -/
def execAmoMin (p : Pfx) (w64 : Bool) (d a b : Fin 32) (s : State) : Res := amo .min p w64 d a b s
/-- AMO.max (R165). -/
def execAmoMax (p : Pfx) (w64 : Bool) (d a b : Fin 32) (s : State) : Res := amo .max p w64 d a b s
/-- AMO.minz (R165). -/
def execAmoMinz (p : Pfx) (w64 : Bool) (d a b : Fin 32) (s : State) : Res := amo .minz p w64 d a b s
/-- AMO.maxz (R165). -/
def execAmoMaxz (p : Pfx) (w64 : Bool) (d a b : Fin 32) (s : State) : Res := amo .maxz p w64 d a b s
/-- AMO.swap (R165). -/
def execAmoSwap (p : Pfx) (w64 : Bool) (d a b : Fin 32) (s : State) : Res := amo .swap p w64 d a b s
/-- AMO.cas (R165). -/
def execAmoCas (p : Pfx) (w64 : Bool) (d a b : Fin 32) (s : State) : Res := amo .cas p w64 d a b s

/-- A posted atomic of `n` bytes (R166). -/
def posted (p : Pfx) (a b : Fin 32) (n : Nat) (op : Nat → Word → POp) (s : State) : Res :=
  let nw := nwX p
  run p nw true s fun s => withFull s [a, b] nw fun s =>
    let va := s.me.rd a
    withAcc s (s.me.tagOf a) va n 2 true nw fun acc => acc.s.post va acc (op acc.pa (s.me.rd b)) s.me.rel nw

/-- AMOP of one operation. -/
def amop (op : AmoOp) (p : Pfx) (w64 : Bool) (a b : Fin 32) (s : State) : Res :=
  posted p a b (amoSize w64) (fun pa x => .amop op w64 pa x) s

/-- AMOP.add (R166). -/
def execAmopAdd (p : Pfx) (w64 : Bool) (a b : Fin 32) (s : State) : Res := amop .add p w64 a b s
/-- AMOP.and (R166). -/
def execAmopAnd (p : Pfx) (w64 : Bool) (a b : Fin 32) (s : State) : Res := amop .and p w64 a b s
/-- AMOP.or (R166). -/
def execAmopOr (p : Pfx) (w64 : Bool) (a b : Fin 32) (s : State) : Res := amop .or p w64 a b s
/-- AMOP.xor (R166). -/
def execAmopXor (p : Pfx) (w64 : Bool) (a b : Fin 32) (s : State) : Res := amop .xor p w64 a b s
/-- AMOP.min (R166). -/
def execAmopMin (p : Pfx) (w64 : Bool) (a b : Fin 32) (s : State) : Res := amop .min p w64 a b s
/-- AMOP.max (R166). -/
def execAmopMax (p : Pfx) (w64 : Bool) (a b : Fin 32) (s : State) : Res := amop .max p w64 a b s
/-- AMOP.minz (R166). -/
def execAmopMinz (p : Pfx) (w64 : Bool) (a b : Fin 32) (s : State) : Res := amop .minz p w64 a b s
/-- AMOP.maxz (R166). -/
def execAmopMaxz (p : Pfx) (w64 : Bool) (a b : Fin 32) (s : State) : Res := amop .maxz p w64 a b s

/-- FAMO.f32 (R166). -/
def execFamoF32 (p : Pfx) (a b : Fin 32) (s : State) : Res := posted p a b 4 (fun pa x => .famo false pa x) s
/-- FAMO.bf16 (R166). -/
def execFamoBf16 (p : Pfx) (a b : Fin 32) (s : State) : Res := posted p a b 2 (fun pa x => .famo true pa x) s

/-! ### Reservations -/

/-- The slots of a reservation set with a line entered (R168): it keeps its slot, or takes the lowest free one, or the one
armed longest ago. -/
def armResv (rs : List Resv) (line now : Nat) : List Resv :=
  match rs.find? (·.line == line) with
  | some r => { r with written := false, armed := now } :: rs.filter (·.line != line)
  | none =>
    match (List.finRange 8).find? fun i => rs.all (·.i != i) with
    | some i => { i := i, line := line, written := false, armed := now } :: rs
    | none =>
      let old := rs.foldl (fun m r => if r.armed < m.armed then r else m) (rs.headD { i := 0, line := 0, written := false, armed := 0 })
      { i := old.i, line := line, written := false, armed := now } :: rs.filter (·.i != old.i)

/-- LDR (R168): a load that also enters its line in the reservation set. The slot is armed by the clock of the load and its
place among the loads of one clock by the counter of messages. -/
def execLdr (p : Pfx) (d a : Fin 32) (off : Int) (s : State) : Res :=
  let nw := nwX p
  run p nw true s fun s => withFull s [a] nw fun s =>
    let va := eaOf s.me a off 8
    withAcc s (s.me.tagOf a) va 8 1 false nw fun acc => withLoad va acc 8 nw fun s =>
      ({ s with nextId := s.nextId + 1 }.modMe fun t => { t with resv := armResv t.resv (acc.pa / 64) s.nextId }).loadNow
        (hintsNt p) va acc 8 nw fun x => [.g d (BitVec.ofNat 64 x)]

/-- STC (R169): sent to the home, which tests the reservation and stores. -/
def execStc (p : Pfx) (d a : Fin 32) (off : Int) (s : State) : Res :=
  let nw := nwX p
  run p nw true s fun s => withFull s [a, d] nw fun s =>
    let va := eaOf s.me a off 8
    withAcc s (s.me.tagOf a) va 8 2 false nw fun acc =>
      let id := acc.s.nextId
      let s := acc.s.send acc.s.cur (.stc va acc.pa acc.key d (s.me.rd d) s.me.rel)
      (s.parkAt s.cur 1 (.reply id) (.finish []) nw true).onPath acc va

/-- The mask of the written slots of a reservation set (R170). -/
def resvMask (rs : List Resv) : Word :=
  rs.foldl (fun m r => if r.written then m ||| (1#64 <<< r.i.val) else m) 0

/-- WAITRS (R170): a written slot or an empty set ends it at once; otherwise it parks under cause 4. -/
def execWaitrs (p : Pfx) (d a : Fin 32) (s : State) : Res :=
  let nw := nwX p
  run p nw true s fun s => withFull s [a] nw fun s =>
    let t := s.me
    if t.resv.isEmpty || t.resv.any (·.written) then
      s.finishMe nw fun t => { t with resv := [] }.wr d (resvMask t.resv)
    else
      let n := (t.rd a).toNat
      s.parkFin 4 (.resv (if n = 0 then none else some (s.clock + n)) d) [] nw

/-! ### Barriers (R176, R177) -/

/-- Sends a barrier operation to the record's home and parks for the reply, with the registers it found: a BAR.AW goes on from its
arrival (R22, R177). -/
def barSend (s : State) (va : Word) (acc : Acc) (o : BarOp) (tag : Option RelTag) (acq : Option ScopeInst) (nw : Nat) : State :=
  let id := s.nextId
  let regs := s.me.regs
  (((s.send s.cur (.bar va acc.pa acc.key o tag acq)).parkAt s.cur 1 (.reply id) (.finish []) nw true).onPath acc va).modMe fun t =>
    { t with src := some regs }

/-- The checks of a barrier's record: 16 bytes, read and write (R176). -/
def withBar (s : State) (a : Fin 32) (nw : Nat) (f : Word → Acc → State) : State :=
  let va := s.me.rd a
  withAcc s (s.me.tagOf a) va 16 2 false nw fun acc => f va acc

/-- Goes on as a release at a scope instance: every earlier store performed at its level (R176, R260). -/
def withRelease (s : State) (i : ScopeInst) (nw : Nat) (f : State → State) : State :=
  let lv := s.levelOf s.myCore i
  if s.performedAt s.cur lv then f s else s.parkRe 10 (.fence lv false) nw

/-- BAR.init (R176). -/
def execBarInit (p : Pfx) (a b : Fin 32) (s : State) : Res :=
  let nw := nwX p
  run p nw true s fun s => withFull s [a, b] nw fun s => withBar s a nw fun va acc =>
    barSend acc.s va acc (.init (s.me.rd b)) s.me.rel none nw

/-- BAR.arrive (R176). -/
def execBarArrive (p : Pfx) (sc : Scope) (d a : Fin 32) (s : State) : Res :=
  let nw := nwX p
  run p nw true s fun s => withFull s [a] nw fun s => withBar s a nw fun va acc => withScope acc.s sc nw fun i =>
    withRelease acc.s i nw fun s => barSend s va acc (.arrive d false) (some (s.relTag i)) none nw

/-- The phase number of a barrier record (R176). -/
def State.barPhase (s : State) (key pa : Nat) : Word := BitVec.ofNat 64 (s.numAt key (pa + 8) 8)

/-- A wait on a barrier's phase (R176), after the thread's own earlier operations on the line (R156): over when the phase differs, and
then an acquire at the scope, which ends after the invalidations that were on their way when the phase was read (R255, R279); BAR.aw's
clears arrv (R56, R177). -/
def barWaitOn (s : State) (va : Word) (acc : Acc) (i : ScopeInst) (old : Word) (aw : Bool) (nw : Nat) : State :=
  if s.isMoved s.myPid acc.pa then (s.reread va.toNat).parkRe 1 .latency nw
  else if s.opsAhead s.cur va.toNat (acc.pa / 64) false then s.parkRe 1 .latency nw
  else match s.poisonOf acc.key acc.pa 16 with
  | some c => (s.verifyAll acc.key acc.pa 16).parkAt s.cur 5 .latency (.fault c va) nw false
  | none =>
    if s.barPhase acc.key acc.pa = old then s.parkRe 5 (.barrier va acc.pa old) nw
    else match s.tooNarrow s.cur (acc.pa / 64) i with
      | some t => s.scopeMiss (acc.pa / 64) t 5 nw
      | none =>
        let ws := acqWr (s.levelOf s.myCore i) ++ if aw then [.arrv false] else []
        if s.clock ≤ s.quiet s.myCore then s.parkFin 5 (.time (s.quiet s.myCore)) ws nw
        else (ws.foldl (fun s w => s.applyWr s.cur w) s).finish nw

/-- BAR.wait (R176). -/
def execBarWait (p : Pfx) (sc : Scope) (a b : Fin 32) (s : State) : Res :=
  let nw := nwX p
  run p nw true s fun s => withFull s [a, b] nw fun s => withBar s a nw fun va acc => withScope acc.s sc nw fun i =>
    barWaitOn acc.s va acc i (s.me.rd b) false nw

/-- BAR.aw (R176, R177): the arrival, unless it has been performed already, and then the wait on the phase in gD. -/
def execBarAw (p : Pfx) (sc : Scope) (d a : Fin 32) (s : State) : Res :=
  let nw := nwX p
  run p nw true s fun s => withFull s (if s.me.arrv then [a, d] else [a]) nw fun s => withBar s a nw fun va acc =>
    withScope acc.s sc nw fun i =>
      if s.me.arrv then barWaitOn acc.s va acc i (s.me.rd d) true nw
      else withRelease acc.s i nw fun s => barSend s va acc (.arrive d true) (some (s.relTag i)) none nw

/-- BAR.test (R176). -/
def execBarTest (p : Pfx) (sc : Scope) (d a b : Fin 32) (s : State) : Res :=
  let nw := nwX p
  run p nw true s fun s => withFull s [a, b] nw fun s => withBar s a nw fun va acc => withScope acc.s sc nw fun i =>
    barSend acc.s va acc (.test d (s.me.rd b)) none (some i) nw

end Sys2Proof.Machine
end

