-- ==== Sys2Proof/Machine/Engine.lean ====
section
/-! DEFINITION. Copy engine jobs: the card (R232, R233), COPY and COPYQ (R234, R235), CJWAIT and CJTEST (R239). -/

namespace Sys2Proof.Machine

/-! ### The card (R232) -/

/-- A region descriptor; `off` is its 32-bit offset field. -/
structure Desc where
  kind : Nat
  base : Nat
  off : Nat
  len : Nat
  name : Nat
  reg : Fin 32
deriving DecidableEq, Repr

/-- Reads descriptor `i` of a card given as a number. -/
def descOf (card i : Nat) : Desc :=
  let x := card / 2 ^ (64 + 56 * i) % 2 ^ 56
  let kind := bits x 55 54
  { kind := kind, base := bits x 53 52, off := bits x 51 20, len := if kind = 3 then 8 else bits x 19 0 + 1,
    name := bits x 51 12, reg := Fin.ofNat 32 (bits x 11 7) }

/-- A card: operation, sources and destinations in use, and the counts as the header gives them. -/
structure Card where
  op : Nat
  nsrc : Nat
  ndst : Nat
  src : List Desc
  dst : List Desc
deriving DecidableEq, Repr

/-- Reads a card of 64 bytes. -/
def cardOf (x : Nat) : Card :=
  let ns := bits x 2 0
  let nd := bits x 5 3
  { op := bits x 7 6, nsrc := ns, ndst := nd, src := (List.range (min ns 4)).map (descOf x),
    dst := (List.range (min nd 4)).map fun i => descOf x (4 + i) }

/-- The total length of regions. -/
def totalLen (ds : List Desc) : Nat := (ds.map (·.len)).sum

/-- The storage of a local or weight region of a cluster. -/
def Desc.store (d : Desc) (ck : Nat) : Chunk :=
  { va := none, pa := if d.kind = 1 then lmAddr ck d.off else wmAddr (ck * 8 + bits d.off 24 22) (bits d.off 21 0),
    len := d.len, key := 0 }

/-- Whether a descriptor alone is refused (R233); `stream` for COPYQ. -/
def State.descBad (s : State) (stream : Bool) (d : Desc) : Bool :=
  d.base == 3 || (stream && d.base == 1) || (d.kind == 0) != (d.base != 0) ||
  (match d.kind with
    | 1 => bits d.off 31 21 != 0 || decide (2 ^ 21 < d.off + d.len)
    | 2 => bits d.off 31 25 != 0 || decide (3 * 2 ^ 20 < bits d.off 21 0 + d.len)
    | 3 => (match s.slotOfName s.myDev (BitVec.ofNat 64 d.name) with
        | none => true
        | some k => s.pidOf (clusterOf k) != s.myPid)
    | _ => false)

/-- Whether two regions of local, weight or register storage share a byte: a register by its slot, whatever the generation. -/
def Desc.overlap (ck : Nat) (a b : Desc) : Bool :=
  if a.kind = 3 ∨ b.kind = 3 then a.kind == b.kind && a.name / 65536 == b.name / 65536 && a.reg == b.reg
  else a.kind != 0 && b.kind != 0 && (a.store ck).sameByte (b.store ck)

/-- Every pair of a list, the earlier first. -/
def pairs {α : Type} : List α → List (α × α)
  | [] => []
  | a :: l => l.map (fun b => (a, b)) ++ pairs l

/-- Whether a card is refused when it is read (R233); `stream` gives the direction and the width of COPYQ's binding. -/
def State.cardBad (s : State) (stream : Option (Bool × Nat)) (c : Card) : Bool :=
  let shared := (pairs c.dst).any (fun x => x.1.overlap s.myCluster x.2) ||
    c.dst.any fun d => c.src.any fun e => d.overlap s.myCluster e
  c.op == 3 || decide (4 < c.nsrc) || decide (4 < c.ndst) ||
  (match stream with
    | none => c.op == 2 || (c.op == 0 && (c.nsrc == 0 || c.ndst == 0 || totalLen c.src != totalLen c.dst)) ||
        (c.op == 1 && (c.nsrc != 0 || c.ndst == 0))
    | some (out, w) => c.op != 2 ||
        (if out then c.nsrc != 0 || c.ndst == 0 || totalLen c.dst % w != 0
         else c.nsrc == 0 || c.ndst != 0 || totalLen c.src % w != 0)) ||
  (c.src.any fun d => d.kind == 3) || (c.src ++ c.dst).any (s.descBad stream.isSome) || shared

/-! ### Job slots (R234) -/

/-- The slot an allocation takes, of those that no thread has reserved: one never used, lowest first, otherwise the one whose job
completed longest ago. -/
def Cluster.freeSlot (x : Cluster) : Option Nat :=
  let held := fun (i : Nat) => x.reserved.any (·.1 == i)
  match (List.range Config.cjslots).find? fun i => !x.jobs.has i && !held i with
  | some i => some i
  | none => ((x.jobs.filter fun e => e.2.done && !held e.1).foldl (fun (m : Option (Nat × Nat)) e => match m with
      | none => some (e.2.doneAt, e.1)
      | some y => if e.2.doneAt < y.1 ∨ (e.2.doneAt = y.1 ∧ e.1 < y.2) then some (e.2.doneAt, e.1) else m) none).map (·.2)

/-- The slot that the running thread has reserved, or a free one (R234). -/
def State.mySlot (s : State) : Option Nat :=
  match (s.cluster s.myCluster).reserved.find? (·.2 == s.cur) with
  | some r => some r.1
  | none => (s.cluster s.myCluster).freeSlot
/-- The running thread reserves a job slot, or gives up the one it holds (R234). -/
def State.reserve (s : State) (i : Option Nat) : State :=
  s.modCluster s.myCluster fun x =>
    { x with reserved := (i.map fun i => (i, s.cur)).toList ++ x.reserved.filter (·.2 != s.cur) }
/-- An effect under a reservation: one that parks keeps it, one that ends or traps gives it up (R234). -/
def Eff.reserving (i : Nat) : Eff → Eff
  | .done s => .done (s.reserve none)
  | .park c w s => .park c w (s.reserve (some i))
  | .rest c w r s => .rest c w r (s.reserve (some i))
  | .trap c a s => .trap c a (s.reserve none)

/-! ### COPY and COPYQ -/

/-- The virtual address of a region. -/
def Desc.va (t : Slot) (a b : Fin 32) (d : Desc) : Word :=
  t.rd (if d.base = 1 then a else b) + signExtend 4 d.off
/-- The first byte of a range that is not canonical. -/
def nonCanonical (va : Word) (n : Nat) : Option Word :=
  if !canonical va.toNat then some va
  else if !canonical ((va.toNat + n - 1) % 2 ^ 64) then some (BitVec.ofNat 64 (2 ^ 56)) else none

/-- Translates the virtual regions of a list, one after the other; other regions give their storage, registers nothing. -/
def translateDescs (a b : Fin 32) (s : State) : List Desc → List (List Chunk) → (List (List Chunk) → State → Eff) → Eff
  | [], acc, f => f acc.reverse s
  | d :: ds, acc, f =>
    match d.kind with
    | 0 =>
      let va := d.va s.me a b
      match s.translateAll (piecesOf va.toNat d.len) [] with
      | .trap c x s => .trap c x s
      | .park w s => .park 1 w s
      | .ok cs s => translateDescs a b s ds (cs :: acc) f
    | 3 => translateDescs a b s ds ([] :: acc) f
    | _ => translateDescs a b s ds ([d.store s.myCluster] :: acc) f

/-- Checks the rights of the virtual regions of a list (R108); `need` is 1 for sources and 2 for destinations. -/
def rightsDescs (a b : Fin 32) (need : Nat) (s : State) : List Desc → (State → Eff) → Eff
  | [], f => f s
  | d :: ds, f =>
    if d.kind = 0 then
      match s.captureRights (s.me.tagOf (if d.base = 1 then a else b)) need (piecesOf (d.va s.me a b).toNat d.len) with
      | .trap c x s => .trap c x s
      | .park w s => .park 1 w s
      | .ok _ s => rightsDescs a b need s ds f
    else rightsDescs a b need s ds f

/-- A region of a destination sequence. -/
def dstParts (d : Desc) (cs : List Chunk) : List (Chunk ⊕ RegDst) :=
  if d.kind = 3 then [.inr { slot := BitVec.ofNat 64 d.name, reg := d.reg }] else cs.map .inl

/-- Allocates a slot for a checked job and writes the handle (R234). -/
def State.issueJob (s : State) (i : Nat) (c : Card) (d : Fin 32) (named : List (Fin 32)) (src dst : List (List Chunk))
    (q : Option (Fin 8)) (wide : Bool) : State :=
  let id := s.nextId
  let ck := s.myCluster
  let t := s.me
  let seq := (s.cluster ck).jobseq
  let refs := s.refsOf named
  let parts := (List.zipWith dstParts c.dst dst).flatten
  let foot : Foot := { id := id, reads := src.flatten, writes := dst.flatten, regs := parts.filterMap fun p => match p with
    | .inr r => some r
    | .inl _ => none }
  let j : Job := { id := id, seq := seq, op := c.op, src := src.flatten, dst := parts, k := s.cur, gen := t.gen,
                   pid := s.myPid, asid := t.asid, cls := t.cls, placed := t.node, refs := refs, q := q, wide := wide, started := false,
                   bytes := 0, buf := [], vals := [], filled := false, fillsOut := [], fillsIn := 0, cause := 0, done := false, doneAt := 0, frozen := false }
  let s := ({ s with nextId := id + 1 }.useCounts true refs).modCluster ck fun x =>
    { x with jobs := x.jobs.set i j, jobseq := x.jobseq + 1 }
  (s.enterFoot ck foot).modMe fun t => t.wr d (BitVec.ofNat 64 (i + 16 * seq.toNat))

/-- COPY and COPYQ after the card is read: `stream` is the queue with its direction and width (R234, R235). -/
def copyCard (d a b : Fin 32) (stream : Option (Fin 8 × Bool × Bool)) (off : Nat) (c : Card) (s : State) : Eff :=
  let at_ := BitVec.ofNat 64 off
  let q := stream.map (·.1)
  let dir := stream.map fun x => (x.2.1, if x.2.2 then 128 else 8)
  if s.cardBad dir c then .trap 0x0F at_ s
  else
    let named := ((c.src ++ c.dst).filterMap fun x =>
      if x.base = 1 then some a else if x.base = 2 then some b else none).eraseDups
    let all := c.src ++ c.dst
    match named.find? fun r => !s.me.full r with
    | some r => .park 2 (.reg r) s
    | none =>
      match q.filter fun q => (s.cluster s.myCluster).jobs.any fun e =>
          !e.2.done && coreOf e.2.k == s.myCore && e.2.q == some q with
      | some q => .park 9 (.jobQueue q) s
      | none =>
        match s.mySlot with
        | none => .park 9 .jobSlot s
        | some i => Eff.reserving i <|
          match all.findSome? fun x => if x.kind = 0 then nonCanonical (x.va s.me a b) x.len else none with
          | some va => .trap 6 va s
          | none => translateDescs a b s all [] fun cs s =>
              let src := cs.take c.src.length
              let dst := cs.drop c.src.length
              if (pairs dst).any (fun x => meets Chunk.sameByte x.1 x.2) ||
                  dst.any (fun x => src.any fun y => meets Chunk.sameByte x y) then .trap 0x0F at_ s
              else rightsDescs a b 1 s c.src fun s => rightsDescs a b 2 s c.dst fun s =>
                .done (s.issueJob i c d named src dst q ((stream.map (·.2.2)).getD false))

/-- COPY's and COPYQ's walks: pages are translated only once a slot is taken, so a thread that waits for them holds its slot
until the instruction, issued again, ends or traps (R234). -/
def copyWalks (s : State) (f : State → Eff) : Eff :=
  match withWalks s f with
  | .rest c w r u => .rest c w r (u.reserve s.mySlot)
  | e => e

/-- The 64 bytes of a card at an offset of the own scratchpad. -/
def State.cardAt (s : State) (off : Nat) : Nat := ofBytes ((List.range 64).map fun i => s.mem.read (s.ownPa (off + i)))

/-- COPY (R234). -/
def execCopy (p : Pfx) (d a b : Fin 32) (s : State) : Res :=
  run p (nwX p) true s fun s =>
    (copyWalks s fun s => withVec [] [d] [] s fun _ s =>
      let off := (s.me.rd d).toNat % 2 ^ 18
      if off % 64 ≠ 0 then .trap 5 (BitVec.ofNat 64 off) s
      else copyCard d a b none off (cardOf (s.cardAt off)) s).toState (nwX p)

/-- COPYQ (R235): the queue must be bound to the copy engine. -/
def execCopyq (p : Pfx) (d : Fin 32) (q : Fin 8) (b : Fin 32) (s : State) : Res :=
  run p (nwX p) true s fun s =>
    (copyWalks s fun s => withVec [] [d] [] s fun _ s =>
      let off := (s.me.rd d).toNat % 2 ^ 18
      let bd := s.me.q[q]
      if off % 64 ≠ 0 then .trap 5 (BitVec.ofNat 64 off) s
      else if !(bd.bound && bd.eng) then .trap 0x10 0 s
      else copyCard d 0 b (some (bd.queue, bd.outbound, bd.wide)) off (cardOf (s.cardAt off)) s).toState (nwX p)

/-! ### CJWAIT and CJTEST (R238, R239) -/

/-- The length of a part of a destination sequence. -/
def partLen : Chunk ⊕ RegDst → Nat
  | .inl c => c.len
  | .inr _ => 8
/-- The bytes that a job has written: of the registers it has passed, those that are filled (R238). Where a register stands before a
memory destination and the job ends early or the fill is discarded, these bytes are no prefix of the sequence, as R237 has it for
memory, since registers are filled last: the count is of bytes written (log 48: DESIGN CHOICE). -/
def Job.written (j : Job) : Nat := j.bytes - 8 * j.vals.length + 8 * j.fillsIn
/-- A job's status word. -/
def Job.status (j : Job) : Word :=
  BitVec.ofNat 64 (j.written % 2 ^ 32 * 2 ^ 32 + j.cause * 2 ^ 16 + (if j.cause = 0 then 0 else 2) + j.done.toNat)
/-- The status word that a job slot holds: 0 until its first allocation (R238). -/
def Cluster.jobStatus (x : Cluster) (i : Nat) : Word := ((x.jobs.find? (·.1 == i)).map fun e => e.2.status).getD 0
/-- The job of a handle, where its slot still holds it. -/
def State.jobOf (s : State) (ck : Nat) (h : Word) : Option Job :=
  match (s.cluster ck).jobs.find? (·.1 == h.toNat % 16) with
  | some e => if h.toNat / 16 = e.2.seq.toNat then some e.2 else none
  | none => none
/-- The answer for a handle whose job's status is not held: done and gone. -/
def goneWord : Word := 5

/-- CJTEST (R239): permitted in a region (R250). -/
def execCjtest (p : Pfx) (d a : Fin 32) (s : State) : Res :=
  run p (nwX p) false s fun s => withFull s [a] (nwX p) fun s =>
    s.finishMe (nwX p) fun t => t.wr d (if (s.jobOf s.myCluster (t.rd a)).isSome then
      (s.cluster s.myCluster).jobStatus ((t.rd a).toNat % 16) else goneWord)

/-- CJWAIT (R239): parks under cause 9 while the job is in flight. -/
def execCjwait (p : Pfx) (d a : Fin 32) (s : State) : Res :=
  run p (nwX p) true s fun s => withFull s [a] (nwX p) fun s =>
    match s.jobOf s.myCluster (s.me.rd a) with
    | none => s.finishMe (nwX p) fun t => t.wr d goneWord
    | some j =>
      if j.done then s.finishMe (nwX p) fun t => t.wr d ((s.cluster s.myCluster).jobStatus ((s.me.rd a).toNat % 16))
      else s.parkFin 9 (.jobDone (Fin.ofNat 16 (s.me.rd a).toNat)) [.g d 0] (nwX p)

end Sys2Proof.Machine
end

