-- ==== Sys2Proof/Machine/Grant.lean ====
section
/-! DEFINITION. Grants: MKGRANT (R241), ADDG (R242), GRANTQ (R243), REVOKE (R107, R244, R392). -/

namespace Sys2Proof.Machine

/-- A trap, or a park under cause 1 to issue again, that a check of grants ends in; otherwise it goes on. -/
def withTr {α : Type} (r : Tr α) (s : State) (addr : Word) (nw : Nat) (f : α → State) : State :=
  match r with
  | .fault c => s.trap c addr nw
  | .frozen => s.parkRe 1 (.frozen (s.clock + 256)) nw
  | .ok x => f x

/-- The same for an effect. -/
def effTr {α : Type} (r : Tr α) (s : State) (addr : Word) (f : α → Eff) : Eff :=
  match r with
  | .fault c => .trap c addr s
  | .frozen => .park 1 (.frozen (s.clock + 256)) s
  | .ok x => f x

/-- Checks the pages of a range from `va` to before `stop` against the row and the class, that of a page of another device being its
stage 2's there; nothing of the range is accessed, so neither a route nor a permission table stands in the way (R241). For a page of
another device the row is tested before that stage 2, since a TLB entry holds its stage-1 part only (R316; log 48: DESIGN CHOICE; R241
puts the whole translation first). -/
def grantPages (need stop : Nat) (f : State → Eff) : Nat → Nat → State → Eff
  | 0, _, s => f s
  | fuel + 1, va, s =>
    if stop ≤ va then f s
    else
      let a := BitVec.ofNat 64 va
      effTr (s.translate s.myCore s.me.asid.toNat (va % 2 ^ 64)) s a fun es =>
        effTr (es.2.rowOf es.2.cur) es.2 a fun rs =>
          let s := rs.2
          if rs.1.code es.1.dom < need then .trap 8 a s
          else match s.resolve es.1 (va % 2 ^ 64) none with
            | .fault _ => .trap 7 a s
            | .frozen => .park 1 (.frozen (s.clock + 256)) s
            | .ok e => if s.me.cls.toNat < e.cls.toNat then .trap 8 a s
                else grantPages need stop f fuel ((va / 2 ^ e.szlog + 1) * 2 ^ e.szlog) s

/-- The lowest entry from `i` on that is neither in use nor retired (R241). -/
def State.freeGrant (s : State) : Nat → Nat → Tr (Option (Nat × Nat × Nat × Grant))
  | 0, _ => .ok none
  | fuel + 1, i =>
    (s.grantAddr s.myCore s.me.asid.toNat i).bind fun pk =>
      let g := Grant.ofRaw (s.numAt pk.2 pk.1 32)
      if g.val || g.ret then s.freeGrant fuel (i + 1) else .ok (some (i, pk.1, pk.2, g))

/-- The effect of MKGRANT (R241). -/
def effMkgrant (rw : Bool) (d a b : Fin 32) (s : State) : Eff :=
  withVec [] [a, b] [] s fun _ s =>
    let va := s.me.rd a
    let n := (s.me.rd b).toNat
    let need := if rw then 2 else 1
    if n = 0 ∨ 2 ^ 40 < n then .trap 9 0 s
    else if !canonical va.toNat then .trap 6 va s
    else if !canonical ((va.toNat + n - 1) % 2 ^ 64) then .trap 6 (BitVec.ofNat 64 (2 ^ 56)) s
    else grantPages need (va.toNat + n) (fun s =>
      effTr (s.freeGrant 4096 0) s va fun r =>
        match r with
        | none => .trap 9 0 s
        | some (i, pa, key, g) =>
          let g' : Grant := { g with base := va.toNat, len := n, rw := rw, val := true, rvk := false, use := 0 }
          let s := (s.putGrant key pa g').takeCopy s.myCore pa g'.toRaw
          .done (s.modMe fun t => t.wrTag d va (some (BitVec.ofNat 32 (i * 2 ^ 20 + g'.gen)))))
      (n / 65536 + 2) va.toNat s

/-- MKGRANT (R241, R316). -/
def execMkgrant (p : Pfx) (rw : Bool) (d a b : Fin 32) (s : State) : Res :=
  run p (nwX p) true s fun s => (withWalks s (effMkgrant rw d a b)).toState (nwX p)

/-- ADDG (R242): permitted in a region (R250). -/
def execAddg (p : Pfx) (d a b : Fin 32) (s : State) : Res :=
  run p (nwX p) false s fun s => withFull s [a, b] (nwX p) fun s =>
    s.finishMe (nwX p) fun t => t.wrTag d (t.rd a + t.rd b) (t.tagOf a)

/-- What GRANTQ reports of a reference and its entry. -/
def grantReport (ref : BitVec 32) (g : Grant) : Word :=
  BitVec.ofNat 64 (ref.toNat + 2 ^ 32 + g.rw.toNat * 2 ^ 33 +
    (decide (g.gen = refGen ref) && g.val && !g.rvk).toNat * 2 ^ 34)

/-- GRANTQ (R243): permitted in a region (R250). -/
def execGrantq (p : Pfx) (d a : Fin 32) (s : State) : Res :=
  let nw := nwX p
  run p nw false s fun s => withFull s [a] nw fun s =>
    match s.me.tagOf a with
    | none => s.finishMe nw fun t => t.wr d 0
    | some ref =>
      withTr (s.grantAddr s.myCore s.me.asid.toNat (refIndex ref)) s 0 nw fun pk =>
        match s.grantCopy s.myCore pk.1 with
        | none => (s.takeCopy s.myCore pk.1 (s.numAt pk.2 pk.1 32)).parkRe 1 .latency nw
        | some g =>
          let s := s.takeCopy s.myCore pk.1 g.toRaw
          s.finishMe nw fun t => t.wr d (grantReport ref g)

/-- Whether a REVOKE's wait is over: no job counts in the entry, and no core has still to invalidate its copy (R107). -/
def State.revokeOver (s : State) (pa key : Nat) : Bool :=
  decide ((Grant.ofRaw (s.numAt key pa 32)).use = 0) && !(s.revokes.any (·.1 == pa))

/-- The end of a REVOKE: the entry is freed, and retired at the last generation; the tag goes (R107, R244). -/
def State.revokeEnd (s : State) (pa key : Nat) (d : Fin 32) (nw : Nat) : State :=
  let g := Grant.ofRaw (s.numAt key pa 32)
  let g' : Grant := { g with rvk := false, val := false, ret := g.ret || g.gen == 0xFFFFF }
  ((s.putGrant key pa g').takeCopy s.myCore pa g'.toRaw).finishMe nw fun t =>
    t.setReg d { val := t.rd d, full := true, tag := none }

/-- REVOKE (R244): the generation advances at issue; a restarted REVOKE resumes its wait. -/
def execRevoke (p : Pfx) (d : Fin 32) (s : State) : Res :=
  let nw := nwX p
  run p nw true s fun s => withFull s [d] nw fun s =>
    match s.me.tagOf d with
    | none => s.trap 9 0 nw
    | some ref =>
      withTr (s.grantAddr s.myCore s.me.asid.toNat (refIndex ref)) s 0 nw fun pk =>
        let g := Grant.ofRaw (s.numAt pk.2 pk.1 32)
        let wait := fun (s : State) =>
          if s.revokeOver pk.1 pk.2 then s.revokeEnd pk.1 pk.2 d nw else s.parkRe 9 (.revoke pk.1) nw
        if g.rvk && g.gen == refGen ref + 1 then wait s
        else if g.gen ≠ refGen ref ∨ !g.val then s.trap 9 0 nw
        else
          let g' : Grant := { g with gen := g.gen + 1, rvk := true }
          let s := (s.putGrant pk.2 pk.1 g').takeCopy s.myCore pk.1 g'.toRaw
          let cores := (s.coresOf s.myPid).filter (· != s.myCore)
          wait { s with revokes := s.revokes ++ cores.map fun c => (pk.1, c) }

end Sys2Proof.Machine
end

