-- ==== Sys2Proof/Machine/Parks.lean ====
section
/-! DEFINITION. The events of parks (R22, R31, R32), of fills and the dispenser (R35, R41), of sleep (R47); what a stop or an
interrupt does to a slot (R345, R347); the traps of fetching and decoding (R119). -/

namespace Sys2Proof.Machine

/-! ### Withdrawal -/

/-- Takes back what the parked instruction of a slot has registered, so that it may restart from its first word (R22, R44,
R184, R216, R224, R234, R367); a WAITRS then finds its slots written (R171, R186). -/
def State.withdraw (s : State) (k : Nat) : State :=
  let w := (s.slot k).park.map (·.wait)
  let s := s.modSlot k fun t =>
    { t with park := none, inst := none, src := none, mailOld := match w with
        | some (.mail _) => t.mailOld + 1
        | _ => t.mailOld,
             resv := match w with
        | some (.resv ..) => t.resv.map fun r => { r with written := true }
        | _ => t.resv }
  let s := s.modCore (coreOf k) fun x =>
    { x with gangArr := x.gangArr.filter (·.k != k), accArr := x.accArr.filter (·.k != k),
             slice := { x.slice with tmm := x.slice.tmm.filter fun t => t.k != k || t.dif } }
  let s := s.modCluster (clusterOf k) fun x =>
    { x with bank := x.bank.filter (·.k != k), reserved := x.reserved.filter (·.2 != k),
             gang := if w = some .gangEnd then x.gang.map fun g => { g with ended := g.ended.filter (· != coreOf k % 8) }
               else x.gang }
  if w = some .token then s.leaveTurns k else s

/-- Whether a parked instruction is completed at a stop, not withdrawn: its event has arrived, so that only its rest is to come, or its
effect is made at its home and its request has left (R32, R347). One that is to issue again has made no effect, and is withdrawn. A trap
whose delivery waits for a frozen leaf is delivered (log 48: DESIGN CHOICE; its instruction is over). -/
def Park.kept (p : Park) : Bool :=
  match p.rest with
  | .finish _ => p.arrived || p.exempt
  | .fault .. => p.arrived
  | .trap _ => true
  | .reissue => false
  | .again => false

/-- The message of a parked request that has been answered "moved" and waits at a frozen leaf: a stop withdraws it (R320). -/
def State.atFrozen (s : State) (p : Park) : Option Nat :=
  match p.wait with
  | .reply id => (s.msg id).bind fun m => match m.kind with
    | .moved _ n => if n = 0 then none else some id
    | _ => none
  | _ => none
/-- What a stop or an interrupt does to the instruction and the region of a slot (R345, R347). -/
def State.halt (s : State) (k : Nat) : State :=
  let s := match (s.slot k).park with
    | some p => (match s.atFrozen p with
        | some id => (s.drop id).withdraw k
        | none => if p.kept then s else s.withdraw k)
    | none => s
  s.abort k 4

/-- Interrupts a core (R345): each occupied slot holds the interrupt; one that is not in its handler is halted now, and is ready, which
wakes its core (R29, R47). -/
def State.interruptCore (s : State) (c : Nat) : State :=
  (slotsOf c).foldl (fun s k =>
    if !(s.slot k).occ then s
    else
      let s := s.modSlot k fun t => { t with heldInt := true }
      if (s.slot k).inh then s else ((s.halt k).modSlot k fun t => { t with readyAt := max t.readyAt s.clock }).rouse c) s

/-- Stops a slot (R347). Its status word shows the cause it was parked under; one that was not parked records cause 0x20, of which the
four bits of the field show 0 (R55, R56, R337; log 40). -/
def State.stopSlot (s : State) (k : Nat) : State :=
  if (s.slot k).occ then (s.halt k).modSlot k fun t =>
    { t with stopped := true, pcause := ((s.slot k).park.map (·.cause)).getD 0x20 } else s

/-! ### The event a thread is parked on (R31) -/

/-- The operations of a partition that a TLBINV waits for (R317): those sent before it, under its ASID and in its range. -/
def State.shotAt (s : State) (asid : Option (BitVec 16)) (lo hi k : Nat) (va : Word) : Bool :=
  (match asid with
    | some a => (s.slot k).asid == a
    | none => true) && decide (lo ≤ va.toNat) && decide (va.toNat < hi)
/-- The devices that a TLBINV of a core acts on (R363). -/
def State.spanDevs (s : State) (ck : Nat) (span : Bool) : List Nat :=
  devOf ck :: (if span then (s.devs.map (·.1)).filter fun d =>
    d != devOf ck && tb ((s.cluster ck).permdev[s.numOf d / 64 % 8]'(by omega)).toNat (s.numOf d % 64) else [])
/-- Whether a parked thread has still to make an access with a translation it holds: a store to a local memory window, or pieces of a
vector load (R265, R317). -/
def Park.holdsPage (p : Park) (shot : Word → Bool) : Bool :=
  (match p.wait with
    | .pieces ps _ => ps.any fun x => shot (BitVec.ofNat 64 x.va)
    | .words _ ws => ws.any fun w => match w with
      | .lmPut .. => true
      | _ => false
    | _ => false) || (match p.rest with
    | .finish ws => ws.any fun w => match w with
      | .lmPut .. => true
      | _ => false
    | _ => false)
/-- The chunks of a list of parts from byte `pos` on. -/
def chunksFrom : List (Chunk ⊕ RegDst) → Nat → List Chunk
  | [], _ => []
  | p :: l, pos => if partLen p ≤ pos then chunksFrom l (pos - partLen p)
    else (p :: l).filterMap fun q => match q with
      | .inl c => some c
      | .inr _ => none
/-- Whether a copy job has still accesses to make through pages that a test selects: it has neither ended nor passed them, and waits at
no frozen leaf (R237, R317). -/
def State.jobHolds (s : State) (j : Job) (shot : Nat → Bool) : Bool :=
  !j.done && !j.frozen && (chunksFrom (j.src.map .inl) (j.bytes + j.buf.length) ++ chunksFrom j.dst j.bytes).any fun c =>
    match c.va with
    | none => false
    | some va => (shot (va % 2 ^ 64) || shot ((va + c.len - 1) % 2 ^ 64)) && match s.translate (coreOf j.k) j.asid.toNat (va % 2 ^ 64) with
      | .frozen => false
      | _ => true

/-- Whether the conditions of a TLBINV parked since a clock hold (R317): every access sent before it, by a thread or to a home of the
devices it acts on, has been performed or answered "moved", no thread, gang or arrival holds a translation, every drain accepted before
it has completed, every copy job issued before it has ended or has passed the pages, and the final positions of regions begun before it
are delivered. -/
def State.maintOver (s : State) (ck since upto pid : Nat) (asid : Option (BitVec 16)) (lo hi : Nat) (span : Bool) : Bool :=
  let devs := s.spanDevs ck span
  let shot := fun (k : Nat) (va : Word) => s.pidOf (clusterOf k) == pid && s.shotAt asid lo hi k va
  let mine := fun (id k : Nat) (va : Word) (pa : Nat) =>
    decide (id < upto) && shot k va && (devs.contains (devOfSlot k) || devs.contains (devOfAddr pa))
  let cores := s.cores.filter fun e => s.pidOf (clusterOfCore e.1) == pid && devs.contains (devOfCore e.1)
  (s.cores.all fun e => e.2.sq.all fun q => !mine q.id q.k q.va q.pa) &&
  (s.net.all fun m => match m.kind with
    | .op q => !mine q.id q.k q.va q.pa
    | .amo _ _ va pa .. => !mine m.id m.k va pa
    | .stc va pa .. => !mine m.id m.k va pa
    | .bar va pa .. => !mine m.id m.k va pa
    | .region _ line .. => !(decide (m.id < upto) && s.pidOf (clusterOf m.k) == pid && devs.contains (devOfAddr (line * 64)))
    | _ => true) &&
  (s.lanes.all fun l => (l.flight.all fun q => !mine q.id q.k q.va q.pa) &&
    l.acks.all fun a => !(decide (a.1 < upto) && s.pidOf (clusterOf l.k) == pid &&
      (devs.contains (devOfSlot l.k) || devs.contains l.dst))) &&
  (s.slots.all fun e => match e.2.park with
    | some p => !(decide (p.since ≤ since) && s.pidOf (clusterOf e.1) == pid && devs.contains (devOfSlot e.1) &&
        p.holdsPage (shot e.1))
    | none => true) &&
  (s.clusters.all fun e => !devs.contains (devOf e.1) || s.pidOf e.1 != pid || match e.2.gang with
    | some g => g.stat.all fun x => (match g.members.find? fun m => m.1 == x.1 with
      | some m => !shot m.2 (BitVec.ofNat 64 x.2.1) || s.isMoved pid x.2.2.1
      | none => true)
    | none => true) &&
  (s.clusters.all fun e => !devs.contains (devOf e.1) || s.pidOf e.1 != pid || e.2.jobs.all fun j =>
    decide (upto ≤ j.2.id) || !s.jobHolds j.2 fun va => (match asid with
      | some a => j.2.asid == a
      | none => true) && decide (lo ≤ va) && decide (va < hi)) &&
  (s.dies.all fun d => d.2.notices.all fun n => match n with
    | .final _ rid _ core .. => decide (upto ≤ rid) || s.pidOf (clusterOfCore core) != pid
    | .inval .. => true) &&
  cores.all fun e => (e.2.slice.drains.all fun d => decide (upto ≤ d.d.id)) &&
    ((e.2.slice.accQ ++ e.2.slice.accRun.toList).all fun o => match o with
      | .tdrain d => decide (upto ≤ d.id)
      | _ => true) && (match e.2.gangArr.bind fun g => g.stat.map fun x => (g.k, x) with
      | some (k, x) => !shot k (BitVec.ofNat 64 x.1) || s.isMoved pid x.2.1
      | none => true)

/-- The elements of a queue of a core that have arrived. -/
def State.coreQueue (s : State) (k : Nat) (q : Fin 8) : Queue := (s.core (coreOf k)).queues[(s.slot k).q[q].queue]

/-- Whether what a parked thread awaits has come (R30): a reply of open time always may; some waits are ended by an event of
another row. -/
def State.waitOver (s : State) (k : Nat) (w : Wait) : Bool :=
  let t := s.slot k
  let c := coreOf k
  let ck := clusterOf k
  match w with
  | .time x => decide (x < s.clock)
  | .latency => true
  | .after x => decide (x < s.clock)
  | .pieces .. => true
  | .reg r => t.full r
  | .bank .. => false
  | .resv until_ _ => t.resv.isEmpty || t.resv.any (·.written) || (until_.map fun u => decide (u < s.clock)).getD false
  | .words .. => true
  | .barrier _ pa phase => BitVec.ofNat 64 (s.plainAt (pa + 8) 8) != phase || s.l2.any (·.line == pa / 64) || s.isMoved (s.pidOf ck) pa
  | .accord => false
  | .work => false
  | .streamIn q n => decide (n ≤ (s.coreQueue k q).length)
  | .rowsIn q => !(s.coreQueue k q).isEmpty
  | .streamOut q => decide ((s.coreQueue k q).length < Config.qdepth)
  | .storeQueue => decide ((s.core c).sq.length < Config.sqdepth)
  | .dispenser => decide ((s.cluster ck).items.length < Config.dspdepth)
  | .jobDone _ => false
  | .jobSlot => (s.cluster ck).freeSlot.isSome
  | .jobQueue q => !(s.cluster ck).jobs.any fun e => !e.2.done && coreOf e.2.k == c && e.2.q == some q
  | .revoke pa => s.plainAt (pa + 20) 4 == 0 && !s.revokes.any (·.1 == pa)
  | .diffuser => (s.core c).dif.run.isNone && ((s.core c).dif.trap.isNone || (s.core c).dif.owner == some k)
  | .fence level visible => s.fenceMet k level visible
  | .posted => s.postedAnswered k && !s.recComing k
  | .lanes => s.lanesAnswered k
  | .storesOut => s.storesHome k && s.postedAnswered k && !s.recComing k
  | .inbox => !(s.core c).inbox.isEmpty
  | .gangJoin => false
  | .gangEnd => (match (s.cluster ck).gang with
      | none => true
      | some g => decide (8 ≤ g.ended.length) && s.slicesIdle ck)
  | .fifo rows => decide (0 < rows) && decide ((s.slice c).rowsUsed (s.clock - 1) + rows ≤ Config.afifo)
  | .stall => (s.cluster ck).stall.isNone
  | .answers => (t.region.map (s.commitReady k)).getD false
  | .turn => false
  | .token => false
  | .reply _ => false
  | .frozen _ => false
  | .maint upto pid asid lo hi span => s.maintOver ck ((t.park.map (·.since)).getD 0) upto pid asid lo hi span
  | .mail _ => false
  | .held x => (List.range 128).all fun i => x * 128 + i == k || !((s.slot (x * 128 + i)).park.map (·.kept)).getD false

/-- The event a thread is parked on has arrived: it is ready (R31), and its core wakes (R47). -/
def State.wake (s : State) (k : Nat) : State :=
  (s.modSlot k fun t => { t with park := t.park.map fun p => { p with arrived := true }, readyAt := max t.readyAt s.clock }).rouse
    (coreOf k)
/-- The same with what is left of the instruction. -/
def State.wakeWith (s : State) (k : Nat) (r : Rest) : State :=
  (s.modSlot k fun t => { t with park := t.park.map fun p => { p with rest := r } }).wake k

/-- The arrival of the event of one park (R31): an ECOMMIT whose answers are in asks for its broadcast turn (R182); WAITRS
reports and empties its set (R170); the end of a gang closes it (R214); a piece of a vector load is read, or a part of a vector access
of local memory performed, the next choice says which (R265). -/
def State.arrive (s : State) (k : Nat) (p : Park) : State :=
  match p.wait with
  | .answers => (s.modSlot k fun t => { t with park := some { p with wait := .turn } }).modDie (dieOf (clusterOf k)) fun d =>
      { d with turnQ := d.turnQ ++ [k] }
  | .resv _ d => s.wakeWith k (.finish [.g d (resvMask (s.slot k).resv), .resvEmpty])
  | .gangEnd => (s.modCluster (clusterOf k) fun x => { x with gang := none }).wake k
  | .pieces .. => s.choose.2.readPiece k s.choose.1
  | .words t ws => if (t.map fun t => decide (t < s.clock)).getD false then (s.runParts k ws.length).wake k
      else s.choose.2.doWord k s.choose.1
  | _ => s.wake k

/-- PARK_EVENT (R31). -/
def execParkEvent (s : State) : Res :=
  match s.ev with
  | some (.parkEvent k) =>
    .next (match (s.slot k).park with
      | some p => if !p.arrived && s.waitOver k p.wait then s.arrive k p else s
      | none => s)
  | _ => .fault .noEvent

/-- PARKED_RESUME (R22). -/
def execParkedResume (s : State) : Res :=
  match s.ev with
  | some (.parkedResume k) => .next { s with cur := k }.resume
  | _ => .fault .noEvent

/-- Whether a park's time has run out (R32, R341). -/
def State.timedOut (s : State) (k : Nat) : Bool :=
  let t := s.slot k
  match t.park with
  | some p => !p.arrived && !p.exempt && !t.inh && !t.stopped && !(s.cluster (clusterOf k)).hold && t.k.parkto != 0 &&
      decide (p.since + t.k.parkto.toNat < s.clock)
  | none => false

/-- PARK_TIMEOUT (R32): the instruction is withdrawn and traps with cause 0x11. -/
def execParkTimeout (s : State) : Res :=
  match s.ev with
  | some (.parkTimeout k) =>
    .next (match (s.slot k).park with
      | some p => if s.timedOut k then (((s.withdraw k).rouse (coreOf k)).trapAt k 0x11 0 p.nw none) else s
      | none => s)
  | _ => .fault .noEvent

/-- FROZEN_LEAF_REREAD (R320): the access walks again. -/
def execFrozenLeafReread (s : State) : Res :=
  match s.ev with
  | some (.frozenLeafReread k) =>
    .next (match (s.slot k).park with
      | some p => if p.wait.isFrozen then s.wake k else s
      | none => s)
  | _ => .fault .noEvent

/-- CORE_INTERRUPT_TAKE (R345): the trap of cause 0x21 at an instruction boundary. -/
def execCoreInterruptTake (s : State) : Res :=
  match s.ev with
  | some (.coreInterruptTake k) =>
    .next (if (s.slot k).inh then s
      else
        let s := (s.halt k).modSlot k fun t => { t with heldInt := false }
        let pc := (s.slot k).pc
        s.deliver k { cause := 0x21, addr := 0, nw := 0, pc := pc, rpc := pc, rec_ := none })
  | _ => .fault .noEvent

/-! ### Fetch and decode (R119) -/

/-- UNALLOCATED_ENCODING (R119). -/
def execUnallocatedEncoding (s : State) : Res :=
  match s.ev with
  | some (.unallocatedEncoding cause addr nw) => .next (s.trap cause addr nw)
  | _ => .fault .noEvent

/-- FETCH_FAULT (R119). -/
def execFetchFault (s : State) : Res :=
  match s.ev with
  | some (.fetchFault cause addr nw) => .next (s.trap cause addr nw)
  | _ => .fault .noEvent

/-! ### Fills and the dispenser -/

/-- A fill held for a handler is kept, and stands in the context buffer as a 16-byte record, which nheld counts (R338, R341). -/
def State.holdFill (s : State) (k : Nat) (h : HeldFill) : State :=
  let n := (s.slot k).held.length
  let s := match s.savePage k with
    | .ok (e, s) =>
      let a := e.pa (s.slot k).tsave.toNat
      (s.devWrite (coreOf k) e.key (a + 0x200 + 16 * n)
        (toBytes 8 h.val.toNat ++ [BitVec.ofNat 8 h.reg.val] ++ List.replicate 7 0)).devWrite (coreOf k) e.key (a + 0x58)
        (toBytes 8 (n + 1))
    | _ => s
  s.modSlot k fun t => { t with held := t.held ++ [h] }

/-- A core's L1 loses at once the copies that the invalidations on their way to it will take: its next load of such a line reads at
the home, and is answered after their delivery (R237, R255, R272). -/
def State.catchUp (s : State) (c : Nat) : State :=
  (s.die (dieOf (clusterOfCore c))).notices.foldl (fun s n => match n with
    | .inval _ line _ => s.dropLine line fun c' => s.sameL1 c' c
    | .final .. => s) s
/-- What a fill from a job brings with it: its slot reads the job's writes, those to lines that its die only leases too, of whatever
device (R237, R256, R277). -/
def State.jobFilled (s : State) (job : Option (Nat × Nat)) (k : Nat) : State :=
  match job with
  | none => s
  | some _ => (s.catchUp (coreOf k)).dropFar (coreOf k) true
/-- Whether the instruction that issued on the clock that is over has written a register: its value is final (R37). -/
def State.overwritten (s : State) (k : Nat) (r : Fin 32) : Bool :=
  (s.slot k).issued == some (s.clock - 1) && (s.slot k).wrote.getLsbD r.val
/-- A fill with sender number `id` reaches its slot (R34, R35, R37, R341): compared, held for a handler, applied or discarded. -/
def State.fillAt (s : State) (id d0 : Nat) (target : Word) (r : Fin 32) (x : Word) (job : Option (Nat × Nat)) : State :=
  match s.slotOfName d0 target with
  | none => s.answerFill (some id) 0x16
  | some k =>
    let t := s.slot k
    if !t.occ || t.gen.toNat != target.toNat % 65536 then
      (s.answerFill (some id) 0x16).modPart (s.pidOf (clusterOf k)) fun q => { q with discards := q.discards + 1 }
    else if t.inh then (s.jobFilled job k).holdFill k { reg := r, val := x, sender := some id }
    else ((((if s.overwritten k r then s.learn k else s.applyFill k r x)).jobFilled job k).answerFill (some id) 0).rouse (coreOf k)

/-- The slot and core a fill goes to, for the room it needs (R341) and the sleep it meets (R47). -/
def State.fillSlot (s : State) (m : Msg) : Option Nat :=
  match m.kind with
  | .fill target .. => s.slotOfName (devOfSlot m.k) target
  | _ => none
/-- The number of fills a slot's context buffer may hold (R341). -/
def heldMax : Nat := 32
/-- Whether a fill may arrive: a full context buffer, or one behind a frozen leaf, keeps it in the network (R320, R341). -/
def State.fillRoom (s : State) (m : Msg) : Bool :=
  match s.fillSlot m with
  | some k => !((s.slot k).inh && (decide (heldMax ≤ (s.slot k).held.length) || match s.savePage k with
    | .frozen => true
    | _ => false))
  | none => true

/-- The arrival of a fill's message: its router admits it or drops it, and its sender then hears of a refusal, a FILL by its own status
0x08 (R164, R300; log 48: DESIGN CHOICE for FILL); a sleeping or waking core holds it to the end of its wake (R47). -/
def State.fillMsg (s : State) (m : Msg) : State :=
  match m.kind with
  | .fill target r x _ job =>
    match s.fillSlot m with
    | none => s.fillAt m.id (devOfSlot m.k) target r x job
    | some k =>
      let c := coreOf k
      if !s.admits m.pid (clusterOf k) none then
        (s.answerFill (some m.id) (if job.isSome then 7 else 8)).countDrop (clusterOf k)
      else if (s.core c).asleep || (s.core c).wakeEnd.isSome then
        (s.modCore c fun y => { y with heldFills := y.heldFills ++ [m] }).rouse c
      else s.fillAt m.id (devOfSlot m.k) target r x job
  | _ => s

/-- FILL_ARRIVAL (R35). -/
def execFillArrival (s : State) : Res :=
  match s.ev with
  | some (.fillArrival id) =>
    .next (match s.msg id with
      | some m => if s.fillRoom m then (s.drop id).fillMsg m else s
      | none => s)
  | _ => .fault .noEvent

/-- Whether a slot waits in WFW (R41). -/
def Slot.waitsWork (t : Slot) : Bool :=
  t.occ && (match t.park with
    | some p => p.wait == .work && !p.arrived
    | none => false)
/-- The slot an item goes to: in its core, or in the first core with a waiter after the one last served (R41). -/
def State.waiter (s : State) (ck : Nat) (it : Item) : Option Nat :=
  let cores := match it.core with
    | some c => [ck * 8 + c.val]
    | none => (List.range 8).map fun i => ck * 8 + ((s.cluster ck).served.val + 1 + i) % 8
  (cores.flatMap slotsOf).find? fun k => k % 16 != 0 && (s.slot k).waitsWork && (s.slot k).asid == it.asid

/-- An operation of a thread of slot `k` under its new generation. -/
def SqEntry.follow (e : SqEntry) (k : Nat) (old new : BitVec 16) : SqEntry := if e.k = k ∧ e.gen = old then { e with gen := new } else e
/-- The same for a message. -/
def Msg.follow (m : Msg) (k : Nat) (old new : BitVec 16) : Msg :=
  if m.k = k ∧ m.gen = old then { m with gen := new, kind := match m.kind with
    | .op e => .op (e.follow k old new)
    | .moved (.op e) n => .moved (.op (e.follow k old new)) n
    | x => x } else m
/-- The same for a lane. -/
def Lane.follow (l : Lane) (k : Nat) (old new : BitVec 16) : Lane :=
  if l.k = k ∧ l.gen = old then { l with gen := new, flight := l.flight.map fun e => SqEntry.follow e k old new } else l
/-- The same for an effect that firmware holds. -/
def HeldFx.follow (h : HeldFx) (k : Nat) (old new : BitVec 16) : HeldFx :=
  match h.fx with
  | .msg m => { h with fx := .msg (m.follow k old new) }
  | _ => h
/-- The operations and jobs of a thread stay its own when an item advances its slot's generation: one lane for each device, one
sequence of posted operations (R41, R158, R159, R174). -/
def State.follow (s : State) (k : Nat) (old new : BitVec 16) : State :=
  let s := { s with net := s.net.map fun m => Msg.follow m k old new, lanes := s.lanes.map fun l => Lane.follow l k old new,
                    parts := s.parts.map fun (p : Nat × Part) =>
                      (p.1, { p.2 with heldFx := p.2.heldFx.map fun h => HeldFx.follow h k old new }) }
  (s.modCore (coreOf k) fun x => { x with sq := x.sq.map fun e => SqEntry.follow e k old new }).modCluster (clusterOf k) fun x =>
    { x with jobs := x.jobs.map fun (j : Nat × Job) =>
        if j.2.k = k ∧ j.2.gen = old then (j.1, { j.2 with gen := new }) else j }
/-- Gives an item to a slot (R41): the arguments, the emptied registers, the generation, the PC, the count of posted operations
(R289). The thread sees the stores performed at cluster level before it (R272). -/
def State.giveItem (s : State) (k : Nat) (it : Item) : State :=
  let n := it.args.length
  let old := (s.slot k).gen
  let s := s.modSlot k fun t =>
    { t with gen := t.gen + 1, seq := 0, item := it.placed, g := Vector.ofFn fun r : Fin 32 =>
        if r = 0 then t.g[r]
        else if r.val ≤ n then GReg.of (it.args.getD (r.val - 1) 0)
        else if r.val ≤ 8 then { t.g[r] with full := false, tag := none }
        else t.g[r] }
  let s := (s.follow k old (old + 1)).catchUp (coreOf k)
  let nw := ((s.slot k).park.map (·.nw)).getD 0
  let s := { s with cur := k }.doneAt nw it.pc
  (s.modSlot k fun t => { t with readyAt := max t.readyAt s.clock }).rouse (coreOf k)

/-- DISPENSE (R41): the oldest item that some thread waits for. -/
def execDispense (s : State) : Res :=
  match s.ev with
  | some (.dispense ck) =>
    .next (match (s.cluster ck).items.find? fun it => (s.waiter ck it).isSome with
      | none => s
      | some it =>
        match s.waiter ck it with
        | none => s
        | some k =>
          (s.modCluster ck fun x => { x with items := x.items.erase it, served := Fin.ofNat 8 (coreOf k) }).giveItem k it)
  | _ => .fault .noEvent

/-! ### Retention sleep (R47) -/

/-- Whether a core is idle as R47 asks: every slot vacant or parked under one of seven causes, nothing of the core running. -/
def State.coreIdle (s : State) (c : Nat) : Bool :=
  ((slotsOf c).all fun k => let t := s.slot k
    !t.occ || (match t.park with
      | some p => !p.arrived && [4, 5, 6, 7, 9, 11, 12].contains p.cause
      | none => false)) &&
  ((s.cluster (clusterOfCore c)).jobs.all fun e => e.2.done || coreOf e.2.k != c) &&
  (s.slice c).idle && decide ((s.slice c).accEnd < s.clock) && decide ((s.slice c).ldEnd < s.clock) && (s.core c).dif.run.isNone

/-- SLEEP_ENTRY (R47): after 64 idle clocks, at a depth of 1 or 2, which the sleep keeps (R298). -/
def execSleepEntry (s : State) : Res :=
  match s.ev with
  | some (.sleepEntry c) =>
    .next (if s.coreIdle c && (s.core c).sdepth != 0 then s.modCore c fun x =>
        { x with asleep := true, slept := x.sdepth, idleSince := none }
      else s)
  | _ => .fault .noEvent

/-- SLEEP_WAKE (R47): the wake begins. -/
def execSleepWake (s : State) : Res :=
  match s.ev with
  | some (.sleepWake c) =>
    .next (if (s.core c).asleep then s.modCore c fun x =>
        { x with asleep := false,
                 wakeEnd := some (s.clock - 1 + if x.slept = 2 then Config.sleep2 else Config.sleep1) }
      else s)
  | _ => .fault .noEvent

/-- WAKE_END (R47): the fills held during the sleep are applied, and the core issues from the next clock. -/
def execWakeEnd (s : State) : Res :=
  match s.ev with
  | some (.wakeEnd c) =>
    let held := (s.core c).heldFills
    .next (held.foldl (fun s m => if s.fillRoom m then s.fillMsg m else { s with net := s.net ++ [m] })
      (s.modCore c fun x => { x with wakeEnd := none, heldFills := [] }))
  | _ => .fault .noEvent

end Sys2Proof.Machine
end

