-- ==== Sys2Proof/Machine/Sync.lean ====
section
/-! DEFINITION. Fences (R172), FENCE.POST (R174), SCOPEDEF (R175), REMPTY (R163) and FILL (R164). -/

namespace Sys2Proof.Machine

/-- A fence (R172): `waits` for the stores, `vis` for their invalidations, `acq` drops far lines (R258) and ends after the
invalidations that were on their way when the thread learned what it acquires (R272, R275), `rel` marks what
follows as a release (R260). -/
def fence (p : Pfx) (sc : Scope) (waits vis acq rel : Bool) (s : State) : Res :=
  let nw := nwX p
  run p nw true s fun s => withScope s sc nw fun i => withLanes s nw fun s =>
    let lv := s.levelOf s.myCore i
    if waits && !s.fenceMet s.cur lv vis then s.parkRe 10 (.fence lv vis) nw
    else if acq && decide (3 ≤ lv) && decide (s.clock ≤ s.me.seen) then s.parkRe 10 (.time s.me.seen) nw
    else
      let s := if acq then (acqWr lv).foldl (fun s w => s.applyWr s.cur w) s else s
      s.finishMe nw fun t => { t with rel := if rel then some (s.relTag i) else none }

/-- FENCE.acq (R172). -/
def execFenceAcq (p : Pfx) (sc : Scope) (s : State) : Res := fence p sc false false true false s
/-- FENCE.rel (R172). -/
def execFenceRel (p : Pfx) (sc : Scope) (s : State) : Res := fence p sc true false false true s
/-- FENCE.ar (R172). -/
def execFenceAr (p : Pfx) (sc : Scope) (s : State) : Res := fence p sc true false true true s
/-- FENCE.sc (R172, R264). -/
def execFenceSc (p : Pfx) (sc : Scope) (s : State) : Res := fence p sc true true true true s

/-- FENCE.POST (R174): waits until every posted operation is answered, and for a fault's record on its way, then delivers a remote
fault (R159). It is a fence that ends the release of an earlier one (R260). -/
def execFencePost (p : Pfx) (s : State) : Res :=
  let nw := nwX p
  run p nw true s fun s =>
    if !s.postedAnswered s.cur || s.recComing s.cur then s.parkRe 10 .posted nw
    else withLanes s nw fun s => s.finishMe nw fun t => { t with rel := none }

/-! ### Named scopes (R175) -/

/-- Whether a named scope's members lie in a partition (R175): each core of each member device. -/
def State.scopeInside (s : State) (pid : Nat) (cores devs : Nat) : Bool :=
  (List.range 512).all fun n => !tb devs n ||
    (match (s.devs.find? fun e => s.numOf e.1 == n) with
      | none => false
      | some e => (List.range 1280).all fun c => !tb cores c || s.pidOf (e.1 * 160 + c / 8) == pid)

/-- What SCOPEDEF answers for a descriptor, with the partition's table after it (R175). Of several answers that apply -2 goes
before -3 and -3 before -1, and the index is the lowest free one (log 39: DESIGN CHOICE; the spec gives neither order). -/
def State.defineScope (s : State) (pid d : Nat) : Word × State :=
  let cores := bits d 1279 0
  let devs := bits d 1791 1280
  let tab := (s.part pid).scopes
  if bits d 2047 1792 != 0 || !s.scopeInside pid cores devs then (BitVec.ofInt 64 (-2), s)
  else if cores = 0 ∨ devs = 0 then (BitVec.ofInt 64 (-3), s)
  else match (List.range 4096).find? fun i => !tab.has i with
    | none => (BitVec.ofInt 64 (-1), s)
    | some i =>
      let e : ScopeDesc := { cores := BitVec.ofNat 1280 cores, devs := BitVec.ofNat 512 devs, valid := true }
      (BitVec.ofNat 64 i, s.modPart pid fun q => { q with scopes := q.scopes.set i e })

/-- Reads `n` bytes at `va` in one or two pages through the checks of a load (R155), after the thread's posted
atomics to their lines (R156), and goes on with them. -/
def withBytes (s : State) (tag : Option (BitVec 32)) (va : Word) (n nw : Nat) (f : List Byte → State → State) : State :=
  let n1 := min n (65536 - va.toNat % 65536)
  let one := fun (s : State) (va n : Nat) (g : List Byte → State → State) =>
    match s.check tag va n 1 false with
    | .trap c s => s.trap c (BitVec.ofNat 64 va) nw
    | .park w s => s.parkRe 1 w nw
    | .ok acc =>
      if acc.s.loadHeld va acc.pa n then acc.s.parkRe 1 .latency nw
      else if acc.s.isMoved acc.s.myPid acc.pa then (acc.s.reread va).parkRe 1 .latency nw
      else match acc.s.loadBad acc.key va acc.pa n with
      | some c => (acc.s.verifyAll acc.key acc.pa n).parkAt acc.s.cur 1 .latency (.fault c (BitVec.ofNat 64 va)) nw true
      | none => g (acc.s.viewBytes va acc n) acc.s
  one s va.toNat n1 fun b1 s =>
    if n1 = n then f b1 s
    else one s (va + BitVec.ofNat 64 n1).toNat (n - n1) fun b2 s => f (b1 ++ b2) s

/-- SCOPEDEF (R175): reads a 64-byte-aligned descriptor of 256 bytes. -/
def execScopedef (p : Pfx) (d a : Fin 32) (s : State) : Res :=
  let nw := nwX p
  run p nw true s fun s => withFull s [a] nw fun s =>
    let va := s.me.rd a
    if va.toNat % 64 ≠ 0 then s.trap 5 va nw
    else withBytes s (s.me.tagOf a) va 256 nw fun bs s =>
      let r := s.defineScope s.myPid (ofBytes bs)
      r.2.parkAt r.2.cur 1 (r.2.replyWait r.2.myCore) (.finish [.g d r.1]) nw true

/-! ### Registers -/

/-- REMPTY (R163). -/
def execRempty (p : Pfx) (d : Fin 32) (s : State) : Res :=
  run p (nwX p) true s fun s =>
    s.finishMe (nwX p) fun t => t.setReg d { val := t.rd d, full := false, tag := none }

/-- The slot a FILL goes to, unless its slot name is refused (R164, R324): bits above the name, a cluster that does not exist, a
slot outside the partition or where the permission table does not let the cluster send. -/
def State.fillTarget (s : State) (name : Word) : Option Nat :=
  if bits name.toNat 63 40 ≠ 0 then none
  else match s.slotOfName s.myDev name with
    | none => none
    | some k => if s.pidOf (clusterOf k) = s.myPid ∧ s.mayTo s.myCluster (clusterOf k) then some k else none

/-- FILL (R164): refused with 0x08, or sent, and the thread parks for the status; without a route it is a lost request (R374, R375). -/
def execFill (p : Pfx) (t d a b : Fin 32) (s : State) : Res :=
  let nw := nwX p
  run p nw true s fun s => withFull s [a, b] nw fun s =>
    match s.fillTarget (s.me.rd a) with
    | none => s.finishMe nw fun x => x.wr d 8
    | some k =>
      if !s.routeUp s.myDev (devOfSlot k) then s.trap 0x18 0 nw
      else
        let id := s.nextId
        ((s.send s.cur (.fill (s.me.rd a) t (s.me.rd b) (some d) none)).parkFin 1 (.reply id) [.g d 0] nw).onPath
          { pa := 0, key := 0, dev := devOfSlot k, remote := devOfSlot k ≠ s.myDev, s := s } 0

end Sys2Proof.Machine
end

