-- ==== Sys2Proof/Machine/System.lean ====
section
/-! DEFINITION. The system instructions of page 7 (R358-R371): system registers, the return from a trap, shoot-downs, cache
maintenance, messages to firmware, stops, sleep and watchdogs. -/

namespace Sys2Proof.Machine

/-! ### System registers (R296, R315, R326, R372) -/

/-- What a register's instance operand names (R296). -/
inductive SysScope where
  | thread | core | cluster | device
deriving DecidableEq, Repr

/-- The scope of a register. -/
def sysScope (n : Nat) : SysScope :=
  if n = 0 ∨ n = 2 then .thread
  else if n = 1 ∨ n = 3 ∨ n = 4 then .core
  else if (8 ≤ n ∧ n ≤ 0x0C) ∨ (0x10 ≤ n ∧ n ≤ 0x17) ∨ n = 0x41 ∨ n = 0x42 then .cluster
  else .device

/-- The slot, core, cluster or device that an instance operand names for the running thread; none out of range (R296,
R360). -/
def State.sysKey (s : State) (n : Nat) (inst : Word) : Option Nat :=
  let x := inst.toNat
  match sysScope n with
  | .thread => some (s.myCore * 16 + x % 16)
  | .core => if x % 2048 < 1280 then some (s.myDev * 1280 + x % 2048) else none
  | .cluster => if x % 256 < 160 then some (s.myDev * 160 + x % 256) else none
  | .device => some s.myDev
/-- Whether an instance is the running thread's own core, cluster or device. -/
def State.sysOwn (s : State) (n key : Nat) : Bool :=
  match sysScope n with
  | .core => key == s.myCore
  | .cluster => key == s.myCluster
  | _ => true

/-- Whether every core of a cluster has stopped (R347, R393). -/
def State.stopped (s : State) (ck : Nat) : Bool :=
  ((s.cluster ck).stopAt.isSome || (s.cluster ck).hold) &&
    (List.range 128).all fun i => !((s.slot (ck * 128 + i)).park.map (·.kept)).getD false
/-- sys.qstat of a cluster (R389). A launch word is being placed while a record of its launch is to be written or is on its way. -/
def State.qstat (s : State) (ck : Nat) : Word :=
  let x := s.cluster ck
  let placing := s.parts.any fun e => e.2.insts.any fun i =>
    (i.2.nodes.any fun n => match n with
      | .running _ _ todo _ => todo.any fun k => clusterOf k == ck
      | _ => false) || i.2.placedRecs.any fun r => clusterOfCore r.2.1 == ck
  BitVec.ofNat 64 (ofBits [(coresIn ck).any fun c => !(s.core c).inbox.isEmpty, !x.items.isEmpty,
    x.jobs.any fun e => !e.2.done && !e.2.frozen, placing, !s.stopped ck])

/-- The value of a register (R296, R315, R326, R372); reserved bits 0. -/
def State.sysRead (s : State) (n key : Nat) : Word :=
  let c := s.core key
  let x := s.cluster key
  let d := s.dev key
  match n with
  | 0x00 => (s.slot key).tsave
  | 0x01 => c.tvec
  | 0x02 => (((s.slot key).asidNext).getD (s.slot key).asid).setWidth 64
  | 0x03 => c.astab
  | 0x04 => BitVec.ofNat 64 (c.sdepth.toNat + c.asleep.toNat * 16 + c.wakeEnd.isSome.toNat * 32)
  | 0x05 => BitVec.ofNat 64 d.clk
  | 0x08 => BitVec.ofNat 64 x.hold.toNat
  | 0x09 => x.fwall
  | 0x18 => d.colcfg
  | 0x19 => d.bootst
  | 0x1A => d.mrsel
  | 0x1B =>
    let i : Fin 16 := Fin.ofNat 16 d.mrsel.toNat
    let w := bits d.mrsel.toNat 6 4
    if w = 6 then (d.mrcount[i]).setWidth 64 else BitVec.ofNat 64 (d.mr[i].toNat / 2 ^ (64 * w))
  | 0x20 => d.s2dir
  | 0x21 => BitVec.ofNat 64 (d.mvovf.toNat * 2 ^ 56 + d.moved.length * 2 ^ 48)
  | 0x40 => BitVec.ofNat 64 (d.milvErr.toNat * 2)
  | 0x41 => x.qosw.setWidth 64
  | 0x42 => s.qstat key
  | 0x50 => d.devno
  | 0x51 => d.frtab
  | 0x52 => d.spanrt
  | 0x53 => d.clksync
  | 0x54 => BitVec.ofNat 64 (d.keys.length * 2 ^ 32 + d.keyErr.toNat * 2 ^ 16)
  | 0x55 => d.intcnt.setWidth 64
  | _ =>
    if 0x0A ≤ n ∧ n ≤ 0x0C then x.perm[(n - 0x0A) % 3]'(by omega)
    else if 0x10 ≤ n ∧ n ≤ 0x17 then x.permdev[n % 8]'(by omega)
    else if 0x30 ≤ n ∧ n ≤ 0x3F then d.milvStaged[n % 16]'(by omega)
    else d.flink[n % 16]'(by omega)

/-- The bits of a word that a mask selects. -/
def keep (v : Word) (hi lo : Nat) : Word := BitVec.ofNat 64 (bits v.toNat hi lo * 2 ^ lo)
/-- A system event follows the running instruction. -/
def State.then_ (s : State) (e : Event) : State := { s with agenda := s.agenda ++ [e] }

/-- The frame that a write of sys.mvfrm names (R320). -/
def movedBase (x : Nat) : Nat := bits x 43 16 * 2 ^ 16 / 2 ^ movedLog (x % 4) * 2 ^ movedLog (x % 4)
/-- Whether a final position on its way writes a line of a frame of a device (R182, R320). -/
def State.finalTo (s : State) (dev f size : Nat) : Bool := s.dies.any fun d => d.2.notices.any fun n => match n with
  | .final _ _ _ _ _ _ _ wl _ => wl.any fun e => devOfAddr (e.1 * 64) == dev &&
      localOfAddr (e.1 * 64) / 2 ^ movedLog size == f / 2 ^ movedLog size
  | .inval .. => false
/-- The write of a register at its target (R296-R299, R305, R315, R320, R325, R326, R372, R373, R377, R380); the parts that
are events of their own follow the instruction. sys.mrext is not written here. -/
def State.sysWrite (s : State) (n key : Nat) (v : Word) : State :=
  let x := v.toNat
  match n with
  | 0x00 => s.modSlot key fun t => { t with tsave := v }
  | 0x01 => s.modCore key fun c => { c with tvec := v }
  | 0x02 => s.modSlot key fun t =>
      if key = s.cur then { t with asidNext := some (v.setWidth 16) } else { t with asid := v.setWidth 16, asidNext := none }
  | 0x03 => s.modCore key fun c => { c with astab := keep v 63 12 }
  | 0x04 => s.modCore key fun c => { c with sdepth := if x % 4 = 3 then c.sdepth else v.setWidth 2 }
  | 0x08 => s.then_ (if tb x 0 then .clusterHold key else .clusterRelease key)
  | 0x09 => s.then_ (.firewallWrite key v)
  | 0x1A => s.modDev key fun d => { d with mrsel := BitVec.ofNat 64 (x % 16 + 16 *
      (if bits x 6 4 = 7 then bits d.mrsel.toNat 6 4 else bits x 6 4)) }
  | 0x20 => s.modDev key fun d => { d with s2dir := keep v 43 20 }
  | 0x21 =>
    let f := movedBase x
    s.then_ (if tb x 63 then .movedFrameEnter key f (x % 4) else .movedFrameRemove key f (x % 4))
  | 0x40 => if tb x 0 then s.then_ (.interleaveCommit key) else s
  | 0x41 => s.modCluster key fun y => { y with qosw := if x % 256 = 0 then 1 else v.setWidth 8 }
  | 0x50 => s.modDev key fun d => if tb d.devno.toNat 63 then d else { d with devno := keep v 8 0 ||| keep v 63 63 }
  | 0x51 => s.modDev key fun d => { d with frtab := keep v 43 12 }
  | 0x52 => s.modDev key fun d => { d with spanrt := keep v 31 0 }
  | 0x54 => (match bits x 63 62 with
      | 1 => s.then_ (.keyGenerate key (bits x 13 0))
      | 2 => s.then_ (.keyRetire key (bits x 13 0))
      | _ => s)
  | 0x55 => s.then_ (.intcntClear key)
  | _ =>
    if 0x0A ≤ n ∧ n ≤ 0x0C then s.modCluster key fun y =>
      { y with perm := y.perm.set ((n - 0x0A) % 3) (if n = 0x0C then keep v 31 0 else v) (by omega) }
    else if 0x10 ≤ n ∧ n ≤ 0x17 then s.modCluster key fun y => { y with permdev := y.permdev.set (n % 8) v (by omega) }
    else if 0x30 ≤ n ∧ n ≤ 0x3F then s.modDev key fun d =>
      { d with milvStaged := d.milvStaged.set (n % 16) (keep v 9 8 ||| keep v 3 0) (by omega) }
    else if 0x60 ≤ n ∧ n ≤ 0x6F then s.then_ (if tb x 63 then .linkEnable key (n % 16) else .linkDisable key (n % 16))
    else s

/-- Whether a write of a device register parks under cause 1 until it has its effect (R320, R325, R380). -/
def sysSlow (n : Nat) : Bool := n == 0x21 || n == 0x40 || n == 0x54

/-- Whether an access under a key is on its way to a memory controller of a device (R380). -/
def State.keyBusy (s : State) (dev key : Nat) : Bool :=
  (s.cores.any fun e => e.2.sq.any fun q => q.key == key && devOfAddr q.pa == dev && devOfCore e.1 == dev) ||
  s.net.any fun m => match m.kind with
    | .op q => q.key == key && devOfAddr q.pa == dev
    | .moved (.op q) _ => q.key == key && devOfAddr q.pa == dev
    | .amo _ _ _ pa k .. => k == key && devOfAddr pa == dev
    | .stc _ pa k .. => k == key && devOfAddr pa == dev
    | .bar _ pa k .. => k == key && devOfAddr pa == dev
    | .region _ line k .. => k == key && devOfAddr (line * 64) == dev
    | _ => false

/-- Goes on with the instance of a register, or traps with cause 0x01 or 0x04 (R296, R358). -/
def withSys (s : State) (n : Nat) (inst : Fin 32) (nw : Nat) (f : Nat → State) : State :=
  match s.sysKey n (s.me.rd inst) with
  | none => s.trap 1 0 nw
  | some key => if s.me.cls.toNat < 2 && !s.sysOwn n key then s.trap 4 0 nw else f key

/-- The source registers of an instance operand: a device register has none (R360). -/
def instRegs (n : Nat) (r : Fin 32) : List (Fin 32) := if sysScope n = .device then [] else [r]

/-- At the end of a clock, the SRDs of a register that an SWR has reached on it get the value after it: the SWR is ordered first
(R360). -/
def State.settleReads (s : State) : State :=
  let s' := { s with srds := [], swrs := [] }
  s.srds.foldl (fun s' (r : SysGet) =>
    if !s.swrs.contains (r.n, r.key) then s'
    else
      let x := s.sysRead r.n r.key
      s'.modSlot r.k fun t => match t.park with
        | none => t.wr r.d x
        | some p => { t with park := some { p with rest := match p.rest with
            | .finish [.g d _] => .finish [.g d x]
            | r => r } }) s'

/-- SRD (R360). -/
def execSrd (p : Pfx) (n : Fin 128) (d a : Fin 32) (s : State) : Res :=
  let nw := nwX p
  run p nw true s fun s => withFull s (instRegs n.val a) nw fun s => withSys s n.val a nw fun key =>
    let x := s.sysRead n.val key
    let s := { s with srds := s.srds ++ [({ k := s.cur, d := d, n := n.val, key := key } : SysGet)] }
    if s.sysOwn n.val key then s.finishMe nw fun t => t.wr d x else s.parkFin 1 .latency [.g d x] nw

/-- The write of sys.mrext (R305): the 48 bytes are read with the writer's rights; it parks under cause 9. -/
def swrMrext (s : State) (v : Word) (nw : Nat) : State :=
  let r := v.toNat % 16
  if r < 5 && bits (s.dev s.myDev).bootst.toNat 3 0 == 2 then s.trap 4 0 nw
  else withBytes s none (keep v 63 6) 48 nw fun bs s =>
    (s.then_ (.measurementExtend s.myDev r bs)).parkFin 9 .latency [] nw

/-- SWR (R297, R360). A retire of a key waits until no access under it is in flight (R380); a write that holds a cluster completes
when its cores have stopped (R393); one that enters a frame into the moved-frame set waits for the final positions on their way to it,
which were ordered before (R320). A write to another core or cluster is completed at a stop (R32, R347), any other parked one restarts
(R371). -/
def execSwr (p : Pfx) (n : Fin 128) (a b : Fin 32) (s : State) : Res :=
  let nw := nwX p
  run p nw true s fun s => withFull s (a :: instRegs n.val b) nw fun s => withSys s n.val b nw fun key =>
    let v := s.me.rd a
    if n.val = 0x1C then swrMrext s v nw
    else if n.val == 0x54 && bits v.toNat 63 62 == 2 && s.keyBusy key (bits v.toNat 13 0) then s.parkRe 1 .latency nw
    else if n.val == 0x21 && tb v.toNat 63 && s.finalTo key (movedBase v.toNat) (v.toNat % 4) then s.parkRe 1 .latency nw
    else
      let s := { s.sysWrite n.val key v with swrs := s.swrs ++ [(n.val, key)] }
      if n.val == 0x08 && tb v.toNat 0 then s.parkAt s.cur 1 (.held key) (.finish []) nw true
      else if s.sysOwn n.val key && !sysSlow n.val then s.finish nw
      else s.parkAt s.cur 1 .latency (.finish []) nw (!s.sysOwn n.val key)

/-! ### ERET, eret.start and STEP (R343, R361, R362) -/

/-- ERET. The region that a single-step trap leaves open (R186) is open in the handler too, whose ERET or STEP, being forbidden in one,
aborts it with code 6: the thread goes to the region's handler, still in its trap handler (log 48: DESIGN CHOICE; R186 does not say
whether the trap handler runs inside the region). -/
def execEret (p : Pfx) (s : State) : Res := run p (nwX p) true s fun s => s.eret none (nwX p)

/-- STEP. -/
def execStep (p : Pfx) (a : Fin 32) (s : State) : Res :=
  run p (nwX p) true s fun s => withFull s [a] (nwX p) fun s => s.eret (some (tb (s.me.rd a).toNat 0)) (nwX p)

/-- Marks a slot as placed by the node whose record named it (R328, R332). -/
def State.placeSlot (s : State) (k : Nat) : State :=
  let pid := s.pidOf (clusterOf k)
  match (s.part pid).insts.findSome? fun i =>
      (i.2.nodes.findIdx? fun n => match n with
        | .running _ _ todo _ => todo.contains k
        | _ => false).map fun j => (i.1, j) with
  | none => s
  | some (inst, j) =>
    let put := fun (i : Nat × Inst) => if i.1 = inst then
      (i.1, { i.2 with nodes := i.2.nodes.mapIdx fun m n => if m = j then (match n with
        | .running r n todo held => .running r n (todo.filter (· != k)) held
        | n => n) else n }) else i
    (s.modPart pid fun q => { q with insts := q.insts.map put }).modSlot k fun t =>
      { t with placed := some { pid := pid, inst := inst, node := j } }

/-- eret.start (R361). -/
def execEretStart (p : Pfx) (d a : Fin 32) (s : State) : Res :=
  let nw := nwX p
  run p nw true s fun s => withFull s [a] nw fun s =>
    let k := s.myCore * 16 + (s.me.rd a).toNat % 16
    let t := s.slot k
    if k % 16 = 0 ∨ t.occ then s.finishMe nw fun t => t.wr d 1
    else withTr (s.dataPage s.myCore t.asid.toNat t.tsave.toNat) s t.tsave nw fun es =>
      let s := es.2
      if !canonical (s.frameAt es.1 t.tsave.toNat 2 / 2 * 2) || decide (8 < bits (s.frameAt es.1 t.tsave.toNat 4) 15 12) then
        s.finishMe nw fun t => t.wr d 2
      else
        let s := ((s.modSlot k fun t => { t with occ := true }).eretAt k false none es.1).placeSlot k
        s.finishMe nw fun t => t.wr d 0

/-! ### Shoot-downs (R317, R363) -/

/-- Removes the cached translations and the lines that three tests select, on some devices, for a partition. -/
def State.shoot (s : State) (devs : List Nat) (ent : TlbEnt → Bool) (l1 : L1Line → Bool) (ko : Nat → RoLine → Bool) : State :=
  let on := fun (ck : Nat) => devs.contains (devOf ck)
  { s with clusters := s.clusters.map fun e => if on e.1 then
             (e.1, { e.2 with tlb := e.2.tlb.filter (!ent ·), konst := e.2.konst.filter (!ko e.1 ·) }) else e,
           dies := s.dies.map fun e => if devs.contains (e.1 / 4) then (e.1, { e.2 with tlb := e.2.tlb.filter (!ent ·) }) else e,
           cores := s.cores.map fun e => if on (clusterOfCore e.1) then
             (e.1, { e.2 with l1 := e.2.l1.filter (!l1 ·) }) else e }

/-- Whether two ranges of addresses meet. -/
def meet (a la b lb : Nat) : Bool := decide (a < b + lb) && decide (b < a + la)

/-- Whether the open region of a slot has buffered a write to a line that a test of its virtual and physical line selects. -/
def Slot.buffers (t : Slot) (hit : Nat → Nat → Bool) : Bool := match t.region with
  | none => false
  | some r => r.wvas.any fun e => hit e.2 e.1
/-- What a shoot-down does to the threads of a partition: a region one of whose written lines it names loses the line, and aborts with
code 2 (R179, R317; log 48: DESIGN CHOICE for the code); a wait on the phase of a barrier issues again, with a new translation. -/
def State.shootSlots (s : State) (devs : List Nat) (pid : Nat) (asid : Option (BitVec 16)) (lo hi : Nat) (hit : Nat → Nat → Nat → Bool) :
    State :=
  s.slots.foldl (fun s e =>
    if s.pidOf (clusterOf e.1) != pid || !devs.contains (devOfSlot e.1) then s
    else if e.2.buffers (hit e.1) then s.abort e.1 2
    else match e.2.park with
      | some p => (match p.wait with
        | .barrier va _ _ => if s.shotAt asid lo hi e.1 va then s.wake e.1 else s
        | _ => s)
      | none => s) s

/-- TLBINV after its operands are read: it removes, then waits under cause 10 for what it waits for (R317). The virtual range grows by
the pages of the translations it removes. `hit` selects the written lines of a slot's region, by virtual and physical line. -/
def tlbinv (span : Bool) (pid : Nat) (asid : Option (BitVec 16)) (lo hi : Nat) (ent : TlbEnt → Bool) (l1 : L1Line → Bool)
    (ko : Nat → RoLine → Bool) (hit : Nat → Nat → Nat → Bool) (nw : Nat) (s : State) : State :=
  let upto := s.nextId
  let devs := s.spanDevs s.myCluster span
  let gone := ((s.clusters.flatMap fun e => e.2.tlb) ++ s.dies.flatMap fun e => e.2.tlb).filter ent
  let lo := gone.foldl (fun m e => min m e.vbase) (lo / 65536 * 65536)
  let hi := gone.foldl (fun m e => max m (e.vbase + 2 ^ e.szlog)) ((hi + 65535) / 65536 * 65536)
  ((s.shoot devs ent l1 ko).shootSlots devs pid asid lo hi hit).parkFin 10 (.maint upto pid asid lo hi span) [] nw

/-- TLBINV range. -/
def execTlbinvRange (p : Pfx) (span : Bool) (d a b : Fin 32) (s : State) : Res :=
  let nw := nwX p
  run p nw true s fun s => withFull s [d, a, b] nw fun s =>
    let asid : BitVec 16 := (s.me.rd d).setWidth 16
    let va := (s.me.rd a).toNat
    let n := min (s.me.rd b).toNat (2 ^ 64 - va)
    let pid := s.myPid
    if n = 0 then s.finish nw
    else tlbinv span pid (some asid) va (va + n)
      (fun e => e.pid == pid && e.asid == asid.toNat && meet e.vbase (2 ^ e.szlog) va n)
      (fun l => l.pid == pid && l.asid == asid.toNat && meet (l.vline * 64) 64 va n)
      (fun ck l => s.pidOf ck == pid && l.asid == asid.toNat && meet (l.vline * 64) 64 va n)
      (fun k vline _ => (s.slot k).asid == asid && meet (vline * 64) 64 va n) nw s

/-- TLBINV asid. -/
def execTlbinvAsid (p : Pfx) (span : Bool) (d _a _b : Fin 32) (s : State) : Res :=
  let nw := nwX p
  run p nw true s fun s => withFull s [d] nw fun s =>
    let asid : BitVec 16 := (s.me.rd d).setWidth 16
    let pid := s.myPid
    tlbinv span pid (some asid) 0 (2 ^ 64) (fun e => e.pid == pid && e.asid == asid.toNat)
      (fun l => l.pid == pid && l.asid == asid.toNat) (fun ck l => s.pidOf ck == pid && l.asid == asid.toNat)
      (fun k _ _ => (s.slot k).asid == asid) nw s

/-- TLBINV s2range: the L1 lines and the constant lines of the partition all go (R317, log 6). -/
def execTlbinvS2range (p : Pfx) (span : Bool) (d a b : Fin 32) (s : State) : Res :=
  let nw := nwX p
  run p nw true s fun s => withFull s [d, a, b] nw fun s =>
    let pid := (s.me.rd d).toNat % 65536
    let pa := (s.me.rd a).toNat
    let n := min (s.me.rd b).toNat (2 ^ 64 - pa)
    if n = 0 then s.finish nw
    else tlbinv span pid none 0 (2 ^ 64)
      (fun e => e.pid == pid && !e.remote && meet (e.part % 2 ^ 44) (2 ^ e.szlog) pa n) (fun l => l.pid == pid)
      (fun ck _ => s.pidOf ck == pid)
      (fun k vline _ => match s.tlbFind (coreOf k) (s.slot k).asid.toNat (vline * 64) with
        | some e => meet (e.part % 2 ^ 44 + (vline * 64 - e.vbase)) 64 pa n
        | none => true) nw s

/-- TLBINV partition. -/
def execTlbinvPartition (p : Pfx) (span : Bool) (d _a _b : Fin 32) (s : State) : Res :=
  let nw := nwX p
  run p nw true s fun s => withFull s [d] nw fun s =>
    let pid := (s.me.rd d).toNat % 65536
    tlbinv span pid none 0 (2 ^ 64) (fun e => e.pid == pid) (fun l => l.pid == pid) (fun ck _ => s.pidOf ck == pid)
      (fun _ _ _ => true) nw s

/-! ### TLBPROBE (R364) -/

/-- What a probe finds: the address and the attribute word, and whether a TLB held the translation. -/
def State.probe (s : State) (c pid asid va : Nat) : Nat × Nat × Bool :=
  let ck := clusterOfCore c
  let size := fun (z : Nat) => if z = 16 then 0 else if z = 21 then 1 else if z = 29 then 2 else 3
  let attr := fun (dom key cls : Nat) (x gate : Bool) (z : Nat) (rem fz : Bool) =>
    dom * 2 ^ 56 + key * 2 ^ 36 + cls * 2 ^ 34 + x.toNat * 2 ^ 33 + gate.toNat * 2 ^ 32 + size z * 2 ^ 30 + rem.toNat * 4 +
      fz.toNat * 2 + 1
  let num := fun (d l : Nat) => s.numOf d * 2 ^ 44 + l
  let bad := fun (cause : Nat) (hit : Bool) => (0, cause * 2 ^ 16, hit)
  let hit := fun (l : List TlbEnt) => l.find? (·.covers pid asid va)
  if !canonical va then bad 6 true
  else match (hit (s.cluster ck).tlb).orElse fun _ => hit (s.die (dieOf ck)).tlb with
    | some e =>
      if e.remote then (e.pa va, attr e.dom.toNat 0 0 e.x e.gate e.szlog true false, true)
      else (num e.dev (e.base + va % 2 ^ e.szlog), attr e.dom.toNat e.key e.cls.toNat e.x e.gate e.szlog false false, true)
    | none =>
      let dev := devOf ck
      let walk := (s.readPart dev pid ((s.core c).astab.toNat + asid * 64 + 24) 8 true).bind fun v =>
        if !tb v 0 then .fault 6
        else (s.readPart dev pid ((s.core c).astab.toNat + asid * 64) 8 true).bind fun r =>
          s.walk1 dev pid va true s1Levels (bits r 52 15 * 2 ^ 15)
      match walk with
      | .fault c => bad c false
      | .frozen => bad 6 false
      | .ok l =>
        let part := l.frame + va % 2 ^ l.szlog
        if s.keyOfNum dev (bits part 52 44) = some dev then
          match s.stage2 dev pid none part true with
          | .fault c => bad c false
          | .frozen => bad 7 false
          | .ok l2 => (num dev (l2.frame + part % 2 ^ l2.szlog),
              attr l.dom l2.key l2.cls l.x l.gate (min l.szlog l2.szlog) false (l.fz || l2.fz), false)
        else (part, attr l.dom 0 0 l.x l.gate l.szlog true l.fz, false)

/-- TLBPROBE. -/
def execTlbprobe (p : Pfx) (d a b : Fin 32) (s : State) : Res :=
  let nw := nwX p
  run p nw true s fun s => withFull s [a, b] nw fun s =>
    let o := (s.me.rd b).toNat
    let pid := if tb o 32 && s.me.cls == 2 then bits o 31 16 else s.myPid
    let r := s.probe s.myCore pid (o % 65536) (s.me.rd a).toNat
    let addr := BitVec.ofNat 64 r.1
    let attr := BitVec.ofNat 64 r.2.1
    if r.2.2 then s.finishMe nw fun t => (t.wr d addr).wr a attr
    else s.parkFin 1 .latency [.g d addr, .g a attr] nw

/-! ### CACHEOP (R365) -/

/-- CACHEOP: it waits until every earlier store of the thread is at its home, acts on the devices and parks under cause 10;
`act` gets the devices, the range and the test of a virtual line of the issuer's ASID. -/
def cacheop (p : Pfx) (span : Bool) (a b : Fin 32) (act : List Nat → (Nat → Nat → Bool) → State → State) (s : State) : Res :=
  let nw := nwX p
  run p nw true s fun s => withFull s [a, b] nw fun s =>
    if !s.allHome s.cur then s.parkRe 10 (.fence 6 false) nw
    else
      let va := (s.me.rd a).toNat
      let n := min (s.me.rd b).toNat (2 ^ 64 - va)
      let asid := s.me.asid.toNat
      let named := fun (id vline : Nat) => id == asid && decide (0 < n) && meet (vline * 64) 64 va n &&
        (s.probe s.myCore s.myPid asid (vline * 64)).2.1 % 2 == 1
      (act (s.spanDevs s.myCluster span) named s).parkFin 10 .latency [] nw

/-- Changes the cores of the running thread's partition on some devices. -/
def State.modCores (s : State) (devs : List Nat) (f : Core → Core) : State :=
  { s with cores := s.cores.map fun e =>
      if s.pidOf (clusterOfCore e.1) == s.myPid && devs.contains (devOfCore e.1) then (e.1, f e.2) else e }

/-- CACHEOP.ic: the instruction-cache lines. -/
def execCacheopIc (p : Pfx) (span : Bool) (a b : Fin 32) (s : State) : Res :=
  cacheop p span a b (fun devs named s => s.modCores devs fun c =>
    { c with ic := c.ic.filter fun l => !named l.asid l.vline }) s
/-- CACHEOP.l1: the L1 lines; a store is at its home before, so there is nothing to write back. -/
def execCacheopL1 (p : Pfx) (span : Bool) (a b : Fin 32) (s : State) : Res :=
  cacheop p span a b (fun devs named s => s.modCores devs fun c =>
    { c with l1 := c.l1.filter fun l => !named l.asid l.vline }) s
/-- CACHEOP.cc: the constant-cache lines. -/
def execCacheopCc (p : Pfx) (span : Bool) (a b : Fin 32) (s : State) : Res :=
  cacheop p span a b (fun devs named s =>
    { s with clusters := s.clusters.map fun e =>
        if s.pidOf e.1 == s.myPid && devs.contains (devOf e.1) then
          (e.1, { e.2 with konst := e.2.konst.filter fun l => !named l.asid l.vline }) else e }) s
/-- A second L2 line reaches DRAM; the other line of its frame, where its key is active, may stand in L2 still, as the next choice says
(R322, R365). -/
def State.writeBackLine (s : State) (l : L2Line) : State :=
  let r := s.choose
  let s := { r.2 with l2 := r.2.l2.filter (· != l) }
  let old : L2Line := { line := l.line, ser := s.serials.get 0 l.line,
                        data := BitVec.ofNat 512 (ofBytes ((List.range 64).map fun i => s.mem.read (l.line * 64 + i))) }
  let s := { s with mem := s.mem.writeCells (cellsAt (l.line * 64) (toBytes 64 l.data.toNat)), serials := s.serials.set l.line l.ser }
  if r.1 != 0 && s.serialLive l.line old.ser then { s with l2 := old :: s.l2 } else s
/-- Both lines of a frame under two keys reach DRAM, and the next choice says which last (R322, R365). -/
def State.writeBackBoth (s : State) (l : L2Line) : State :=
  let r := s.choose
  if r.1 != 0 && s.serialLive l.line (s.serials.get 0 l.line) then { r.2 with l2 := r.2.l2.filter (· != l) }
  else { r.2.writeBackLine l with l2 := (r.2.writeBackLine l).l2.filter (·.line != l.line) }
/-- Whether a second L2 line of a device is that of a line of a virtual range as TLBPROBE translates it (R365). -/
def State.l2Named (s : State) (va n : Nat) (l : L2Line) : Bool :=
  let asid := s.me.asid.toNat
  (List.range ((va % 65536 + n + 65535) / 65536)).any fun i =>
    let v := va / 65536 * 65536 + 65536 * i
    let r := s.probe s.myCore s.myPid asid v
    let at_ := match s.keyOfNum s.myDev (bits r.1 52 44) with
      | none => none
      | some d => if tb r.2.1 2 then (match s.stage2 d s.myPid none (r.1 % 2 ^ 44) true with
            | .ok x => some (addrOf d (x.frame + r.1 % 2 ^ 44 % 2 ^ x.szlog), x.key)
            | _ => none)
          else some (addrOf d (r.1 % 2 ^ 44), bits r.2.1 55 36)
    tb r.2.1 0 && (match at_ with
      | some (pa, key) => pa / 65536 == l.line * 64 / 65536 && s.serialOf key (l.line * 64) == l.ser &&
          meet (v + l.line * 64 % 65536) 64 va n
      | none => false)
/-- CACHEOP.l2v: a line that L2 alone holds beside its home is one under a second key (R322); it reaches DRAM. A home and its DRAM line
are otherwise one in the model (log 6). -/
def execCacheopL2v (p : Pfx) (span : Bool) (a b : Fin 32) (s : State) : Res :=
  let va := (s.me.rd a).toNat
  let n := min (s.me.rd b).toNat (2 ^ 64 - va)
  cacheop p span a b (fun devs _ s => s.l2.foldl (fun s' l =>
    if devs.contains (devOfAddr (l.line * 64)) && decide (0 < n) && s.l2Named va n l then s'.writeBackLine l else s') s) s
/-- CACHEOP.l2p: as l2v, by physical range of the device, the lines under every key (log 6). -/
def execCacheopL2p (p : Pfx) (a b : Fin 32) (s : State) : Res :=
  let pa := (s.me.rd a).toNat
  let n := min (s.me.rd b).toNat (2 ^ 64 - pa)
  cacheop p false a b (fun _ _ s => s.l2.foldl (fun s' l =>
    if devOfAddr (l.line * 64) = s.myDev ∧ 0 < n ∧ meet (localOfAddr (l.line * 64)) 64 pa n then s'.writeBackBoth l else s') s) s

/-! ### DOMSET (R366) -/

/-- Drops the held rows of an ASID that a test of the domain selects, and parks under cause 10. -/
def domset (p : Pfx) (rs : List (Fin 32)) (b : Fin 32) (dom : State → Nat → Bool) (s : State) : Res :=
  let nw := nwX p
  run p nw true s fun s => withFull s rs nw fun s =>
    let asid := (s.me.rd b).toNat % 65536
    let hit := fun (e : Nat × Slot) => s.pidOf (clusterOf e.1) == s.myPid && devOfSlot e.1 == s.myDev &&
      (match e.2.row with
        | some r => r.asid == asid && dom s r.dom
        | none => false)
    { s with slots := s.slots.map fun e => if hit e then (e.1, { e.2 with row := some Row.unloaded }) else e }.parkFin
      10 .latency [] nw
/-- DOMSET.row. -/
def execDomsetRow (p : Pfx) (a b : Fin 32) (s : State) : Res :=
  domset p [a, b] b (fun s d => d == (s.me.rd a).toNat % 256) s
/-- DOMSET.all. -/
def execDomsetAll (p : Pfx) (b : Fin 32) (s : State) : Res := domset p [b] b (fun _ _ => true) s

/-! ### FWSEND (R367, R391) -/

/-- The mail record of a message of the running thread. -/
def State.mailRecord (s : State) (role : Nat) (msg : List Byte) : List Byte :=
  [3, BitVec.ofNat 8 role] ++ toBytes 2 s.myPid ++ toBytes 4 0 ++ toBytes 8 (s.slotName s.cur).toNat ++ msg
/-- The work that a message to the context engine asks for (R391). -/
def ctxEvent (k : Nat) (msg : List Byte) : List Event :=
  let pid := ofBytes (bytesIn msg 2 2)
  let desc := ofBytes (bytesIn msg 8 8)
  match ofBytes (bytesIn msg 0 1) with
  | 0x20 => [.ctxSave pid desc (some k)]
  | 0x21 => [.ctxClear pid desc (some k)]
  | 0x22 => [.ctxReplace pid desc (some k)]
  | _ => []
/-- The recovery mode message to the scheduler (R384); mode 2 stands for a field out of range. -/
def modeEvent (pid k : Nat) (msg : List Byte) : List Event :=
  if ofBytes (bytesIn msg 0 1) = 16 then
    let bad := ofBytes (bytesIn msg 2 2) ≠ 0 ∨ ofBytes (bytesIn msg 8 40) ≠ 0
    [.recoveryModeSet pid (if bad then 2 else ofBytes (bytesIn msg 1 1)) (ofBytes (bytesIn msg 4 4)) (some k)]
  else []
/-- Sends a message to a role: to the next of its cores, through that core's router; the thread parks for the answer. A message of an
uncommitted node to the flash and network service, by which a thread asks for an Ethernet send, is held and acknowledged (R385; log
49). -/
def State.fwsend (s : State) (role : Nat) (d : Fin 32) (va : Word) (msg : List Byte) (nw : Nat) : State :=
  let wait := fun (s : State) => s.parkFin 1 (.mail s.myDev) [.g d 0] nw
  match (s.uncommitted s.cur).filter fun _ => role == 5 with
  | some p =>
    let r := s.free
    ({ r.2 with nextId := s.nextId + 1 }.holdFx p s.nextId (.mail s.myDev role (s.mailRecord role msg))).parkFin 1 .latency [.g d r.1] nw
  | none =>
  match s.nextRole s.myDev role with
  | (none, s) => wait s
  | (some c, s) =>
    let ck := clusterOfCore c
    if !s.admits s.myPid ck (some 17) then (s.countDrop ck).trap 7 va nw
    else
      let s := s.modCore c fun x => { x with mail := x.mail ++ [s.mailRecord role msg] }
      wait { s with agenda := s.agenda ++ (if role = 2 then ctxEvent s.cur msg
                                           else if role = 1 then modeEvent s.myPid s.cur msg else []) }

/-- FWSEND. -/
def execFwsend (p : Pfx) (d a b : Fin 32) (s : State) : Res :=
  let nw := nwX p
  run p nw true s fun s => withFull s [a, b] nw fun s =>
    let role := (s.me.rd b).toNat % 8
    let va := s.me.rd a
    if 6 ≤ role then s.finishMe nw fun t => t.wr d (BitVec.ofInt 64 (-1))
    else if va.toNat % 16 ≠ 0 then s.trap 5 va nw
    else withBytes s (s.me.tagOf a) va 48 nw fun bs s => s.fwsend role d va bs nw

/-- Answers the FWSEND of a slot: 0, or 0x16 where the answer is discarded (R367). -/
def State.mailAnswer (s : State) (k : Nat) (gen : Nat) (x : Word) : Nat × State :=
  let t := s.slot k
  if !t.occ || t.gen.toNat != gen then (0x16, s)
  else if 0 < t.mailOld then (0x16, s.modSlot k fun t => { t with mailOld := t.mailOld - 1 })
  else match t.park with
    | some ⟨_, _, .mail _, _, .finish [.g d _], false, _, _⟩ => (0, s.wakeWith k (.finish [.g d x]))
    | _ => (0x16, s)

/-- fwsend.reply. -/
def execFwsendReply (p : Pfx) (d a b : Fin 32) (s : State) : Res :=
  let nw := nwX p
  run p nw true s fun s => withFull s [a, b] nw fun s =>
    let tk := s.me.rd a
    let r := match s.slotOfName s.myDev tk with
      | some k => if bits tk.toNat 63 40 = 0 then s.mailAnswer k (tk.toNat % 65536) (s.me.rd b) else (0x16, s)
      | none => (0x16, s)
    r.2.finishMe nw fun t => t.wr d (BitVec.ofNat 64 r.1)

/-! ### STOPARM (R345, R346, R368) -/

/-- STOPARM.core. -/
def execStoparmCore (p : Pfx) (a : Fin 32) (s : State) : Res :=
  let nw := nwX p
  run p nw true s fun s => withFull s [a] nw fun s =>
    let i := (s.me.rd a).toNat % 2048
    let c := s.myDev * 1280 + i
    if 1280 ≤ i then s.trap 1 0 nw
    else if s.me.cls.toNat < 2 ∧ s.pidOf (clusterOfCore c) ≠ s.myPid then s.trap 4 0 nw
    else if c = s.myCore then (s.finish nw).interruptCore c
    else (s.interruptCore c).parkAt s.cur 1 .latency (.finish []) nw false

/-- An entry of a stop descriptor: device number and cluster mask; none where it is refused (R368). -/
def stopEntry (bs : List Byte) : Option (Nat × Nat) :=
  let x := ofBytes bs
  if bits x 63 9 ≠ 0 ∨ bits x 255 224 ≠ 0 ∨ bits x 223 64 = 0 then none else some (bits x 8 0, bits x 223 64)
/-- Whether a device number is in the span, as the issuing device sees it (R368). -/
def State.inSpan (s : State) (d0 n : Nat) : Bool :=
  s.numOf d0 == n || tb (s.numAt 0 (addrOf d0 ((s.dev d0).frtab.toNat + 4 * n)) 4) 16
/-- The entries of a descriptor of `n` entries; none where one is refused. -/
def State.stopEntries (s : State) (d0 : Nat) (bs : List Byte) : Nat → Option (List (Nat × Nat))
  | 0 => some []
  | n + 1 => match stopEntry (bs.take 32), State.stopEntries s d0 (bs.drop 32) n with
    | some e, some es => if s.inSpan d0 e.1 then some (e :: es) else none
    | _, _ => none
/-- The clusters that entries name on the devices that can be reached, and whether every device can. -/
def State.stopClusters (s : State) (d0 : Nat) (es : List (Nat × Nat)) : List Nat × Bool :=
  es.foldl (fun r e => match (s.keyOfNum d0 e.1).filter (s.routeUp d0) with
    | some d => (r.1 ++ ((List.range 160).filter fun i => tb e.2 i).map (d * 160 + ·), r.2)
    | none => (r.1, false)) ([], true)

/-- STOPARM.stop and STOPARM.resume: `arm` arms one cluster. The requests to other devices are on their links: one that is lost traps the
wait (R374). -/
def stoparm (p : Pfx) (d a b : Fin 32) (arm : State → Nat → Nat → Cluster → Cluster) (s : State) : Res :=
  let nw := nwX p
  run p nw true s fun s => withFull s [d, a, b] nw fun s =>
    let n := (s.me.rd d).toNat
    let va := s.me.rd b
    if n = 0 ∨ 512 < n then s.finishMe nw fun t => t.wr d 1
    else if va.toNat % 32 ≠ 0 then s.trap 5 va nw
    else withBytes s (s.me.tagOf b) va (32 * n) nw fun bs s =>
      let answer := fun (s : State) (x : Word) => s.parkFin 1 .latency [.g d x] nw
      let onLinks := fun (s : State) (es : List (Nat × Nat)) => s.modMe fun t => { t with park := t.park.map fun q => { q with
        via := es.flatMap fun e => match s.keyOfNum s.myDev e.1 with
          | some y => s.viaOf s.cur y 0
          | none => [] } }
      match s.stopEntries s.myDev bs n with
      | none => answer s 1
      | some es =>
        let r := s.stopClusters s.myDev es
        if r.1.any fun ck => s.pidOf ck == 0 then onLinks (answer s 2) es
        else
          let s := r.1.foldl (fun s ck => s.modCluster ck (arm s ck (s.me.rd a).toNat)) s
          if r.2 then onLinks (answer s 0) es else s.parkAt s.cur 1 .latency (.fault 0x18 0) nw false

/-- STOPARM.stop: a cluster that is stopped keeps its state. -/
def execStoparmStop (p : Pfx) (d a b : Fin 32) (s : State) : Res :=
  stoparm p d a b (fun _ _ t x => if x.stopAt.isSome then x else { x with armStop := some { at_ := t } }) s
/-- Whether a cluster has stopped threads: it has stopped, or a save has been re-placed into it (R356, R368). -/
def State.resumable (s : State) (ck : Nat) : Bool :=
  (s.cluster ck).stopAt.isSome || (List.range 128).any fun i => (s.slot (ck * 128 + i)).stopped
/-- STOPARM.resume: it has no effect on a cluster that is not stopped; cores re-placed there from an image are (R356, R368). -/
def execStoparmResume (p : Pfx) (d a b : Fin 32) (s : State) : Res :=
  stoparm p d a b (fun s ck t x => if s.resumable ck then { x with armResume := some { at_ := t } } else x) s

/-! ### SLPSET and WDSET (R369, R370) -/

/-- SLPSET. -/
def execSlpset (p : Pfx) (d a : Fin 32) (s : State) : Res :=
  let nw := nwX p
  run p nw true s fun s => withFull s [a] nw fun s =>
    let x := s.me.rd a
    let old := (s.core s.myCore).sdepth
    (s.modCore s.myCore fun c => { c with sdepth := if x.toNat % 4 = 3 then old else x.setWidth 2 }).finishMe nw fun t =>
      t.wr d (old.setWidth 64)

/-- Reloads a watchdog. -/
def Watchdog.reload (w : Watchdog) : Watchdog := { w with left := w.period, frac := 0 }
/-- WDSET.kick. -/
def execWdsetKick (p : Pfx) (s : State) : Res :=
  run p (nwX p) true s fun s =>
    (s.modDev s.myDev fun d => { d with dogs := d.dogs.map fun e =>
      if e.1 = s.myPid then (e.1, e.2.reload) else e }).finish (nwX p)
/-- WDSET.arm. -/
def execWdsetArm (p : Pfx) (a b : Fin 32) (s : State) : Res :=
  let nw := nwX p
  run p nw true s fun s => withFull s [a, b] nw fun s =>
    let n := (s.me.rd a).toNat % 2 ^ 32
    let pid := (s.me.rd b).toNat % 65536
    let w : Watchdog := { period := n, left := n, frac := 0 }
    (s.modDev s.myDev fun d =>
      { d with dogs := if n = 0 then d.dogs.del pid else d.dogs.set pid w }).finish nw
/-- WDSET.read. -/
def execWdsetRead (p : Pfx) (d b : Fin 32) (s : State) : Res :=
  let nw := nwX p
  run p nw true s fun s => withFull s [b] nw fun s =>
    let pid := if s.me.cls.toNat < 2 then s.myPid else (s.me.rd b).toNat % 65536
    let left := (((s.dev s.myDev).dogs.find? (·.1 == pid)).map (·.2.left)).getD 0
    s.finishMe nw fun t => t.wr d (BitVec.ofNat 64 left)

end Sys2Proof.Machine
end

