-- ==== Sys2Proof/Machine/Home.lean ====
section
/-! DEFINITION. What happens at a home, on the lanes and on a die's network: stores (R156, R255, R256), posted operations
(R158, R159), atomics (R165-R169), barriers (R176), full/empty waiters (R161), scope-misses (R262, R263), grant copies
(R392). -/

namespace Sys2Proof.Machine

/-! ### Replies -/

/-- The reply to message `id` is on its way to its slot with what is left of the instruction; it comes after the invalidations that
were on their way before the operation was performed, on the state `s0` (R22, R255, R395). -/
def State.reply (s s0 : State) (k id : Nat) (r : Rest) : State :=
  let told := fun (p : Park) => if p.wait = .reply id then { p with wait := s0.replyWait (coreOf k), rest := r, via := [] } else p
  s.modSlot k fun t => { t with park := t.park.map told }

/-- The lines that a message to a home touches. -/
def State.msgLines (s : State) : MsgKind → List Nat
  | .op e => s.opLines e
  | .amo _ _ _ pa .. => [pa / 64]
  | .stc _ pa .. => [pa / 64]
  | .bar _ pa .. => [pa / 64]
  | .region _ line .. => [line]
  | _ => []
/-- Whether a message is a store of the own device, which has already changed the L1 copy it found. -/
def MsgKind.stores : MsgKind → Bool
  | .op e => !e.op.isAtomic
  | .moved (.op e) _ => !e.op.isAtomic
  | _ => false
/-- Whether an operation touches one of some lines, one of another message being reissued, wherever its page is now (R268). -/
def State.meetsOp (s : State) (e : SqEntry) (moved : Bool) (lines : List Nat) : Bool :=
  (s.opLines e).any lines.contains || (moved && (match s.movedLine e with
    | some l => lines.contains l
    | none => true))
/-- Whether another operation goes before a message at the home of its lines: an earlier one of its thread, which waits in the store
queue, is on its way, is being reissued or is on a lane (R156, R268); and a store that left the same L1 before it, so that the copies
there, what its threads have read and the home agree (R254). -/
def State.lineAhead (s : State) (m : Msg) : Bool :=
  let lines := s.msgLines m.kind
  let c := coreOf m.k
  let own := fun (e : SqEntry) (moved : Bool) => e.k == m.k && decide (e.id < m.id) && s.meetsOp e moved lines
  (s.core c).sq.any (own · false) ||
  (s.net.any fun x => match x.kind with
    | .op e => own e false
    | .moved (.op e) _ => own e true
    | _ => false) ||
  (s.lanes.any fun l => l.broken.isNone && l.flight.any (own · false)) ||
  ((s.net.takeWhile (·.id != m.id)).any fun x => x.kind.stores && s.sameL1 (coreOf x.k) c && (match x.kind with
    | .op e => s.meetsOp e false lines
    | .moved (.op e) _ => s.meetsOp e true lines
    | _ => false))

/-! ### The store queue -/

/-- Counts a discarded operation in a record, whose lastseq is that of the last one in sequence order (R159). -/
def RemRec.bump (r : RemRec) (seq : BitVec 32) : RemRec :=
  { r with ndisc := r.ndisc + 1, lastseq := if (r.lastseq - r.seq).toNat < (seq - r.seq).toNat then seq else r.lastseq }
/-- Counts a discarded operation of a lane: in its record, and in the core's copy once that is there (R159). -/
def State.countDiscard (s : State) (l : Lane) (seq : BitVec 32) : State :=
  let n := BitVec.ofNat 9 (s.numOf l.dst)
  let s := { s with lanes := s.lanes.map fun x =>
    if x.k = l.k ∧ x.gen = l.gen ∧ x.dst = l.dst then { x with broken := x.broken.map (·.bump seq) } else x }
  if l.delivered && (s.slot l.k).gen == l.gen then s.modSlot l.k fun t =>
    { t with recs := t.recs.map fun r => if r.dev = n then r.bump seq else r }
  else s
/-- The lane of a thread to a device. -/
def State.laneOf (s : State) (k : Nat) (gen : BitVec 16) (dst : Nat) : Option Lane :=
  s.lanes.find? fun l => l.k == k && l.gen == gen && l.dst == dst
/-- A remote fault record for a thread's operation (R159, R166). -/
def State.brokenRec (s : State) (e : SqEntry) (cause dst : Nat) : RemRec :=
  { va := e.va, cause := BitVec.ofNat 8 cause, dev := BitVec.ofNat 9 (s.numOf dst), seq := e.seq, lastseq := e.seq, ndisc := 0 }
/-- Puts an operation on its lane; one that is broken at the source discards it there (R158, R159). A lane with nothing unanswered
takes a path anew, and breaks where there is no route (R374, R375, R376). -/
def State.toLane (s : State) (e : SqEntry) : State :=
  let dst := devOfAddr e.pa
  let fresh : Lane := { k := e.k, gen := e.gen, dst := dst, flight := [e], acks := [], path := s.pathOf e.k dst, broken := none,
                        delivered := false, refused := false, begun := none }
  let lane := if s.routeUp (devOfSlot e.k) dst then fresh else { fresh with flight := [], broken := some (s.brokenRec e 0x18 dst) }
  match s.laneOf e.k e.gen dst with
  | some l =>
    if l.delivered then s.countDiscard l e.seq
    else { s with lanes := s.lanes.map fun x =>
      if x = l then (if l.flight.isEmpty && l.acks.isEmpty && l.broken.isNone then lane else { x with flight := x.flight ++ [e] }) else x }
  | none => { s with lanes := s.lanes ++ [lane] }

/-- The part of a store that writes one line, as an operation of its own (R265). -/
def SqEntry.part (e : SqEntry) (cells : List Host.Cell) (line : Nat) : SqEntry :=
  let o := line * 64 - e.pa
  { e with pa := e.pa + o, va := e.va + BitVec.ofNat 64 o, op := .store (cells.filter (·.1 / 64 == line)) }
/-- The oldest entry of a store queue leaves for a home on the own device: a store by one line at a time, in the order the next choice
says, updating the L1 copies it finds (R253, R265). -/
def State.depart (s : State) (c : Nat) (e : SqEntry) (rest : List SqEntry) : State :=
  let go := fun (s : State) (e : SqEntry) (sq : List SqEntry) =>
    { s.modCore c fun x => { x with sq := sq } with net := s.net ++ [{ id := e.id, k := e.k, gen := e.gen, pid := e.pid, kind := .op e }] }
  match e.op with
  | .store cells =>
    let lines := linesOf cells
    let r := if 2 ≤ lines.length then s.choose else (0, s)
    (match lines[r.1 % lines.length]? with
      | none => s.modCore c fun x => { x with sq := rest }
      | some line =>
        let p := e.part cells line
        let left := cells.filter (·.1 / 64 != line)
        let s := r.2.updateL1 c (cells.filter (·.1 / 64 == line))
        go s p (if left.isEmpty then rest else { e with id := e.id + 1, op := .store left } :: rest))
  | _ => go s e rest

/-- STORE_QUEUE_DEPART (R156): the oldest entry leaves for its home, or onto its lane. -/
def execStoreQueueDepart (s : State) : Res :=
  match s.ev with
  | some (.storeQueueDepart c) =>
    .next (match (s.core c).sq with
      | [] => s
      | e :: rest =>
        if devOfAddr e.pa = devOfCore c then s.depart c e rest
        else
          let s := s.modCore c fun x => { x with sq := rest }
          match s.heldNode e.k e.pa with
          | some p => s.holdFx p e.id (.msg { id := e.id, k := e.k, gen := e.gen, pid := e.pid, kind := .op e })
          | none => s.toLane e)
  | _ => .fault .noEvent

/-- The release tag of a message to a home. -/
def MsgKind.tag : MsgKind → Option RelTag
  | .op e => e.tag
  | .amo _ _ _ _ _ _ _ _ tag => tag
  | .stc _ _ _ _ _ tag => tag
  | .bar _ _ _ _ tag _ => tag
  | _ => none
/-- Whether a message may write at its home now: the operations that go before it are performed, those that a release covers too, and
no region holds a line (R156, R184, R260, R270). -/
def State.mayWrite (s : State) (m : Msg) : Bool :=
  !s.lineAhead m && !s.relHeld m.k m.id m.kind.tag && !(s.msgLines m.kind).any s.heldBySerial
/-- A message answered "moved" (R167). -/
def State.answerMoved (s : State) (id : Nat) : State :=
  { s with net := s.net.map fun m => if m.id = id then { m with kind := .moved m.kind 0 } else m }

/-- The acknowledgements of the write of some lines by an operation of thread `k`, or for it by a writer, where they are homed on another
die of the device (R256). -/
def State.ackFar (s : State) (k writer op : Nat) (lines : List Nat) : State :=
  lines.foldl (fun s line =>
    if devOfAddr (line * 64) = devOfSlot k ∧ s.homeDie (line * 64) ≠ dieOf (clusterOf k) ∧ !isLocalWin (localOfAddr (line * 64)) then
      s.send k (.ack line writer op)
    else s) s

/-- STORE_ORDER_AT_HOME (R255). -/
def execStoreOrderAtHome (s : State) : Res :=
  match s.ev with
  | some (.storeOrderAtHome id) =>
    .next (match s.msg id with
      | some m => (match m.kind with
          | .op e => (match e.op with
              | .store cells =>
                if s.isMoved e.pid e.pa then s.answerMoved id
                else if !s.mayWrite m then s
                else ((s.drop id).homeWrite e.key cells e.k e.tag).ackFar e.k e.k e.id (linesOf cells)
              | _ => s)
          | _ => s)
      | none => s)
  | _ => .fault .noEvent

/-- INVALIDATION_DELIVERY (R255): the oldest notification of a die reaches its cores; the writer's own L1 keeps its copy of a line
homed there, and the announcement of a store to a line homed elsewhere takes every copy (R256). -/
def execInvalidationDelivery (s : State) : Res :=
  match s.ev with
  | some (.invalidationDelivery die) =>
    .next (match (s.die die).notices with
      | .inval _ line w :: rest =>
        (s.modDie die fun d => { d with notices := rest }).dropLine line fun c =>
          dieOf (clusterOfCore c) == die && !(s.homeDie (line * 64) == die && s.sameL1 c (coreOf w))
      | _ => s)
  | _ => .fault .noEvent

/-- REMOTE_STORE_ACK (R256): the writing core announces the store on its own die. -/
def execRemoteStoreAck (s : State) : Res :=
  match s.ev with
  | some (.remoteStoreAck id) =>
    .next (match s.msg id with
      | some ⟨_, k, _, _, .ack line w _⟩ => (s.drop id).notify (dieOf (clusterOf k)) line w
      | _ => s)
  | _ => .fault .noEvent

/-- LEASE_EXPIRY (R256): a leased copy is dropped. -/
def execLeaseExpiry (s : State) : Res :=
  match s.ev with
  | some (.leaseExpiry c line) =>
    .next (s.modCore c fun x => { x with l1 := x.l1.filter fun l => !(l.pline == line && (match l.lease with
      | some e => decide (e < s.clock)
      | none => false)) })
  | _ => .fault .noEvent

/-! ### Atomics -/

/-- The bytes a posted operation touches. -/
def POp.size : POp → Nat
  | .store cells => cells.length
  | .amop _ w64 _ _ => amoSize w64
  | .famo b _ _ => if b then 2 else 4
/-- The cells a posted operation writes over what is at an address (R166). -/
def State.opCells (s : State) (key a : Nat) : POp → List Host.Cell
  | .store cells => cells
  | .amop op w64 _ b => cellsAt a (toBytes (amoSize w64) (op.apply w64 (s.numAt key a (amoSize w64)) b.toNat 0))
  | .famo false _ b => cellsAt a (toBytes 4 (fp32.add .rn (s.numAt key a 4) (b.toNat % 2 ^ 32)).1)
  | .famo true _ b => cellsAt a (toBytes 2 (bf16.add .rn (s.numAt key a 2) (b.toNat % 2 ^ 16)).1)
/-- A write at a home by an atomic, STC or barrier of a thread: its own L1 loses its copy with it. Only STC's is a store, which sets
the words of local memory full (R88, R169). -/
def State.atomicWrite (s : State) (key : Nat) (cells : List Host.Cell) (k id a : Nat) (tag : Option RelTag) (full : Bool := false) :
    State :=
  ((s.homeWrite key cells k tag full).dropLine (a / 64) fun c => s.sameL1 c (coreOf k)).ackFar k k id [a / 64]

/-- A posted operation that faults at a home on the thread's own device: its record is on its way (R166). Its seq and lastseq are the
thread's count of posted operations to other devices at its issue (log 48: DESIGN CHOICE; R158 numbers no others). -/
def State.ownFault (s : State) (e : SqEntry) (cause : Nat) : State :=
  { s with lanes := s.lanes ++ [{ k := e.k, gen := e.gen, dst := devOfSlot e.k, flight := [], acks := [], path := none,
                                  broken := some (s.brokenRec e cause (devOfSlot e.k)), delivered := false, refused := false,
                                  begun := none }] }

/-- The effect at the home of an atomic or an STC that is neither held nor moved; a router that refuses a posted one is heard of by a
record (R300); the thread of one to a local memory window waits for it (R88). -/
def State.atomicDo (s : State) (m : Msg) : State :=
  match m.kind with
  | .op e =>
    let done := fun (s' : State) => s'.reply s m.k m.id (.finish [])
    if s.walled (clusterOf e.k) e.pid e.pa then done (((s.drop m.id).ownFault e 7).countDrop (clusterOfWin e.pa))
    else match s.poisonOf e.key e.pa e.op.size with
      | some c => done (((s.drop m.id).verifyAll e.key e.pa e.op.size).ownFault e c)
      | none => done ((s.drop m.id).atomicWrite e.key (s.opCells e.key e.pa e.op) e.k e.id e.pa e.tag)
  | .amo op w64 va pa key d b old tag =>
    (match s.poisonOf key pa (amoSize w64) with
      | some c => ((s.drop m.id).verifyAll key pa 8).reply s m.k m.id (.fault c va)
      | none =>
        let x := s.numAt key pa (amoSize w64)
        ((s.drop m.id).atomicWrite key (cellsAt pa (toBytes (amoSize w64) (op.apply w64 x b.toNat old.toNat))) m.k m.id pa tag).reply
          s m.k m.id (.finish [.g d (op.result w64 x)]))
  | .stc va pa key d x tag =>
    (match s.poisonOf key pa 8 with
      | some c => ((s.drop m.id).verifyAll key pa 8).reply s m.k m.id (.fault c va)
      | none =>
        if (s.slot m.k).resv.any fun r => r.line == pa / 64 && !r.written then
          ((s.drop m.id).atomicWrite key (cellsAt pa (toBytes 8 x.toNat)) m.k m.id pa tag true).reply s m.k m.id
            (.finish [.g d 0, .unresv (pa / 64)])
        else (s.drop m.id).reply s m.k m.id (.finish [.g d 1, .unresv (pa / 64)]))
  | _ => s

/-- The address and the partition of a message to a home. -/
def State.homeOf (s : State) (m : Msg) : Option (Nat × Nat) :=
  match m.kind with
  | .op e => some (e.pa, e.pid)
  | .amo _ _ _ pa .. => some (pa, s.pidOf (clusterOf m.k))
  | .stc _ pa .. => some (pa, s.pidOf (clusterOf m.k))
  | .bar _ pa .. => some (pa, s.pidOf (clusterOf m.k))
  | .region _ line .. => some (line * 64, s.pidOf (clusterOf m.k))
  | _ => none

/-- A held message as it is sent when its node commits: the STC that was answered with success is a store (R385). -/
def State.asHeld (s : State) (m : Msg) : Msg :=
  match m.kind with
  | .stc va pa key _ x tag =>
    let e : SqEntry := { id := m.id, k := m.k, gen := m.gen, va := va, pa := pa, op := .store (cellsAt pa (toBytes 8 x.toNat)), tag := tag,
                         pid := m.pid, cls := (s.slot m.k).cls.toNat, key := key, seq := 0 }
    { m with kind := .op e }
  | _ => m
/-- The acknowledgement of a held atomic, STC or barrier operation, as if it were performed (R385): what it would read is open. -/
def State.heldReply (s : State) (m : Msg) : State :=
  match m.kind with
  | .bar _ _ _ (.init _) _ _ => s.reply s m.k m.id (.finish [])
  | .bar _ _ _ (.arrive d thenWait) _ _ =>
    let r := s.free
    if thenWait then
      (if (s.slot m.k).park.any (·.wait == .reply m.id) then
        let x := r.1
        (r.2.modSlot m.k fun t =>
          { t.wr d x with arrv := true, src := t.src.map fun g => if d = 0 then g else g.set d (GReg.of x) }).reply s m.k m.id .reissue
       else s)
    else r.2.reply s m.k m.id (.finish [.g d r.1])
  | .amo _ w64 _ _ _ d _ _ _ =>
    let r := s.free
    r.2.reply s m.k m.id (.finish [.g d (if w64 then r.1 else r.1 &&& 0xFFFFFFFF)])
  | .stc _ pa _ d _ _ => s.reply s m.k m.id (.finish [.g d 0, .unresv (pa / 64)])
  | _ => s
/-- The node that holds back an atomic, an STC, or the setting of a barrier or an arrival at it: the thread is still that which sent it
(R385). -/
def State.heldAtomic (s : State) (m : Msg) (a : Nat) : Option Placed :=
  if (s.slot m.k).gen != m.gen then none
  else match m.kind with
    | .amo .. => s.heldNode m.k a
    | .bar _ _ _ (.init _) _ _ => s.heldNode m.k a
    | .bar _ _ _ (.arrive ..) _ _ => s.heldNode m.k a
    | .stc _ _ _ _ _ _ =>
      if (s.slot m.k).resv.any fun r => r.line == a / 64 && !r.written then s.heldNode m.k a else none
    | _ => none

/-- ATOMIC_AT_HOME (R165-R169, R385). -/
def execAtomicAtHome (s : State) : Res :=
  match s.ev with
  | some (.atomicAtHome id) =>
    .next (match s.msg id with
      | some m => (match s.homeOf m with
          | some (a, pid) => (match s.heldAtomic m a with
              | some p => ((s.drop id).holdFx p id (.msg (s.asHeld m))).heldReply m
              | none => if s.isMoved pid a then s.answerMoved id else if !s.mayWrite m then s else s.atomicDo m)
          | none => s)
      | none => s)
  | _ => .fault .noEvent

/-- A message as it is reissued to a new address and key (R167). -/
def MsgKind.rebase (m : MsgKind) (a key : Nat) : MsgKind :=
  match m with
  | .op e => .op { e with op := e.op.rebase e.pa a, pa := a, key := key }
  | .amo o w64 va _ _ d b old tag => .amo o w64 va a key d b old tag
  | .stc va _ _ d x tag => .stc va a key d x tag
  | .bar va _ _ o tag acq => .bar va a key o tag acq
  | .region rid _ _ lo hi (.read d va _ n sg) => .region rid (a / 64) key lo hi (.read d va a n sg)
  | .region rid _ _ lo hi (.write va) => .region rid (a / 64) key lo hi (.write va)
  | m => m
/-- The virtual address of a message to a home. -/
def MsgKind.va : MsgKind → Word
  | .op e => e.va
  | .amo _ _ va .. => va
  | .stc va .. => va
  | .bar va .. => va
  | .region _ _ _ _ _ (.read _ va ..) => va
  | .region _ _ _ _ _ (.write va) => va
  | _ => 0
/-- The end of a reissue whose page no longer translates, or is refused: its thread traps; the thread of a store, which R157 says never
faults later, or of a posted atomic gets a record of it (log 48: DESIGN CHOICE; the spec says nothing of a store answered "moved" whose
new page does not admit it). -/
def State.movedFault (s : State) (m : Msg) (k : MsgKind) (cause : Nat) : State :=
  match k with
  | .op e => ((s.drop m.id).ownFault e cause).reply s m.k m.id (.finish [])
  | k => (s.drop m.id).reply s m.k m.id (.fault cause k.va)
/-- The class that a message carries to another device (R313). -/
def State.msgCls (s : State) (m : Msg) (k : MsgKind) : Nat :=
  match k with
  | .op e => e.cls
  | _ => (s.slot m.k).cls.toNat

/-- MOVED_ANSWER (R167, R268, R320): the issuing core translates again, stage 2 of another device with the class of the request, and
reissues; a frozen leaf is read again 256 clocks later. -/
def execMovedAnswer (s : State) : Res :=
  match s.ev with
  | some (.movedAnswer id) =>
    .next (match s.msg id with
      | some m => (match m.kind with
          | .moved k _ =>
            let c := coreOf m.k
            let asid := (s.slot m.k).asid.toNat
            let set := fun (s : State) (kind : MsgKind) =>
              { s with net := s.net.map fun x => if x.id = id then { x with kind := kind } else x }
            (match ((s.rereadAt c asid k.va.toNat).translate c asid k.va.toNat).bind fun e =>
                (e.2.resolve e.1 k.va.toNat (some (s.msgCls m k))).bind fun p => .ok (p, e.2) with
              | .frozen => set s (.moved k (s.clock + 256))
              | .fault c => s.movedFault m k c
              | .ok (e, s) =>
                let a := e.pa k.va.toNat
                if !s.mayReach (clusterOf m.k) a then s.movedFault m k 7
                else if !s.routeUp (devOfSlot m.k) e.dev then s.movedFault m k 0x18
                else if s.walled (clusterOf m.k) (s.pidOf (clusterOf m.k)) a then (s.movedFault m k 7).countDrop (clusterOfWin a)
                else
                  let s := set s (k.rebase a e.key)
                  match k, (s.slot m.k).region with
                  | .region .., some r => (match s.rehome m.k r with
                      | .ok s => s
                      | _ => s)
                  | _, _ => s)
          | _ => s)
      | none => s)
  | _ => .fault .noEvent

/-! ### Lanes -/

/-- Changes the lane of an index. -/
def State.modLane (s : State) (i : Nat) (f : Lane → Lane) : State :=
  { s with lanes := s.lanes.mapIdx fun j l => if j = i then f l else l }
/-- Lanes with nothing left to do, or whose thread is gone, are forgotten. -/
def State.tidyLanes (s : State) : State :=
  { s with lanes := s.lanes.filter fun l =>
      !(l.flight.isEmpty && l.acks.isEmpty && (l.broken.isNone || (s.slot l.k).gen != l.gen)) }

/-- The poison that a posted store meets: of a line that it does not write whole (R111). -/
def State.storePoison (s : State) (key : Nat) (cells : List Host.Cell) : Option Nat :=
  (linesOf cells).findSome? fun line =>
    if ((cells.filter fun c => c.1 / 64 == line).map (·.1)).eraseDups.length = 64 then none else s.badLine key line

/-- Whether the class, the stage 2 and the router of the destination let a posted operation be applied: its address and key, a fault,
or a wait, after which the stage 2 is read again (R158, R300, R313, R320). -/
def State.postedPage (s : State) (l : Lane) (e : SqEntry) : Tr (Nat × Nat) :=
  (s.stage2 l.dst e.pid (some e.cls) (localOfAddr e.pa)).bind fun x =>
    let a := addrOf l.dst (x.frame + localOfAddr e.pa % 2 ^ x.szlog)
    let op := e.op.rebase e.pa a
    if s.walled (clusterOf l.k) e.pid a then .fault 7
    else if s.isMoved e.pid a || op.lines.any s.heldBySerial || s.relHeld e.k e.id e.tag then .frozen
    else match op with
      | .store cells => match s.storePoison x.key cells with
        | some c => .fault c
        | none => .ok (a, x.key)
      | _ => match s.poisonOf x.key a e.op.size with
        | some c => .fault c
        | none => .ok (a, x.key)
/-- What the destination counts with the fault of a posted operation: a message that its router dropped, a check that failed (R110,
R300). -/
def State.postedCounts (s : State) (l : Lane) (e : SqEntry) : State :=
  match s.stage2 l.dst e.pid (some e.cls) (localOfAddr e.pa) with
  | .ok x =>
    let a := addrOf l.dst (x.frame + localOfAddr e.pa % 2 ^ x.szlog)
    if s.walled (clusterOf l.k) e.pid a then s.countDrop (clusterOfWin a)
    else (e.op.rebase e.pa a).lines.foldl (fun s l => s.verify x.key l) s
  | _ => s
/-- The same for the rest of an operation whose first piece has been performed: it goes on where it began, or where its page has moved to,
whatever has become of the page and the line since (R265, R267). -/
def State.postedRest (s : State) (l : Lane) (e : SqEntry) : Tr (Nat × Nat) :=
  match l.begun, s.postedPage l e with
  | some ak, .fault _ => .ok ak
  | _, r => r
/-- Whether an address lies in a piece of 32 bytes, or in its line where the line is a `whole` one. -/
def inPiece (whole : Nat → Bool) (b x : Nat) : Bool := x / 32 == b || (whole x && x / 64 == b / 2)
/-- The piece of an operation that is performed now, and what is left of it: a store from another device goes by pieces of 32 bytes,
in the order the next choice says, but by whole lines where the line is poisoned, since a full-line write replaces it (R60, R111,
R265). -/
def POp.piece (o : POp) (whole : Nat → Bool) (i : Nat) : POp × Option POp :=
  match o with
  | .store cells =>
    let bs := (cells.map (·.1 / 32)).eraseDups
    let b := bs.getD (i % bs.length) 0
    let left := cells.filter (!inPiece whole b ·.1)
    (.store (cells.filter (inPiece whole b ·.1)), if left.isEmpty then none else some (.store left))
  | o => (o, none)
/-- Whether an address that an operation names for the destination lies in a line that is poisoned or fails its check at its home. -/
def SqEntry.badAt (s : State) (e : SqEntry) (key a x : Nat) : Bool := (s.badLine key ((x - e.pa + a) / 64)).isSome

/-- POSTED_OP_APPLY (R158, R159): the oldest operation of a lane is performed, or breaks the lane, or is discarded. -/
def execPostedOpApply (s : State) : Res :=
  match s.ev with
  | some (.postedOpApply i) =>
    .next (match s.lanes[i]? with
      | some l => (match l.flight with
          | [] => s
          | e :: rest =>
            if l.broken.isSome then s.modLane i fun l => { l with flight := rest, acks := l.acks ++ [(e.id, some e.seq)] }
            else match s.postedRest l e with
              | .frozen => s
              | .fault c =>
                let r := s.brokenRec e c l.dst
                (s.postedCounts l e).modLane i fun l => { l with flight := rest, broken := some r }
              | .ok (a, key) =>
                let r := match e.op with
                  | .store (_ :: _ :: _) => s.choose
                  | _ => (0, s)
                let p := e.op.piece (e.badAt s key a) r.1
                let full := !e.op.isAtomic
                (r.2.homeWrite key (s.opCells key a (p.1.rebase e.pa a)) e.k e.tag full).modLane i fun l => match p.2 with
                  | some op => { l with flight := { e with op := op } :: rest, begun := some (a, key) }
                  | none => { l with flight := rest, acks := l.acks ++ [(e.id, none)], begun := none })
      | none => s)
  | _ => .fault .noEvent

/-- POSTED_ACK (R158, R159). -/
def execPostedAck (s : State) : Res :=
  match s.ev with
  | some (.postedAck i) =>
    .next (match s.lanes[i]? with
      | some l => (match l.acks with
          | [] => s
          | a :: rest =>
            let s := match a.2 with
              | some seq => s.countDiscard l seq
              | none => s
            (s.modLane i fun l => { l with acks := rest }).tidyLanes)
      | none => s)
  | _ => .fault .noEvent

/-- REMOTE_FAULT_RECORD (R159): the record reaches the core, or finds no room. -/
def execRemoteFaultRecord (s : State) : Res :=
  match s.ev with
  | some (.remoteFaultRecord i) =>
    .next (match s.lanes[i]? with
      | some l => (match l.broken with
          | none => s
          | some r =>
            let t := s.slot l.k
            if l.delivered || l.refused then s
            else if t.gen ≠ l.gen then (s.modLane i fun l => { l with delivered := true }).tidyLanes
            else if recMax ≤ t.recs.length then s.modLane i fun l => { l with refused := true }
            else
              let s := s.modSlot l.k fun t => { t with recs := t.recs ++ [r] }
              if l.dst = devOfSlot l.k then { s with lanes := s.lanes.eraseIdx i }
              else s.modLane i fun l => { l with delivered := true })
      | none => s)
  | _ => .fault .noEvent

/-- REMOTE_RECORD_RESEND (R159): the destination sends a record again once there is room. -/
def execRemoteRecordResend (s : State) : Res :=
  match s.ev with
  | some (.remoteRecordResend i) => .next (s.modLane i fun l => { l with refused := false })
  | _ => .fault .noEvent

/-! ### Barriers (R176, R177) -/

/-- The 16 bytes of a barrier record. -/
def barBytes (n arrivals phase : Nat) : List Byte := toBytes 4 n ++ toBytes 4 arrivals ++ toBytes 8 phase

/-- A barrier operation at its home. -/
def State.barDo (s : State) (m : Msg) : State :=
  match m.kind with
  | .bar va pa key o tag acq =>
    (match s.poisonOf key pa 16 with
      | some c => ((s.drop m.id).verifyAll key pa 16).reply s m.k m.id (.fault c va)
      | none =>
        let n := s.numAt key pa 4
        let arr := s.numAt key (pa + 4) 4
        let ph := s.numAt key (pa + 8) 8
        match o with
        | .init b =>
          ((s.drop m.id).atomicWrite key (cellsAt pa (barBytes (b.toNat % 2 ^ 32) 0 0)) m.k m.id pa tag).reply s m.k m.id (.finish [])
        | .arrive d thenWait =>
          let last := decide (n ≤ arr + 1)
          let bs := if last then barBytes n 0 (ph + 1) else barBytes n (arr + 1) ph
          let s0 := s
          let s := (s.drop m.id).atomicWrite key (cellsAt pa bs) m.k m.id pa tag
          let x := BitVec.ofNat 64 ph
          if thenWait then
            (if (s.slot m.k).park.any (·.wait == .reply m.id) then
              (s.modSlot m.k fun t => { t.wr d x with arrv := true, src := t.src.map fun g => if d = 0 then g else g.set d (GReg.of x) }).reply s0 m.k
                m.id .reissue
             else s)
          else s.reply s0 m.k m.id (.finish [.g d x])
        | .test d b =>
          let s' := s.drop m.id
          if ph = b.toNat then s'.reply s m.k m.id (.finish [.g d 0])
          else match acq with
            | none => s'.reply s m.k m.id (.finish [.g d 1])
            | some i => match s'.tooNarrow m.k (pa / 64) i with
              | some t =>
                let id := s'.nextId
                let via := s'.viaOf m.k (devOfCore t.core) va
                (s'.send m.k (.scopeMiss (pa / 64) t (devOfSlot m.k) 0)).modSlot m.k fun t =>
                  { t with park := t.park.map fun p =>
                      if p.wait = .reply m.id then { p with wait := .reply id, rest := .reissue, via := via } else p }
              | none => s'.reply s m.k m.id (.finish (.g d 1 :: acqWr (s'.levelOf (coreOf m.k) i))))
  | _ => s

/-- BARRIER_AT_HOME (R176). -/
def execBarrierAtHome (s : State) : Res :=
  match s.ev with
  | some (.barrierAtHome id) =>
    .next (match s.msg id with
      | some m => (match s.homeOf m with
          | some (a, pid) => (match s.heldAtomic m a with
              | some p => ((s.drop id).holdFx p id (.msg m)).heldReply m
              | none => if s.isMoved pid a then s.answerMoved id else if !s.mayWrite m then s else s.barDo m)
          | none => s)
      | none => s)
  | _ => .fault .noEvent

/-! ### Full/empty waiters (R161) -/

/-- The oldest waiter of a bank that the state of its word lets through. -/
def State.feNext (s : State) (word : Nat) : Option (Nat × BankWait) :=
  s.clusters.findSome? fun e => (e.2.bank.find? fun b => b.word == word && b.full == s.wordFull (word * 8)).map fun b => (e.1, b)

/-- One waiter's operation is performed at its bank, or traps at a poisoned word; its reply takes the rest of the access's 14 clocks
(R111, R161). -/
def State.feServe (s : State) (ck : Nat) (b : BankWait) : State :=
  let pa := b.word * 8
  let s := s.modCluster ck fun c => { c with bank := c.bank.erase b }
  let ends := fun (s : State) (r : Rest) => s.modSlot b.k fun t =>
    { t with park := t.park.map fun p => { p with wait := .time (p.since + 14), rest := r, exempt := true } }
  match if b.store.isSome then none else s.poisonOf 0 pa 8 with
  | some c => ends (s.verifyAll 0 pa 8) (.fault c b.la)
  | none =>
    let ws := if b.store.isSome then [] else [Wr.g b.d (BitVec.ofNat 64 (s.plainAt pa 8))]
    ends (s.feDo b.k pa b.store b.tag b.leave) (.finish ws)
/-- The requests that find their word in the wrong state are parked under cause 3 from then on (R161). -/
def State.feWrong (s : State) (word : Nat) : State :=
  s.clusters.foldl (fun s e => e.2.bank.foldl (fun s b =>
    if b.word = word ∧ b.full ≠ s.wordFull (word * 8) then s.modSlot b.k fun t => { t with park := t.park.map fun p => { p with cause := 3 } }
    else s) s) s

/-- FE_WAITER_SERVICE (R161). -/
def execFeWaiterService (s : State) : Res :=
  match s.ev with
  | some (.feWaiterService word) =>
    .next ((match s.feNext word with
      | none => s
      | some (ck, b) => s.feServe ck b).feWrong word)
  | _ => .fault .noEvent

/-! ### Scope-misses (R262, R263) -/

/-- SCOPE_MISS_MESSAGE (R262): it reaches the writer's core, which waits for what it has accepted so far. -/
def execScopeMissMessage (s : State) : Res :=
  match s.ev with
  | some (.scopeMissMessage id) =>
    .next (match s.msg id with
      | some m => (match m.kind with
          | .scopeMiss line tag dev _ =>
            { (s.drop id).modCore tag.core fun c =>
                { c with misses := c.misses ++ [{ m with kind := .scopeMiss line tag dev s.nextId }] } with nextId := s.nextId + 1 }
          | _ => s)
      | none => s)
  | _ => .fault .noEvent

/-- The device that stands for every device: the repair before a tagged line's eviction is for an acquire from outside every scope
(R263). -/
def anyDev : Nat := 512
/-- Whether what a scope-miss waits for at a core is done (R262 step 4): the stores that its L1 has accepted, its own and those that it
has shown to the writer, performed at device level, for another device at span level with the posted operations to it. -/
def State.missMet (s : State) (c dev upto : Nat) : Bool :=
  let own := fun (e : SqEntry) => s.sameL1 (coreOf e.k) c && decide (e.id < upto) && devOfAddr e.pa == devOfCore c
  let to_ := fun (d : Nat) => dev == anyDev || d == dev
  !(s.core c).sq.any own && (s.net.all fun m => match m.kind with
    | .op e => !own e
    | .moved (.op e) _ => !own e
    | .ack _ _ op => !(s.sameL1 (coreOf m.k) c && decide (op < upto))
    | _ => true) &&
  (dev == devOfCore c ||
    (!((s.core c).sq.any fun e => decide (e.id < upto) && devOfAddr e.pa != devOfCore c && to_ (devOfAddr e.pa)) &&
     s.lanes.all fun l => !s.sameL1 (coreOf l.k) c || !to_ l.dst || ((l.flight.all fun e => decide (upto ≤ e.id)) &&
       l.acks.all fun a => decide (upto ≤ a.1))))

/-- The scope-misses for a tag of a line, among those at a core and on their way to it, whose own waits are over: they are answered
together (R262). -/
def State.missesMet (s : State) (c line : Nat) (tag : RelTag) : List Nat :=
  let met := fun (m : Msg) (here : Bool) => match m.kind with
    | .scopeMiss l t dev upto => l == line && t == tag && s.missMet c dev (if here then upto else s.nextId)
    | _ => false
  (((s.core c).misses.filter (met · true)) ++ s.net.filter (met · false)).map (·.id)
/-- Clears a tag of a line, and takes the answered scope-misses away (R262 step 5). -/
def State.clearTag (s : State) (c line : Nat) (tag : RelTag) (ids : List Nat) : State :=
  let tags := if (s.tags.find? (·.1 == line)).map (·.2) = some tag then s.tags.del line else s.tags
  { s with net := s.net.filter (fun x => !ids.contains x.id), tags := tags }.modCore c fun x =>
    { x with misses := x.misses.filter fun y => !ids.contains y.id }
/-- The threads that wait for replies to some messages are answered. -/
def State.answerAll (s : State) (ids : List Nat) : State :=
  let told := fun (p : Park) => match p.wait with
    | .reply id => if ids.contains id then { p with wait := .latency } else p
    | _ => p
  { s with slots := s.slots.map fun e => (e.1, { e.2 with park := e.2.park.map told }) }

/-- SCOPE_MISS_ANSWER (R26, R262): an issue turn of the handler: the oldest scope-miss of a core, once its wait is over, clears its
tag and is answered, with the others for the tag whose waits are over too. -/
def execScopeMissAnswer (s : State) : Res :=
  match s.ev with
  | some (.scopeMissAnswer c) =>
    .next (match (s.core c).misses with
      | [] => s
      | m :: _ => (match m.kind with
          | .scopeMiss line tag dev upto =>
            if !s.missMet c dev upto then s
            else
              let ids := s.missesMet c line tag
              (s.clearTag c line tag ids).answerAll ids
          | _ => s))
  | _ => .fault .noEvent

/-- TAG_EVICTION_REPAIR (R263): a scope-miss for a tagged line, as by an acquire from outside every scope. -/
def execTagEvictionRepair (s : State) : Res :=
  match s.ev with
  | some (.tagEvictionRepair line) =>
    .next (match s.tags.find? (·.1 == line) with
      | some (_, t) => s.send (t.core * 16) (.scopeMiss line t anyDev 0)
      | none => s)
  | _ => .fault .noEvent

/-! ### Grants (R392) -/

/-- GRANT_INVALIDATION (R107, R392): a core drops its copies of the revoked entries. -/
def execGrantInvalidation (s : State) : Res :=
  match s.ev with
  | some (.grantInvalidation c) =>
    let pas := (s.revokes.filter (·.2 == c)).map (·.1)
    .next ({ s with revokes := s.revokes.filter (·.2 != c) }.modCore c fun x =>
      { x with grants := x.grants.filter fun g => !pas.contains g.pa })
  | _ => .fault .noEvent

end Sys2Proof.Machine
end

