-- ==== Sys2Proof/Machine/Regions.lean ====
section
/-! DEFINITION. The events of elastic regions: accesses at the home slice (R179, R180), narrowings (R287), broadcast turns and
final positions (R182, R184, R270), the serial token (R184). -/

namespace Sys2Proof.Machine

/-- A region access is answered: one less is out. -/
def State.regionAnswered (s : State) (k : Nat) : State := s.modRegion k fun r => { r with out := r.out - 1 }

/-- A region access at its home slice: the narrowings, and the answer with what its read returns (R179, R180). -/
def State.regionDo (s : State) (m : Msg) : State :=
  match m.kind with
  | .region rid line key lo hi acc =>
    (match s.regionSlot rid with
      | none => s.drop m.id
      | some k =>
        match acc with
        | .write _ => ((s.drop m.id).atSlice rid line lo hi true).regionAnswered k
        | .read d va pa n signed =>
          let s := ((s.drop m.id).atSlice rid line lo hi false).regionAnswered k
          (match s.poisonOf key pa n, (s.slot k).region with
            | some c, _ => (s.verifyAll key pa n).reply s k m.id (.fault c va)
            | none, some r => s.reply s k m.id (.finish [.g d (extend signed n (ofBytes (s.regionBytes r key pa n)))])
            | none, none => s))
  | _ => s

/-- Whether a region whose final position is on its way has touched a line in a way that conflicts with an access. -/
def State.finalAhead (s : State) (line : Nat) (write : Bool) : Bool :=
  (s.die (s.homeDie (line * 64))).notices.any fun n => match n with
    | .final _ _ _ _ _ _ _ wl rl => wl.has line || (write && rl.contains line)
    | _ => false

/-- REGION_ACCESS_AT_SLICE (R180): after the thread's earlier operations to the line (R156); an access of a serial region
waits for a conflicting final position that is on its way, since it takes place after it and never aborts with code 1
(R184, R270; DEDUCED). -/
def execRegionAccessAtSlice (s : State) : Res :=
  match s.ev with
  | some (.regionAccessAtSlice id) =>
    .next (match s.msg id with
      | some m => (match m.kind with
          | .region rid line _ _ _ acc =>
            let write := match acc with
              | .write _ => true
              | .read .. => false
            if s.isMoved (s.pidOf (clusterOf m.k)) (line * 64) then s.answerMoved id
            else if s.lineAhead m || (s.isSerial rid && s.finalAhead line write) then s else s.regionDo m
          | _ => s)
      | none => s)
  | _ => .fault .noEvent

/-- NARROWING_ARRIVAL (R180, R287): every narrowing sent to a core is applied, and then the empty intervals abort. -/
def execNarrowingArrival (s : State) : Res :=
  match s.ev with
  | some (.narrowingArrival c) =>
    let ns := (s.core c).narrow
    let s := s.modCore c fun x => { x with narrow := [] }
    let s := ns.foldl (fun s n => match s.regionSlot n.1 with
      | some k => s.narrow k n.2.1 n.2.2.1
      | none => s) s
    .next ((slotsOf c).foldl State.testEmpty s)
  | _ => .fault .noEvent

/-- BROADCAST_TURN_GRANT (R182): the oldest request gets the turn and commits; a region that has come behind an open serial
region waits again (R184), and so does one with a written line whose page is moving (R320). -/
def execBroadcastTurnGrant (s : State) : Res :=
  match s.ev with
  | some (.broadcastTurnGrant die) =>
    .next (match (s.die die).turnOf, (s.die die).turnQ with
      | none, k :: rest =>
        let s := s.modDie die fun d => { d with turnQ := rest }
        let again := fun (s : State) => s.modSlot k fun t => { t with park := t.park.map fun p => { p with wait := .answers } }
        match (s.slot k).region with
        | none => s
        | some r =>
          if !s.commitReady k r then again s
          else match s.rehome k r with
            | .ok s =>
              if (((s.slot k).region.map (·.wlines)).getD []).any fun e => s.homeDie (e.1 * 64) != die then s.abortAt k 3 1
              else (s.modDie die fun d => { d with turnOf := some k }).commitNow k
            | _ => again s
      | _, _ => s)
  | _ => .fault .noEvent

/-- The bytes of a commit take their place at their homes, under their keys, the rest of a line verified where a part of it is written
(R110); every other copy on the die goes (R182, R270). -/
def State.commitLine (s : State) (core : Nat) (tag : Option RelTag) (cells : List Host.Cell) (line key : Nat) : State :=
  let mine := cells.filter fun c => c.1 / 64 == line
  let whole := (mine.map (·.1)).eraseDups.length == 64
  let s := ((if whole then s else s.verify key line).writeLine key mine line).setFull (mine.filter fun c => isLocalWin (localOfAddr c.1))
  let s := { s with poison := if whole then s.poison.del line else s.poison,
                    checks := s.checks.del line,
                    tags := match tag with
                      | some t => s.tags.set line t
                      | none => s.tags.del line }
  ((s.markResv line).dropLine line fun c =>
    dieOf (clusterOfCore c) == dieOf (clusterOfCore core) && !s.sameL1 c core).updateL1 core mine

/-- The records of a die after a commit at F: WP on the written lines, RP on the read ones, the commit clock (R182). -/
def Die.commit (d : Die) (f : Nat) (wl rl : List Nat) : Die :=
  let d := wl.foldl (fun d l => d.setRec { d.lineRec l with wp := f }) d
  let d := rl.foldl (fun d l => d.setRec { d.lineRec l with rp := max (d.lineRec l).rp f }) d
  { d with cc := max d.cc (f + 1), turnOf := none }

/-- What a final position narrows along its edges (R182, R184): regions after it to lo ≥ F + 1, those before it, unless serial, to
hi ≤ F - 1; all of them, and those before it beside. -/
def State.settle (s : State) (die rid f : Nat) : List Nat × List Nat × State :=
  (s.die die).edges.foldl (fun r e =>
    if e.r1 = rid then (match r.2.2.regionSlot e.r2 with
      | some k => (k :: r.1, r.2.1, r.2.2.narrow k (f + 1) (2 ^ 48 - 1))
      | none => r)
    else if e.r2 = rid then (match r.2.2.regionSlot e.r1 with
      | some k => if r.2.2.isSerial e.r1 then r else (k :: r.1, k :: r.2.1, r.2.2.narrow k 0 (f - 1))
      | none => r)
    else r) ([], [], s)

/-- The open regions that have read a line which a serial region's commit writes: they come after it, so what they read is no
longer current (R184, R270). -/
def State.hitBySerial (s : State) (die rid : Nat) (wl : List Nat) : List Nat :=
  (((s.die die).lines.filter fun l => wl.contains l.line).flatMap (·.readers)).eraseDups.filterMap fun y =>
    if y = rid then none else s.regionSlot y
/-- A region that an edge places before one that commits, or whose reads a serial commit overwrites, and whose interval all narrowings
leave open: it can take effect no more, and its interval is emptied (R182, R184, R270; log 21: DEDUCED). -/
def State.overtaken (s : State) (k : Nat) : State :=
  if (s.slot k).ebhi < (s.slot k).eblo then s else s.narrow k 1 0

/-- FINAL_POSITION_BROADCAST (R182): the oldest notification of a die, when it is a final position. What it narrows and what has
arrived by this clock is applied before the empty intervals abort (R287). -/
def execFinalPositionBroadcast (s : State) : Res :=
  match s.ev with
  | some (.finalPositionBroadcast die) =>
    .next (match (s.die die).notices with
      | .final _ rid f core serial tag cells wl rl :: rest =>
        let s := s.modDie die fun d => { d with notices := rest }
        let s := wl.foldl (fun s e => s.commitLine core tag cells e.1 e.2) s
        let r := s.settle die rid f
        let hits := if serial then r.2.2.hitBySerial die rid (wl.map (·.1)) else []
        let s := (r.2.2.modDie die fun d => d.commit f (wl.map (·.1)) rl).leaveDie die rid
        let ks := (r.1 ++ hits).eraseDups
        let s := ks.foldl (fun s k => match (s.slot k).region with
          | some x => s.applyNarrows k x.id
          | none => s) s
        let s := (r.2.1 ++ hits).eraseDups.foldl State.overtaken s
        (ks.foldl State.testEmpty s).dropRecs die
      | _ => s)
  | _ => .fault .noEvent

/-- SERIAL_TOKEN_GRANT (R184): the die's token goes to the oldest request. -/
def execSerialTokenGrant (s : State) : Res :=
  match s.ev with
  | some (.serialTokenGrant die) =>
    .next (match (s.die die).token, (s.die die).tokenQ with
      | none, k :: rest => (s.modDie die fun d => { d with token := some k, tokenQ := rest }).wake k
      | _, _ => s)
  | _ => .fault .noEvent

end Sys2Proof.Machine
end

