-- ==== Sys2Proof/Machine/ArrayRun.lean ====
section
/-! DEFINITION. The events of gangs (R42, R45, R214), of the array slices (R209-R220), of the Accord (R224) and of the
Diffuser (R227). A start falls on the clock of the state, before the issue turns of that clock. -/

namespace Sys2Proof.Machine

/-- Takes written lines out of the L1s of the cluster that wrote them, and announces on its die those homed elsewhere; a slot stands
for the sender, a writer for the job (R237, R256, R269). -/
def State.jobWrote (s : State) (ck k writer op : Nat) (lines : List Nat) : State :=
  (lines.foldl (fun s l => s.dropLine l fun c => clusterOfCore c == ck) s).ackFar k writer op lines
/-- Writes bytes of a job or a slice (R237). -/
def State.jobWrite (s : State) (ck key a : Nat) (bs : List Byte) (k writer op : Nat) (tag : Option RelTag) : State :=
  (s.homeWrite key (cellsAt a bs) writer tag).jobWrote ck k writer op (linesOf (cellsAt a bs))

/-! ### Completion of a slice's instruction (R211) -/

/-- Where the status word of a core's slice stands, in an open elastic gang (R211): its virtual address, address and key. -/
def State.statAt (s : State) (c : Nat) : Option (Nat × Nat × Nat) :=
  match (s.cluster (clusterOfCore c)).gang with
  | some g => (g.stat.find? fun e => e.1 == c % 8).map (·.2)
  | none => none
/-- The status word of a slice (R211). -/
def Slice.statWord (x : Slice) : Nat := x.done % 2 ^ 32 + (if x.idle then 2 ^ 32 else 0)
/-- Writes a slice's status word, as a release at cluster scope (R211). -/
def State.writeStat (s : State) (c : Nat) : State :=
  match s.statAt c with
  | some (_, pa, key) => s.jobWrite (clusterOfCore c) key pa (toBytes 8 (s.slice c).statWord) (16 * c) jobWriter s.nextId
      (some { scope := .cluster (clusterOfCore c), core := c })
  | none => s
/-- Whether a status word cannot be written now: a region or a move holds its line (R184, R270, R320). -/
def State.statHeld (s : State) (c : Nat) : Bool :=
  match s.statAt c with
  | some (_, pa, _) => s.heldBySerial (pa / 64) || s.isMoved (s.pidOf (clusterOfCore c)) pa
  | none => false
/-- A status word whose write is answered "moved" is translated again (R320); while its leaf is frozen, or where its page is gone,
it stays held. -/
def State.statMoved (s : State) (c : Nat) : State :=
  let ck := clusterOfCore c
  match s.statAt c, ((s.cluster ck).gang.bind fun g => g.members.find? fun m => m.1 == c % 8) with
  | some (va, pa, _), some (_, k) =>
    if !s.isMoved (s.pidOf ck) pa then s
    else match s.dataPage c (s.slot k).asid.toNat va with
      | .ok (e, s) => s.modCluster ck fun x => { x with gang := x.gang.map fun g => { g with stat := g.stat.map fun y =>
          if y.1 == c % 8 then (y.1, va, e.pa va, e.key) else y } }
      | _ => s
  | _, _ => s
/-- An instruction of a slice has completed (R211): the count, the status word, a broken gang's close. -/
def State.sliceDone (s : State) (c : Nat) : State :=
  ((s.modSlice c fun x => { x with done := x.done + 1 }).writeStat c).closeGang (clusterOfCore c)

/-! ### Opening a gang (R42, R211) -/

/-- The eight arrivals at a cluster, by core, when all are in and no gang is open. -/
def State.arrivals (s : State) (ck : Nat) : Option (List GangArr) :=
  let as := (coresIn ck).filterMap fun c => (s.core c).gangArr
  if as.length = 8 ∧ (s.cluster ck).gang.isNone then some as else none
/-- Whether a group length is permitted (R82). -/
def groupOk (g : Nat) : Bool := g % 80 == 0 && decide (80 ≤ g)
/-- A parked gang instruction goes on with a rest on the clock after this one (R31). -/
def State.release (s : State) (k : Nat) (r : Rest) : State :=
  (s.wakeWith k r).modSlot k fun t => { t with readyAt := max t.readyAt (s.clock + 1) }
/-- What GANG samples of a thread and its mode (R42). -/
def State.sampled (s : State) (a : GangArr) : BitVec 1 × Word × Word × BitVec 16 × Bool :=
  let r := (s.slot a.k).k
  (r.tfmt, r.tsca, r.tscw, r.tgrp, a.elastic)

/-- The arrivals of an elastic gang with their status words as they are now: one in a moved frame is translated again, and none opens
while one is behind a frozen leaf or its line is held (R184, R320). -/
def State.arrivalsNow (s : State) (ck : Nat) (as : List GangArr) : Option (List GangArr) :=
  let out := as.filterMap fun a => match a.stat with
    | none => some a
    | some (va, pa, _) =>
      if s.isMoved (s.pidOf ck) pa then
        match s.dataPage (coreOf a.k) (s.slot a.k).asid.toNat va with
        | .ok (e, _) => some { a with stat := some (va, e.pa va, e.key) }
        | _ => none
      else if s.heldBySerial (pa / 64) then none else some a
  if out.length = as.length then some out else none

/-- Opens the gang of eight arrivals, or traps all eight (R42, R211). Idle gating goes by the k.agate that the opening thread has
at this clock, and a later KWR acts from the next gang on (R58; log 36: DESIGN CHOICE, since the spec names no clock). -/
def State.openGang (s : State) (ck : Nat) (as : List GangArr) : State :=
  let all := fun (s : State) (r : Rest) => as.foldl (fun s a => s.release a.k r) s
  let s := (coresIn ck).foldl (fun s c => s.modCore c fun x => { x with gangArr := none }) s
  match as with
  | [] => s
  | a :: _ =>
    let r := (s.slot a.k).k
    if as.any fun b => s.sampled b != s.sampled a then all s (.fault 0x0C 0)
    else if !groupOk r.tgrp.toNat then all s (.fault 0x0D 0)
    else
      let g : Gang := { elastic := a.elastic, tfmt := r.tfmt, tsca := r.tsca, tscw := r.tscw, tgrp := r.tgrp,
                        members := as.map fun b => (coreOf b.k % 8, b.k),
                        stat := as.filterMap fun b => b.stat.map fun x => (coreOf b.k % 8, x), ended := [],
                        broken := none, wake := none }
      let s := s.modCluster ck fun x => { x with gang := some g }
      let s := as.foldl (fun s b => (s.modCore (coreOf b.k) fun x =>
        { x with agate := (s.slot b.k).k.agate, slice := { x.slice with done := 0, fifo := [] } }).writeStat (coreOf b.k)) s
      all s (.finish [])

/-- GANG_OPEN (R42): the clock after the last arrival. -/
def execGangOpen (s : State) : Res :=
  match s.ev with
  | some (.gangOpen ck) =>
    .next (match (s.arrivals ck).bind (s.arrivalsNow ck) with
      | some as => s.openGang ck as
      | none => s)
  | _ => .fault .noEvent

/-! ### Stalls of a static gang (R45) -/

/-- Whether a cluster's gang is open and static. -/
def State.hasStatic (s : State) (ck : Nat) : Bool :=
  match (s.cluster ck).gang with
  | some g => !g.elastic
  | none => false
/-- The times of a slice moved on by a stall of `d` clocks that began on clock `t`; a recorded TMM that issued inside the stall, as the
end of its wait, keeps its own (R227). -/
def Slice.shift (x : Slice) (t d : Nat) : Slice :=
  let on := fun (e : Nat) => if t ≤ e then e + d else e
  { x with accEnd := on x.accEnd, ldEnd := on x.ldEnd, fifo := x.fifo.map on, lastTmm := on x.lastTmm,
           tmm := x.tmm.map fun m => if m.ready < t + 7 then { m with ready := on m.ready } else m }
/-- Whether the Diffuser of a core waits for a stream (R227). -/
def Core.difBlocked (x : Core) : Bool := (x.dif.run.map (·.blocked)).getD false
/-- Whether what a stall waits for is there: the sub-arrays awake, no sequence waiting for a stream. -/
def State.stallOver (s : State) (ck : Nat) : Bool :=
  (match ((s.cluster ck).gang.bind (·.wake)) with
    | some w => decide (w ≤ s.clock)
    | none => true) && (coresIn ck).all fun c => !(s.core c).difBlocked
/-- GANG_STALL (R45): a wake or a stream that is waited for ends it by itself; any other variable event delays an item whose time is
open, and the stall lasts until the item arrives. -/
def execGangStall (s : State) : Res :=
  match s.ev with
  | some (.gangStall ck) =>
    .next (if s.hasStatic ck then s.modCluster ck fun x =>
        { x with stall := some (x.stall.getD s.clock), late := x.late || x.stall.isSome || s.stallOver ck }
      else s)
  | _ => .fault .noEvent

/-- The sub-arrays of a cluster are awake (R213). -/
def State.ungate (s : State) (ck : Nat) : State :=
  (coresIn ck).foldl (fun s c => s.modSlice c fun x => { x with gated := false, lastTmm := max x.lastTmm s.clock })
    (s.modCluster ck fun x => { x with gang := x.gang.map fun g => { g with wake := none } })
/-- GANG_STALL_END (R45): what was late is there, and the gang's clocks go on where they stood. -/
def execGangStallEnd (s : State) : Res :=
  match s.ev with
  | some (.gangStallEnd ck) =>
    .next (match (s.cluster ck).stall with
      | none => s
      | some t =>
        let s := s.modCluster ck fun x => { x with late := false }
        if !s.stallOver ck then s
        else
          let waked := ((s.cluster ck).gang.bind (·.wake)).isSome
          let s := (coresIn ck).foldl (fun s c => s.modSlice c fun x => x.shift t (s.clock - t))
            (s.modCluster ck fun x => { x with stall := none })
          if waked then s.ungate ck else s)
  | _ => .fault .noEvent

/-! ### The gang TMM (R209, R213, R216) -/

/-- A latch buffer of a slice. -/
def Slice.latch (x : Slice) (buf : Bool) : Latch := if buf then x.b1 else x.b0
/-- Whether a load into a buffer is accepted and not finished. -/
def Slice.loading (x : Slice) (buf : Bool) : Bool := (x.ldQ ++ x.ldRun.toList).any fun o => o.buf == buf
/-- The TMM of a slice, when nothing of the slice holds it back on a clock (R209). -/
def Slice.tmmReady (x : Slice) (clock : Nat) : Option TmmPend :=
  x.tmm.filter fun t => decide (t.ready ≤ clock) && x.accQ.isEmpty && x.accRun.isNone && !x.loading t.buf
/-- The eight TMMs of a gang TMM that can start, by core. -/
def State.gangTmm (s : State) (ck : Nat) : Option (List (Nat × TmmPend)) :=
  let ts := (coresIn ck).filterMap fun c => ((s.slice c).tmmReady s.clock).map fun t => (c, t)
  if ts.length = 8 ∧ (s.cluster ck).stall.isNone then some ts else none

/-- What a gang TMM traps with at its start (R216): a latch buffer or a tile that took poisoned data traps at its consumer, with its
cause (R111, R382; log 36: DESIGN CHOICE, its order before an illegal byte and the fault address of a tile, 0). -/
def State.tmmFault (s : State) (g : Gang) (ts : List (Nat × TmmPend)) : Option (Nat × Nat) :=
  match ts with
  | [] => none
  | (c0, t0) :: _ =>
    let lat := fun (e : Nat × TmmPend) => (s.slice e.1).latch e.2.buf
    let kc := (lat (c0, t0)).kc
    let gi := BitVec.ofNat 16 (kc.toNat / (g.tgrp.toNat / 80))
    if ts.any fun e => e.2.rows.length != t0.rows.length || (lat e).kc != kc then some (0x0C, 0)
    else match ts.findSome? fun e => (lat e).bad.orElse fun _ => ((s.slice e.1).tiles[e.2.acc].bad).map fun c => (c, 0) with
      | some b => some b
      | none => match ts.findSome? fun e => (lat e).illegal with
        | some a => some (0x0B, a)
        | none =>
          if ts.any fun e => match (s.slice e.1).tiles[e.2.acc].tag with
              | some t => t != gi
              | none => false
            then some (0x0D, 0) else none

/-- Discards the rows of the eight TMMs and traps each at its TMM, a recorded one at its thread's next issue (R216, R227). -/
def State.tmmTrap (s : State) (ts : List (Nat × TmmPend)) (cause addr : Nat) : State :=
  ts.foldl (fun s e =>
    let s := s.modCore e.1 fun x => x.dropTmm cause (BitVec.ofNat 64 addr)
    if e.2.dif then s else s.release e.2.k (.fault cause (BitVec.ofNat 64 addr))) s

/-- An int8 byte as an integer. -/
def int8Of (b : Byte) : Int := b.toInt
/-- The digit of column `c`, index `k` of a latched chunk (R78, R208). -/
def Latch.weight (l : Latch) (c k : Nat) : Int := trit (l.bytes.toArray.getD (16 * c + k / 5) 0).toNat (k % 5)
/-- The exact sum that a row adds to a column (R80). -/
def rowSum (l : Latch) (row : List Byte) (c : Nat) : Int :=
  (row.zipIdx.map fun e => l.weight c e.2 * int8Of e.1).sum
/-- A tile after the rows of a TMM (R212, R216). -/
def Tile.after (t : Tile) (l : Latch) (gi row0 : Nat) (rows : List (List Byte)) : Tile :=
  let zero := fun (r : List Byte) => r.all fun b => b == 0
  let skip := l.bytes.all fun b => b == 0
  let cell := fun (i : Fin 512) =>
    if row0 ≤ i.val / 32 then match rows[i.val / 32 - row0]? with
      | some r => BitVec.ofNat 32 (resAdd t.cells[i].toNat (rowSum l r (i.val % 32)))
      | none => t.cells[i]
    else t.cells[i]
  { t with cells := if skip then t.cells else Vector.ofFn cell, tag := some (BitVec.ofNat 16 gi),
           askip := min 4095 (t.askip + (rows.filter zero).length), wskip := min 4095 (t.wskip + skip.toNat) }

/-- The clocks on which rows enter the array, from a start on; a skipped row of an elastic gang takes none (R212, R216). -/
def rowClocks (elastic : Bool) : Nat → List (List Byte) → List Nat
  | _, [] => []
  | t, r :: rs => t :: rowClocks elastic (if elastic && r.all fun b => b == 0 then t else t + 1) rs

/-- Starts one slice's TMM with the full rows (R216): the pop, the tile, the rows' clocks; its thread goes on. -/
def State.tmmSlice (s : State) (g : Gang) (gi : Nat) (rows : List (List Byte)) (e : Nat × TmmPend) : State :=
  let (c, t) := e
  let dur := (if g.elastic then rows.filter fun r => !r.all fun b => b == 0 else rows).length
  let s := match t.pop with
    | some q => s.modCore c fun x =>
        { x with queues := x.queues.set (s.slot t.k).q[q].queue (x.queues[(s.slot t.k).q[q].queue]).tail }
    | none => s
  let s := s.modSlice c fun x =>
    { x with tmm := none, tiles := x.tiles.set t.acc (x.tiles[t.acc].after (x.latch t.buf) gi t.row0 rows),
             accRun := some (.tmm t.buf), accEnd := s.clock + dur, lastTmm := s.clock + dur,
             fifo := (x.fifo.filter fun f => decide (s.clock < f)) ++ rowClocks g.elastic s.clock rows }
  let s := if t.dif then s.modCore c fun x => { x with dif := x.dif.advance s.clock } else s.release t.k (.finish [])
  if dur = 0 then { s with agenda := s.agenda ++ [.arrayInstrComplete c false] } else s

/-- Starts a gang TMM, or pays the wake of gated sub-arrays first, or traps (R213, R216). -/
def State.tmmStart (s : State) (ck : Nat) : State :=
  match (s.cluster ck).gang, s.gangTmm ck with
  | some g, some ts =>
    let gated := ts.any fun e => (s.slice e.1).gated
    if gated && g.wake.isNone then
      let s := s.modCluster ck fun x => { x with gang := some { g with wake := some (s.clock + Config.awake) } }
      if g.elastic then s else { s with agenda := .gangStall ck :: s.agenda }
    else if gated && (g.wake.map fun w => decide (s.clock < w)).getD false then s
    else
      let s := if gated then s.ungate ck else s
      match s.tmmFault g ts with
      | some (cause, addr) => s.tmmTrap ts cause addr
      | none =>
        let kc := (ts.head?.map fun e => ((s.slice e.1).latch e.2.buf).kc.toNat).getD 0
        let m := (ts.head?.map fun e => e.2.rows.length).getD 0
        let rows := (List.range m).map fun j => ts.flatMap fun e => e.2.rows.getD j []
        ts.foldl (fun s e => s.tmmSlice g (kc / (g.tgrp.toNat / 80)) rows e) s
  | _, _ => s

/-! ### The other array instructions (R210, R215-R219) -/

/-- The container of element `i` from 2,048 bytes, reduced (R79, R219). -/
def containerOf (bs : List Byte) (i : Nat) : BitVec 32 :=
  BitVec.ofNat 32 (resCanon (ofBytes ((bs.drop (4 * i)).take 4)))
/-- The tag word of a tile (R219). -/
def Tile.tagWord (t : Tile) : Nat := match t.tag with
  | some g => 2 ^ 16 + g.toNat
  | none => 0
/-- The address of a byte of a core's scratchpad. -/
def scratchPa (c la : Nat) : Nat := lmAddr (clusterOfCore c) (c % 8 * 2 ^ 18 + la % 2 ^ 18)

/-- Starts the oldest accepted instruction of a slice's accumulate unit (R209, R210); the next choice is the bank wait of a TRDA or
TWRA (R92), whose length is open. -/
def State.accStart (s : State) (c : Nat) : State :=
  let x := s.slice c
  if x.accRun.isSome || (s.cluster (clusterOfCore c)).stall.isSome then s
  else match x.accQ with
    | [] => s
    | o :: rest =>
      let go := fun (d : Nat) (f : Slice → Slice) => s.modSlice c fun x =>
        f { x with accQ := rest, accRun := some o, accEnd := s.clock + d }
      match o with
      | .tmm _ => go 0 id
      | .tzero a => go 1 fun x => { x with tiles := x.tiles.set a { Tile.zero with ofp := true } }
      | .trda _ _ =>
        let r := s.choose
        r.2.modSlice c fun x => { x with accQ := rest, accRun := some o, accEnd := s.clock + 16 + r.1 }
      | .twra a la w =>
        let pa := scratchPa c la
        let bs := (List.range 2048).map fun i => s.mem.read (scratchPa c (la + i))
        let bad := s.poisonOf 0 pa 2048
        let s := s.verifyAll 0 pa 2048
        let tag := if tb w.toNat 16 then some (w.setWidth 16) else none
        let y : Tile := { cells := Vector.ofFn fun i : Fin 512 => containerOf bs i.val, tag := tag, askip := 0, wskip := 0,
                          ofp := false, bad := bad }
        let r := s.choose
        r.2.modSlice c fun x =>
          { x with accQ := rest, accRun := some o, accEnd := s.clock + 16 + r.1, tiles := x.tiles.set a y }
      | .tdrain _ => go 16 id

/-- Whether the 512 bytes of a chunk are zero. -/
def State.chunkZero (s : State) (pa : Nat) : Bool := (List.range 512).all fun i => s.mem.read (pa + i) == 0
/-- Starts the oldest load of a slice (R209, R215). -/
def State.ldStart (s : State) (c : Nat) : State :=
  let x := s.slice c
  let ck := clusterOfCore c
  if x.ldRun.isSome || (s.cluster ck).stall.isSome then s
  else match x.ldQ with
    | [] => s
    | o :: rest =>
      if !s.footFree ck o.id || x.accRun == some (.tmm o.buf) then s
      else
        let d := if s.chunkZero o.pa && !s.hasStatic ck then 0 else 4
        let s := s.modSlice c fun x =>
          let x := { x with ldQ := rest, ldRun := some o, ldEnd := s.clock + d }
          if o.buf then { x with b1 := { x.b1 with loaded := false } } else { x with b0 := { x.b0 with loaded := false } }
        if d = 0 then { s with agenda := s.agenda ++ [.arrayInstrComplete c true] } else s

/-- ARRAY_INSTR_START (R209): the latch loader, or the accumulate unit, whose TMM starts with those of the whole gang. -/
def execArrayInstrStart (s : State) : Res :=
  match s.ev with
  | some (.arrayInstrStart c loader) =>
    .next (if loader then s.ldStart c
      else if (s.slice c).accQ.isEmpty then s.tmmStart (clusterOfCore c) else s.accStart c)
  | _ => .fault .noEvent

/-- A finished load: the bytes, the chunk index, the first illegal byte's address (R215), the first line that is poisoned or fails its
verification (R110, R111, R382). -/
def State.ldEndAt (s : State) (c : Nat) (o : LoadOp) : State :=
  let bs := (List.range 512).map fun i => s.mem.read (o.pa + i)
  let bad := (linesIn o.pa 512).findSome? fun l => (s.badLine 0 l).map fun e => (e, localOfAddr o.pa + (l * 64 - o.pa))
  let s := s.verifyAll 0 o.pa 512
  let l : Latch := { bytes := bs, kc := o.kc, loaded := true, bad := bad,
                     illegal := (bs.findIdx? fun b => decide (243 ≤ b.toNat)).map fun i => localOfAddr o.pa + i }
  ((s.modSlice c fun x =>
    let x := { x with ldRun := none }
    if o.buf then { x with b1 := l } else { x with b0 := l }).leaveFoot (clusterOfCore c) o.id).sliceDone c

/-- A finished instruction of the accumulate unit; a drain whose tile is read goes on as a job (R218, R219). -/
def State.accEndAt (s : State) (c : Nat) (o : ArrOp) : State :=
  let s := s.modSlice c fun x => { x with accRun := none }
  match o with
  | .tmm _ | .tzero _ | .twra .. => s.sliceDone c
  | .trda a la =>
    let t := (s.slice c).tiles[a]
    let bs := (t.cells.toList.flatMap fun w => toBytes 4 w.toNat) ++ toBytes 8 t.tagWord
    let s := s.homeWrite 0 (cellsAt (scratchPa c la) bs) jobWriter none
    let s := match t.bad with
      | some e => { s with poison := (linesIn (scratchPa c la) 2048).foldl (fun p l => p.set l e) s.poison }
      | none => s
    s.sliceDone c
  | .tdrain d => s.modSlice c fun x => { x with drains := x.drains ++ [{ d := d, tile := x.tiles[d.acc], stat := none }] }

/-- ARRAY_INSTR_COMPLETE (R210, R211). -/
def execArrayInstrComplete (s : State) : Res :=
  match s.ev with
  | some (.arrayInstrComplete c loader) =>
    let x := s.slice c
    .next (if (s.cluster (clusterOfCore c)).stall.isSome then s
      else if s.statHeld c then s.statMoved c
      else if loader then (match x.ldRun with
        | some o => if x.ldEnd ≤ s.clock then s.ldEndAt c o else s
        | none => s)
      else match x.accRun with
        | some o => if x.accEnd ≤ s.clock then s.accEndAt c o else s
        | none => s)
  | _ => .fault .noEvent

/-- ARRAY_IDLE_GATE (R213). -/
def execArrayIdleGate (s : State) : Res :=
  match s.ev with
  | some (.arrayIdleGate c) =>
    let g := (s.core c).agate.toNat
    .next (if g ≠ 0 ∧ (s.slice c).lastTmm + g ≤ s.clock then s.modSlice c fun x => { x with gated := true } else s)
  | _ => .fault .noEvent

/-! ### Drains (R218, R220) -/

/-- The tile status word (R220). -/
def drainStatus (c : Nat) (d : Drain) (t : Tile) (fl : AFlags) (bad : Option Nat) : Nat :=
  (bad.getD 0) * 2 ^ 56 + c % 8 * 2 ^ 52 + t.wskip * 2 ^ 40 + t.askip * 2 ^ 28 + d.gi * 2 ^ 12 + d.tagv.toNat * 2 ^ 11 +
    d.add.toNat * 2 ^ 10 + d.elastic.toNat * 2 ^ 9 + t.ofp.toNat * 2 ^ 8 + (if bad.isSome then 0 else (fl &&& 0x57).toNat)

/-! ### The Accord and the Diffuser -/

/-- ACCORD_RELEASE (R224). -/
def execAccordRelease (s : State) : Res :=
  match s.ev with
  | some (.accordRelease c) =>
    .next (match (s.core c).accArr with
      | some a => (match a.release with
          | some (t, x) => if t < s.clock then
              (s.modCore c fun y => { y with accArr := none }).wakeWith a.k (.finish [.g a.d x]) else s
          | none => s)
      | none => s)
  | _ => .fault .noEvent

/-- DIFFUSER_ISSUE (R227): a recorded instruction on the clock before the state's; a wait for a stream stalls a static
gang; a stopped or held thread's sequence issues nothing (R347, R393). -/
def execDiffuserIssue (s : State) : Res :=
  match s.ev with
  | some (.diffuserIssue c) =>
    let still := match (s.core c).dif.owner with
      | some k => (s.slot k).stopped || (s.cluster (clusterOfCore c)).hold
      | none => false
    .next (if still || !s.difReady c (s.clock - 1) then s
      else
        let t := ({ s with clock := s.clock - 1 }).difTry c
        let t := { t with clock := s.clock }
        let ck := clusterOfCore c
        if (t.core c).difBlocked && t.hasStatic ck && (t.cluster ck).stall.isNone
        then { t with agenda := .gangStall ck :: t.agenda } else t)
  | _ => .fault .noEvent

end Sys2Proof.Machine
end

