-- ==== Sys2Proof/Machine/Crypto.lean ====
section
/-! DEFINITION. The cryptography of boot that R2 names by its standards: SHA-384 (FIPS 180-4) and the verification of ECDSA over P-384
(FIPS 186-5). The standards' figures are taken from outside the spec (log 8). -/

namespace Sys2Proof.Machine

/-! ### SHA-384 (FIPS 180-4) -/

/-- The constants of the 80 rounds. -/
def shaK : List (BitVec 64) :=
  [0x428a2f98d728ae22, 0x7137449123ef65cd, 0xb5c0fbcfec4d3b2f, 0xe9b5dba58189dbbc,
   0x3956c25bf348b538, 0x59f111f1b605d019, 0x923f82a4af194f9b, 0xab1c5ed5da6d8118,
   0xd807aa98a3030242, 0x12835b0145706fbe, 0x243185be4ee4b28c, 0x550c7dc3d5ffb4e2,
   0x72be5d74f27b896f, 0x80deb1fe3b1696b1, 0x9bdc06a725c71235, 0xc19bf174cf692694] ++
  [0xe49b69c19ef14ad2, 0xefbe4786384f25e3, 0x0fc19dc68b8cd5b5, 0x240ca1cc77ac9c65,
   0x2de92c6f592b0275, 0x4a7484aa6ea6e483, 0x5cb0a9dcbd41fbd4, 0x76f988da831153b5,
   0x983e5152ee66dfab, 0xa831c66d2db43210, 0xb00327c898fb213f, 0xbf597fc7beef0ee4,
   0xc6e00bf33da88fc2, 0xd5a79147930aa725, 0x06ca6351e003826f, 0x142929670a0e6e70] ++
  [0x27b70a8546d22ffc, 0x2e1b21385c26c926, 0x4d2c6dfc5ac42aed, 0x53380d139d95b3df,
   0x650a73548baf63de, 0x766a0abb3c77b2a8, 0x81c2c92e47edaee6, 0x92722c851482353b,
   0xa2bfe8a14cf10364, 0xa81a664bbc423001, 0xc24b8b70d0f89791, 0xc76c51a30654be30,
   0xd192e819d6ef5218, 0xd69906245565a910, 0xf40e35855771202a, 0x106aa07032bbd1b8] ++
  [0x19a4c116b8d2d0c8, 0x1e376c085141ab53, 0x2748774cdf8eeb99, 0x34b0bcb5e19b48a8,
   0x391c0cb3c5c95a63, 0x4ed8aa4ae3418acb, 0x5b9cca4f7763e373, 0x682e6ff3d6b2b8a3,
   0x748f82ee5defb2fc, 0x78a5636f43172f60, 0x84c87814a1f0ab72, 0x8cc702081a6439ec,
   0x90befffa23631e28, 0xa4506cebde82bde9, 0xbef9a3f7b2c67915, 0xc67178f2e372532b] ++
  [0xca273eceea26619c, 0xd186b8c721c0c207, 0xeada7dd6cde0eb1e, 0xf57d4f7fee6ed178,
   0x06f067aa72176fba, 0x0a637dc5a2c898a6, 0x113f9804bef90dae, 0x1b710b35131c471b,
   0x28db77f523047d84, 0x32caab7b40c72493, 0x3c9ebe0a15c9bebc, 0x431d67c49c100d4c,
   0x4cc5d4becb3e42b6, 0x597f299cfc657e2a, 0x5fcb6fab3ad6faec, 0x6c44198c4a475817]
/-- The initial hash value. -/
def shaInit : List (BitVec 64) :=
  [0xcbbb9d5dc1059ed8, 0x629a292a367cd507, 0x9159015a3070dd17, 0x152fecd8f70e5939,
   0x67332667ffc00b31, 0x8eb44a8768581511, 0xdb0c2e0d64f98fa7, 0x47b5481dbefa4fa4]
/-- The functions of the message schedule and of a round. -/
def shaS0 (x : BitVec 64) : BitVec 64 := x.rotateRight 1 ^^^ x.rotateRight 8 ^^^ (x >>> 7)
def shaS1 (x : BitVec 64) : BitVec 64 := x.rotateRight 19 ^^^ x.rotateRight 61 ^^^ (x >>> 6)
def shaB0 (x : BitVec 64) : BitVec 64 := x.rotateRight 28 ^^^ x.rotateRight 34 ^^^ x.rotateRight 39
def shaB1 (x : BitVec 64) : BitVec 64 := x.rotateRight 14 ^^^ x.rotateRight 18 ^^^ x.rotateRight 41
/-- A number from bytes, most significant first. -/
def ofBytesBig (bs : List Byte) : Nat := ofBytes bs.reverse
/-- The message schedule, latest word first: `n` more words. -/
def shaWords : Nat → List (BitVec 64) → List (BitVec 64)
  | 0, ws => ws
  | n + 1, ws => shaWords n ((shaS1 (ws.getD 1 0) + ws.getD 6 0 + shaS0 (ws.getD 14 0) + ws.getD 15 0) :: ws)
/-- One round on the eight working variables. -/
def shaRound (v : List (BitVec 64)) (kw : BitVec 64 × BitVec 64) : List (BitVec 64) :=
  match v with
  | [a, b, c, d, e, f, g, h] =>
    let t1 := h + shaB1 e + ((e &&& f) ^^^ (~~~e &&& g)) + kw.1 + kw.2
    let t2 := shaB0 a + ((a &&& b) ^^^ (a &&& c) ^^^ (b &&& c))
    [t1 + t2, a, b, c, d + t1, e, f, g]
  | v => v
/-- The hash value after a block of 128 bytes. -/
def shaBlock (hs : List (BitVec 64)) (bs : List Byte) : List (BitVec 64) :=
  let ws := (List.range 16).map fun i => BitVec.ofNat 64 (ofBytesBig ((bs.drop (8 * i)).take 8))
  (hs.zip ((shaK.zip (shaWords 64 ws.reverse).reverse).foldl shaRound hs)).map fun e => e.1 + e.2
/-- A message with its padding. -/
def shaPad (bs : List Byte) : List Byte :=
  let z := (239 - bs.length % 128) % 128
  bs ++ [0x80] ++ List.replicate z 0 ++ (toBytes 16 (8 * bs.length)).reverse
/-- The 48 bytes of the SHA-384 digest of a message. -/
def sha384Bytes (bs : List Byte) : List Byte :=
  let m := shaPad bs
  let hs := (List.range (m.length / 128)).foldl (fun hs i => shaBlock hs ((m.drop (128 * i)).take 128)) shaInit
  (hs.take 6).flatMap fun h => (toBytes 8 h.toNat).reverse
/-- The digest as a number, its first byte lowest, as the model holds a measurement (R305). -/
def sha384 (bs : List Byte) : BitVec 384 := BitVec.ofNat 384 (ofBytes (sha384Bytes bs))

/-! ### ECDSA over P-384 (FIPS 186-5) -/

/-- The field, the order of the base point, the coefficient `b`, and the base point. -/
def ecP : Nat := 2 ^ 384 - 2 ^ 128 - 2 ^ 96 + 2 ^ 32 - 1
def ecN : Nat :=
  0xffffffffffffffffffffffffffffffffffffffffffffffffc7634d81f4372ddf581a0db248b0a77aecec196accc52973
def ecB : Nat :=
  0xb3312fa7e23ee7e4988e056be3f82d19181d9c6efe8141120314088f5013875ac656398d8a2ed19d2a85c8edd3ec2aef
def ecG : Nat × Nat :=
  (0xaa87ca22be8b05378eb1c71ef320ad746e1d3b628ba79b9859f741e082542a385502f25dbf55296c3a545e3872760ab7,
   0x3617de4a96262c6f5d9e98bf9292dc29f8f41dbd289a147ce9da3113b5f0b8c00a60b1ce1d7e819d7a431d7c90ea0e5f)
/-- A power modulo `m`, by the low `n` bits of the exponent. -/
def powMod (m : Nat) : Nat → Nat → Nat → Nat → Nat
  | 0, _, _, acc => acc
  | n + 1, x, e, acc => powMod m n (x * x % m) (e / 2) (if e % 2 = 1 then acc * x % m else acc)
/-- The inverse modulo a prime of at most 384 bits. -/
def invMod (m x : Nat) : Nat := powMod m 384 (x % m) (m - 2) 1
/-- A difference in the field. -/
def ecSub (x y : Nat) : Nat := (x + (ecP - y)) % ecP
/-- A point of the curve in Jacobian coordinates: the affine ones are x / z² and y / z³, and z is 0 at infinity. -/
structure EcPoint where
  x : Nat
  y : Nat
  z : Nat
deriving DecidableEq, Repr
/-- The point at infinity. -/
def ecInf : EcPoint := { x := 1, y := 1, z := 0 }
/-- Twice a point, where the curve's coefficient `a` is -3. -/
def ecDouble (p : EcPoint) : EcPoint :=
  if p.y = 0 ∨ p.z = 0 then ecInf else
  let y2 := p.y * p.y % ecP
  let z2 := p.z * p.z % ecP
  let s := 4 * p.x * y2 % ecP
  let m := 3 * ecSub p.x z2 * (p.x + z2) % ecP
  let x := ecSub (m * m % ecP) (2 * s % ecP)
  { x := x, y := ecSub (m * ecSub s x % ecP) (8 * y2 * y2 % ecP), z := 2 * p.y * p.z % ecP }
/-- The sum of two points. -/
def ecAdd (p q : EcPoint) : EcPoint :=
  if p.z = 0 then q else if q.z = 0 then p else
  let z1 := p.z * p.z % ecP
  let z2 := q.z * q.z % ecP
  let u1 := p.x * z2 % ecP
  let s1 := p.y * q.z * z2 % ecP
  let h := ecSub (q.x * z1 % ecP) u1
  let r := ecSub (q.y * p.z * z1 % ecP) s1
  if h = 0 then (if r = 0 then ecDouble p else ecInf) else
  let h2 := h * h % ecP
  let h3 := h * h2 % ecP
  let v := u1 * h2 % ecP
  let x := ecSub (r * r % ecP) ((h3 + 2 * v) % ecP)
  { x := x, y := ecSub (r * ecSub v x % ecP) (s1 * h3 % ecP), z := h * p.z * q.z % ecP }
/-- A multiple of a point, by the low `n` bits of the factor. -/
def ecMul : Nat → Nat → EcPoint → EcPoint → EcPoint
  | 0, _, _, acc => acc
  | n + 1, k, p, acc => ecMul n (k / 2) (ecDouble p) (if k % 2 = 1 then ecAdd acc p else acc)
/-- Whether a point is one of the curve. -/
def onCurve (x y : Nat) : Bool :=
  decide (x < ecP) && decide (y < ecP) && (y * y) % ecP == (x * x * x + (ecP - 3) * x + ecB) % ecP
/-- Whether a signature verifies over a digest under a public key (R302, R304). The flash is little-endian (R302): of a key the x and the
y coordinate, of a signature r and s, each in 48 bytes, lowest first (log 8). -/
def ecdsaVerify (key : List Byte) (digest : BitVec 384) (sig : List Byte) : Bool :=
  let x := ofBytes (key.take 48)
  let y := ofBytes ((key.drop 48).take 48)
  let r := ofBytes (sig.take 48)
  let t := ofBytes ((sig.drop 48).take 48)
  let e := ofBytesBig (toBytes 48 digest.toNat)
  let w := invMod ecN t
  let p := ecAdd (ecMul 384 (e * w % ecN) { x := ecG.1, y := ecG.2, z := 1 } ecInf) (ecMul 384 (r * w % ecN) { x := x, y := y, z := 1 } ecInf)
  onCurve x y && decide (0 < r) && decide (r < ecN) && decide (0 < t) && decide (t < ecN) && p.z != 0 &&
  p.x * invMod ecP (p.z * p.z) % ecP % ecN == r

end Sys2Proof.Machine
end

