-- ==== Sys2Proof/Machine/Jobs.lean ====
section
/-! DEFINITION. The events of copy engine jobs (R236-R238) and of stream queues (R53, R100, R235). -/

namespace Sys2Proof.Machine

/-- Job `i` of a cluster. -/
def State.job (s : State) (ck i : Nat) : Option Job := ((s.cluster ck).jobs.find? (·.1 == i)).map (·.2)
/-- Changes job `i` of a cluster. -/
def State.modJob (s : State) (ck i : Nat) (f : Job → Job) : State :=
  s.modCluster ck fun x => { x with jobs := x.jobs.map fun e => if e.1 = i then (e.1, f e.2) else e }

/-- The length of a job's sequence. -/
def Job.total (j : Job) : Nat :=
  if j.dst.isEmpty then (j.src.map (·.len)).sum else (j.dst.map partLen).sum

/-- Whether every store of a job's issuer before it is performed at its home (R237), with what its L1 showed it of the stores of
others before it (R253, R269, R276). -/
def State.issuerHome (s : State) (k id : Nat) : Bool :=
  let mine := fun (e : SqEntry) => e.k == k && decide (e.id < id)
  let seen := fun (e : SqEntry) => s.sameL1 (coreOf e.k) (coreOf k) && decide (e.id < id)
  !(s.core (coreOf k)).sq.any mine && (s.net.all fun m => match m.kind with
    | .op e => !seen e
    | .moved (.op e) _ => !seen e
    | _ => true) &&
  s.lanes.all fun l => l.k != k || ((l.flight.all fun e => !mine e) && l.acks.all fun a => decide (id ≤ a.1))

/-- JOB_START (R236, R237). -/
def execJobStart (s : State) : Res :=
  match s.ev with
  | some (.jobStart ck i) =>
    .next (match s.job ck i with
      | some j => if !j.started && !j.done && s.footFree ck j.id && s.issuerHome j.k j.id then
          s.modJob ck i fun j => { j with started := true } else s
      | none => s)
  | _ => .fault .noEvent

/-! ### Moving bytes -/

/-- The part that byte `pos` of a list of lengths lies in, and the place within it. -/
def partAt {α : Type} (len : α → Nat) : List α → Nat → Option (α × Nat)
  | [], _ => none
  | a :: l, pos => if pos < len a then some (a, pos) else partAt len l (pos - len a)

/-- The address and key of a byte of a chunk as the job accesses it: its page translates again, under the job's address space
(R237, R317, R324). -/
def State.jobAddr (s : State) (j : Job) (c : Chunk) (o : Nat) : Tr ((Nat × Nat) × State) :=
  match c.va with
  | none => .ok ((c.pa + o, c.key), s)
  | some va =>
    let va := (va + o) % 2 ^ 64
    (s.translate (coreOf j.k) j.asid.toNat va).bind fun es =>
      let ck := clusterOf j.k
      if es.1.remote then
        if !s.mayTo ck (es.1.dev * 160) then .fault 7
        else if !s.routeUp (devOf ck) es.1.dev then .fault 0x18
        else (s.stage2 es.1.dev es.1.pid (some j.cls.toNat) (es.1.pa va % 2 ^ 44)).bind fun l =>
          .ok ((addrOf es.1.dev (l.frame + es.1.pa va % 2 ^ l.szlog), l.key), es.2)
      else if !s.mayReach ck (es.1.pa va) then .fault 7
      else .ok ((es.1.pa va, es.1.key), es.2)

/-- Where an access of a job goes, or why it does not go now: the job ends with a cause, or waits. -/
inductive JobAt where
  | ok (a key : Nat) (s : State)
  | ends (cause : Nat) (s : State)
  | waits (s : State)

/-- An access of a job to a byte of a chunk: a router that does not admit it counts it and ends the job (R300); a page answered
"moved" translates again (R320). -/
def State.jobPlace (s : State) (j : Job) (c : Chunk) (o : Nat) : JobAt :=
  match s.jobAddr j c o with
  | .fault e => .ends e s
  | .frozen => .waits s
  | .ok (ak, s) =>
    if s.walled (clusterOf j.k) j.pid ak.1 then .ends 7 (s.countDrop (clusterOfWin ak.1))
    else if s.isMoved j.pid ak.1 then .waits (match c.va with
      | some va => s.rereadAt (coreOf j.k) j.asid.toNat ((va + o) % 2 ^ 64)
      | none => s)
    else .ok ak.1 ak.2 s

/-- What one step of a job gives: a state in which it goes on, having moved some bytes, an end with its cause, or a wait. -/
inductive JobStep where
  | on (n : Nat) (s : State)
  | ends (cause : Nat) (s : State)
  | waits (s : State)

/-- A job reads on in its sequence, whole aligned 8-byte words of one chunk and one line, about as many as it may move now; a failed
line ends it (R111, R237). A zero fill reads zeros, and an outbound stream gives no more. -/
def State.readAhead (s : State) (ck i : Nat) (j : Job) (budget : Nat) : JobStep :=
  let pos := j.bytes + j.buf.length
  if j.op = 1 then .on 0 (s.modJob ck i fun j => { j with buf := j.buf ++ List.replicate (min 64 (j.total - pos)) 0 })
  else match partAt Chunk.len j.src pos with
    | none => .waits s
    | some (c, o) => match s.jobPlace j c o with
      | .ends e s => .ends e s
      | .waits s => .waits s
      | .ok a key s => match s.badLine key (a / 64) with
        | some e => .ends e (s.verify key (a / 64))
        | none =>
          let n := min (c.len - o) (min (64 - a % 64) (8 * max 1 (budget / 8) - a % 8))
          .on 0 (s.modJob ck i fun j => { j with buf := j.buf ++ s.bytesAt key a n })

/-- How many of `n` bytes ready for address `a` are written, of a chunk with `left` bytes to go: whole aligned words, within one line,
and about as many as may move now. -/
def jobCut (a left n budget : Nat) : Nat :=
  let most := min (min n left) (min (64 - a % 64) (max budget (min (8 - a % 8) left)))
  if most = left then most else most - (a + most) % 8
/-- The width of an element in bytes. -/
def elemWidth (wide : Bool) : Nat := if wide then 128 else 8
/-- One step of a job (R237): it reads ahead where it has not the bytes of the next word, and writes them. A register's value is kept,
to be filled last. A job that fills a stream reads the next element. -/
def State.jobStep (s : State) (ck i : Nat) (j : Job) (budget : Nat) : JobStep :=
  if j.dst.isEmpty then
    if j.buf.length < elemWidth j.wide && decide (j.bytes + j.buf.length < j.total) then s.readAhead ck i j budget else .waits s
  else match partAt partLen j.dst j.bytes with
    | none => .waits s
    | some (.inr _, _) =>
      if j.buf.length < 8 then s.readAhead ck i j budget
      else .on 8 (s.modJob ck i fun j =>
        { j with bytes := j.bytes + 8, buf := j.buf.drop 8, vals := j.vals ++ [BitVec.ofNat 64 (ofBytes (j.buf.take 8))] })
    | some (.inl c, o) => match s.jobPlace j c o with
      | .ends e s => .ends e s
      | .waits s => .waits s
      | .ok a key s =>
        if j.buf.length < min (8 - a % 8) (c.len - o) then s.readAhead ck i j budget
        else if s.heldBySerial (a / 64) then .waits s
        else
          let n := jobCut a (c.len - o) j.buf.length budget
          .on n ((s.jobWrite ck key a (j.buf.take n) j.k (jobMark j.id) j.id none).modJob ck i fun j =>
            { j with bytes := j.bytes + n, buf := j.buf.drop n })

/-- Ends a job: its status stands, its use counts fall, it leaves the scheduler, and those who wait for it go on (R237-R239);
the core of its issuer wakes (R47). -/
def State.endJob (s : State) (ck i cause : Nat) : State :=
  match s.job ck i with
  | none => s
  | some j =>
    let j := { j with done := true, doneAt := s.clock, cause := if j.cause = 0 then cause else j.cause, fillsOut := [] }
    let s := ((s.modJob ck i fun _ => j).useCounts false j.refs).leaveFoot ck j.id
    let s := s.slots.foldl (fun s e =>
      if clusterOf e.1 = ck ∧ (e.2.park.map (·.wait)) = some (.jobDone (Fin.ofNat 16 i)) then
        match e.2.park.map (·.rest) with
        | some (Rest.finish [Wr.g d _]) => s.wakeWith e.1 (.finish [.g d j.status])
        | _ => s
      else s) s
    s.rouse (coreOf j.k)

/-- Steps of a job, to about `budget` bytes and at most `fuel` steps. -/
def State.moveJob (s : State) (ck i : Nat) : Nat → Nat → State
  | 0, _ => s
  | fuel + 1, budget =>
    match s.job ck i with
    | none => s
    | some j =>
      if j.done || budget = 0 || decide (j.total ≤ j.bytes) then s
      else match s.jobStep ck i j budget with
        | .waits s => s
        | .ends c s => s.endJob ck i c
        | .on n s => s.moveJob ck i fuel (budget - n)

/-- Whether the writes of a job are acknowledged from the dies of their homes (R237, R256). -/
def State.jobAcked (s : State) (id : Nat) : Bool := s.net.all fun m => match m.kind with
  | .ack _ w _ => w != jobMark id
  | _ => true
/-- Whether the writes of a job have been announced to every core (R237, R269). -/
def State.jobSeen (s : State) (id : Nat) : Bool :=
  s.jobAcked id && s.dies.all fun d => d.2.notices.all fun n => match n with
    | .inval _ _ w => w != jobMark id
    | .final .. => true

/-- Where the fill of a register goes, and whether the permission table lets the cluster send it there (R324). -/
def State.fillMay (s : State) (j : Job) (r : RegDst) : Bool :=
  match s.slotOfName (devOfSlot j.k) r.slot with
  | some k => s.mayTo (clusterOf j.k) (clusterOf k)
  | none => true
/-- Sends the fill of a register of a job with the value it read (R237). -/
def State.sendFill (s : State) (ck i : Nat) (j : Job) (e : RegDst × Word) : State :=
  let id := s.nextId
  (s.send j.k (.fill e.1.slot e.1.reg e.2 none (some (ck, i)))).modJob ck i fun j => { j with fillsOut := id :: j.fillsOut }
/-- Sends the fills of a job's registers, last of all, or ends it where one may not go (R237, R324). -/
def State.sendFills (s : State) (ck i : Nat) (j : Job) : State :=
  let regs := j.dst.filterMap fun p => match p with
    | .inr r => some r
    | .inl _ => none
  if regs.any fun r => !s.fillMay j r then s.endJob ck i 7
  else ((regs.zip j.vals).foldl (fun s e => s.sendFill ck i j e) s).modJob ck i fun j => { j with filled := true }

/-! ### Drains -/

/-- The numbers that a drain's tile comes to, with their flags: the scales, codes and old values are given as bytes (R83, R218). -/
def Drain.out (d : Drain) (t : Tile) (scales codes old : List Byte) : List (Nat × AFlags) :=
  let scale := fun (j : Nat) => ofBytes ((scales.drop (2 * j)).take 2)
  let code := fun (j : Nat) => if d.codes.isSome then (codes.getD j 127).toNat else 127
  (List.range 512).map fun n => drainStep (t.cells.toArray.getD n 0).toNat (code (n / 32)) (scale (n % 32))
    (ofBytes ((old.drop (4 * n)).take 4))
/-- What a drain reads (R218). -/
def Drain.inputs (d : Drain) : List Chunk := d.scales ++ d.codes.getD [] ++ if d.add then d.rows.flatten else []
/-- A drain as its pages are now (R320). -/
def State.drainNow (s : State) (d : Drain) : Tr Drain :=
  let go := fun (cs : List Chunk) => s.rehomeChunks (s.pidOf (clusterOf d.k)) (coreOf d.k) d.asid.toNat cs
  (go d.rows.flatten).bind fun rows => (go d.stat).bind fun stat => (go d.scales).bind fun scales =>
    (go (d.codes.getD [])).bind fun codes =>
      .ok { d with rows := [rows], stat := stat, scales := scales, codes := d.codes.map fun _ => codes }
/-- Writes of a drain, which are announced as those of a job (R256, R269). -/
def State.drainPut (s : State) (c : Nat) (d : Drain) (cs : List Chunk) (bs : List Byte) : State :=
  (s.putChunks (jobMark d.id) none cs bs).jobWrote (clusterOfCore c) d.k (jobMark d.id) d.id
    (linesOf (cs.flatMap fun ch => cellsAt ch.pa (List.replicate ch.len 0)))
/-- A drain writes its rows, unless an input failed, and has its status word (R218, R220). -/
def State.drainRows (s : State) (c : Nat) (dj : DrainJob) : State :=
  let d := dj.d
  let rows := d.rows.flatten
  let bad := dj.tile.bad.orElse fun _ => s.chunkPoison d.inputs
  let out := d.out dj.tile (s.chunkBytes d.scales) (s.chunkBytes (d.codes.getD [])) (if d.add then s.chunkBytes rows else [])
  let st := drainStatus c d dj.tile (AFlags.union (out.map (·.2))) bad
  let s := s.verifyChunks d.inputs
  let s := if bad.isSome then s else s.drainPut c d rows (out.flatMap fun o => toBytes 4 o.1)
  s.modSlice c fun x => { x with drains := x.drains.map fun y => if y.d.id = d.id then { y with stat := some (st, false) } else y }
/-- A drain whose footprint is free writes its rows, then, once they are acknowledged from every die, its status word, and is complete
once that is acknowledged too: who acquires it has writes performed at die level (R211, R218, R220, R256, R269). -/
def State.endDrain (s : State) (ck id : Nat) : State :=
  match (coresIn ck).findSome? fun c => ((s.slice c).drains.find? fun d => d.d.id == id).map fun d => (c, d) with
  | none => s
  | some (c, dj) =>
    match s.drainNow dj.d with
    | .ok d =>
      if !s.footFree ck id || !s.issuerHome d.k id || s.chunksHeld (d.rows.flatten ++ d.stat) || !s.jobAcked id then s
      else if s.statHeld c then s.statMoved c
      else match dj.stat with
        | none => s.drainRows c { dj with d := d }
        | some (st, false) =>
          (s.drainPut c d d.stat (toBytes 8 st)).modSlice c fun x =>
            { x with drains := x.drains.map fun y => if y.d.id = id then { y with stat := some (st, true) } else y }
        | some (_, true) =>
          let s := (s.useCounts false d.refs).leaveFoot ck id
          ((s.modSlice c fun x => { x with drains := x.drains.filter fun y => y.d.id != id }).sliceDone c).rouse c
    | _ => s

/-- JOB_COMPLETE (R237, R238): a copy job goes on by about as much as the next choice says, all of it for 0, then fills its
registers, then ends; a number from 16 on names a drain. -/
def execJobComplete (s : State) : Res :=
  match s.ev with
  | some (.jobComplete ck i) =>
    .next (if 16 ≤ i then s.endDrain ck (i - 16)
      else match s.job ck i with
        | none => s
        | some j =>
          if !j.started || j.done || j.frozen then s
          else if j.bytes < j.total then
            let n := s.choose.1
            s.choose.2.moveJob ck i (2 * j.total + 2) (if n = 0 then j.total else 8 * n)
          else if !j.filled then if s.jobAcked j.id then s.sendFills ck i j else s
          else if j.fillsOut.isEmpty && s.jobSeen j.id then s.endJob ck i 0 else s)
  | _ => .fault .noEvent

/-- JOB_END_EARLY (R237): a job ends with a cause. -/
def execJobEndEarly (s : State) : Res :=
  match s.ev with
  | some (.jobEndEarly ck i cause) =>
    .next (match s.job ck i with
      | some j => if j.done then s else s.endJob ck i cause
      | none => s)
  | _ => .fault .noEvent

/-! ### Streams -/

/-- The binding of a queue of a core, with its slot (R99, R100). -/
def State.binding (s : State) (c q : Nat) : Option (Nat × QBind) :=
  (slotsOf c).findSome? fun k => if (s.slot k).occ then
    ((s.slot k).q.toList.find? fun b => b.bound && b.queue.val == q).map fun b => (k, b) else none
/-- A queue of a core. -/
def State.queueAt (s : State) (c q : Nat) : Queue := ((s.core c).queues.toArray.getD q [])
/-- Changes a queue of a core and how many of its elements have arrived at the peer. -/
def State.modQueue (s : State) (c q : Nat) (f : Queue → Queue) (t : Nat → Nat) : State :=
  s.modCore c fun x => { x with queues := Vector.ofFn fun i : Fin 8 => if i.val = q then f x.queues[i] else x.queues[i],
                                taken := Vector.ofFn fun i : Fin 8 => if i.val = q then t x.taken[i] else x.taken[i] }
/-- The COPYQ job attached to a queue of a core. -/
def State.streamJob (s : State) (c q : Nat) : Option (Nat × Job) :=
  (s.cluster (clusterOfCore c)).jobs.find? fun e =>
    !e.2.done && e.2.started && !e.2.frozen && coreOf e.2.k == c && (e.2.q.map (·.val)) == some q

/-- The element that a COPYQ job has read arrives at its inbound queue (R235). -/
def State.jobPush (s : State) (c q i : Nat) (j : Job) : State :=
  let w := elemWidth j.wide
  if Config.qdepth ≤ (s.queueAt c q).length ∨ j.buf.length < w then s
  else ((s.modQueue c q (· ++ [BitVec.ofNat 1024 (ofBytes (j.buf.take w))]) id).modJob (clusterOfCore c) i fun j =>
    { j with bytes := j.bytes + w, buf := j.buf.drop w }).rouse c

/-- STREAM_ELEMENT_ARRIVAL (R53, R100, R235): the oldest element of an outbound queue that has not arrived reaches its peer,
where the permission table lets it go (R324) and its router admits it, or is dropped there (R300); an inbound queue of the copy engine
gets its job's next element. -/
def execStreamElementArrival (s : State) : Res :=
  match s.ev with
  | some (.streamElementArrival c q) =>
    .next (match s.binding c q with
      | none => s
      | some (_, b) =>
        if b.eng then (match s.streamJob c q with
          | some (i, j) => if b.outbound then s else s.jobPush c q i j
          | none => s)
        else if !b.outbound then s
        else match (s.queueAt c q)[(s.core c).taken.toArray.getD q 0]? with
          | none => s
          | some x =>
            let ck := clusterOfCore b.pcore
            if Config.qdepth ≤ (s.queueAt b.pcore b.pq.val).length || !s.mayTo (clusterOfCore c) ck then s
            else if !s.admits (s.pidOf (clusterOfCore c)) ck none then
              (s.modQueue c q (·.eraseIdx ((s.core c).taken.toArray.getD q 0)) id).countDrop ck
            else ((s.modQueue b.pcore b.pq.val (· ++ [x]) id).modQueue c q id (· + 1)).rouse b.pcore)
  | _ => .fault .noEvent

/-- STREAM_ELEMENT_ACCEPT (R100, R235): the acceptance of an outbound queue's oldest element frees its entry; the element of a
queue of the copy engine goes to its job, which has not the bytes of a word left. -/
def execStreamElementAccept (s : State) : Res :=
  match s.ev with
  | some (.streamElementAccept c q) =>
    .next (match s.binding c q with
      | none => s
      | some (_, b) =>
        if b.eng then (match s.streamJob c q, s.queueAt c q with
          | some (i, j), x :: rest =>
            if b.outbound && decide (j.buf.length < 8) && decide (j.bytes + j.buf.length < j.total) then
              (s.modQueue c q (fun _ => rest) id).modJob (clusterOfCore c) i fun j =>
                { j with buf := j.buf ++ toBytes (elemWidth j.wide) x.toNat }
            else s
          | _, _ => s)
        else if (s.core c).taken.toArray.getD q 0 = 0 then s
        else s.modQueue c q List.tail (· - 1))
  | _ => .fault .noEvent

end Sys2Proof.Machine
end

