-- ==== Sys2Proof/Machine/Control.lean ====
section
/-! DEFINITION. Control transfers (R143-R149), TRAP, BRK and EXIT (R150-R153), and TSTX (R221). -/

namespace Sys2Proof.Machine

/-- Check(t) (R143): the traps of a target in their order, then whether the transfer crosses domains, with the page. Each trap
names the target as its fault address (log 37: DESIGN CHOICE; R338 lists no transfer target). -/
def withTarget (s : State) (t : Word) (nw : Nat) (f : Bool → TlbEnt → State → State) : State :=
  if t.toNat % 2 ≠ 0 then s.trap 5 t nw
  else if !canonical t.toNat then s.trap 6 t nw
  else withPage s t nw fun e s =>
    let me := s.me
    if e.dom = me.dom ∧ e.cls ≤ me.cls then f false e s
    else if !s.gateAt s.myCore me.asid.toNat e t.toNat then s.trap 0x0A t nw
    else match s.rowOf s.cur with
      | .fault c => s.trap c t nw
      | .frozen => s.parkRe 1 (.frozen (s.clock + 256)) nw
      | .ok (r, s) => if r.code e.dom != 3 then s.trap 8 t nw else f true e s

/-- The transfer itself: the PC, and the domain and class of the target's page, with the row reloaded where it crosses domains
(R101, R104, R143, R144). -/
def State.goTo (s : State) (t : Word) (e : TlbEnt) (cross : Bool) (nw : Nat) : State :=
  (s.enterPage s.cur e.dom e.cls cross).doneAt nw t
/-- A checked transfer: the target's line is fetched into the instruction cache first, before any effect (R144, R154); a line that
cannot be fetched traps at the target (R119). -/
def State.land (s : State) (t : Word) (e : TlbEnt) (cross : Bool) (nw : Nat) (effect : Slot → Slot) : State :=
  let asid := s.me.asid.toNat
  if s.icHit s.myCore asid e t.toNat || !s.routeUp s.myDev e.dev || (s.poisonOf e.key (e.pa t.toNat) 1).isSome then (s.modMe effect).goTo t e cross nw
  else (s.icFill s.myCore asid e t.toNat).parkRe 1 .latency nw

/-- A relative target (R143). -/
def relTarget (t : Slot) (imm : Int) : Word := t.pc + BitVec.ofInt 64 (2 * imm)
/-- The address after a chain of `nw` words (R120). -/
def afterChain (t : Slot) (nw : Nat) : Word := t.pc + BitVec.ofNat 64 (2 * nw)

/-- A plain transfer to a target that is a function of the slot; a call also writes g31 (R145). -/
def transfer (p : Pfx) (srcs : List (Fin 32)) (target : Slot → Word) (link : Bool) (s : State) : Res :=
  let nw := nw0 p
  run p nw false s fun s => withFull s srcs nw fun s =>
    let t := target s.me
    withTarget s t nw fun cross e s => s.land t e cross nw fun x => if link then x.wr 31 (afterChain x nw) else x

/-- BR (R145). -/
def execBr (p : Pfx) (imm : Int) (s : State) : Res := transfer p [] (relTarget · imm) false s
/-- CALL to a label (R145). -/
def execCall (p : Pfx) (imm : Int) (s : State) : Res := transfer p [] (relTarget · imm) true s
/-- JMP (R145). -/
def execJmp (p : Pfx) (a : Fin 32) (s : State) : Res := transfer p [a] (·.rd a) false s
/-- CALL by a register (R145). -/
def execCallReg (p : Pfx) (a : Fin 32) (s : State) : Res := transfer p [a] (·.rd a) true s
/-- RET (R145). -/
def execRet (p : Pfx) (s : State) : Res := transfer p [31] (·.rd 31) false s

/-- A domain return record (R148): the address keeps its bits [56:1]. -/
def DomRet.make (dom : BitVec 8) (ret : Word) : DomRet := DomRet.ofWord (DomRet.word { dom := dom, rpc := ret })

/-- CALLX (R146): the target is a gate even within the domain; a ninth record traps. -/
def callx (p : Pfx) (srcs : List (Fin 32)) (target : Slot → Word) (s : State) : Res :=
  let nw := nw0 p
  run p nw false s fun s => withFull s srcs nw fun s =>
    let t := target s.me
    withTarget s t nw fun cross e s =>
      if !cross && !s.gateAt s.myCore s.me.asid.toNat e t.toNat then s.trap 0x0A t nw
      else if 8 ≤ s.me.drs.length then s.trap 0x0A t nw
      else s.land t e cross nw fun x => { x with drs := x.drs ++ [DomRet.make x.dom (afterChain x nw)] }

/-- CALLX to a label (R146). -/
def execCallx (p : Pfx) (imm : Int) (s : State) : Res := callx p [] (relTarget · imm) s
/-- CALLX by a register (R146). -/
def execCallxReg (p : Pfx) (a : Fin 32) (s : State) : Res := callx p [a] (·.rd a) s

/-- RETX (R147): through the top record; the page must still have the record's domain. With an empty stack there is no target, and
the fault address is 0 (log 37). -/
def execRetx (p : Pfx) (s : State) : Res :=
  let nw := nw0 p
  run p nw false s fun s =>
    match s.me.drs.getLast? with
    | none => s.trap 0x0A 0 nw
    | some r => withPage s r.rpc nw fun e s =>
        if e.dom ≠ r.dom then s.trap 0x0A r.rpc nw
        else s.land r.rpc e (decide (s.me.cls.toNat < e.cls.toNat)) nw fun x => { x with drs := x.drs.dropLast }

/-- GATE (R149): no effect. -/
def execGate (p : Pfx) (s : State) : Res := run p (nw0 p) false s fun s => s.finish (nw0 p)

/-- A trap instruction: its trap outside a region; in one the abort alone, with no single-step trap (R151, R153, R154). -/
def trapInstr (p : Pfx) (cause : Nat) (s : State) : Res :=
  run p (nw0 p) false s fun s => if s.me.region.isSome then s.abort s.cur 6 else s.trap cause 0 (nw0 p)
/-- BRK (R151). -/
def execBrk (p : Pfx) (s : State) : Res := trapInstr p 0x12 s
/-- TRAP (R151). -/
def execTrap (p : Pfx) (code : Fin 64) (s : State) : Res := trapInstr p (0x40 + code.val) s

/-- The line of a target that a hint asks for is fetched into the instruction cache, without a trap (R117). -/
def State.hinted (s : State) (h : Hints) (t : Word) : State :=
  if h.taken && t.toNat % 2 == 0 && canonical t.toNat then
    match s.fetchPage s.myCore s.me.asid.toNat t.toNat s.me.cls.toNat with
    | .ok (e, s') =>
      if s.icHit s.myCore s.me.asid.toNat e t.toNat || !s.routeUp s.myDev e.dev || (s.poisonOf e.key (e.pa t.toNat) 1).isSome then s
      else s'.icFill s.myCore s.me.asid.toNat e t.toNat
    | _ => s
  else s

/-- TSTX (R221): branches when bit `bit` of the register is as `want` says; permitted in a region (R229). -/
def tstx (p : Pfx) (bit : Fin 64) (a : Fin 32) (imm : Int) (want : Bool) (s : State) : Res :=
  let nw := nwX p
  run p nw false s fun s => withFull s [a] nw fun s =>
    let t := relTarget s.me imm
    if tb (s.me.rd a).toNat bit.val != want then (s.hinted (hintsOf p) t).finish nw
    else
      withTarget s t nw fun cross e s => s.land t e cross nw id

/-- TSTX.set (R221). -/
def execTstxSet (p : Pfx) (bit : Fin 64) (a : Fin 32) (imm : Int) (s : State) : Res := tstx p bit a imm true s
/-- TSTX.clr (R221). -/
def execTstxClr (p : Pfx) (bit : Fin 64) (a : Fin 32) (imm : Int) (s : State) : Res := tstx p bit a imm false s

/-- EXIT (R152): once its stores are performed and its posted operations answered, and no remote fault is pending, the
slot is vacated. -/
def execExit (p : Pfx) (s : State) : Res :=
  let nw := nw0 p
  run p nw true s fun s =>
    if !(s.storesHome s.cur && s.postedAnswered s.cur && !s.recComing s.cur) then s.parkRe 10 .storesOut nw
    else withLanes s nw fun s => s.vacate s.cur

end Sys2Proof.Machine
end

