-- ==== Sys2Proof/Machine/Thread.lean ====
section
/-! DEFINITION. Threads and launches (R245-R248), and the control registers (R249). -/

namespace Sys2Proof.Machine

/-- WFW (R245): parks under cause 6 until the dispenser gives the thread an item (R41). -/
def execWfw (p : Pfx) (s : State) : Res :=
  run p (nwX p) true s fun s => (s.modSlot s.cur fun t => { t with item := none }).parkRe 6 .work (nwX p)

/-- The doubleword at an offset of the own scratchpad. A record that runs past its end goes on at its start: the spec does not say
(log 48: DESIGN CHOICE). -/
def State.ownWord (s : State) (off : Nat) : Word :=
  BitVec.ofNat 64 (ofBytes ((List.range 8).map fun i => s.mem.read (s.ownPa (off + i))))

/-- The node whose record of kind 2 has a resident loop push an item with a PC: the loop runs in slot 0 of its core (R41, R329; log 41:
DESIGN CHOICE). -/
def State.pushNode (s : State) (k : Nat) (pc : Word) : Option Placed :=
  let pid := s.pidOf (clusterOf k)
  if k % 16 ≠ 0 then none
  else (s.part pid).insts.findSome? fun (e : Nat × Inst) => e.2.pushLeft.findSome? fun (r : Nat × Nat × Nat) =>
    if r.2.1 == coreOf k && r.2.2 != 0 && (match e.2.nodes[r.1]? with
      | some (.running n ..) => n.lrec.map (·.entry) == some pc
      | _ => false) then some { pid := pid, inst := e.1, node := r.1 } else none
/-- One item fewer is to be pushed for a node by a core. -/
def State.pushed (s : State) (p : Placed) (c : Nat) : State :=
  let less := fun (r : Nat × Nat × Nat) => if r.1 = p.node ∧ r.2.1 = c then (r.1, r.2.1, r.2.2 - 1) else r
  let inst := fun (e : Nat × Inst) =>
    if e.1 = p.inst then (e.1, { e.2 with pushLeft := (e.2.pushLeft.map less).filter fun r => r.2.2 != 0 }) else e
  s.modPart p.pid fun q => { q with insts := q.insts.map inst }

/-- SPAWN (R246): more than 8 arguments answer 1; the PC is checked as a transfer's target; a full dispenser parks under
cause 8. -/
def execSpawn (p : Pfx) (d a : Fin 32) (s : State) : Res :=
  let nw := nwX p
  run p nw true s fun s => withFull s [a] nw fun s =>
    let la := (s.me.rd a).toNat % 2 ^ 18
    if la % 8 ≠ 0 then s.trap 5 (BitVec.ofNat 64 la) nw
    else
      let h := (s.ownWord la).toNat
      let n := bits h 59 56
      let pc := signExtend 8 (bits h 55 0 * 2 + (if tb h 55 then 127 * 2 ^ 57 else 0))
      if 8 < n then s.finishMe nw fun t => t.wr d 1
      else withTarget s pc nw fun _ _ s =>
        if Config.dspdepth ≤ (s.cluster s.myCluster).items.length then s.parkRe 8 .dispenser nw
        else
          let node := s.pushNode s.cur pc
          let it : Item := { pc := pc, args := (List.range n).map fun j => s.ownWord (la + 8 + 8 * j),
                             core := if tb h 63 then none else some (Fin.ofNat 8 (bits h 62 60)), asid := s.me.asid,
                             placed := node, by_ := s.me.node }
          let s := match node with
            | some p => s.pushed p s.myCore
            | none => s
          (s.modCluster s.myCluster fun x => { x with items := x.items ++ [it] }).finishMe nw fun t => t.wr d 0

/-- Whether a handle names a registered graph of a partition: its index and its serial (R331). -/
def State.graphOf (s : State) (pid handle : Nat) : Option Graph :=
  match (s.part pid).graphs.find? (·.1 == handle % 4096) with
  | some e => if e.2.serial % 2 ^ 20 = handle / 4096 % 2 ^ 20 then some e.2 else none
  | none => none

/-- What a launch port answers to a word, and the state after (R247, R331, R332). A handle that is not registered is answered 3 where the
port is full too: R247 gives the two answers no order (log 48: DESIGN CHOICE). -/
def State.launch (s : State) (pid : Nat) (w : Word) (session : Option (Nat × Nat)) : Nat × State :=
  match s.graphOf pid (w.toNat / 2 ^ 32) with
  | none => (3, s)
  | some g =>
    if 64 ≤ (s.part pid).port.length then (1, s)
    else
      let x : PortWord := { word := w, session := session, graph := g }
      (0, s.modPart pid fun q => { q with port := q.port ++ [x] })
/-- The launch of a thread: the word of an uncommitted node is held, and acknowledged (R385). -/
def State.launchBy (s : State) (k : Nat) (w : Word) : Nat × State :=
  match s.uncommitted k, s.graphOf (s.pidOf (clusterOf k)) (w.toNat / 2 ^ 32) with
  | some p, some g => (0, { s with nextId := s.nextId + 1 }.holdFx p s.nextId (.launch { word := w, session := none, graph := g }))
  | _, _ => s.launch (s.pidOf (clusterOf k)) w none

/-- LAUNCH (R247): a misplaced argument block answers 2; otherwise the thread parks for the port's answer. -/
def execLaunch (p : Pfx) (d a b : Fin 32) (s : State) : Res :=
  let nw := nwX p
  run p nw true s fun s => withFull s [a, b] nw fun s =>
    let blk := (s.me.rd b).toNat
    if blk % 64 ≠ 0 ∨ 2 ^ 38 ≤ blk then s.finishMe nw fun t => t.wr d 2
    else
      let r := s.launchBy s.cur (BitVec.ofNat 64 ((s.me.rd a).toNat % 2 ^ 32 * 2 ^ 32 + blk / 64))
      r.2.parkFin 1 .latency [.g d (BitVec.ofNat 64 r.1)] nw

/-- INRD (R248): pops the oldest task record into the own scratchpad. -/
def execInrd (p : Pfx) (d a : Fin 32) (s : State) : Res :=
  let nw := nwX p
  run p nw true s fun s => withFull s [a] nw fun s =>
    let la := (s.me.rd a).toNat % 2 ^ 18
    if la % 64 ≠ 0 then s.trap 5 (BitVec.ofNat 64 la) nw
    else match (s.core s.myCore).inbox with
      | [] => s.parkRe 11 .inbox nw
      | r :: rs =>
        let s := s.modCore s.myCore fun c => { c with inbox := rs }
        (s.homeWrite 0 (cellsAt (s.ownPa la) r) s.cur none).finishMe nw fun t => t.wr d (BitVec.ofNat 64 rs.length)

/-- KRD (R249): permitted in a region (R250). -/
def execKrd (p : Pfx) (n : Fin 64) (d : Fin 32) (s : State) : Res :=
  run p (nwX p) false s fun s => s.finishMe (nwX p) fun t => t.wr d (s.krd n)

/-- KWR (R249). -/
def execKwr (p : Pfx) (n : Fin 64) (a : Fin 32) (s : State) : Res :=
  run p (nwX p) true s fun s => withFull s [a] (nwX p) fun s =>
    s.finishMe (nwX p) fun t => { t with k := t.k.write n (t.rd a) }

end Sys2Proof.Machine
end

