-- ==== Sys2Proof/Machine/Graph.lean ====
section
/-! DEFINITION. The front end: registered graphs (R330, R331), launches (R332, R333), placement (R38-R40, R284, R288, R394),
GRFENCE (R334) and the recovery mode (R384, R385). -/

namespace Sys2Proof.Machine

/-! ### Reading tenant memory -/

/-- A failed step with another code. -/
def Tr.code {α : Type} (t : Tr α) (c : Nat) : Tr α := match t with
  | .fault _ => .fault c
  | t => t
/-- A test that fails with a code. -/
def Tr.test (b : Bool) (c : Nat) : Tr Unit := if b then .ok () else .fault c
/-- A step for each element of a list, in order. -/
def trAll {α β : Type} (f : α → Tr β) : List α → Tr (List β)
  | [] => .ok []
  | a :: l => (f a).bind fun b => (trAll f l).bind fun bs => .ok (b :: bs)

/-- The core whose tables firmware reads a partition's memory by: the asking thread's, or the partition's first (log 9). -/
def State.readCore (s : State) (pid : Nat) (by_ : Option Nat) : Nat := match by_ with
  | some k => coreOf k
  | none => (s.coresOf pid).headD 0
/-- The address and key of a virtual address of an address space, as firmware and the front end read it: a tenant's by class 1. -/
def State.vaAddr (s : State) (c asid va : Nat) (cls : Nat := 1) : Tr (Nat × Nat) :=
  (s.translate c asid va).bind fun es =>
    let a := es.1.pa va
    if !es.1.remote then (if cls < es.1.cls.toNat then .fault 8 else .ok (a, es.1.key))
    else if 512 ≤ es.1.dev then .fault 0x18
    else (s.stage2 es.1.dev es.1.pid (some cls) (a % 2 ^ 44)).bind fun l =>
      .ok (addrOf es.1.dev (l.frame + a % 2 ^ l.szlog), l.key)
/-- The bytes of a virtual range, page by page. -/
def State.readPieces (s : State) (c asid cls : Nat) : List (Nat × Nat) → Tr (List Byte)
  | [] => .ok []
  | (va, n) :: ps => (s.vaAddr c asid va cls).bind fun ak => (s.readPieces c asid cls ps).bind fun bs =>
      match s.chunkPoison [{ va := none, pa := ak.1, len := n, key := ak.2 }] with
      | some e => .fault e
      | none => .ok (s.bytesAt ak.2 ak.1 n ++ bs)
/-- The `n` bytes at a virtual address. -/
def State.readVa (s : State) (c asid va n : Nat) (cls : Nat := 1) : Tr (List Byte) := s.readPieces c asid cls (piecesOf va n)

/-- Verifies the pieces of ranges that firmware reads, up to the first that a mismatch or poison ends (R110, R379). -/
def State.verifyVa (s : State) (c asid : Nat) (cls : Nat := 1) : List (Nat × Nat) → State
  | [] => s
  | (va, n) :: ps => match s.vaAddr c asid va cls with
    | .ok ak => (match s.chunkPoison [{ va := none, pa := ak.1, len := n, key := ak.2 }] with
        | some _ => s.verifyAll ak.2 ak.1 n
        | none => s.verifyVa c asid cls ps)
    | _ => s

/-! ### Records (R327, R330) -/

/-- Whether bytes are zero. -/
def zeros (bs : List Byte) : Bool := bs.all fun b => b == 0
/-- A field of a record. -/
def fieldAt (bs : List Byte) (i n : Nat) : Nat := ofBytes (bytesIn bs i n)
/-- Tier `k` of a launch record. -/
def tierAt (bs : List Byte) (k : Nat) : Tier :=
  let x := fieldAt bs (64 + 8 * k) 8
  { groups := x % 2 ^ 32, members := bits x 47 32, hw := bits x 50 48, scope := bits x 55 52 }
/-- A launch record from its 128 bytes. -/
def launchRec (addr : Nat) (bs : List Byte) : LaunchRec :=
  { addr := BitVec.ofNat 64 addr, entry := BitVec.ofNat 64 (fieldAt bs 0 8), nargs := fieldAt bs 9 1,
    fuse := tb (fieldAt bs 10 1) 0, asid := BitVec.ofNat 16 (fieldAt bs 12 2), sbind := BitVec.ofNat 64 (fieldAt bs 16 8),
    tiers := (List.range (fieldAt bs 8 1)).map (tierAt bs) }
/-- Whether the scope of a tier is as wide as its hardware tier (R39). -/
def Tier.scopeOk (t : Tier) : Bool := 8 ≤ t.scope || (t.scope ≤ 6 && (if 6 ≤ t.hw then t.scope == 6 else t.hw ≤ t.scope))
/-- The work slots of one instance of a hardware tier that holds resident groups (R39). -/
def tierRoom (hw : Nat) : Option Nat := match hw with
  | 1 => some 15
  | 2 => some 120
  | 3 => some 960
  | _ => none
/-- The threads of one group of each tier. -/
def groupSizes : Nat → List Tier → List Nat
  | _, [] => []
  | n, t :: ts => n * t.members :: groupSizes (n * t.members) ts
/-- The conditions of R39 that hold of a record alone. -/
def tiersOk (ts : List Tier) : Bool :=
  (match ts with
    | t :: _ => t.hw == 0 && t.members == 1
    | [] => false) &&
  (ts.zip ts.tail).all (fun e => e.1.hw ≤ e.2.hw && e.1.groups == e.2.groups * e.2.members) &&
  (ts.getLast?.map fun t => t.groups == 1).getD false &&
  ts.all (fun t => t.scopeOk && decide (0 < t.groups) && decide (0 < t.members)) &&
  (ts.zip (groupSizes 1 ts)).all fun e => match tierRoom e.1.hw with
    | some n => e.2 ≤ n
    | none => true
/-- Whether a launch record is as R327 and R39 ask. -/
def recOk (bs : List Byte) (r : LaunchRec) : Bool :=
  r.addr.toNat % 64 == 0 && r.entry.toNat % 2 == 0 && decide (1 ≤ fieldAt bs 8 1) && decide (fieldAt bs 8 1 ≤ 8) &&
  decide (r.nargs ≤ 8) && decide (fieldAt bs 10 1 < 2) && zeros (bytesIn bs 11 1) && zeros (bytesIn bs 14 2) &&
  r.sbind.toNat % 64 == 0 && zeros (bytesIn bs 32 32) &&
  ((List.range (fieldAt bs 8 1)).all fun k => let x := fieldAt bs (64 + 8 * k) 8; !tb x 51 && bits x 63 56 == 0) && tiersOk r.tiers
/-- Whether a version note lets its code object be loaded (R129, R130). -/
def noteOk (bs : List Byte) : Bool :=
  bytesIn bs 0 4 == [0x56, 0x58, 0x56, 0x4E] && fieldAt bs 4 2 == 1 && decide (1 ≤ fieldAt bs 6 2) &&
  decide (fieldAt bs 6 2 ≤ Config.isarev) && fieldAt bs 8 2 == Config.qdepth && fieldAt bs 10 2 == Config.sqdepth &&
  fieldAt bs 12 2 == Config.difdepth && fieldAt bs 14 2 == Config.cjslots && fieldAt bs 16 2 == Config.inbox &&
  fieldAt bs 18 2 == Config.afifo && fieldAt bs 20 2 == Config.dspdepth && zeros (bytesIn bs 22 10)

/-- The stream binding entries of a thread (R99), as eight doublewords. -/
def bindWords (bs : List Byte) : List Nat := (List.range 8).map fun i => fieldAt bs (8 * i) 8
/-- The core that an entry names, on the devices as the core's device sees them. -/
def State.peerCore (s : State) (d0 x : Nat) : Option Nat :=
  if 40 ≤ bits x 28 23 then none
  else (s.keyOfNum d0 (bits x 39 31)).map fun d => (d * 160 + bits x 30 29 * 40 + bits x 28 23) * 8 + bits x 22 20
/-- A binding from an entry (R99). -/
def State.bindOf (s : State) (d0 x : Nat) : QBind :=
  { bound := tb x 63, outbound := tb x 62, wide := tb x 61, queue := Fin.ofNat 8 (bits x 60 58), eng := tb x 57,
    pcore := (s.peerCore d0 x).getD 0, pq := Fin.ofNat 8 (bits x 19 17) }
/-- Whether two entries can be the two ends of a stream (R100). -/
def endsMatch (x y : Nat) : Bool :=
  tb y 63 && !tb y 57 && tb x 62 != tb y 62 && tb x 61 == tb y 61 && bits x 60 58 == bits y 19 17 && bits y 60 58 == bits x 19 17
/-- Whether the entries of one thread are as R100 asks of them, each with a peer among all entries. -/
def State.bindOk (s : State) (pid d0 : Nat) (all xs : List Nat) : Bool :=
  let ys := xs.filter fun x => tb x 63
  (ys.map fun x => bits x 60 58).Nodup && xs.all (fun x => bits x 56 40 == 0 && bits x 16 0 == 0) &&
  ys.all fun x => tb x 57 || ((match s.peerCore d0 x with
    | some c => s.pidOf (clusterOfCore c) == pid
    | none => false) && all.any (endsMatch x))

/-- A footprint entry from its 16 bytes; none where a reserved bit is set. -/
def footEnt (bs : List Byte) : Option FootEnt :=
  let x := fieldAt bs 8 8
  if bits x 63 41 ≠ 0 then none
  else some { base := BitVec.ofNat 64 (fieldAt bs 0 8), len := bits x 39 0 + 1, write := tb x 40 }
/-- The set bits of a number below 256. -/
def bitList (x : Nat) : List Nat := (List.range 256).filter (tb x)
/-- Whether the fields of node record `j` are in range (R330). -/
def nodeOk (j : Nat) (bs : List Byte) : Bool :=
  let fence := fieldAt bs 16 1 == 1
  decide (fieldAt bs 16 1 ≤ 1) && (fieldAt bs 0 8 == 0) == fence && fieldAt bs 0 8 % 64 == 0 && fieldAt bs 8 8 % 16 == 0 &&
  decide (fieldAt bs 17 1 ≤ 16) && decide (fieldAt bs 18 1 ≤ 1) && zeros (bytesIn bs 19 13) && fieldAt bs 32 32 / 2 ^ j == 0

/-- The pages of a virtual range, with the domain of each. -/
def State.pagesOf (s : State) (c asid : Nat) : Nat → Nat → Nat → Tr (List (Chunk × BitVec 8))
  | 0, _, _ => .ok []
  | fuel + 1, va, n =>
    if n = 0 then .ok []
    else (s.translate c asid va).bind fun es =>
      let z := if es.1.remote then 16 else es.1.szlog
      let n1 := min n (2 ^ z - va % 2 ^ z)
      (s.vaAddr c asid va).bind fun ak => (s.pagesOf c asid fuel ((va + n1) % 2 ^ 64) (n - n1)).bind fun ps =>
        .ok (({ va := some va, pa := ak.1, len := n1, key := ak.2 }, es.1.dom) :: ps)
/-- The pages of a footprint entry. -/
def State.entPages (s : State) (c asid : Nat) (f : FootEnt) : Tr (List (Chunk × BitVec 8)) :=
  s.pagesOf c asid (f.len / 65536 + 2) f.base.toNat f.len
/-- What a node's footprint covers: each chunk with whether it is written; a page that is not mapped covers nothing. -/
def State.nodeFoot (s : State) (c : Nat) (n : NodeRec) : List (Chunk × Bool) :=
  n.foot.flatMap fun f => match s.entPages c ((n.lrec.map (·.asid.toNat)).getD 0) f with
    | .ok ps => ps.map fun p => (p.1, f.write)
    | _ => []
/-- Whether a page of a node's footprint stands at a frozen leaf, which is read again later (R320). -/
def State.footFrozen (s : State) (c : Nat) (n : NodeRec) : Bool :=
  n.foot.any fun f => match s.entPages c ((n.lrec.map (·.asid.toNat)).getD 0) f with
    | .frozen => true
    | _ => false
/-- Whether two footprints share a line that one of them writes (R330, R385). -/
def footsMeet (a b : List (Chunk × Bool)) : Bool := a.any fun x => b.any fun y => (x.2 || y.2) && x.1.sameLine y.1

/-! ### Placement (R40, R284, R288, R394) -/

/-- The instance of a hardware tier that a core lies in. -/
def State.instOf (s : State) (hw c : Nat) : Nat := match hw with
  | 0 => c
  | 1 => c
  | 2 => c / 8
  | 3 => c / 320 * 5 + c / 8 % 40 / 8
  | 4 => c / 320
  | 5 => c / 1280
  | 6 => s.numOf (c / 1280) / 64
  | _ => 0
/-- The instances of a hardware tier among cores. -/
def State.instances (s : State) (hw : Nat) (cores : List Nat) : List (List Nat) :=
  ((cores.map (s.instOf hw)).eraseDups).map fun i => cores.filter fun c => s.instOf hw c == i
/-- The product of the members of tiers. -/
def prodMembers (ts : List Tier) : Nat := (ts.map (·.members)).prod

/-- The cores of the instance of a hardware tier that a core lies in. -/
def State.instCores (s : State) (hw c : Nat) : List Nat :=
  ((if hw < 6 then [devOfCore c] else s.devs.map (·.1)).flatMap fun d => (List.range 1280).map (d * 1280 + ·)).filter fun x =>
    s.instOf hw x == s.instOf hw c
/-- Whether the scope of a tier, where it is a named one, contains every core of the instance that some cores lie in (R39). The spec
does not say which entry a record's scope 8 to 15 names while no thread has a selector: it is entry 0 to 7 of the partition's table
(log 41: DESIGN CHOICE). -/
def State.scopeHolds (s : State) (pid : Nat) (t : Tier) (ic : List Nat) : Bool :=
  t.scope < 8 || match ic with
    | [] => true
    | c :: _ => (s.instCores t.hw c).all fun x => s.holdsCore (.named pid (t.scope - 8)) x
/-- How many groups of the outermost tier bound to core a group of the first tier holds, where that is bound to cluster. Of two tiers
bound to core under a cluster tier, which R40 lets share a core, the outer one's groups are the ones that R284 keeps apart (log 48:
DESIGN CHOICE). -/
def coreGroups : List Tier → Option Nat
  | [] => none
  | t :: rest => if t.hw = 2 then (coreGroups rest).map (t.members * ·) else if t.hw = 1 then some 1 else none

/-- The slots already given to threads, as (slot, thread) pairs. -/
abbrev Used := List (Nat × Nat)
/-- What bounds the placement of a launch: whether an instance may hold a group, whether a thread may take a slot beside those already
given, whether a slot can be taken at all, and whether a core differs from others by more than its free slots. -/
structure PlaceBy where
  fit : Tier → List Nat → Bool
  ok : Nat → Nat → Used → Bool
  free : Nat → Bool
  mark : Nat → Bool

/-- The free work slots of a core. -/
def PlaceBy.room (b : PlaceBy) (used : Used) (c : Nat) : List Nat :=
  let mine := used.filter fun e => coreOf e.1 == c
  (slotsOf c).filter fun k => k % 16 != 0 && b.free k && !(mine.any fun e => e.1 == k)
/-- A number put into a list in ascending order. -/
def insertNat (x : Nat) : List Nat → List Nat
  | [] => [x]
  | y :: ys => if x ≤ y then x :: y :: ys else y :: insertNat x ys
/-- What tells some cores apart from others of their kind: how many have how much room, and which are marked. -/
def PlaceBy.coresKey (b : PlaceBy) (used : Used) (ic : List Nat) : List Nat :=
  ((ic.filter fun c => !b.mark c).map fun c => 2048 ^ (b.room used c).length).sum :: ic.filter b.mark
/-- The same for an instance that holds groups bound to cluster: by its clusters. -/
def PlaceBy.instKey (b : PlaceBy) (used : Used) (rest : List Tier) (t : Tier) (ic : List Nat) : List Nat :=
  if t.hw ≤ 2 ∨ !(rest.any fun r => r.hw == 2) then b.coresKey used ic
  else
    let parts := ((ic.map clusterOfCore).eraseDups).map fun ck => b.coresKey used (ic.filter fun c => clusterOfCore c == ck)
    (parts.filterMap List.head?).foldr insertNat [] ++ parts.flatMap List.tail
/-- The first of each kind of a list. -/
def firstOf {α : Type} (key : α → List Nat) : List α → List (List Nat) → List α
  | [], _ => []
  | a :: l, seen => if seen.contains (key a) then firstOf key l seen else a :: firstOf key l (key a :: seen)
/-- Places `n` groups in turn, on cores that the earlier ones leave where they are to be apart, and goes on with `k`; where a later
step finds no place, an earlier one is tried elsewhere. -/
def placeMembers (place : List Nat → Nat → Used → (Used → Option Used) → Option Used) (spread : Bool) (step : Nat) :
    Nat → List Nat → Nat → Used → (Used → Option Used) → Option Used
  | 0, _, _, used, k => k used
  | n + 1, cores, t0, used, k => place cores t0 used fun u =>
      let new := (u.drop used.length).map fun e => coreOf e.1
      placeMembers place spread step n (if spread then cores.filter fun c => !new.contains c else cores) (t0 + step) u k
/-- Places one group of the first of the tiers (deepest last) among cores, from thread `t0` on, and goes on with `k`; of instances that
nothing tells apart the first stands for all. A cluster's few core groups go to distinct cores (R284). -/
def State.placeGroup (s : State) (b : PlaceBy) : List Tier → List Nat → Nat → Used → (Used → Option Used) → Option Used
  | [], _, _, _, _ => none
  | t :: rest, cores, t0, used, k =>
    match rest with
    | [] => (firstOf (fun c => b.coresKey used [c]) (cores.filter fun c => b.fit t [c]) []).findSome? fun c =>
        match (b.room used c).find? fun x => b.ok t0 x used with
        | some x => k (used ++ [(x, t0)])
        | none => none
    | _ :: _ =>
      let spread := t.hw == 2 && (coreGroups (t :: rest)).any (decide <| · ≤ 8)
      let size := t.members * prodMembers rest
      if t.hw = 0 ∧ 1 < t.members then none
      else (firstOf (b.instKey used rest t) ((s.instances t.hw cores).filter fun ic =>
          b.fit t ic && decide (size ≤ ((ic.map fun c => (b.room used c).length).sum))) []).findSome? fun ic =>
        placeMembers (fun cs t0 used k => s.placeGroup b rest cs t0 used k) spread (prodMembers rest) t.members ic t0 used k

/-- The tiers whose groups may be split in time, deepest last, and those of one resident unit (R40). -/
def upperTiers (r : LaunchRec) : List Tier := r.tiers.reverse.takeWhile fun t => decide (4 ≤ t.hw)
def unitTiers (r : LaunchRec) : List Tier := r.tiers.reverse.dropWhile fun t => decide (4 ≤ t.hw)
/-- How many of the partition's devices the groups bound to device under a cell or span group take (R288). -/
def devGroups : List Tier → Nat
  | t :: u :: rest => if t.hw < 6 then 0 else if u.hw = 5 then t.members else devGroups (u :: rest)
  | _ => 0
/-- The cores that unit `u` of a launch may take: those of its groups' instances, which are chosen in turn among the ones that can
hold a unit; the device groups of a cell or span group go to the partition's devices in order, so that a cell group stands in the cell
that has them (R288). `all` are the partition's cores. -/
def State.unitCores (s : State) (b : PlaceBy) (unit : List Tier) (all : List Nat) :
    List Tier → Nat → Nat → Nat → List Nat → Option (List Nat)
  | [], _, _, _, cores => some cores
  | t :: rest, u, j, above, cores =>
    let next := fun ic => s.unitCores b unit all rest u (u / prodMembers rest % t.members) t.hw ic
    let devs := s.instances 5 all
    if 6 ≤ above ∧ t.hw = 5 then (devs[j]?).bind fun ic => if b.fit t ic && ic.all cores.contains then next ic else none
    else
      let is := (s.instances t.hw cores).filter fun ic => b.fit t ic &&
        ((devs.take (devGroups (t :: rest))).all fun d => d.all ic.contains) && (s.placeGroup b unit ic 0 [] some).isSome
      (is[j % is.length]?).bind next
/-- The cores in the order of their devices' numbers. -/
def State.byDevice (s : State) (cores : List Nat) : List Nat :=
  let ds := ((cores.map fun c => s.numOf (c / 1280)).eraseDups).mergeSort
  ds.flatMap fun n => cores.filter fun c => s.numOf (c / 1280) == n
/-- The number of units of a launch, and the threads of one. -/
def unitCount (r : LaunchRec) : Nat := prodMembers (upperTiers r)
def unitSize (r : LaunchRec) : Nat := prodMembers (unitTiers r)
/-- The same bounds with nothing asked of a thread and every slot free. -/
def PlaceBy.empty (b : PlaceBy) : PlaceBy := { b with ok := fun _ _ _ => true, free := fun _ => true }
/-- The bounds of a placement by the named scopes of the tiers as they are now (R39): a core may differ from another by being in one. -/
def State.byScopes (s : State) (pid : Nat) (r : LaunchRec) : PlaceBy :=
  { fit := s.scopeHolds pid, ok := fun _ _ _ => true, free := fun _ => true, mark := fun _ => r.tiers.any fun t => 8 ≤ t.scope }
/-- No bounds but those of R40. -/
def PlaceBy.all : PlaceBy := { fit := fun _ _ => true, ok := fun _ _ _ => true, free := fun _ => true, mark := fun _ => false }
/-- The cores that unit `u` of a launch of a partition may take. -/
def State.coresFor (s : State) (pid : Nat) (b : PlaceBy) (r : LaunchRec) (u : Nat) : Option (List Nat) :=
  s.unitCores b.empty (unitTiers r) (s.byDevice (s.coresOf pid)) (upperTiers r) u 0 0 (s.byDevice (s.coresOf pid))
/-- Whether every unit of a launch can be placed in the partition when nothing else is (R331). -/
def State.placeableBy (s : State) (pid : Nat) (b : PlaceBy) (r : LaunchRec) : Bool :=
  (List.range (unitCount r)).all fun u => match s.coresFor pid b r u with
    | some cs => (s.placeGroup b (unitTiers r) cs (u * unitSize r) [] some).isSome
    | none => false
/-- The same with the named scopes of its tiers as they are now (R39). -/
def State.placeable (s : State) (pid : Nat) (r : LaunchRec) : Bool := s.placeableBy pid (s.byScopes pid r) r
/-- Whether the stream bindings of thread `t` may stand on a core beside those placed before it: no queue twice, and each peer that
names the core, and is itself where the thread names it (R100). -/
def State.bindFits (s : State) (binds : Nat → List Nat) (total t c : Nat) (used : Used) : Bool :=
  let mates := (used.filter fun e => coreOf e.1 == c).flatMap fun e => (binds e.2).filter fun x => tb x 63
  (binds t).all fun x => !tb x 63 || (!(mates.any fun y => bits y 60 58 == bits x 60 58) &&
    (tb x 57 || (List.range total).any fun u => ((binds u).any fun y => endsMatch x y && s.peerCore (devOfCore c) y == some c) &&
      (match used.find? fun e => e.2 == u with
        | some e => s.peerCore (devOfCore c) x == some (coreOf e.1)
        | none => true)))

/-- Whether a core is told apart from others by the stream bindings of a launch: one names it. -/
def State.boundCore (s : State) (d0 : Nat) (binds : List (List Nat)) (c : Nat) : Bool :=
  binds.any fun xs => xs.any fun x => tb x 63 && s.peerCore d0 x == some c

/-! ### Registration (R331) -/

/-- A node of a graph with the bytes of its launch record. -/
structure NodeRaw where
  j : Nat
  bs : List Byte
  lbs : List Byte
  foot : List FootEnt

/-- The launch record of a raw node. -/
def NodeRaw.rec_ (n : NodeRaw) : LaunchRec := launchRec (fieldAt n.bs 0 8) n.lbs
/-- Whether a raw node is a GRFENCE. -/
def NodeRaw.fence (n : NodeRaw) : Bool := fieldAt n.bs 16 1 == 1

/-- Row 2: the header, the nodes and the footprint entries. -/
def State.readNodes (s : State) (c asid header : Nat) : Tr (List NodeRaw) :=
  ((s.readVa c asid header 64).bind fun h =>
    let n := fieldAt h 0 2
    let arr := fieldAt h 8 8
    (Tr.test (1 ≤ n && n ≤ 256 && arr % 64 == 0 && zeros (bytesIn h 2 6) && zeros (bytesIn h 16 48)) 2).bind fun _ =>
      trAll (fun j => (s.readVa c asid ((arr + 64 * j) % 2 ^ 64) 64).bind fun bs =>
        (Tr.test (nodeOk j bs) 2).bind fun _ =>
          (s.readVa c asid (fieldAt bs 8 8) (16 * fieldAt bs 17 1)).bind fun fb =>
            let es := (List.range (fieldAt bs 17 1)).map fun i => footEnt (bytesIn fb (16 * i) 16)
            (Tr.test (es.all Option.isSome) 2).bind fun _ =>
              .ok { j := j, bs := bs, lbs := [], foot := es.filterMap id }) (List.range n)).code 2
/-- Row 3: the code object of a node, by its version note. -/
def State.checkNote (s : State) (c asid : Nat) (n : NodeRaw) : Tr NodeRaw :=
  if n.fence then .ok n
  else ((s.readVa c asid (fieldAt n.bs 0 8) 128).code 4).bind fun lb =>
    ((s.readVa c asid (fieldAt lb 24 8) 32).code 3).bind fun nb =>
      (Tr.test (noteOk nb) 3).bind fun _ => .ok { n with lbs := lb }
/-- Row 5: the stream bindings of a node: each entry, and the launch as a whole, which must have a place where the ends of its streams
meet, if it has a place at all (R100). -/
def State.checkBinds (s : State) (pid c asid : Nat) (n : NodeRaw) : Tr Unit :=
  let r := n.rec_
  if n.fence || r.sbind == 0 then .ok ()
  else
    let m := prodMembers r.tiers
    ((s.readVa c asid r.sbind.toNat (64 * m)).code 5).bind fun bs =>
      let ts := (List.range m).map fun t => bindWords (bytesIn bs (64 * t) 64)
      let by_ : PlaceBy := { PlaceBy.all with ok := fun t k used => s.bindFits (fun t => ts.getD t []) m t (coreOf k) used,
                                              mark := s.boundCore (devOfCore c) ts }
      Tr.test (ts.all (s.bindOk pid (devOfCore c) ts.flatten) && (!s.placeableBy pid PlaceBy.all r || s.placeableBy pid by_ r)) 5
/-- Rows 6 and 7: the footprint of a node, mapped, and with rights in the row of its entry page's domain. -/
def State.checkFoot (s : State) (c : Nat) (rights : Bool) (n : NodeRaw) : Tr Unit :=
  let r := n.rec_
  if n.fence then .ok ()
  else if !rights then ((trAll (s.entPages c r.asid.toNat) n.foot).code 6).bind fun _ => .ok ()
  else ((s.fetchPage c r.asid.toNat r.entry.toNat 1).code 7).bind fun es =>
    ((s.readRow c r.asid.toNat es.1.dom.toNat).code 7).bind fun row =>
      (trAll (fun f => ((s.entPages c r.asid.toNat f).code 7).bind fun ps =>
        Tr.test (ps.all fun p => decide ((if f.write then 2 else 1) ≤ row.code p.2)) 7) n.foot).bind fun _ => .ok ()
/-- A checked node: its edges, with those derived from footprints (R330). -/
def State.nodeRec (s : State) (c : Nat) (ns : List NodeRaw) (n : NodeRaw) : NodeRec :=
  let mk := fun (n : NodeRaw) (preds : List Nat) =>
    ({ lrec := if n.fence then none else some n.rec_, fence := n.fence, derive_ := tb (fieldAt n.bs 18 1) 0, foot := n.foot,
       preds := preds } : NodeRec)
  let preds := bitList (fieldAt n.bs 32 32)
  let derived := if tb (fieldAt n.bs 18 1) 0 then
    (ns.filter fun m => decide (m.j < n.j) && footsMeet (s.nodeFoot c (mk n [])) (s.nodeFoot c (mk m []))).map (·.j) else []
  mk n (preds ++ derived.filter fun i => !preds.contains i)
/-- Rows 2 to 8 of the registration results, in their order (R331). -/
def State.checkGraph (s : State) (pid c asid header : Nat) : Tr (List NodeRec) :=
  (s.readNodes c asid header).bind fun ns =>
    (trAll (s.checkNote c asid) ns).bind fun ns =>
      (trAll (fun n => Tr.test (n.fence || recOk n.lbs n.rec_) 4) ns).bind fun _ =>
        (trAll (s.checkBinds pid c asid) ns).bind fun _ =>
          (trAll (s.checkFoot c false) ns).bind fun _ =>
            (trAll (s.checkFoot c true) ns).bind fun _ =>
              (trAll (fun n => Tr.test (n.fence || s.placeableBy pid PlaceBy.all n.rec_) 8) ns).bind fun _ =>
                .ok (ns.map (s.nodeRec c ns))

/-- The ranges that the checks of a graph read, in their order: the header, the nodes with their footprints, the launch records with
their notes, the stream bindings. -/
def State.graphReads (s : State) (c asid header : Nat) : List (Nat × Nat) :=
  let get := fun (va n : Nat) => match s.readVa c asid va n with
    | .ok bs => bs
    | _ => []
  let h := get header 64
  let node := fun (j : Nat) => (fieldAt h 8 8 + 64 * j) % 2 ^ 64
  let js := (List.range (fieldAt h 0 2)).take 256
  let recs := (js.map fun j => fieldAt (get (node j) 64) 0 8).filter (· != 0)
  (header, 64) :: (js.flatMap fun j => [(node j, 64), (fieldAt (get (node j) 64) 8 8, 16 * fieldAt (get (node j) 64) 17 1)]) ++
    (recs.flatMap fun a => [(a, 128), (fieldAt (get a 128) 24 8, 32)]) ++
    recs.filterMap fun a => let r := launchRec a (get a 128)
      if r.sbind = 0 then none else some (r.sbind.toNat, 64 * prodMembers r.tiers)
/-- Verifies what the checks of a graph read (R110, R379). -/
def State.verifyGraph (s : State) (c asid header : Nat) : State :=
  s.verifyVa c asid 1 ((s.graphReads c asid header).flatMap fun e => piecesOf e.1 e.2)

/-- Answers the request of a thread, if it still waits (R367). -/
def State.answerTo (s : State) (by_ : Option Nat) (x : Word) : State := match by_ with
  | some k => (s.mailAnswer k (s.slot k).gen.toNat x).2
  | none => s
/-- An outside event that cannot happen yet is tried again on a later clock. -/
def State.retry (s : State) (e : Event) : State := { s with inputs := s.inputs ++ [(s.clock + 256, e)] }
/-- The lowest free index of a partition's graph table. -/
def Part.freeGraph (p : Part) : Nat := ((List.range 4096).find? fun i => !p.graphs.has i).getD 0

/-- GRAPH_REGISTER (R331): the answer holds the handle and the code. -/
def execGraphRegister (s : State) : Res :=
  match s.ev with
  | some (.graphRegister pid asid header by_) =>
    let p := s.part pid
    let s := s.verifyGraph (s.readCore pid by_) asid header
    .next (if 4096 ≤ p.graphs.length then s.answerTo by_ (BitVec.ofNat 64 (2 ^ 32))
      else match s.checkGraph pid (s.readCore pid by_) asid header with
        | .frozen => s.retry (.graphRegister pid asid header by_)
        | .fault c => s.answerTo by_ (BitVec.ofNat 64 (c * 2 ^ 32))
        | .ok ns =>
          let i := p.freeGraph
          let ser := (p.regSerial + 1) % 2 ^ 20
          let g : Graph := { serial := ser, asid := BitVec.ofNat 16 asid, header := BitVec.ofNat 64 header, nodes := ns, stale := false }
          (s.modPart pid fun p => { p with graphs := p.graphs.set i g, regSerial := ser }).answerTo by_
            (BitVec.ofNat 64 (ser * 4096 + i)))
  | _ => .fault .noEvent

/-- GRAPH_UNREGISTER (R331). -/
def execGraphUnregister (s : State) : Res :=
  match s.ev with
  | some (.graphUnregister pid h by_) =>
    .next (match s.graphOf pid h with
      | some _ => (s.modPart pid fun p => { p with graphs := p.graphs.del (h % 4096) }).answerTo by_ 0
      | none => s.answerTo by_ 0)
  | _ => .fault .noEvent

/-! ### Instances (R332, R333) -/

/-- Whether a partition's front end holds back its nodes: a save or a stop is in progress (R336, R346). -/
def State.frontHeld (s : State) (pid : Nat) : Bool :=
  (s.part pid).save.isSome || (s.part pid).rolling.isSome || (s.part pid).killed ||
    (s.clustersOf pid).any fun ck => (s.cluster ck).stopAt.isSome

/-! ### Held effects (R385) -/

/-- Whether an operation has not been performed yet. -/
def State.flying (s : State) (id : Nat) : Bool := s.net.any (·.id == id) || s.lanes.any fun l => l.flight.any (·.id == id)
/-- Sends the held effects of a node on in their order: the next once the one before it is performed; a launch word that finds its port
full, a message whose role no core serves, stays held with what follows it (R332, R385). The result says what stays. -/
def State.sendFx (s : State) (pid : Nat) : List HeldFx → List HeldFx × State
  | [] => ([], s)
  | h :: hs => match h.fx with
    | .msg m =>
      if h.sent then (if s.flying m.id then (h :: hs, s) else s.sendFx pid hs)
      else ({ h with sent := true } :: hs, match m.kind with
        | .op e => s.toLane e
        | _ => { s with net := s.net ++ [m] })
    | .launch w =>
      if 64 ≤ (s.part pid).port.length then (h :: hs, s)
      else State.sendFx (s.modPart pid fun p => { p with port := p.port ++ [w] }) pid hs
    | .mail d role r => (match s.nextRole d role with
        | (none, _) => (h :: hs, s)
        | (some c, s) => State.sendFx (s.modCore c fun x => { x with mail := x.mail ++ [r] }) pid hs)
/-- Releases the held effects of a node that has committed, in order (R385). -/
def State.releaseFx (s : State) (pid i j : Nat) : State :=
  let mine := fun (h : HeldFx) => h.inst == i && h.node == j
  let r := s.sendFx pid ((s.part pid).heldFx.filter mine)
  r.2.modPart pid fun p => { p with heldFx := r.1 ++ p.heldFx.filter fun h => !mine h }
/-- Whether a node of a partition is running. -/
def State.nodeRuns (s : State) (pid i j : Nat) : Bool :=
  match ((s.part pid).insts.get Inst.blank i).nodes[j]? with
  | some (.running ..) => true
  | _ => false

/-- The partition whose word the front end takes next: of those that have one and are not held back, the first after the one served
last (R332). -/
def State.portTurn (s : State) : Option Nat :=
  let ps := ((s.parts.filter fun e => !e.2.port.isEmpty && !s.frontHeld e.1).map (·.1)).mergeSort
  match ps.find? fun p => decide (s.frontLast < p) with
  | some p => some p
  | none => ps.head?
/-- The instance that a launch word starts: every node waits (R332). -/
def PortWord.start (w : PortWord) : Inst :=
  { Inst.blank with handle := BitVec.ofNat 32 (w.word.toNat / 2 ^ 32), graph := w.graph,
                    argb := BitVec.ofNat 64 (w.word.toNat % 2 ^ 32 * 64), session := w.session,
                    nodes := w.graph.nodes.map fun _ => NodeState.waiting }
/-- LAUNCH_WORD_ACCEPT (R332, R336): the oldest word of a port starts an instance, when its partition's turn has come. -/
def execLaunchWordAccept (s : State) : Res :=
  match s.ev with
  | some (.launchWordAccept pid) =>
    .next (match (s.part pid).port with
      | [] => s
      | w :: ws => if s.frontHeld pid || s.portTurn != some pid then s
        else { s with frontLast := pid }.modPart pid fun p =>
          { p with port := ws, insts := p.insts.set p.nextInst w.start, nextInst := (p.nextInst + 1) % 2 ^ 32 })
  | _ => .fault .noEvent

/-- An instance of a partition. -/
def State.inst (s : State) (pid i : Nat) : Inst := (s.part pid).insts.get Inst.blank i
/-- Changes an instance. -/
def State.modInst (s : State) (pid i : Nat) (f : Inst → Inst) : State :=
  s.modPart pid fun p => { p with insts := p.insts.map fun e => if e.1 = i then (e.1, f e.2) else e }
/-- Sets where a node stands. -/
def Inst.setNode (x : Inst) (j : Nat) (n : NodeState) : Inst := { x with nodes := x.nodes.mapIdx fun i m => if i = j then n else m }
/-- Forgets an instance that has ended and runs nothing. -/
def State.tidyInst (s : State) (pid i : Nat) : State :=
  let x := s.inst pid i
  if x.ended && x.nodes.all fun n => match n with
    | .running .. => false
    | _ => true
  then s.modPart pid fun p => { p with insts := p.insts.del i } else s

/-- Whether a thread of a node has still to exit: its slot is still to be filled, it stands there, or it is saved. -/
def State.threadOn (s : State) (p : Placed) (todo : List Nat) (k : Nat) : Bool :=
  todo.contains k || (s.slot k).placed == some p ||
    (s.part p.pid).images.any fun e => e.2.slots.any fun t => t.1 == k && t.2.placed == some p
/-- Whether a group of a partition's launches holds a slot: it does until all its threads have exited (R40). -/
def State.slotHeld (s : State) (pid k : Nat) : Bool :=
  (s.part pid).insts.any fun e => e.2.nodes.zipIdx.any fun n => match n.1 with
    | .running r _ todo held =>
      let size := (r.lrec.map unitSize).getD 1
      held.any fun x => x.1 == k && held.any fun y => y.2 / size == x.2 / size &&
        s.threadOn { pid := pid, inst := e.1, node := n.2 } todo y.1
    | _ => false
/-- Whether the records of another launch are on their way to a core, so that none may be sent it now (R329). -/
def State.recsAhead (s : State) (pid : Nat) (me : Nat × Nat) (c : Nat) : Bool :=
  (s.part pid).insts.any fun e => e.2.placedRecs.any fun r => r.2.1 == c && (e.1, r.1) != me
/-- Whether a cluster holds a thread of some launch, or is to (R96): in a slot, as a work item, by a record. -/
def State.clusterTaken (s : State) (pid ck : Nat) : Bool :=
  ((coresIn ck).any fun c => (slotsOf c).any fun k => (s.slot k).node.isSome) ||
  ((s.cluster ck).items.any fun it => it.placed.isSome) ||
  (s.part pid).insts.any fun i => (i.2.pushLeft.any fun r => clusterOfCore r.2.1 == ck) ||
    (i.2.placedRecs.any fun r => clusterOfCore r.2.1 == ck) || i.2.nodes.any fun n => match n with
    | .running _ _ todo _ => todo.any fun k => clusterOf k == ck
    | _ => false
/-- Whether a slot can be given to a thread of the launch of a node: it is vacant and nobody's, its cluster's fusing fits, its core has
the records of earlier launches (R40, R96, R329). -/
def State.slotVacant (s : State) (pid : Nat) (me : Nat × Nat) (r : LaunchRec) (k : Nat) : Bool :=
  let ck := clusterOf k
  !(s.slot k).occ && !(s.cluster ck).hold && (s.cluster ck).stopAt.isNone && !s.slotHeld pid k && !s.recsAhead pid me (coreOf k) &&
  ((s.cluster ck).fused == r.fuse || !s.clusterTaken pid ck)
/-- The queues that are bound on a core. -/
def State.boundQueues (s : State) (c : Nat) : List Nat :=
  (slotsOf c).flatMap fun k => (s.slot k).q.toList.filterMap fun b => if b.bound then some b.queue.val else none
/-- The bounds of the placement of a launch now: thread `t` takes a slot whose core has its queues free and where its streams meet
their peers (R100). -/
def State.placeBy (s : State) (pid : Nat) (me : Nat × Nat) (r : LaunchRec) (binds : Nat → List Nat) (total : Nat) : PlaceBy :=
  let all := if r.sbind = 0 then [] else (List.range total).map binds
  let d0 := ((s.coresOf pid).head?.map devOfCore).getD 0
  let cores := s.coresOf pid
  let queues := if r.sbind = 0 then [] else cores.map fun c => (c, s.boundQueues c)
  let free := (cores.flatMap slotsOf).filter (s.slotVacant pid me r)
  { fit := s.scopeHolds pid,
    ok := fun t k used => r.sbind == 0 || (((binds t).all fun x => !tb x 63 ||
      !(queues.any fun e => e.1 == coreOf k && e.2.contains (bits x 60 58))) && s.bindFits binds total t (coreOf k) used),
    free := free.contains,
    mark := fun c => (r.tiers.any fun t => 8 ≤ t.scope) || s.boundCore d0 all c || queues.any fun e => e.1 == c && !e.2.isEmpty }

/-- Chooses slots for the units of a launch from thread `t0` on, as many units as find room. -/
def State.chooseSlots (s : State) (pid : Nat) (r : LaunchRec) (b : PlaceBy) : Nat → Nat → Used → Used
  | 0, _, used => used
  | fuel + 1, u, used =>
    if unitCount r ≤ u then used
    else match (s.coresFor pid b r u).bind fun cs => s.placeGroup b (unitTiers r) cs (u * unitSize r) used some with
      | some used => s.chooseSlots pid r b fuel (u + 1) used
      | none => used

/-- Runs of threads that one task record covers: one core, threads in a row. -/
def runsOf : List (Nat × Nat) → List (List (Nat × Nat))
  | [] => []
  | e :: es => match runsOf es with
    | [] => [[e]]
    | r :: rs => match r with
      | f :: _ => if coreOf f.1 = coreOf e.1 ∧ f.2 = e.2 + 1 ∧ e.1 < f.1 then (e :: r) :: rs else [e] :: r :: rs
      | [] => [e] :: rs
/-- The task record of a run (R329): of kind 1, which places threads in slots, or of kind 2, which pushes work items. -/
def taskRecord (push : Bool) (inst lrec argb : Nat) (run : List (Nat × Nat)) : List Byte :=
  [if push then 2 else 1, BitVec.ofNat 8 run.length, 0, 0] ++ toBytes 4 inst ++ toBytes 8 lrec ++ toBytes 8 argb ++
    toBytes 8 ((run.head?.map (·.2)).getD 0) ++ toBytes 2 (if push then 0 else (run.map fun e => 2 ^ (e.1 % 16)).sum) ++
    List.replicate 30 0

/-- Whether the predecessors of a node have completed. -/
def Inst.ready (x : Inst) (n : NodeRec) : Bool := n.preds.all fun i => x.nodes[i]? == some .done
/-- The footprints of the running nodes of a partition. -/
def State.runningFeet (s : State) (pid c : Nat) : List (List (Chunk × Bool)) :=
  (s.part pid).insts.flatMap fun e => e.2.nodes.filterMap fun n => match n with
    | .running r .. => some (s.nodeFoot c r)
    | _ => none
/-- Makes the undo copies of a node's write regions; none where they exceed the free area (R385). -/
def State.undoCopies (s : State) (pid i j c : Nat) (n : NodeRec) : Option State :=
  let ws := ((s.nodeFoot c n).filter (·.2)).map (·.1)
  let usedUp := (((s.part pid).insts.flatMap fun e => e.2.undo).map fun u => u.bytes.length).sum
  if (s.part pid).area * 2 ^ 20 < usedUp + (ws.map (·.len)).sum then none
  else some (s.modInst pid i fun x => { x with undo := x.undo ++ ws.map fun w =>
    { node := j, pa := w.pa, key := w.key, bytes := s.bytesAt w.key w.pa w.len } })

/-- The task records of the chosen threads, on their way (R329). -/
def Inst.sendRecs (x : Inst) (push : Bool) (i j : Nat) (r : LaunchRec) (es : List (Nat × Nat)) : Inst :=
  { x with placedRecs := x.placedRecs ++ (runsOf es).map fun run =>
      (j, coreOf ((run.head?.map (·.1)).getD 0), taskRecord push i r.addr.toNat x.argb.toNat run) }
/-- Makes the bindings of a thread in its slot (R99). -/
def State.bindSlot (s : State) (binds : Nat → List Nat) (e : Nat × Nat) : State :=
  s.modSlot e.1 fun t => { t with q := Vector.ofFn fun q : Fin 8 =>
    match (binds e.2)[q.val]? with
    | some x => s.bindOf (devOfSlot e.1) x
    | none => QBind.none }
/-- Fuses or parts the L1s of a cluster: a change empties them (R96). -/
def State.fuse (s : State) (ck : Nat) (fused : Bool) : State :=
  if (s.cluster ck).fused = fused then s
  else (coresIn ck).foldl (fun s c => s.modCore c fun x => { x with l1 := [] }) (s.modCluster ck fun x => { x with fused := fused })
/-- Gives the chosen slots to the node: the bindings (R99), the fusing (R96), the acquire of its start (R330), the task
records. A slot that an earlier unit of the node held is the later one's (R394). -/
def State.giveSlots (s : State) (pid i j next : Nat) (todo : List Nat) (held : List (Nat × Nat)) (n : NodeRec) (r : LaunchRec)
    (binds : Nat → List Nat) (es : List (Nat × Nat)) : State :=
  let s := es.foldl (fun s e => (((s.bindSlot binds e).fuse (clusterOf e.1) r.fuse).catchUp (coreOf e.1)).dropFar (coreOf e.1) true) s
  let held := (held.filter fun h => !(es.any fun e => e.1 == h.1)) ++ es
  s.modInst pid i fun x =>
    ((x.setNode j (.running n (next + es.length) (todo ++ es.map (·.1)) held)).sendRecs false i j r es)
/-- Has the threads pushed as work items by the resident loops of their cores (R329): any core of a cluster may take one, so its
cores fuse or part their L1s and make the acquire of the node's start (R96, R330). -/
def State.givePushes (s : State) (pid i j next : Nat) (todo : List Nat) (held : List (Nat × Nat)) (n : NodeRec) (r : LaunchRec)
    (es : List (Nat × Nat)) : State :=
  let cks := (es.map fun e => clusterOf e.1).eraseDups
  let s := cks.foldl (fun s ck => (coresIn ck).foldl (fun s c => (s.catchUp c).dropFar c true) (s.fuse ck r.fuse)) s
  s.modInst pid i fun x => (x.setNode j (.running n (next + es.length) todo held)).sendRecs true i j r es

/-- Reads the stream binding entries of a launch's threads. -/
def State.readBinds (s : State) (c : Nat) (asid : Nat) (r : LaunchRec) : Nat → List Nat :=
  if r.sbind = 0 then fun _ => []
  else fun t => match s.readVa c asid (r.sbind.toNat + 64 * t) 64 with
    | .ok bs => bindWords bs
    | _ => []

/-- Places what fits of a kernel node from thread `next` on (R40, R385). Where every group is one thread without streams, the next
choice may have the threads pushed as work items instead, which go to threads that wait in WFW: the spec does not say when the front
end sends such records (R329; log 41: DESIGN CHOICE). -/
def State.placeNode (s : State) (pid i j next : Nat) (todo : List Nat) (held : List (Nat × Nat)) (n : NodeRec) (r : LaunchRec) : State :=
  let x := s.inst pid i
  let c := s.readCore pid none
  let binds := s.readBinds c x.graph.asid.toNat r
  let total := prodMembers r.tiers
  let es := s.chooseSlots pid r (s.placeBy pid (i, j) r binds total) (unitCount r) (next / unitSize r) []
  if !s.placeable pid r then s.endInst pid i j 0x30
  else if es.isEmpty then s
  else
    let g := if r.sbind == 0 && unitSize r == 1 && !(s.part pid).recoverable then s.choose else (0, s)
    if g.1 ≠ 0 then g.2.givePushes pid i j next todo held n r es
    else if next = 0 ∧ (s.part pid).recoverable then match g.2.undoCopies pid i j c n with
      | none => s.endInst pid i j 0x30
      | some s => s.giveSlots pid i j next todo held n r binds es
    else g.2.giveSlots pid i j next todo held n r binds es

/-- A graph whose records are to be read again. -/
def Graph.old (g : Graph) : Graph := { g with stale := true }
/-- Discards every copy of a partition's graph records (R334). -/
def State.refetch (s : State) (pid : Nat) : State :=
  let word := fun (w : PortWord) => { w with graph := w.graph.old }
  s.modPart pid fun p =>
    { p with graphs := p.graphs.map fun (e : Nat × Graph) => (e.1, e.2.old),
             insts := p.insts.map fun (e : Nat × Inst) => (e.1, { e.2 with graph := e.2.graph.old }),
             port := p.port.map word,
             heldFx := p.heldFx.map fun (h : HeldFx) => { h with fx := match h.fx with
               | .launch w => .launch (word w)
               | x => x } }
/-- A graph with the records that memory holds now. -/
def Graph.read (g : Graph) (ns : List NodeRec) : Graph := { g with nodes := ns, stale := false }
/-- The records of a graph have been read again: the table and the instance go on with them (R334). -/
def State.freshen (s : State) (pid i : Nat) (ns : List NodeRec) : State :=
  let serial := (s.inst pid i).graph.serial
  (s.modPart pid fun p => { p with graphs := p.graphs.map fun (e : Nat × Graph) =>
      if e.2.serial = serial then (e.1, e.2.read ns) else e }).modInst pid i fun x =>
    { x with graph := x.graph.read ns,
             nodes := x.nodes.take ns.length ++ List.replicate (ns.length - x.nodes.length) NodeState.waiting }
/-- Whether another launch of a partition has threads still to place, which go before those of a later one (R329): a launch is what
one launch record describes (R38). -/
def State.placingOther (s : State) (pid i j : Nat) : Bool :=
  (s.part pid).insts.any fun e => !e.2.ended && e.2.status.isNone && e.2.nodes.zipIdx.any fun n => (e.1, n.2) != (i, j) && match n.1 with
    | .running r next .. => (r.lrec.map fun l => decide (next < prodMembers l.tiers)).getD false
    | _ => false
/-- A GRFENCE node whose predecessors are done (R334): it discards every copy of the partition's records and checks the graph. -/
def State.fenceNode (s : State) (pid i j : Nat) : State :=
  let g := (s.inst pid i).graph
  let s := s.verifyGraph (s.readCore pid none) g.asid.toNat g.header.toNat
  match s.checkGraph pid (s.readCore pid none) g.asid.toNat g.header.toNat with
  | .frozen => s
  | .fault _ => (s.modPart pid fun p => { p with graphs := p.graphs.filter fun e => e.2.serial != g.serial }).endInst pid i j 0x31
  | .ok ns => ((s.refetch pid).freshen pid i ns).modInst pid i fun x => x.setNode j .done
/-- Reads the records of an instance's graph again before one of its nodes is looked at (R334); a graph that no longer passes its
checks has a node that cannot be placed (log 41: DESIGN CHOICE). -/
def State.rereadGraph (s : State) (pid i j : Nat) : State :=
  let x := s.inst pid i
  if x.ended || x.status.isSome then s
  else
    let s := s.verifyGraph (s.readCore pid none) x.graph.asid.toNat x.graph.header.toNat
    match s.checkGraph pid (s.readCore pid none) x.graph.asid.toNat x.graph.header.toNat with
    | .frozen => s
    | .fault _ => s.endInst pid i j 0x30
    | .ok ns => s.freshen pid i ns

/-- NODE_START (R332, R334, R385). -/
def execNodeStart (s : State) : Res :=
  match s.ev with
  | some (.nodeStart pid i j) =>
    let x := s.inst pid i
    .next (if s.frontHeld pid then s
      else match x.nodes[j]? with
        | some (.running n next todo held) => (match n.lrec with
            | some r => if next < prodMembers r.tiers && x.status.isNone then s.placeNode pid i j next todo held n r else s
            | none => s)
        | some .waiting =>
          if x.graph.stale then s.rereadGraph pid i j
          else (match x.graph.nodes[j]? with
            | none => s
            | some n =>
              if !x.ready n || x.status.isSome || x.ended then s
              else if n.fence then s.fenceNode pid i j
              else if s.placingOther pid i j then s
              else
                let c := s.readCore pid none
                if (s.part pid).recoverable && (s.footFrozen c n || (s.runningFeet pid c).any (footsMeet (s.nodeFoot c n))) then s
                else (match n.lrec with
                  | some r => s.placeNode pid i j 0 [] [] n r
                  | none => s))
        | _ => s)
  | _ => .fault .noEvent

/-- A record has entered the inbox of its core: the items that one of kind 2 has its resident loop push are counted (R329). -/
def Inst.delivered (x : Inst) (r : Nat × Nat × List Byte) : Inst :=
  { x with placedRecs := x.placedRecs.erase r,
           pushLeft := if fieldAt r.2.2 0 1 = 2 then x.pushLeft ++ [(r.1, r.2.1, fieldAt r.2.2 1 1)] else x.pushLeft }
/-- TASK_RECORD_WRITE (R41, R329): the oldest instance's record for a core enters its inbox, when there is room. -/
def execTaskRecordWrite (s : State) : Res :=
  match s.ev with
  | some (.taskRecordWrite c) =>
    let pid := s.pidOf (clusterOfCore c)
    .next (if Config.inbox ≤ (s.core c).inbox.length then s
      else match (s.part pid).insts.findSome? fun e => (e.2.placedRecs.find? fun r => r.2.1 == c).map fun r => (e.1, r) with
        | some (i, r) => ((s.modInst pid i fun x => x.delivered r).modCore c fun y => { y with inbox := y.inbox ++ [r.2.2] }).rouse c
        | none => s)
  | _ => .fault .noEvent

/-- Whether a slice has a TWLD or a TDRAIN of a node's threads still to complete. -/
def Slice.worksFor (x : Slice) (p : Placed) : Bool :=
  ((x.ldQ ++ x.ldRun.toList).any fun o => o.placed == some p) || (x.drains.any fun d => d.d.placed == some p) ||
  (x.accQ ++ x.accRun.toList).any fun o => match o with
    | .tdrain d => d.placed == some p
    | _ => false
/-- Whether a copy engine job, TWLD or TDRAIN of a node's threads has still to complete, in its place or in an image (R332). -/
def State.jobsOf (s : State) (p : Placed) : Bool :=
  (s.clusters.any fun e => e.2.jobs.any fun j => !j.2.done && j.2.placed == some p) || (s.cores.any fun e => e.2.slice.worksFor p) ||
  (s.part p.pid).images.any fun e => (e.2.jobs.any fun j => !j.2.done && j.2.placed == some p) || (!e.2.led && e.2.state.slice.worksFor p)
/-- Whether a work item of a node has still to be pushed, given or ended (R329, R332). -/
def State.itemsOf (s : State) (p : Placed) : Bool :=
  ((s.inst p.pid p.inst).pushLeft.any fun r => r.1 == p.node) || (s.clusters.any fun e => e.2.items.any fun it => it.placed == some p) ||
  (s.slots.any fun e => e.2.item == some p) || (s.part p.pid).images.any fun e => e.2.slots.any fun t => t.2.item == some p
/-- Whether a node's threads have exited and their jobs completed (R332). -/
def State.nodeOver (s : State) (pid i j : Nat) : Bool :=
  let x := s.inst pid i
  let p : Placed := { pid := pid, inst := i, node := j }
  match x.nodes[j]? with
  | some (.running n next todo _) =>
    (x.status.isSome || ((n.lrec.map fun r => decide (prodMembers r.tiers ≤ next)).getD true && todo.isEmpty &&
      !x.placedRecs.any fun r => r.1 == j)) &&
    !((s.part pid).images.any fun e => e.2.slots.any fun t => t.2.placed == some p) &&
    !(s.slots.any fun e => e.2.placed == some p) && !s.itemsOf p && !s.jobsOf p
  | _ => false

/-- NODE_COMPLETE (R332, R385): the node commits, and its held effects go on. -/
def execNodeComplete (s : State) : Res :=
  match s.ev with
  | some (.nodeComplete pid i j) =>
    .next (if s.nodeOver pid i j then
        ((s.modInst pid i fun x => { (x.setNode j .done) with undo := x.undo.filter fun u => u.node != j }).releaseFx pid i j).tidyInst
          pid i
      else if s.nodeRuns pid i j then s else s.releaseFx pid i j)
  | _ => .fault .noEvent

/-- The status an instance ends with: the one it has, or 0 when all nodes are done (R333). -/
def Inst.endStatus (x : Inst) : Option (Nat × Nat) :=
  if x.ended then Option.none
  else match x.status with
    | some e => some e
    | none => if x.nodes.all fun n => n == .done then some (0, 0xFFFF) else none
/-- The completion word (R333). -/
def completionWord (e : Nat × Nat) : Nat := 1 + e.1 * 2 ^ 8 + e.2 % 65536 * 2 ^ 16

/-- Writes the completion word as a release at span scope, and sends it over the session that the launch came by (R333). -/
def State.complete (s : State) (pid i : Nat) (x : Inst) (e : Nat × Nat) : State :=
  let c := s.readCore pid none
  let bs := toBytes 8 (completionWord e)
  let s := match s.vaAddr c x.graph.asid.toNat (x.argb.toNat + 128) with
    | .ok ak => s.jobWrite (clusterOfCore c) ak.2 ak.1 bs (16 * c) jobWriter s.nextId (some ({ scope := .span, core := c } : RelTag))
    | _ => s
  let s := match x.session with
    | some (d, n) => if (s.dev d).sessions.any fun x => x.id == n && x.open_ then
        s.modDev d fun d => { d with sent := d.sent ++ [({ port := sessPort n, etype := 0x0800, payload := bs } : Frame)] } else s
    | none => s
  (s.modInst pid i fun x => { x with ended := true }).tidyInst pid i

/-- INSTANCE_COMPLETE (R333): it waits while the block's page is frozen. -/
def execInstanceComplete (s : State) : Res :=
  match s.ev with
  | some (.instanceComplete pid i) =>
    let x := s.inst pid i
    .next (match x.endStatus with
      | some e => (match s.vaAddr (s.readCore pid none) x.graph.asid.toNat (x.argb.toNat + 128) with
          | .frozen => s
          | _ => s.complete pid i x e)
      | none => s)
  | _ => .fault .noEvent

/-- RECOVERY_MODE_SET (R384): refused while an instance runs, out of range, or when the frames cannot supply the area, which the
next choice says where it is not 0. -/
def execRecoveryModeSet (s : State) : Res :=
  match s.ev with
  | some (.recoveryModeSet pid mode area by_) =>
    .next (if (s.part pid).insts.any fun e => !e.2.ended then s.answerTo by_ 1
      else if 2 ≤ mode ∨ (mode = 1 ∧ (area = 0 ∨ 65536 ≤ area)) ∨ (mode = 0 ∧ area ≠ 0) then s.answerTo by_ 2
      else
        let r := if mode = 1 then s.choose else (0, s)
        if r.1 ≠ 0 then r.2.answerTo by_ 3
        else (r.2.modPart pid fun p => { p with recoverable := mode == 1, area := area }).answerTo by_ 0)
  | _ => .fault .noEvent

end Sys2Proof.Machine
end

