-- ==== Sys2Proof/Machine/Save.lean ====
section
/-! DEFINITION. The synchronised stop and the save of contexts (R346-R357, R391), the watchdogs (R370), and the kill of a
partition (R355). -/

namespace Sys2Proof.Machine

/-- The clock of a cluster's device. -/
def State.clkOf (s : State) (ck : Nat) : Nat := (s.dev (devOf ck)).clk
/-- The clocks of a microsecond (R353). -/
def usClocks : Nat := 1300

/-! ### Clearing and killing -/

/-- Whether an address lies in the local memory or the weight memory of a cluster (R87). -/
def inCluster (ck a : Nat) : Bool :=
  devOfAddr a == devOf ck &&
  ((isLocalWin (localOfAddr a) && clusterOfWin a == ck) ||
   (isWeightWin (localOfAddr a) && (localOfAddr a - 2 ^ 43) / 2 ^ 25 == ck % 160))
/-- A slot whose registers are cleared; its name and its system registers stay. -/
def Slot.cleared (t : Slot) : Slot := { Slot.vacant with gen := t.gen, tsave := t.tsave, asid := t.asid, asidNext := t.asidNext }
/-- A core whose storage is cleared; its system registers, its sleep, its mail and its messages stay. -/
def Core.cleared (x : Core) : Core :=
  { Core.reset with sq := x.sq, mail := x.mail, tvec := x.tvec, astab := x.astab, sdepth := x.sdepth, asleep := x.asleep,
                    slept := x.slept, wakeEnd := x.wakeEnd, heldFills := x.heldFills, misses := x.misses, narrow := x.narrow }
/-- The drains of a slice, accepted or started. -/
def Slice.owed (x : Slice) : List Drain :=
  x.drains.map (·.d) ++ (x.accQ ++ x.accRun.toList).filterMap fun o => match o with
    | .tdrain d => some d
    | _ => none
/-- The references of the jobs and the drains of a cluster that end when its storage is cleared: no image holds them (R108). -/
def State.lostRefs (s : State) (ck : Nat) : List Nat :=
  let images := (s.part (s.pidOf ck)).images
  let held := fun (j : Job) => j.frozen && images.any fun e => e.1 == coreOf j.k && e.2.jobs.any fun x => x.2.id == j.id
  (((s.cluster ck).jobs.filter fun j => !j.2.done && !held j.2).flatMap fun j => j.2.refs) ++
  (coresIn ck).flatMap fun c => if images.any fun e => e.1 == c && !e.2.led then [] else (s.slice c).owed.flatMap (·.refs)
/-- Clears a cluster's on-chip storage (R109): L1, local memory, weight memory, register files, tiles, queues, dispenser. What its jobs
and drains refer to is no longer in use (R108). -/
def State.clearCluster (s : State) (ck : Nat) : State :=
  let s := s.useCounts false (s.lostRefs ck)
  { s with mem := s.mem.filter fun c => !inCluster ck c.1,
           lmEmpty := s.lmEmpty.filter fun w => !inCluster ck (w * 8),
           poison := s.poison.filter fun e => !inCluster ck (e.1 * 64),
           tags := s.tags.filter fun e => !inCluster ck (e.1 * 64), checks := s.checks.filter fun e => !inCluster ck (e.1 * 64),
           slots := s.slots.map fun e => if clusterOf e.1 = ck then (e.1, e.2.cleared) else e,
           cores := s.cores.map fun e => if clusterOfCore e.1 = ck then (e.1, e.2.cleared) else e,
           clusters := s.clusters.map fun e => if e.1 = ck then
             (e.1, { e.2 with konst := [], items := [], served := 7, jobs := [], feet := [], gang := none, stall := none,
                              late := false, bank := [], reserved := [] }) else e }

/-- Retires an owner key of a device (R380): the L2 lines under it go without writeback, and it becomes free; identifier 0 stays. -/
def State.retireKey (s : State) (d id : Nat) : State :=
  if id = 0 then s
  else { s with l2 := s.l2.filter fun l => devOfAddr (l.line * 64) != d || l.ser != (s.dev d).keys.get 0 id }.modDev d fun x =>
    { x with keys := x.keys.del id }

/-- The node an instance stopped at, where it is killed as a whole. -/
def Inst.atNode (x : Inst) : Nat := (x.nodes.findIdx? fun n => n != .done).getD 0
/-- Kills a partition (R355): its clusters are held, its slots vacated, its instances end with status 0x32, its on-chip storage
is cleared, its keys are retired; jobs, packets and images are discarded. -/
def State.killPart (s : State) (pid : Nat) : State :=
  let cks := s.clustersOf pid
  let s := s.answerTo ((s.part pid).save.bind (·.replyTo)) 2
  let refs := (s.part pid).images.flatMap fun e => (e.2.jobs.flatMap fun j => if j.2.done then [] else j.2.refs) ++
    if e.2.led then [] else e.2.state.slice.owed.flatMap (·.refs)
  let s := cks.foldl (fun s ck => s.modCluster ck fun x =>
    { x with hold := true, armStop := none, armResume := none, stopAt := none }) s
  let s := (cks.flatMap fun ck => (List.range 128).map (ck * 128 + ·)).foldl (fun s k => if (s.slot k).occ then s.kill k else s) s
  let s := (s.part pid).insts.foldl (fun s e => s.endInst pid e.1 e.2.atNode 0x32) s
  let s := (s.part pid).insts.foldl (fun s e => match e.2.endStatus with
    | some r => s.complete pid e.1 e.2 r
    | none => s) s
  let s := { s with net := s.net.filter fun m => m.pid != pid && s.pidOf (clusterOf m.k) != pid,
                    lanes := s.lanes.filter fun l => s.pidOf (clusterOf l.k) != pid }
  let s := cks.foldl (fun s ck => (coresIn ck).foldl (fun s c => s.modCore c fun x =>
    { x with sq := [], misses := [], heldFills := [], narrow := [] }) (s.clearCluster ck)) s
  let s := s.useCounts false refs
  let s := (s.part pid).keys.foldl (fun s e => s.retireKey e.1 e.2) s
  s.modPart pid fun p =>
    { p with port := [], graphs := [], insts := [], save := none, images := [], heldFx := [], rolling := none, killed := true }

/-- WATCHDOG_EXPIRY (R370): the partition is killed, unless the watchdog was reloaded. -/
def execWatchdogExpiry (s : State) : Res :=
  match s.ev with
  | some (.watchdogExpiry d pid) =>
    .next (match (s.dev d).dogs.find? fun e => e.1 == pid with
      | some (_, w) =>
        if w.period ≠ 0 ∧ w.left = 0 then (s.modDev d fun x => { x with dogs := x.dogs.del pid }).killPart pid else s
      | none => s)
  | _ => .fault .noEvent

/-! ### Stop and resume (R346, R347, R356) -/

/-- SYNC_STOP (R346, R347): the cluster counts as stopped from S on (R353). -/
def execSyncStop (s : State) : Res :=
  match s.ev with
  | some (.syncStop ck) =>
    .next (match (s.cluster ck).armStop with
      | some a =>
        if s.clkOf ck < a.at_ then s
        else
          let s := ((coresIn ck).flatMap slotsOf).foldl (fun s k => s.stopSlot k) s
          s.modCluster ck fun x => { x with armStop := none, stopAt := some a.at_ }
      | none => s)
  | _ => .fault .noEvent

/-- Whether a core's image lets it be resumed: it has none, or a sealed one that is resident (R356, R357). -/
def Part.mayResume (p : Part) (c : Nat) : Bool :=
  match p.images.find? fun e => e.1 == c with
  | some e => e.2.sealAt.isSome && e.2.res
  | none => true
/-- A slot goes on after a stop (R171, R356): what was saved counts its reservations as written. -/
def Slot.goesOn (t : Slot) (clock : Nat) : Slot :=
  { t with stopped := false, saved := false, readyAt := max t.readyAt clock,
           resv := if t.saved then t.resv.map fun r => { r with written := true } else t.resv }
/-- Answers the sender of a save that a resume or a release of its clusters ends: they are no longer stopped (R391; log 10: DESIGN
CHOICE). -/
def State.endSave (s : State) (pid ck : Nat) : State :=
  match (s.part pid).save with
  | some v => if v.cores.any fun c => clusterOfCore c == ck then
      ({ s with net := v.packets.map (fun (e : Nat × Msg) => e.2) ++ s.net }.modPart pid fun p => { p with save := none }).answerTo v.replyTo 1
    else s
  | none => s
/-- What remains of the images of a cluster's cores once its threads go on: those not of a resumable one, and those that wait for room. -/
def Part.resumed (p : Part) (ck : Nat) : FMap Image :=
  p.images.filter fun (e : Nat × Image) => e.2.waits.isSome || !(clusterOfCore e.1 == ck && p.mayResume e.1)
/-- SYNC_RESUME (R356): frozen jobs go on, captured packets are sent, leased lines are gone. -/
def execSyncResume (s : State) : Res :=
  match s.ev with
  | some (.syncResume ck) =>
    .next (match (s.cluster ck).armResume with
      | some a =>
        if s.clkOf ck < a.at_ ∨ !s.resumable ck then s
        else
          let pid := s.pidOf ck
          let p := s.part pid
          let packets := (p.images.filter fun e => clusterOfCore e.1 == ck && p.mayResume e.1 && e.2.waits.isNone).flatMap fun e => e.2.packets
          let onSlot := fun (e : Nat × Slot) => if clusterOf e.1 = ck ∧ e.2.stopped ∧ p.mayResume (coreOf e.1)
            then (e.1, e.2.goesOn s.clock) else e
          let onCore := fun (e : Nat × Core) => if clusterOfCore e.1 = ck ∧ p.images.has e.1
            then (e.1, { e.2 with l1 := e.2.l1.filter fun l => l.lease.isNone }) else e
          let s := { s with slots := s.slots.map onSlot, cores := s.cores.map onCore, net := packets ++ s.net }
          let s := s.modCluster ck fun x =>
            { x with stopAt := none, armResume := none,
                     jobs := x.jobs.map fun (j : Nat × Job) => (j.1, { j.2 with frozen := false }) }
          (s.endSave pid ck).modPart pid fun q => { q with images := p.resumed ck }
      | none => s)
  | _ => .fault .noEvent

/-! ### The save (R348-R354) -/

/-- The clock Q + 2,048 on which the jobs of a core that a save names freeze; for a cluster that is held, Q is the clock of the request
(R348, R390; log 10). -/
def State.freezeAt (s : State) (c : Nat) : Option Nat :=
  let x := s.cluster (clusterOfCore c)
  match (s.part (s.pidOf (clusterOfCore c))).save with
  | some v => if v.cores.contains c && (x.stopAt.isSome || x.hold) then some (max (x.stopAt.getD 0) v.request + 2048) else none
  | none => none
/-- JOB_FREEZE (R348): a job still running issues no further access. -/
def execJobFreeze (s : State) : Res :=
  match s.ev with
  | some (.jobFreeze ck i) =>
    let c := coreOf ((((s.cluster ck).jobs.find? fun j => j.1 == i).map (·.2.k)).getD (ck * 128))
    .next (match s.freezeAt c with
      | some t => if t ≤ s.clkOf ck then s.modJob ck i fun j => if j.done then j else { j with frozen := true } else s
      | none => s)
  | _ => .fault .noEvent

/-- Whether the slices of a core have nothing that can start or is running (R348): what waits for a frozen job stays. -/
def State.arrayDrained (s : State) (c : Nat) : Bool :=
  let x := s.slice c
  let ck := clusterOfCore c
  x.accQ.isEmpty && x.accRun.isNone && x.ldRun.isNone && x.drains.all (fun d => !s.footFree ck d.d.id) &&
  match x.ldQ with
  | [] => true
  | o :: _ => !s.footFree ck o.id
/-- Whether a slot has ended as its stop or its hold asks: what its request does at its home is done (R347, R393). -/
def State.slotEnded (s : State) (k : Nat) : Bool :=
  let t := s.slot k
  !t.occ || ((t.stopped || (s.cluster (clusterOf k)).hold) && (match t.park with
    | some p => !p.kept
    | none => true) && s.storesHome k && s.postedAnswered k)
/-- Whether the owed work of a core is drained or frozen, and no scope-miss is pending (R348, R350). -/
def State.coreDrained (s : State) (c : Nat) : Bool :=
  let ck := clusterOfCore c
  ((s.cluster ck).stopAt.isSome || (s.cluster ck).hold) && (slotsOf c).all s.slotEnded && (s.core c).sq.isEmpty && (s.core c).misses.isEmpty &&
  s.arrayDrained c && (s.cluster ck).jobs.all fun j => j.2.done || (j.2.frozen && j.2.fillsOut.isEmpty) || coreOf j.2.k != c

/-- Whether a message has yet to reach its home, core or slot for a partition: its router stamped the pid (R299, R349). -/
def Msg.ofPart (pid : Nat) (m : Msg) : Bool := m.pid == pid
/-- The cores whose images may take a captured packet: core 0 of its cluster, for that cluster's router, and the device's lowest-numbered
core, for a die link or a fabric port (R352); where none is saved, the first saved one (log 11). -/
def Save.takers (v : Save) (ck : Nat) : List Nat :=
  let on := v.cores.filter fun c => devOfCore c == devOf ck
  let low := (on.head?.map fun c => on.foldl min c).toList
  let all := v.cores.filter (· == ck * 8) ++ low
  if all.isEmpty then v.cores.take 1 else all
/-- Captured packets with the cores whose images take them; the oracle chooses the port where each was (log 4). -/
def State.captureMsgs (s : State) (v : Save) : List Msg → List (Nat × Msg) × State
  | [] => ([], s)
  | m :: ms =>
    let ck := match m.kind with
      | .fill w .. => ((s.slotOfName (devOfSlot m.k) w).map clusterOf).getD (clusterOf m.k)
      | _ => clusterOf m.k
    let cs := v.takers ck
    let r := if 2 ≤ cs.length then s.choose else (0, s)
    let rest := r.2.captureMsgs v ms
    ((cs.getD (r.1 % cs.length) 0, m) :: rest.1, rest.2)
/-- SILLAGE_SWEEP (R349): the packets of the partition are captured, in arrival order. -/
def execSillageSweep (s : State) : Res :=
  match s.ev with
  | some (.sillageSweep pid) =>
    .next (match (s.part pid).save with
      | some v =>
        if v.swept || !v.cores.all s.coreDrained then s
        else
          let r := s.captureMsgs v (s.net.filter (Msg.ofPart pid))
          { r.2 with net := r.2.net.filter fun m => !m.ofPart pid }.modPart pid fun p =>
            { p with save := some { v with swept := true, packets := r.1 } }
      | none => s)
  | _ => .fault .noEvent

/-- The numbers of the array work of a slice that the scheduler orders (R208, R236). -/
def Slice.jobIds (x : Slice) : List Nat :=
  (x.ldQ ++ x.ldRun.toList).map (·.id) ++ x.drains.map (·.d.id) ++ (x.accQ ++ x.accRun.toList).filterMap fun o => match o with
    | .tdrain d => some d.id
    | _ => none
/-- The image of a core (R351, R352), with the packets that it takes, its displaced pages and their place in the reserve. -/
def State.flacon (s : State) (pid c base : Nat) (v : Save) (dmap rsv : Nat) : Image :=
  let ck := clusterOfCore c
  let jobs := (s.cluster ck).jobs.filter fun j => j.2.frozen && coreOf j.2.k == c
  let ids := jobs.map (·.2.id) ++ (s.slice c).jobIds
  { core := c, pid := pid, key := (s.part pid).keys.get 0 (devOf ck), place := c, stop := v.stop, sealAt := none, res := true,
    dmap := dmap, rsv := rsv, lba := 0, slots := s.slots.filter fun e => coreOf e.1 == c && e.2.occ, state := s.core c,
    jobs := jobs, feet := (s.cluster ck).feet.filter fun f => ids.contains f.id, gang := (s.cluster ck).gang,
    packets := (v.packets.filter fun e => e.1 == c).map (·.2), waits := none, base := base, led := false, boxed := false }

/-! ### An image in memory (R351, R352, R354, log 11) -/

/-- The header of an image (R351). -/
def State.imageHeader (s : State) (i : Image) : List Byte :=
  let n := i.core / 8 % 160
  let flags := i.sealAt.isSome.toNat + (i.dmap != 0).toNat * 2 + i.res.toNat * 4 + (!i.jobs.isEmpty).toNat * 8 +
    (!i.packets.isEmpty).toNat * 16 + i.gang.isSome.toNat * 32
  [0x46, 0x4C, 0x43, 0x4E] ++ toBytes 2 1 ++ toBytes 2 flags ++
    toBytes 8 (s.numOf (devOfCore i.core) * 2 ^ 31 + n / 40 * 2 ^ 29 + n % 40 * 2 ^ 23 + i.core % 8 * 2 ^ 20) ++ toBytes 2 i.pid ++
    toBytes 2 ((i.slots.map fun e => 2 ^ (e.1 % 16)).sum) ++ toBytes 2 i.key ++ toBytes 2 i.dmap ++ toBytes 8 i.stop ++
    toBytes 8 (i.sealAt.getD 0) ++ toBytes 8 i.lba ++ toBytes 8 i.rsv ++ toBytes 8 0
/-- Bytes at offsets from `off` on. -/
def atOff (off : Nat) (bs : List Byte) : List Host.Cell := bs.mapIdx fun j b => (off + j, b)
/-- Bytes whose layout the spec does not give. -/
def openBytes (m off n : Nat) : List Host.Cell := (List.range n).map fun j => (off + j, Config.imageByte m (off + j))
/-- The body of an image by offset (R352): what has a layout, and free bytes where the table gives only an area and what stands in it.
Every other byte is 0. -/
def Image.body (i : Image) (m : Nat) : List Host.Cell :=
  let x := i.state
  (if i.gang.isSome || x.dif.owner.isSome then openBytes m 0x40 960 else []) ++ atOff 0x400 (x.dif.words.flatMap (toBytes 2)) ++
  (i.jobs.flatMap fun j => openBytes m (0x1000 + 192 * j.1) 192) ++ atOff 0x1C00 x.inbox.flatten ++
  ((List.finRange 8).flatMap fun q => atOff (0x2000 + 2048 * q.val) ((x.queues[q]).flatMap fun e => toBytes 128 e.toNat)) ++
  openBytes m 0x6000 12288 ++ (if i.packets.isEmpty then [] else openBytes m 0x9000 8192) ++
  i.slots.flatMap fun e => openBytes m (0x10000 + 4096 * (e.1 % 16)) 1024 ++
    atOff (0x10400 + 4096 * (e.1 % 16)) (e.2.v.toList.flatMap fun v => toBytes 128 v.toNat)
/-- Replaces the 64 KiB at an address under a key: cells by their offset, zeros elsewhere. -/
def State.putPage (s : State) (key pa : Nat) (cells : List Host.Cell) : State :=
  let here := fun (a : Nat) => decide (pa ≤ a) && decide (a < pa + 65536)
  let lines := (List.range 1024).map (pa / 64 + ·)
  let ser := s.serialOf key pa
  let held := (s.cores.flatMap fun e => e.2.l1.map (·.pline)).eraseDups.filter fun l => here (l * 64)
  let kept : Memory := s.mem.filter fun c => !here c.1
  let t := { s with mem := kept.writeCells ((cells.filter fun c => c.2 != 0).map fun c => (pa + c.1, c.2)),
                    serials := (s.serials.filter fun e => !here (e.1 * 64)) ++ lines.map fun l => (l, ser),
                    l2 := s.l2.filter fun l => !here (l.line * 64), poison := s.poison.filter fun e => !here (e.1 * 64),
                    checks := s.checks.filter fun e => !here (e.1 * 64), tags := s.tags.filter fun e => !here (e.1 * 64) }
  held.foldl (fun s l => s.lineWritten [] jobWriter none l) t
/-- Where a page of an image lies: at its place, by stage 2 at class 1, or where that faults nowhere (R351, R354). -/
def State.imagePage (s : State) (i : Image) (p : Nat) : Tr Nat :=
  let a := (i.base + 65536 * p) % 2 ^ 44
  (s.stage2 (devOfCore i.core) i.pid (some 1) a).bind fun l => .ok (addrOf (devOfCore i.core) (l.frame + a % 2 ^ l.szlog))
/-- The pages of a displacement map, in order. -/
def dmapPages (dmap : Nat) : List Nat := (List.range 2).filter (tb dmap)
/-- The address of a displaced page in the reserve: those of an image lie in a row. -/
def Image.spilled (i : Image) (p : Nat) : Nat :=
  addrOf (devOfCore i.core) (Config.reserveBase (devOfCore i.core) + i.rsv + 65536 * ((dmapPages i.dmap).findIdx (· == p)))
/-- The address of a page of an image, in its place or in the reserve. -/
def State.pageAt (s : State) (i : Image) (p : Nat) : Option Nat :=
  if tb i.dmap p then some (i.spilled p)
  else match s.imagePage i p with
    | .ok a => some a
    | _ => none
/-- Writes an image, with its own number for the bytes that the spec leaves open. -/
def State.writeImage (s : State) (i : Image) : State :=
  let cells := atOff 0 (s.imageHeader i) ++ i.body s.fresh
  (List.range 2).foldl (fun t p => match s.pageAt i p with
    | some a => t.putPage i.key a ((cells.filter fun c => c.1 / 65536 == p).map fun c => (c.1 % 65536, c.2))
    | none => t) { s with fresh := s.fresh + 1 }
/-- Writes the header of an image again (R350, R357). -/
def State.writeHeader (s : State) (i : Image) : State :=
  match s.pageAt i 0 with
  | some a => s.homeWrite i.key (atOff a (s.imageHeader i)) jobWriter none
  | none => s
/-- The first pages of the reserve of a device where `n` in a row are free, of its 4,096 (R354). -/
def State.reserveFor (s : State) (d n : Nat) : Option Nat :=
  let taken := s.parts.flatMap fun e => e.2.images.flatMap fun i => if devOfCore i.2.core = d ∧ i.2.dmap ≠ 0 then
    (List.range (dmapPages i.2.dmap).length).map (i.2.rsv / 65536 + ·) else []
  (List.range (4097 - n)).find? fun p => (List.range n).all fun j => !taken.contains (p + j)
/-- The image place that firmware keeps for a core of a partition: the next choice names it the first time (log 11). -/
def State.imagePlace (s : State) (pid c : Nat) : Nat × State :=
  match (s.part pid).places.find? fun e => e.1 == c with
  | some e => (e.2, s)
  | none =>
    let r := s.choose
    let a := r.1 % 2 ^ 28 * 65536
    (a, r.2.modPart pid fun p => { p with places := p.places.set c a })
/-- IMAGE_WRITE (R351, R354): a page that faults at stage 2 goes to the reserve; a full reserve kills the partition. -/
def execImageWrite (s : State) : Res :=
  match s.ev with
  | some (.imageWrite pid c) =>
    .next (match (s.part pid).save with
      | some v =>
        if !v.swept || !v.cores.contains c || (s.part pid).images.has c then s
        else
          let r := s.imagePlace pid c
          let i := r.2.flacon pid c r.1 v 0 0
          let ps := (List.range 2).map (r.2.imagePage i)
          if ps.any fun p => match p with
            | .frozen => true
            | _ => false then r.2
          else
            let out := (List.range 2).filter fun p => match ps[p]? with
              | some (.ok _) => false
              | _ => true
            match (if out.isEmpty then some 0 else r.2.reserveFor (devOfCore c) out.length) with
            | none => r.2.killPart pid
            | some n =>
              let i := { i with dmap := (out.map (2 ^ ·)).sum, rsv := if out.isEmpty then 0 else 65536 * n }
              (r.2.writeImage i).modPart pid fun p => { p with images := p.images.set c i }
      | none => s)
  | _ => .fault .noEvent
/-- An image whose displaced pages stand in their places where stage 2 maps them (R354), with the place in the
reserve of the one that stays displaced. -/
def State.backInPlace (s : State) (i : Image) : Image :=
  let left := (dmapPages i.dmap).filter fun p => match s.imagePage i p with
    | .ok _ => false
    | _ => true
  if i.res then { i with dmap := (left.map (2 ^ ·)).sum, rsv := if left.isEmpty then 0 else i.rsv + 65536 * ((dmapPages i.dmap).findIdx
    fun p => left.contains p) } else i
/-- Copies the displaced pages of images to their places where stage 2 maps them now, which frees them in the reserve (R354). -/
def State.unspill (s : State) (pid : Nat) : State :=
  (s.part pid).images.foldl (fun s e => if e.2.res then (dmapPages e.2.dmap).foldl (fun s p => match s.imagePage e.2 p with
      | .ok a =>
        let r := e.2.spilled p
        s.putPage e.2.key a ((s.mem.filter fun c => decide (r ≤ c.1) && decide (c.1 < r + 65536)).map fun c => (c.1 - r, c.2))
      | _ => s) s else s) s

/-- IMAGE_SEAL (R262, R350): no scope-miss is pending at the core; the last one ends the save, and its sender is answered (R391). -/
def execImageSeal (s : State) : Res :=
  match s.ev with
  | some (.imageSeal pid c) =>
    .next (match (s.part pid).save, (s.part pid).images.find? fun e => e.1 == c with
      | some v, some (_, x) =>
        if x.sealAt.isSome || !v.cores.contains c || !(s.core c).misses.isEmpty then s
        else
          let cores := v.cores.filter (· != c)
          let y := { x with sealAt := some (s.clkOf (clusterOfCore c)) }
          let s := y.slots.foldl (fun s e => s.modSlot e.1 fun t => { t with saved := true }) (s.writeHeader y)
          let s := s.modPart pid fun p =>
            { p with images := p.images.set c y, save := if cores.isEmpty then none else some { v with cores := cores } }
          if cores.isEmpty then s.answerTo v.replyTo 0 else s
      | _, _ => s)
  | _ => .fault .noEvent

/-- The save budget of a partition in microseconds: its own, or the configuration table's (R302, R353). -/
def State.saveBudget (s : State) (pid ck : Nat) : Nat :=
  if (s.part pid).budget ≠ 0 then (s.part pid).budget else fieldAt (tableOf (s.dev (devOf ck)).bootBytes) 10 2
/-- Since when the save budget of a cluster runs: from its stop clock S, and in a cluster that is held from the request (R353, R391; log
10). -/
def State.stopFrom (s : State) (pid ck : Nat) : Option Nat :=
  match (s.cluster ck).stopAt, (s.part pid).save with
  | some t, _ => some t
  | none, some v => if (s.cluster ck).hold && v.cores.any fun c => clusterOfCore c == ck then some v.request else none
  | none, none => none
/-- Whether a stop of a partition has outlived its save budget with a thread that no sealed image holds, nor was placed from one
(R353). -/
def State.budgetOver (s : State) (pid : Nat) : Bool :=
  (s.clustersOf pid).any fun ck => match s.stopFrom pid ck with
    | some t => decide (t + s.saveBudget pid ck * usClocks ≤ s.clkOf ck) && (coresIn ck).any fun c =>
        (slotsOf c).any (fun k => (s.slot k).occ && !(s.slot k).saved)
    | none => false
/-- Whether a group that found no room has waited in its image past the save budget (R336). -/
def State.roomLate (s : State) (pid : Nat) (i : Image) : Bool :=
  i.waits.isSome && decide (i.stop + s.saveBudget pid (clusterOfCore i.core) * usClocks ≤ s.clkOf (clusterOfCore i.core))
/-- An image that is given up: the fills its threads hold are answered, its jobs end, its instances end with status 0x33 (R333,
R336). -/
def State.giveUp (s : State) (pid key : Nat) (i : Image) : State :=
  let s := (i.slots.flatMap fun e => e.2.held).foldl (fun s h => s.answerFill h.sender 0x16) s
  let s := i.jobs.foldl (fun s j => s.useCounts false j.2.refs) s
  let s := if i.led then s else s.useCounts false (i.state.slice.owed.flatMap (·.refs))
  let s := i.slots.foldl (fun s e => match e.2.node with
    | some p => s.endInst p.pid p.inst p.node 0x33
    | none => s) s
  s.modPart pid fun p => { p with images := p.images.del key }
/-- SAVE_BUDGET_EXPIRY (R336, R353): a partition whose save is not complete is killed; a group that still has no room ends its
instance. -/
def execSaveBudgetExpiry (s : State) : Res :=
  match s.ev with
  | some (.saveBudgetExpiry pid) =>
    .next (if s.budgetOver pid then s.killPart pid
      else ((s.part pid).images.filter fun e => s.roomLate pid e.2).foldl (fun s e => s.giveUp pid e.1 e.2) s)
  | _ => .fault .noEvent

/-- The 4 KiB blocks of the one 8 TB drive (R2), and those of an image (R351). -/
def driveBlocks : Nat := 8000000000000 / 4096
def imageBlocks : Nat := 32
/-- IMAGE_SWAP_OUT (R357): to blocks that the drive has, for a context that is not being resumed. -/
def execImageSwapOut (s : State) : Res :=
  match s.ev with
  | some (.imageSwapOut pid c lba) =>
    .next (match (s.part pid).images.find? fun e => e.1 == c with
      | some (_, i) =>
        if driveBlocks < lba + imageBlocks ∨ i.sealAt.isNone then s
        else
          let i := { i with res := false, lba := lba }
          (s.writeHeader i).modPart pid fun p => { p with images := p.images.set c i }
      | none => s)
  | _ => .fault .noEvent
/-- IMAGE_READBACK (R357): a failed check kills the partition; the image stands in DRAM again. -/
def execImageReadback (s : State) : Res :=
  match s.ev with
  | some (.imageReadback pid c good) =>
    .next (if !good then s.killPart pid
      else match (s.part pid).images.find? fun e => e.1 == c with
        | some (_, i) =>
          if i.res then s
          else
            let i := { i with res := true, lba := 0 }
            (s.writeImage i).modPart pid fun p => { p with images := p.images.set c i }
        | none => s)
  | _ => .fault .noEvent

/-! ### The context engine (R391) -/

/-- The clusters that the one entry of a descriptor names, as its sender sees memory; none where it cannot be read. -/
def State.ctxClusters (s : State) (desc : Nat) (by_ : Option Nat) : Tr (List Nat) :=
  match by_ with
  | none => .fault 1
  | some k => (s.readVa (coreOf k) (s.slot k).asid.toNat desc 32 2).bind fun bs => match stopEntry bs with
      | none => .fault 1
      | some e => match s.keyOfNum (devOfSlot k) e.1 with
        | none => .fault 1
        | some d => .ok (((List.range 160).filter fun i => tb e.2 i).map (d * 160 + ·))
/-- Whether a cluster holds a thread. -/
def State.hasThread (s : State) (ck : Nat) : Bool := (coresIn ck).any fun c => (slotsOf c).any fun k => (s.slot k).occ
/-- Goes on with the named clusters; `own`: whether a cluster of another pid is always refused. A save refuses it only where it
holds a thread (log 10). -/
def State.withClusters (s : State) (e : Event) (pid desc : Nat) (by_ : Option Nat) (own : Bool) (f : List Nat → State) : State :=
  match s.ctxClusters desc by_ with
  | .frozen => s.retry e
  | .fault _ => s.answerTo by_ 1
  | .ok cks =>
    if cks.any fun ck => ((s.cluster ck).stopAt.isNone && !(s.cluster ck).hold) || (s.pidOf ck != pid && (own || s.hasThread ck)) then s.answerTo by_ 1
    else f cks

/-- CTX_SAVE (R391): the cores of the partition with a thread that is not saved yet; while another save of it is under way the message
waits. -/
def execCtxSave (s : State) : Res :=
  match s.ev with
  | some (.ctxSave pid desc by_) =>
    .next (s.withClusters (.ctxSave pid desc by_) pid desc by_ false fun cks =>
      let mine := cks.filter fun ck => s.pidOf ck == pid
      let cores := (mine.flatMap coresIn).filter fun c =>
        (slotsOf c).any fun k => (s.slot k).occ && !(s.slot k).saved
      if (s.part pid).killed then s.answerTo by_ 2
      else if (s.part pid).save.isSome then s.retry (.ctxSave pid desc by_)
      else if cores.isEmpty then s.answerTo by_ 0
      else
        let now := (cores.head?.map fun c => s.clkOf (clusterOfCore c)).getD 0
        let stops := mine.filterMap fun ck => (s.cluster ck).stopAt
        let v : Save := { stop := if stops.isEmpty then now else stops.foldl max 0, request := now, cores := cores, swept := false,
                          packets := [], replyTo := by_ }
        s.modPart pid fun p => { p with save := some v, images := p.images.filter fun e => !cores.contains e.1 })
  | _ => .fault .noEvent

/-- Takes the threads out of a cluster: those saved leave their slots, others are killed. -/
def State.emptyCluster (s : State) (pid ck : Nat) : State :=
  (coresIn ck).foldl (fun s c => (slotsOf c).foldl (fun s k =>
    if !(s.slot k).occ then s
    else if ((s.part pid).images.any fun e => e.1 == c && e.2.slots.has k) then s.vacate k else s.kill k) s) s
/-- CTX_CLEAR (R391). -/
def execCtxClear (s : State) : Res :=
  match s.ev with
  | some (.ctxClear pid desc by_) =>
    .next (s.withClusters (.ctxClear pid desc by_) pid desc by_ true fun cks =>
      (cks.foldl (fun s ck => (s.emptyCluster pid ck).clearCluster ck) s).answerTo by_ 0)
  | _ => .fault .noEvent

/-! ### Re-placing (R336 step 5, R356) -/

/-- The group a saved thread resumes with (R336): a unit of the node that placed it, by the record that the front end keeps of its
slots; a thread that no launch placed goes with those of its core. -/
inductive GroupId where
  | unit (p : Placed) (u : Nat)
  | core (c : Nat)
deriving DecidableEq, Repr
/-- The group of a saved thread, with the hardware tier it is bound to. -/
def State.groupOf (s : State) (k : Nat) (t : Slot) : GroupId × Nat :=
  match t.placed with
  | none => (.core (coreOf k), 1)
  | some p => match (s.inst p.pid p.inst).nodes[p.node]? with
    | some (.running n _ _ held) => (match n.lrec, held.find? (·.1 == k) with
        | some r, some e => (.unit p (e.2 / unitSize r), ((unitTiers r).head?.map (·.hw)).getD 0)
        | _, _ => (.core (coreOf k), 1))
    | _ => (.core (coreOf k), 1)
/-- The saved threads of images, by the slots they left, in ascending order. -/
def savedSlots (is : List Image) : List (Nat × Slot) :=
  let all := is.flatMap fun i => i.slots
  ((all.map (·.1)).mergeSort).filterMap fun k => all.find? (·.1 == k)
/-- The groups of saved threads, each with its tier and its slots, in ascending order of what they left (R391). -/
def State.moveGroups (s : State) (saved : List (Nat × Slot)) : List (Nat × List Nat) :=
  ((saved.map fun e => s.groupOf e.1 e.2).eraseDups).map fun g =>
    (g.2, (saved.filter fun e => s.groupOf e.1 e.2 == g).map (·.1))
/-- The places a group may take in the named clusters, lowest first: where each of its slots goes (R336). -/
def placesOf (named : List Nat) (g : Nat × List Nat) : List (List (Nat × Nat)) :=
  if g.1 = 3 then ((named.map fun t => t / 40 * 40 + t % 40 / 8 * 8).eraseDups).map fun b =>
    g.2.map fun k => (k, (b + clusterOf k % 40 % 8) * 128 + k % 128)
  else if g.1 = 2 then named.map fun t => g.2.map fun k => (k, t * 128 + k % 128)
  else (named.flatMap coresIn).map fun c => g.2.map fun k => (k, c * 16 + k % 16)
/-- Whether a group of a partition's launches holds a slot with a thread that stands in it or is to. -/
def State.liveHeld (s : State) (pid k : Nat) : Bool :=
  (s.part pid).insts.any fun e => e.2.nodes.zipIdx.any fun n => match n.1 with
    | .running r _ todo held =>
      let size := (r.lrec.map unitSize).getD 1
      held.any fun x => x.1 == k && held.any fun y => y.2 / size == x.2 / size &&
        (todo.contains y.1 || (s.slot y.1).placed == some { pid := pid, inst := e.1, node := n.2 })
    | _ => false
/-- Whether a slot is free for a group: of a named cluster, not taken by another, and vacant, or that of a thread that is in an
image and still stands in it. -/
def State.slotFree (s : State) (pid : Nat) (named saved taken : List Nat) (k : Nat) : Bool :=
  named.contains (clusterOf k) && !taken.contains k &&
  if (s.slot k).occ then saved.contains k && (s.slot k).saved else !s.liveHeld pid k
/-- Whether the launch of a saved thread asks for fused L1s (R96); a thread that no launch placed asks for nothing. -/
def State.fuseOf (s : State) (t : Slot) : Option Bool :=
  t.placed.bind fun p => match (s.inst p.pid p.inst).nodes[p.node]? with
    | some (.running n ..) => n.lrec.map (·.fuse)
    | _ => none
/-- Whether the fusing of a cluster lets a thread of a launch in: it is as the launch asks, or may be changed, since no thread of another
launch stands in the cluster or comes to it (R96). `m` are the moves chosen so far. -/
def State.fuseFits (s : State) (saved : List (Nat × Slot)) (m : List (Nat × Nat)) (f : Option Bool) (ck : Nat) : Bool :=
  match f with
  | none => true
  | some f =>
    let come := m.filterMap fun e => if clusterOf e.2 = ck then (saved.find? fun x => x.1 == e.1).bind fun x => s.fuseOf x.2 else none
    let stand := (coresIn ck).any fun c => (slotsOf c).any fun k => (s.slot k).node.isSome && !(saved.any fun x => x.1 == k)
    if come.isEmpty then (s.cluster ck).fused == f || !stand else come.all (· == f)
/-- The move of every group that finds room, in order: each to the lowest place in which every slot it needs is free, in clusters that
fit its fusing (R96, R336). -/
def State.assign (s : State) (pid : Nat) (named : List Nat) (saved : List (Nat × Slot)) :
    List (Nat × List Nat) → List (Nat × Nat) → List (Nat × Nat)
  | [], m => m
  | g :: gs, m =>
    let ks := saved.map (·.1)
    let f := fun (k : Nat) => (saved.find? fun x => x.1 == k).bind fun x => s.fuseOf x.2
    s.assign pid named saved gs (m ++ ((placesOf named g).find? fun p => p.all fun e =>
      s.slotFree pid named ks (m.map (·.2)) e.2 && s.fuseFits saved m (f e.1) (clusterOf e.2)).getD [])

/-- Where a slot goes in a move. -/
def goneTo (m : List (Nat × Nat)) (k : Nat) : Option Nat := (m.find? fun e => e.1 == k).map (·.2)
def movedSlot (m : List (Nat × Nat)) (k : Nat) : Nat := (goneTo m k).getD k
/-- The slot of an image that the array slice goes with: the core's member of the gang, or its lowest work slot; and the one that the
inbox goes with, its lowest. -/
def Image.first (i : Image) : Option Nat := (savedSlots [i]).head?.map (·.1)
def Image.lead (i : Image) : Option Nat :=
  (((i.gang.bind fun g => g.members.find? fun m => coreOf m.2 == i.core).map (·.2)).filter i.slots.has).orElse fun _ =>
    (((savedSlots [i]).map (·.1)).find? fun k => k % 16 != 0).orElse fun _ => i.first
/-- An address of a cluster's own memories as another cluster has it. -/
def movePa (ck dst : Nat) (pa : Nat) : Nat :=
  if !inCluster ck pa then pa
  else if isLocalWin (localOfAddr pa) then lmAddr dst (localOfAddr pa % 2 ^ 21)
  else wmAddr (dst * 8 + localOfAddr pa / 2 ^ 22 % 8) (localOfAddr pa % 2 ^ 22)
/-- A range of memory after its job has moved from a cluster to another. -/
def Chunk.moved (ck dst : Nat) (c : Chunk) : Chunk := { c with pa := movePa ck dst c.pa }
/-- A footprint, and a job, after a move. -/
def Foot.moved (ck dst : Nat) (f : Foot) : Foot :=
  { f with reads := f.reads.map (Chunk.moved ck dst), writes := f.writes.map (Chunk.moved ck dst) }
def Job.moved (ck dst k : Nat) (j : Job) : Job :=
  { j with k := k, src := j.src.map (Chunk.moved ck dst), dst := j.dst.map fun d => match d with
      | .inl c => .inl (c.moved ck dst)
      | .inr r => .inr r }
/-- The footprint of a slice's work on another core: its weight memory is that core's. -/
def Foot.onCore (dst : Nat) (f : Foot) : Foot :=
  { f with reads := f.reads.map fun c => if isWeightWin (localOfAddr c.pa) then { c with pa := wmAddr dst (localOfAddr c.pa % 2 ^ 22) } else c }
/-- A saved slice in the place `x` on a core, with its threads moved: the gating is the place's (R208, R213). -/
def Slice.moved (sl x : Slice) (m : List (Nat × Nat)) (dst : Nat) : Slice :=
  { sl with gated := x.gated, lastTmm := x.lastTmm, tmm := none,
            ldQ := sl.ldQ.map fun o => { o with pa := wmAddr dst (localOfAddr o.pa % 2 ^ 22) },
            accQ := sl.accQ.map fun o => match o with
              | .tdrain d => .tdrain { d with k := movedSlot m d.k }
              | o => o,
            drains := sl.drains.map fun d => { d with d := { d.d with k := movedSlot m d.d.k } } }
/-- A saved slot in its new place: the name is the place's; it is stopped; its reservations count as written, its rows are read again;
its streams meet their peers where these are now; under another name no earlier FWSEND of it can be answered (R336, R356, R367). -/
def Slot.reloaded (t : Slot) (peer : QBind → Nat) (gen : BitVec 16) (same : Bool) : Slot :=
  { t with gen := gen, row := some Row.unloaded, issued := none, stopped := true, saved := true, mailOld := if same then t.mailOld else 0,
           resv := t.resv.map fun r => { r with written := true }, q := t.q.map fun b => { b with pcore := peer b } }
/-- Where the peer of a stream is after a move. -/
def peerAfter (m : List (Nat × Nat)) (saved : List (Nat × Slot)) (b : QBind) : Nat :=
  match saved.find? fun e => coreOf e.1 == b.pcore && e.2.q.any fun y => y.bound && y.queue == b.pq with
  | some e => coreOf (movedSlot m e.1)
  | none => b.pcore

/-- What a saved slot leaves behind where it stood: its slot, its frozen jobs, and, where they go with it, the queued array work and the
inbox records. -/
def State.leaveSlot (s : State) (i : Image) (k : Nat) : State :=
  let ck := clusterOf k
  if !((s.slot k).occ && (s.slot k).saved) then s
  else
    let lead := !i.led && i.lead == some k
    let gone := fun (j : Nat × Job) => j.2.k == k && j.2.frozen
    let ids := ((s.cluster ck).jobs.filter gone).map (·.2.id) ++ if lead then (s.slice (coreOf k)).jobIds else []
    let s := if !i.boxed && i.first == some k then s.modCore (coreOf k) fun x => { x with inbox := [] } else s
    let s := s.modCluster ck fun x => { x with jobs := x.jobs.filter fun j => !gone j, feet := x.feet.filter fun f => !ids.contains f.id,
                                               gang := if lead then none else x.gang }
    let s := if lead then s.modSlice (coreOf k) fun x => { x with ldQ := [], accQ := [], drains := [], tmm := none } else s
    s.vacate k
/-- Puts a saved thread of an image into a slot, with what goes with it, once each (R96, R352, R356). -/
def State.placeThread (s : State) (m : List (Nat × Nat)) (saved : List (Nat × Slot)) (i : Image) (e : Nat × Slot) (dst : Nat) : State :=
  let ck := clusterOf e.1
  let c := coreOf dst
  let tk := clusterOf dst
  let gen := if dst = e.1 then e.2.gen else (s.slot dst).gen
  let s := match s.fuseOf e.2 with
    | some f => s.fuse tk f
    | none => s
  let s := s.modCore c fun x => { x with l1 := x.l1.filter fun l => l.lease.isNone }
  let s := s.setSlot dst { (e.2.reloaded (peerAfter m saved) gen (dst == e.1)) with tsave := (s.slot dst).tsave, readyAt := s.clock }
  let s := e.2.q.toList.foldl (fun s b => if b.bound then
    s.modQueue c b.queue.val (fun _ => i.state.queues[b.queue]) (fun _ => i.state.taken[b.queue]) else s) s
  let s := if i.state.dif.owner = some e.1 then s.modCore c fun x => { x with dif := { i.state.dif with owner := some dst } } else s
  let s := if !i.boxed && i.first == some e.1 then s.modCore c fun x =>
    { x with inbox := x.inbox ++ i.state.inbox.filter fun r => !x.inbox.contains r } else s
  let jobs := (i.jobs.filter fun j => j.2.k == e.1)
  let ids := jobs.map (·.2.id)
  let feet := (i.feet.filter fun f => ids.contains f.id).map (Foot.moved ck tk)
  let lead := !i.led && i.lead == some e.1
  let own := i.state.slice.jobIds
  let feet := feet ++ if lead then (i.feet.filter fun f => own.contains f.id).map (Foot.onCore c) else []
  let gang := (i.gang.filter fun g => g.members.all fun x => clusterOf (movedSlot m x.2) == tk && coreOf (movedSlot m x.2) % 8 == x.1).map
    fun g => { g with members := g.members.map fun x => (x.1, movedSlot m x.2) }
  let s := s.modCluster tk fun x =>
    { x with jobs := jobs.foldl (fun js j => js.set j.1 (j.2.moved ck tk dst)) x.jobs,
             feet := (x.feet.filter fun f => !feet.any fun y => y.id == f.id).foldl (fun l f => l ++ [f]) [] ++ feet,
             gang := if lead then gang.orElse fun _ => x.gang else x.gang }
  let s := s.modCluster tk fun x => { x with feet := x.feet.mergeSort fun a b => a.id ≤ b.id }
  if lead then s.modCore c fun x => { x with slice := i.state.slice.moved x.slice m c, agate := i.state.agate } else s
/-- A captured packet re-addressed (R356): a fill to a saved slot whose thread was not placed again, or under another name than it names,
is discarded and answered with 0x16; what a moved thread sent is its own under its new name. -/
def State.sendCaptured (s : State) (m : List (Nat × Nat)) (saved : List (Nat × Slot)) (g : Msg) : State :=
  let from_ := match saved.find? fun e => e.1 == g.k with
    | some e => (match goneTo m g.k with
        | some k => if e.2.gen = g.gen then { g with k := k, gen := (s.slot k).gen } else g
        | none => g)
    | none => g
  let g' := match from_.kind with
    | .op e => { from_ with kind := .op { e with k := from_.k, gen := from_.gen } }
    | _ => from_
  match g.kind with
  | .fill w r x d job =>
    (match s.slotOfName (devOfSlot g.k) w with
      | some k => (match saved.find? fun e => e.1 == k with
          | none => { s with net := g' :: s.net }
          | some e => (match goneTo m k with
              | some k' => if w.toNat % 65536 = e.2.gen.toNat then { s with net := { g' with kind := .fill (s.slotName k') r x d job } :: s.net }
                else s.answerFill (some g.id) 0x16
              | none => s.answerFill (some g.id) 0x16))
      | none => s.answerFill (some g.id) 0x16)
  | _ => { s with net := g' :: s.net }
/-- The instances follow the threads that moved, and the records of threads still to be placed the core they are for. -/
def Inst.follow (x : Inst) (m : List (Nat × Nat)) (core : Nat → Nat) : Inst :=
  let at_ := fun (todo : List Nat) (k : Nat) => if todo.contains k then core (coreOf k) * 16 + k % 16 else movedSlot m k
  { x with placedRecs := x.placedRecs.map fun (r : Nat × Nat × List Byte) => (r.1, core r.2.1, r.2.2),
           pushLeft := x.pushLeft.map fun (r : Nat × Nat × Nat) => (r.1, core r.2.1, r.2.2),
           nodes := x.nodes.map fun n => match n with
      | .running r next todo held =>
        .running r next (todo.map (at_ todo)) (held.map fun (e : Nat × Nat) => (at_ todo e.1, e.2))
      | n => n }
/-- What stays of an image: the threads that found no room in the named clusters, and what has not gone with another. -/
def Image.left (i : Image) (m : List (Nat × Nat)) (named : List Nat) : Option Image :=
  let slots := i.slots.filter fun e => (goneTo m e.1).isNone
  if slots.isEmpty then none
  else
    let went := fun (k : Option Nat) => k.any fun k => (goneTo m k).isSome
    some { i with slots := slots, jobs := i.jobs.filter fun j => (goneTo m j.2.k).isNone, packets := [], waits := some named,
                  led := i.led || went i.lead, boxed := i.boxed || went i.first }
/-- The images after a move: each that stays waits for room under a number of its own, so that its core can be saved anew. -/
def leftImages (m : List (Nat × Nat)) (named : List Nat) (is : List Image) : Nat → FMap Image → FMap Image
  | _, [] => []
  | id, e :: es =>
    if is.any fun i => i.core == e.2.core && i.sealAt == e.2.sealAt && i.slots.map (·.1) == e.2.slots.map (·.1) then
      (match e.2.left m named with
        | some i => (if e.1 < 2 ^ 40 then 2 ^ 40 + id else e.1, i) :: leftImages m named is (id + 1) es
        | none => leftImages m named is (id + 1) es)
    else e :: leftImages m named is (id + 1) es
/-- Places the threads of some images in the named clusters (R336 step 5, R356): each group whole where it finds room; the others wait
in their images. Displaced pages return to their places (R354). -/
def State.replaceIn (s : State) (pid : Nat) (named : List Nat) (is : List Image) : State :=
  let saved := savedSlots is
  let m := s.assign pid named saved (s.moveGroups saved) []
  let core := fun (c : Nat) => match (is.find? fun i => i.core == c).bind Image.first with
    | some k => coreOf (movedSlot m k)
    | none => c
  let s := s.unspill pid
  let s := is.foldl (fun s i => i.slots.foldl (fun s e => if goneTo m e.1 = some e.1 then s else s.leaveSlot i e.1) s) s
  let s := is.foldl (fun s i => i.slots.foldl (fun s e => match goneTo m e.1 with
    | some dst => s.placeThread m saved i e dst
    | none => s) s) s
  let s := (is.flatMap (·.packets)).reverse.foldl (fun s g => s.sendCaptured m saved g) s
  { s with nextId := s.nextId + (s.part pid).images.length }.modPart pid fun p =>
    { p with images := (leftImages m named is s.nextId p.images).map fun (e : Nat × Image) => (e.1, s.backInPlace e.2),
             insts := p.insts.map fun (e : Nat × Inst) => (e.1, e.2.follow m core) }
/-- The images that may be placed: sealed and resident (R356). -/
def Part.saved (p : Part) : List Image := (p.images.map (·.2)).filter fun i => i.sealAt.isSome && i.res
/-- CTX_REPLACE (R336, R356, R391): each group that finds room leaves its images; the cores begin at the next resume clock. With
nobody to answer, the groups that wait for room try again where they were to go. -/
def execCtxReplace (s : State) : Res :=
  match s.ev with
  | some (.ctxReplace pid _ none) =>
    let is := (s.part pid).saved.filter (·.waits.isSome)
    let named := ((is.filterMap (·.waits)).flatten.eraseDups).filter fun ck => s.pidOf ck == pid && !(s.cluster ck).hold
    .next (if is.isEmpty then s else s.replaceIn pid named.mergeSort is)
  | some (.ctxReplace pid desc by_) =>
    .next (s.withClusters (.ctxReplace pid desc by_) pid desc by_ true fun cks =>
      (s.replaceIn pid cks.mergeSort (s.part pid).saved).answerTo by_ 0)
  | _ => .fault .noEvent

end Sys2Proof.Machine
end

