-- ==== Sys2Proof/Machine/Boot.lean ====
section
/-! DEFINITION. Reset, the boot ROM and network recovery (R301-R306, log 3), measurements (R305), SPDM and tenant sessions
(R307-R309, R378, log 8). -/

namespace Sys2Proof.Machine

/-! ### Measurements (R305) -/

/-- The 48 bytes of a measurement value. -/
def digestBytes (x : BitVec 384) : List Byte := toBytes 48 x.toNat
/-- A measurement value from its bytes. -/
def digestOfBytes (bs : List Byte) : BitVec 384 := BitVec.ofNat 384 (ofBytes bs)
/-- The extension of a measurement register. -/
def Dev.extend (d : Dev) (r : Fin 16) (x : List Byte) : Dev :=
  { d with mr := d.mr.set r (sha384 (digestBytes d.mr[r] ++ x)), mrcount := d.mrcount.set r (d.mrcount[r] + 1) }
/-- MEASUREMENT_EXTEND (R305). -/
def execMeasurementExtend (s : State) : Res :=
  match s.ev with
  | some (.measurementExtend d r bs) => .next (s.modDev d fun x => x.extend (Fin.ofNat 16 r) bs)
  | _ => .fault .noEvent

/-! ### The ROM's checks (R302, R304) -/

/-- Whether the fields of the configuration table are valid (R302); its svn and signature have steps of their own. -/
def tableValid (t : List Byte) : Bool :=
  let w := fieldAt t 8 1
  let masks := (List.range 6).map (roleMask t)
  bytesIn t 0 4 == [0x56, 0x58, 0x43, 0x46] && decide (1 ≤ w) && decide (w ≤ 5) && decide (fieldAt t 9 1 ≤ 2) &&
  fieldAt t 10 2 != 0 && masks.all (fun m => m != 0 && m / 2 ^ (8 * w) == 0) &&
  ((List.range 40).all fun j => decide ((masks.filter fun m => tb m j).length ≤ 1)) &&
  zeros (bytesIn t 12 4) && zeros (bytesIn t 64 96)
/-- The first failure of steps 2 to 7 on what is laid out as the boot flash (R304). -/
def romFailure (d : Nat) (f : List Byte) : Option Nat :=
  let cert := certOf f
  let key := bytesIn cert 0 96
  let table := tableOf f
  if sha384 (rootKey f) ≠ Config.fuseRootHash d then some 2
  else if !ecdsaVerify (rootKey f) (sha384 (bytesIn cert 0 100)) (bytesIn cert 100 96) then some 3
  else if fieldAt cert 96 4 < Config.fuseMinSvn d ∨ fieldAt table 4 4 < Config.fuseMinSvn d then some 4
  else if !ecdsaVerify key (digestOfBytes (digestOf f)) (digestSig f) ||
      digestOfBytes (digestOf f) != sha384 (imageOf f) then some 5
  else if !ecdsaVerify key (sha384 (bytesIn table 0 160)) (bytesIn table 160 96) then some 6
  else if !tableValid table then some 7
  else none

/-- sys.bootst (R303). -/
def bootWord (stage fail src tries : Nat) : Word := BitVec.ofNat 64 (stage + fail * 2 ^ 8 + src * 2 ^ 16 + tries * 2 ^ 32)
/-- The attempts begun. -/
def Dev.tries (d : Dev) : Nat := bits d.bootst.toNat 47 32
/-- The last failure. -/
def Dev.lastFail (d : Dev) : Nat := bits d.bootst.toNat 15 8

/-- A request frame of network recovery (R306). -/
def requestFrame (d : Nat) : Frame :=
  { port := 0, etype := 0x88B5, payload := toBytes 2 1 ++ toBytes 4 0 ++ toBytes 2 8 ++ toBytes 8 (Config.fuseSerial d) }
/-- An acknowledgement of a data frame (R306). -/
def ackFrame (seq : Nat) : Frame := { port := 0, etype := 0x88B5, payload := toBytes 2 3 ++ toBytes 4 seq ++ toBytes 2 0 }
/-- A network recovery attempt begins (R306): the first request is sent. -/
def Dev.attempt (d : Dev) (n : Nat) : Dev :=
  { d with bootst := bootWord 1 d.lastFail 0 (min 65535 (d.tries + 1)), sent := d.sent ++ [requestFrame n],
           recovery := { on := true, server := none, data := [], got := [], first := d.clk, last := d.clk, retry := none } }
/-- The clocks of a second. -/
def secClocks : Nat := 1300000000
/-- An attempt of network recovery fails (R306): the next begins 10 s later. -/
def Dev.failAttempt (d : Dev) (code : Nat) : Dev :=
  { d with bootst := bootWord 1 code 0 d.tries,
           recovery := { d.recovery with on := false, retry := some (d.clk + 10 * secClocks) } }

/-- Step 8 (R304, R307): the alias key and its certificate, signed by the identity key, which is then erased. -/
def Dev.takeAlias (x : Dev) (n : Nat) : Dev :=
  let k := Config.aliasKey (Config.fuseSecret n) (x.mr.toList.take 4)
  let body := Config.aliasBody k
  { x with identity := none, aliasId := some (k, body ++ Config.sign (x.identity.getD 0) (sha384 body)) }
/-- Steps 8 and 9 (R304): the measurements; the alias key; the image into firmware DRAM under key 0, every sleep depth, the firmware
column's firewalls and holds, and firmware core 0 at the image's entry. -/
def State.handOver (s : State) (d : Nat) (src : Nat) (f : List Byte) : State :=
  let table := tableOf f
  let w := fieldAt table 8 1
  let s := s.modDev d fun x =>
    let x := ((x.extend 0 (digestBytes Config.romDigest)).extend 1 (digestBytes (sha384 (rootKey f ++ certOf f)))).extend
      2 (digestOf f)
    let x := (x.extend 3 (digestBytes (sha384 table))).extend 4 (BitVec.ofNat 8 src :: List.replicate 47 0)
    let x := Dev.takeAlias x d
    { x with colcfg := BitVec.ofNat 64 (w + fieldAt table 4 4 * 2 ^ 32), bootst := bootWord 2 x.lastFail src x.tries,
             recovery := { x.recovery with on := false, retry := none } }
  let s := s.homeWrite 0 (cellsAt (addrOf d (Config.imageBase d)) (imageOf f)) jobWriter none
  let s := if fieldAt table 9 1 = 0 then s
    else (List.range 1280).foldl (fun s i => s.modCore (d * 1280 + i) fun x =>
      { x with sdepth := BitVec.ofNat 2 (fieldAt table 9 1) }) s
  let s := (List.range w).foldl (fun s i => s.modCluster (d * 160 + 8 * i + 7) fun x =>
    { x with hold := false, fwall := BitVec.ofNat 64 (2 ^ 63 + 7 * 2 ^ 16) }) s
  let k := firmwareCore d 0 * 16
  s.setSlot k { Slot.rom with gen := (s.slot k).gen, pc := keep (Config.imageEntry (imageOf f)) 63 1, readyAt := s.clock }

/-- Resets a device: its threads, cores, clusters and dies, what is on its chip, and what is on its way for it; the flash, the
boot count and DRAM stay. The ROM's slot holds a thread (R304), and the ROM derives the identity key (R307). -/
def State.clearDevice (s : State) (d : Nat) : State :=
  let x := s.dev d
  let boot := x.bootCount + 1
  let onChip := fun (a : Nat) => devOfAddr a == d && !isDram (localOfAddr a)
  let parts := (s.parts.filter fun e => !(s.devsOf e.1).all fun y => y == d).map fun e =>
    if e.2.session.any fun x => x.1 == d then (e.1, { e.2 with session := none }) else e
  let dev := { Dev.reset with flash := x.flash, bootCount := boot, keys := [(0, boot.toNat * 2 ^ 32)],
                              identity := some (Config.identityKey (Config.fuseSecret d)) }
  let rom := (d * 160 + 7) * 128
  let slots := s.slots.filter fun e => devOfSlot e.1 != d
  let clusters := s.clusters.filter fun e => devOf e.1 != d
  { s with slots := FMap.set slots rom Slot.rom, cores := s.cores.filter fun e => devOfCore e.1 != d,
           clusters := FMap.set clusters (d * 160 + 7) { Cluster.reset with hold := false },
           dies := s.dies.filter fun e => e.1 / 4 != d, devs := s.devs.set d dev, parts := parts,
           mem := s.mem.filter fun c => !onChip c.1, lmEmpty := s.lmEmpty.filter fun w => !onChip (w * 8),
           poison := s.poison.filter fun e => !onChip (e.1 * 64), tags := s.tags.filter fun e => !onChip (e.1 * 64),
           checks := s.checks.filter fun e => !onChip (e.1 * 64), l2 := s.l2.filter fun l => devOfAddr (l.line * 64) != d,
           net := s.net.filter fun m => devOfSlot m.k != d, lanes := s.lanes.filter fun l => devOfSlot l.k != d && l.dst != d }

/-- What the ROM makes of an image (R304): it hands over, or network recovery begins or goes on. -/
def State.bootFrom (s : State) (d src : Nat) (f : List Byte) : State :=
  match romFailure d f with
  | none => s.handOver d src f
  | some code => s.modDev d fun x =>
      if src = 1 then x.failAttempt code else ({ x with bootst := bootWord 0 code 0 x.tries }).attempt d

/-- DEVICE_RESET (R304). -/
def execDeviceReset (s : State) : Res :=
  match s.ev with
  | some (.deviceReset d) =>
    let s := s.clearDevice d
    let f := (s.dev d).flash
    .next (if f.length ≤ rootLen + certLen + tailLen then s.modDev d fun x => ({ x with bootst := bootWord 0 1 0 0 }).attempt d
      else s.bootFrom d 0 f)
  | _ => .fault .noEvent

/-! ### Network recovery (R306) -/

/-- RECOVERY_REQUEST (R306): once per second while no station has answered. -/
def execRecoveryRequest (s : State) : Res :=
  match s.ev with
  | some (.recoveryRequest d) =>
    .next (s.modDev d fun x =>
      if x.recovery.on && x.recovery.server.isNone && decide (x.recovery.last + secClocks ≤ x.clk) then
        { x with sent := x.sent ++ [requestFrame d], recovery := { x.recovery with last := x.clk } }
      else x)
  | _ => .fault .noEvent
/-- Puts bytes at a place of a list, which zeros lengthen where it is too short (log 3). -/
def putAt (l : List Byte) (i : Nat) (bs : List Byte) : List Byte :=
  l.take i ++ List.replicate (i - l.length) 0 ++ bs ++ l.drop (i + bs.length)
/-- RECOVERY_DATA_FRAME (R306): each frame is acknowledged by its number and stored at its place; a duplicate is only acknowledged. -/
def execRecoveryDataFrame (s : State) : Res :=
  match s.ev with
  | some (.recoveryDataFrame d st seq bs) =>
    .next (s.modDev d fun x =>
      let r := x.recovery
      if !r.on || !(r.server == some st || (r.server.isNone && seq == 0)) then x
      else if r.got.contains seq then { x with sent := x.sent ++ [ackFrame seq] }
      else
        { x with sent := x.sent ++ [ackFrame seq], recovery :=
          { r with server := some st, data := putAt r.data (1024 * seq) (bs.take 1024), got := seq :: r.got } })
  | _ => .fault .noEvent
/-- RECOVERY_END_FRAME (R306): steps 2 to 9 of R304 on the image received. -/
def execRecoveryEndFrame (s : State) : Res :=
  match s.ev with
  | some (.recoveryEndFrame d st len) =>
    let r := (s.dev d).recovery
    .next (if !r.on || r.server != some st then s
      else
        let f := r.data.take len
        (s.modDev d fun x => { x with recovery := { x.recovery with data := f } }).bootFrom d 1 f)
  | _ => .fault .noEvent
/-- RECOVERY_TIMEOUT (R306): 64 s after the first request. -/
def execRecoveryTimeout (s : State) : Res :=
  match s.ev with
  | some (.recoveryTimeout d) =>
    .next (s.modDev d fun x =>
      if x.recovery.on && decide (x.recovery.first + 64 * secClocks ≤ x.clk) then x.failAttempt 8 else x)
  | _ => .fault .noEvent
/-- RECOVERY_RETRY (R306). -/
def execRecoveryRetry (s : State) : Res :=
  match s.ev with
  | some (.recoveryRetry d) =>
    .next (s.modDev d fun x => match x.recovery.retry with
      | some t => if t ≤ x.clk then x.attempt d else x
      | none => x)
  | _ => .fault .noEvent
/-- Whether a frame with a payload of some length is one of 64 to 9,216 bytes: addresses, EtherType and check sequence take 18 (R378). -/
def frameFits (n : Nat) : Bool := decide (64 ≤ n + 18) && decide (n + 18 ≤ 9216)
/-- ETHERNET_FRAME_RX (R306, R378): a recovery frame while the ROM runs; what a session carries is an event of its own; any
other frame is dropped. -/
def execEthernetFrameRx (s : State) : Res :=
  match s.ev with
  | some (.ethernetFrameRx d port etype st bs) =>
    .next (if port ≠ 0 ∨ etype ≠ 0x88B5 ∨ !frameFits bs.length ∨ bits (s.dev d).bootst.toNat 3 0 ≠ 1 then s
      else
        let n := fieldAt bs 6 2
        match fieldAt bs 0 2 with
        | 2 => { s with agenda := .recoveryDataFrame d st (fieldAt bs 2 4) (bytesIn bs 8 n) :: s.agenda }
        | 4 => { s with agenda := .recoveryEndFrame d st (fieldAt bs 8 4) :: s.agenda }
        | _ => s)
  | _ => .fault .noEvent

/-! ### SPDM (R307-R309) -/

/-- Sends a payload of the SPDM binding, on the port of its session. -/
def Dev.say (d : Dev) (id : Nat) (bs : List Byte) : Dev :=
  { d with sent := d.sent ++ [{ port := sessPort id, etype := 0x0800, payload := bs }] }
/-- The security monitor answers while firmware runs. -/
def Dev.up (d : Dev) : Bool := bits d.bootst.toNat 3 0 == 2
/-- The measurement blocks: block `k + 1` carries register `k` (R308). -/
def Dev.blocks (d : Dev) : List (Nat × BitVec 384) := (List.range 16).zipWith (fun k x => (k + 1, x)) d.mr.toList
/-- The certificate slots: 0 the identity key's, 1 the alias key's (R307). -/
def Dev.certs (d : Dev) : List (Nat × List Byte) :=
  (0, Config.identityCert d.flash) :: (d.aliasId.map fun a => (1, a.2)).toList
/-- The answer to a request of a kind; signed ones carry the alias key's signature over it (R307, R308). -/
def Dev.answer (d : Dev) (kind : Nat) (req : List Byte) (signed : Bool) : List Byte :=
  let r := Config.spdmResponse kind req d.blocks d.certs
  if signed then r ++ Config.sign ((d.aliasId.map (·.1)).getD 0) (sha384 r) else r
/-- Answers a request of a session (R308). -/
def State.spdm (s : State) (n id kind : Nat) (req : List Byte) (signed : Bool) : State :=
  s.modDev n fun d => if d.up then d.say id (d.answer kind req signed) else d

/-- GET_DIGESTS (R308). -/
def execGetDigests (s : State) : Res :=
  match s.ev with
  | some (.getDigests d id req) => .next (s.spdm d id 1 req false)
  | _ => .fault .noEvent
/-- GET_CERTIFICATE (R308). -/
def execGetCertificate (s : State) : Res :=
  match s.ev with
  | some (.getCertificate d id req) => .next (s.spdm d id 2 req false)
  | _ => .fault .noEvent
/-- CHALLENGE (R308). -/
def execChallenge (s : State) : Res :=
  match s.ev with
  | some (.challenge d id req) => .next (s.spdm d id 3 req true)
  | _ => .fault .noEvent
/-- GET_MEASUREMENTS (R308): signed with the alias key. -/
def execGetMeasurements (s : State) : Res :=
  match s.ev with
  | some (.getMeasurements d id req) => .next (s.spdm d id 4 req true)
  | _ => .fault .noEvent
/-- KEY_EXCHANGE (R308): beyond 256 sessions a busy error, kind 0. -/
def execKeyExchange (s : State) : Res :=
  match s.ev with
  | some (.keyExchange d id req) =>
    .next (s.modDev d fun x =>
      if !x.up then x
      else if 256 ≤ x.sessions.length then x.say id (x.answer 0 req false)
      else
        let n : Session := { id := id, key := Config.spdmKey req, cert := Config.requesterCert req, open_ := false, pid := none }
        { (x.say id (x.answer 5 req true)) with sessions := x.sessions ++ [n] })
  | _ => .fault .noEvent
/-- The partition that a requester's certificate is registered for (R309, R323). -/
def State.tenantOf (s : State) (cert : BitVec 384) : Option Nat := (s.parts.find? fun e => e.2.cert == cert && cert != 0).map (·.1)
/-- Ends a session of a device. -/
def Dev.endSession (d : Dev) (id : Nat) : Dev := { d with sessions := d.sessions.filter fun x => x.id != id }
/-- FINISH (R309): a session whose certificate is a partition's becomes its tenant session; the older one is ended. -/
def execFinish (s : State) : Res :=
  match s.ev with
  | some (.finish d id req) =>
    .next (match (s.dev d).sessions.find? fun x => x.id == id with
      | none => s
      | some x =>
        if !(s.dev d).up || x.open_ then s
        else if !Config.finishOk x.key req then s.modDev d fun y => (y.endSession id).say id (y.answer 0 req false)
        else
          let pid := s.tenantOf x.cert
          let open_ := fun (y : Session) => if y.id = id then { y with open_ := true, pid := pid } else y
          let s := s.modDev d fun y => { (y.say id (y.answer 6 req false)) with sessions := y.sessions.map open_ }
          match pid with
          | none => s
          | some p =>
            let s := match (s.part p).session with
              | some old => if old = (d, id) then s else s.modDev old.1 fun y => (y.endSession old.2).say old.2 (y.answer 9 [] false)
              | none => s
            s.modPart p fun q => { q with session := some (d, id) })
  | _ => .fault .noEvent
/-- KEY_UPDATE (R308): the session's key goes on by SPDM's schedule. -/
def execKeyUpdate (s : State) : Res :=
  match s.ev with
  | some (.keyUpdate d id req) =>
    .next (s.modDev d fun x =>
      if !x.up || !(x.sessions.any fun y => y.id == id && y.open_) then x
      else
        let next := fun (y : Session) => if y.id = id then { y with key := Config.spdmKey (toBytes 32 y.key ++ req) } else y
        { (x.say id (x.answer 7 req false)) with sessions := x.sessions.map next })
  | _ => .fault .noEvent
/-- HEARTBEAT (R308). -/
def execHeartbeat (s : State) : Res :=
  match s.ev with
  | some (.heartbeat d id req) =>
    .next (if (s.dev d).sessions.any fun y => y.id == id && y.open_ then s.spdm d id 8 req false else s)
  | _ => .fault .noEvent
/-- END_SESSION (R308, R309): the partition's work goes on. -/
def execEndSession (s : State) : Res :=
  match s.ev with
  | some (.endSession d id req) =>
    .next (if (s.dev d).sessions.any fun y => y.id == id then
        let t := (s.modDev d fun x => x.endSession id).spdm d id 9 req false
        { t with parts := t.parts.map fun e => if e.2.session = some (d, id) then (e.1, { e.2 with session := none }) else e }
      else s)
  | _ => .fault .noEvent

/-- The pages of a tenant's access by its class-1 mapping (R378). -/
def State.tenantPieces (s : State) (pid asid va n : Nat) : Tr (List Chunk) :=
  let c := s.readCore pid none
  trAll (fun p => (s.vaAddr c asid p.1).bind fun ak =>
      .ok ({ va := none, pa := ak.1, len := p.2, key := ak.2 } : Chunk)) (piecesOf va n)
/-- The clusters whose routers refuse a message of the port die, with pid 0xFFFF, for the local memory among chunks (R299, R300). -/
def State.portRefused (s : State) (cs : List Chunk) : List Nat :=
  (cs.filter fun c => isLocalWin (localOfAddr c.pa) && !s.admits 0xFFFF (clusterOfWin c.pa) (some 18)).map fun c => clusterOfWin c.pa
/-- Goes on with the pages of a tenant's access; a refused message is dropped and counted; at a frozen leaf the service reads it again
later (R320). -/
def State.tenantAccess (s : State) (e : Event) (pid asid va n : Nat) (go : List Chunk → State) : State :=
  match s.tenantPieces pid asid va n with
  | .ok cs => (match s.portRefused cs with
      | [] => go cs
      | cks => cks.foldl (fun s ck => s.countDrop ck) s)
  | .frozen => s.retry e
  | .fault _ => s
/-- Creates a partition that firmware asks for, where its number is a tenant's and no partition has it (R299, R323). -/
def State.createPart (s : State) (pid : Nat) (cert : BitVec 384) (keys : FMap Nat) : State :=
  if pid = 0 ∨ 0xFFFF ≤ pid ∨ cert = 0 ∨ (s.part pid).cert ≠ 0 then s
  else { s with parts := s.parts.set pid { Part.reset with cert := cert, keys := keys } }
/-- Destroys a partition: its work ends as at a kill, and its number, its certificate and its scopes are given up (R323, R355, log
41). Its tenant session goes on: a launch word that it carries names no handle that is registered, and is answered 3 (R388). -/
def State.destroyPart (s : State) (pid : Nat) : State :=
  if (s.part pid).cert = 0 then s
  else (s.killPart pid).modPart pid fun p => { p with cert := 0, keys := [], scopes := [] }
/-- What a partition's tenant session carries (R309, R332, R378). The lines of a result are verified as they leave; where one does not
have its check value or is poisoned, nothing is sent (R110, R379; log 8: DESIGN CHOICE, the spec gives no answer). -/
def State.tenantSays (s : State) (d id pid : Nat) (msg : TenantMsg) : State :=
  let e : Event := .tenantAppData d id msg
  match msg with
  | .launch w =>
    let r := s.launch pid w (some (d, id))
    r.2.modDev d fun y => y.say id (toBytes 8 r.1)
  | .write asid va bs => if (s.part pid).cert = 0 then s else s.tenantAccess e pid asid va.toNat bs.length fun cs => s.putChunks jobWriter none cs bs
  | .read asid va n => if (s.part pid).cert = 0 then s else s.tenantAccess e pid asid va.toNat n fun cs => match cs.find? fun c => (s.chunkPoison [c]).isSome with
    | some c => s.verifyAll c.key c.pa c.len
    | none => s.modDev d fun y => y.say id (s.chunkBytes cs)
  | _ => s
/-- TENANT_APP_DATA (R309, R323, R332, R378): a launch word is answered as LAUNCH is; a block is written to the partition's memory; a
result is read back; a firmware session creates and destroys partitions. Other sessions' messages are discarded. -/
def execTenantAppData (s : State) : Res :=
  match s.ev with
  | some (.tenantAppData d id msg) =>
    .next (match (s.dev d).sessions.find? fun x => x.id == id && x.open_ with
      | none => s
      | some x => (match x.pid, msg with
          | some pid, msg => if (s.part pid).session = some (d, id) then s.tenantSays d id pid msg else s
          | none, .create pid cert keys => if Config.firmwareCert x.cert then s.createPart pid cert keys else s
          | none, .destroy pid => if Config.firmwareCert x.cert then s.destroyPart pid else s
          | none, _ => s))
  | _ => .fault .noEvent

end Sys2Proof.Machine
end

