-- ==== Sys2Proof/Machine/Fabric.lean ====
section
/-! DEFINITION. Links (R373-R376), the clock of the span (R377), keys (R380), the interleave (R325), holds and firewalls (R299,
R393), the moved-frame set (R320), the integrity counter (R379), mail (R367), errors and rollback (R382-R386). -/

namespace Sys2Proof.Machine

/-! ### Links -/

/-- A link register (R373). -/
def linkWord (en : Bool) (plink pdev lanes retries reason state : Nat) : Word :=
  BitVec.ofNat 64 (en.toNat * 2 ^ 63 + plink % 16 * 2 ^ 48 + pdev % 512 * 2 ^ 39 + lanes % 16 * 2 ^ 32 + retries % 65536 * 2 ^ 16 +
    reason % 256 * 2 ^ 8 + state % 8)
/-- A link's register. -/
def State.link (s : State) (d i : Nat) : Word := (s.dev d).flink[Fin.ofNat 16 i]
/-- Writes a link's register. -/
def State.setLink (s : State) (d i : Nat) (w : Word) : State :=
  s.modDev d fun x => { x with flink := x.flink.set (Fin.ofNat 16 i) w }
/-- Its state and its last reason. -/
def linkState (w : Word) : Nat := w.toNat % 8
def linkReason (w : Word) : Nat := bits w.toNat 15 8

/-- LINK_ENABLE (R373): training starts from down and failed. -/
def execLinkEnable (s : State) : Res :=
  match s.ev with
  | some (.linkEnable d i) =>
    let w := s.link d i
    .next (if linkState w = 0 ∨ linkState w = 3 then (s.setLink d i (linkWord true 0 0 0 0 (linkReason w) 1)).modDev d fun x =>
        { x with train := x.train.set i s.clock }
      else s.setLink d i (w ||| BitVec.ofNat 64 (2 ^ 63)))
  | _ => .fault .noEvent
/-- LINK_TRAINING_END (R373): the end of a training with a peer device; the two ends' numbers must differ. -/
def execLinkTrainingEnd (s : State) : Res :=
  match s.ev with
  | some (.linkTrainingEnd d i lanes peer plink reason) =>
    let w := s.link d i
    let t := s.modDev d fun x => { x with train := x.train.del i, resends := x.resends.del i }
    let fail := fun (r : Nat) => t.setLink d i (linkWord true 0 0 0 0 r 3)
    .next (if linkState w ≠ 1 then s
      else if reason = 1 ∨ reason = 2 then fail reason
      else if s.numOf peer = s.numOf d then fail 3
      else if lanes < 4 ∨ 8 < lanes ∨ reason = 4 then fail 4
      else t.setLink d i (linkWord true plink (s.numOf peer) lanes 0 (linkReason w) 2))
  | _ => .fault .noEvent
/-- The resends of one flit after which its link fails (R374). -/
def resendMax : Nat := 64
/-- FLIT_RESEND (R373, R374): the flit is the one resent last, or another; the last resend that it may have fails the link. -/
def execFlitResend (s : State) : Res :=
  match s.ev with
  | some (.flitResend d i same) =>
    let w := s.link d i
    let n := if same then (s.dev d).resends.get 0 i + 1 else 1
    let t := (if bits w.toNat 31 16 = 65535 then s else s.setLink d i (w + BitVec.ofNat 64 65536)).modDev d fun x =>
      { x with resends := x.resends.set i n }
    .next (if linkState w ≠ 2 then s else if n < resendMax then t else { t with agenda := .linkDown d i :: t.agenda })
  | _ => .fault .noEvent

/-- Breaks a lane whose link is lost (R374): its oldest operation not acknowledged names the record, the later ones are discarded
and counted. A lane with none in flight is done: its next operation opens it anew, on a new path (R376). -/
def State.loseLane (s : State) (i : Nat) (l : Lane) : Lane :=
  if l.path ≠ some i ∨ l.broken.isSome then l
  else match l.flight with
    | [] => { l with acks := [] }
    | e :: rest =>
      let r := rest.foldl (fun (r : RemRec) e => r.bump e.seq) (s.brokenRec e 0x18 l.dst)
      { l with flight := [], acks := [], broken := some r }
/-- Whether a job of a slot moves bytes to or from another device over a link. -/
def State.jobOver (s : State) (d i : Nat) (j : Job) : Bool :=
  devOfSlot j.k == d && !j.done && j.started && (j.src ++ j.dst.filterMap fun p => match p with
    | .inl c => some c
    | .inr _ => none).any fun c => devOfAddr c.pa != d && s.pathOf j.k (devOfAddr c.pa) == some i
/-- Whether a fill of a copy engine job is on its way over a link: a job's requests go by the route table as it is (R374, R376). -/
def State.fillOver (s : State) (d i : Nat) (m : Msg) : Bool :=
  devOfSlot m.k == d && match m.kind with
  | .fill w _ _ _ (some _) => (s.slotOfName d w).any fun k => devOfSlot k != d && s.pathOf m.k (devOfSlot k) == some i
  | _ => false
/-- The fault address of the loss of a link to a parked thread: its request, or the reply to it, is on the link (R374). -/
def Park.lostAt (p : Park) (d i : Nat) : Option Word :=
  if p.arrived then none else (p.via.find? fun v => v.1 == d && v.2.1 == i).map fun v => v.2.2
/-- What is lost on a link that leaves its state 2 (R374): requests that park trap with cause 0x18, lanes break, jobs end. -/
def State.lose (s : State) (d i : Nat) : State :=
  let ks := s.slots.filterMap fun e => (e.2.park.bind fun p => p.lostAt d i).map fun va => (e.1, va)
  let s := ks.foldl (fun s e =>
    let s := match ((s.slot e.1).park.map (·.wait)) with
      | some (.reply id) => s.drop id
      | _ => s
    s.wakeWith e.1 (.fault 0x18 e.2)) s
  let s := (s.net.filter (s.fillOver d i)).foldl (fun s m => (s.drop m.id).answerFill (some m.id) 0x18) s
  let s := { s with lanes := s.lanes.map fun (l : Lane) => if devOfSlot l.k = d then s.loseLane i l else l }.tidyLanes
  s.clusters.foldl (fun s (e : Nat × Cluster) => if devOf e.1 ≠ d then s
    else e.2.jobs.foldl (fun s j => if s.jobOver d i j.2 then s.endJob e.1 j.1 0x18 else s) s) s
/-- LINK_DOWN (R374): the link fails, with reason 5, after 64 resends of one flit. -/
def execLinkDown (s : State) : Res :=
  match s.ev with
  | some (.linkDown d i) =>
    .next (if linkState (s.link d i) ≠ 2 ∨ (s.dev d).resends.get 0 i < resendMax then s
      else (s.setLink d i (linkWord true 0 0 0 (bits (s.link d i).toNat 31 16) 5 3)).lose d i)
  | _ => .fault .noEvent
/-- LINK_DISABLE (R373, R374). -/
def execLinkDisable (s : State) : Res :=
  match s.ev with
  | some (.linkDisable d i) =>
    let w := s.link d i
    let t := (s.setLink d i (linkWord false 0 0 0 (bits w.toNat 31 16) (linkReason w) 0)).modDev d fun x => { x with train := x.train.del i }
    .next (if linkState w = 2 then t.lose d i else t)
  | _ => .fault .noEvent

/-! ### The clock of the span (R377) -/

/-- sys.clksync. -/
def syncWord (sync : Bool) (offset : Int) (master : Nat) : Word :=
  BitVec.ofNat 64 (sync.toNat * 2 ^ 63 + ((max (-127) (min 127 offset)) % 256).toNat * 2 ^ 48 + master % 512)
/-- The devices at the other ends of a device's links that are up (R373). -/
def State.peers (s : State) (d : Nat) : List Nat :=
  (List.finRange 16).filterMap fun i =>
    let w := ((s.dev d).flink[i]).toNat
    if w % 8 = 2 then s.keyOfNum d (bits w 47 39) else none
/-- The devices that are reachable from some over links that are up, within `n` links. -/
def State.reach (s : State) : Nat → List Nat → List Nat
  | 0, ds => ds
  | n + 1, ds => s.reach n (ds ++ (ds.flatMap s.peers)).eraseDups
/-- The span's clock master as a device sees it: the lowest-numbered device that is reachable over links that are up (R377). -/
def State.masterOf (s : State) (d : Nat) : Nat :=
  (s.reach s.devs.length [d]).foldl (fun m y => if s.numOf y < s.numOf m then y else m) d
/-- Whether a device exchanges timestamps: each link that is up does, every 4,096 clocks (R377). -/
def State.syncDue (s : State) (d : Nat) : Bool := !(s.peers d).isEmpty && decide ((s.dev d).lastSync + 4096 ≤ s.clock)
/-- CLOCK_SYNC_EXCHANGE (R377): the estimate of the offset is the device's clock less the master's (log 49: DESIGN CHOICE; the spec does
not say how far an estimate may be off). -/
def execClockSyncExchange (s : State) : Res :=
  match s.ev with
  | some (.clockSyncExchange d) =>
    .next (if !s.syncDue d then s
      else
        let m := s.masterOf d
        let off : Int := (s.dev d).clk - (s.dev m).clk
        s.modDev d fun x =>
          let run := if off.natAbs ≤ 4 then x.syncRun + 1 else 0
          let sync := if 8 < off.natAbs then false else tb x.clksync.toNat 63 || decide (16 ≤ run)
          { x with clksync := syncWord sync off (s.numOf m), syncRun := run, lastSync := s.clock, drift := off })
  | _ => .fault .noEvent
/-- CLOCK_SYNC_LOSS (R377): no exchange has reached the device for 65,536 clocks. -/
def execClockSyncLoss (s : State) : Res :=
  match s.ev with
  | some (.clockSyncLoss d) =>
    .next (s.modDev d fun x => if s.clock < x.lastSync + 65536 then x
      else { x with clksync := x.clksync &&& BitVec.ofNat 64 (2 ^ 63 - 1), syncRun := 0, drift := 0 })
  | _ => .fault .noEvent

/-! ### Keys, the interleave, the moved-frame set, the integrity counter -/

/-- KEY_GENERATE (R380, R381). -/
def execKeyGenerate (s : State) : Res :=
  match s.ev with
  | some (.keyGenerate d id) =>
    .next (s.modDev d fun x =>
      if x.keys.has id then { x with keyErr := 1 }
      else { x with keys := x.keys.set id (x.bootCount.toNat * 2 ^ 32 + (x.genCount + 1).toNat), genCount := x.genCount + 1,
                    keyErr := 0 })
  | _ => .fault .noEvent
/-- KEY_RETIRE (R380). -/
def execKeyRetire (s : State) : Res :=
  match s.ev with
  | some (.keyRetire d id) =>
    .next (if id = 0 ∨ !(s.dev d).keys.has id then s.modDev d fun x => { x with keyErr := 2 }
      else (s.retireKey d id).modDev d fun x => { x with keyErr := 0 })
  | _ => .fault .noEvent

/-- Whether a staged interleave may be committed (R325): 1, 2 or 4 dies, a valid granule, at most 32 GiB in a die. -/
def milvOk (v : Vector Word 16) : Bool :=
  let dies := fun (w : Word) => (List.range 4).filter fun i => tb w.toNat i
  (v.all fun w => [1, 2, 4].contains (dies w).length && bits w.toNat 9 8 != 3) &&
  (List.range 4).all fun i => decide ((v.toList.map fun w => if (dies w).contains i then 8 / (dies w).length else 0).sum ≤ 32)
/-- A key serial that no key has: what is under it reads as unrelated data (R109, R325). -/
def lostSerial (clock : Nat) : Nat := 2 ^ 48 + clock
/-- INTERLEAVE_COMMIT (R325): the lines of a region that changes read as unrelated data. -/
def execInterleaveCommit (s : State) : Res :=
  match s.ev with
  | some (.interleaveCommit d) =>
    let x := s.dev d
    .next (if !milvOk x.milvStaged then s.modDev d fun x => { x with milvErr := true }
      else
        let changed := fun (line : Nat) => devOfAddr (line * 64) == d && isDram (localOfAddr (line * 64)) &&
          x.milv[Fin.ofNat 16 (localOfAddr (line * 64) / 2 ^ 33)] != x.milvStaged[Fin.ofNat 16 (localOfAddr (line * 64) / 2 ^ 33)]
        let lines := ((s.mem.map fun (c : Host.Cell) => c.1 / 64) ++ s.serials.map fun (e : Nat × Nat) => e.1).eraseDups.filter changed
        ({ s with serials := lines.foldl (fun m l => m.set l (lostSerial s.clock)) s.serials,
                  l2 := s.l2.filter fun l => !changed l.line }).modDev d fun x =>
          { x with milv := x.milvStaged, milvErr := false })
  | _ => .fault .noEvent

/-- MOVED_FRAME_ENTER (R320): a full set ignores it. -/
def execMovedFrameEnter (s : State) : Res :=
  match s.ev with
  | some (.movedFrameEnter d f z) =>
    .next (s.modDev d fun x =>
      if x.moved.contains { frame := f, size := z } then x
      else if 64 ≤ x.moved.length then { x with mvovf := true } else { x with moved := x.moved ++ [{ frame := f, size := z }] })
  | _ => .fault .noEvent
/-- MOVED_FRAME_REMOVE (R320): a gang's status word that is still addressed in the frame is translated again before (R321). -/
def execMovedFrameRemove (s : State) : Res :=
  match s.ev with
  | some (.movedFrameRemove d f z) =>
    let cores := (s.clusters.filter fun e => devOf e.1 == d && e.2.gang.isSome).flatMap fun e => coresIn e.1
    .next ((cores.foldl (fun s c => s.statMoved c) s).modDev d fun x => { x with moved := x.moved.filter (· != { frame := f, size := z }), mvovf := false })
  | _ => .fault .noEvent
/-- INTCNT_CLEAR (R372, R379). -/
def execIntcntClear (s : State) : Res :=
  match s.ev with
  | some (.intcntClear d) => .next (s.modDev d fun x => { x with intcnt := 0 })
  | _ => .fault .noEvent

/-! ### Holds, firewalls, mail -/

/-- CLUSTER_HOLD (R393): each slot stops as at a synchronised stop; owed work runs on. -/
def execClusterHold (s : State) : Res :=
  match s.ev with
  | some (.clusterHold ck) =>
    let s := s.modCluster ck fun x => { x with hold := true }
    .next (((coresIn ck).flatMap slotsOf).foldl (fun s k => if (s.slot k).occ then s.halt k else s) s)
  | _ => .fault .noEvent
/-- CLUSTER_RELEASE (R393): every slot may issue again from the next clock; what a stop or a re-placing has stopped waits for its resume
clock (R356). The images of cores that go on are out of date. -/
def execClusterRelease (s : State) : Res :=
  match s.ev with
  | some (.clusterRelease ck) =>
    let pid := s.pidOf ck
    let on := fun (k : Nat) => (s.slot k).occ && !(s.slot k).stopped
    let stale := (coresIn ck).filter fun c => (slotsOf c).any on
    let s := (if stale.isEmpty then s else s.endSave pid ck).modCluster ck fun x => { x with hold := false }
    let s := s.modPart pid fun p => { p with images := p.images.filter fun e => !stale.contains e.1 }
    .next (((coresIn ck).flatMap slotsOf).foldl (fun s k =>
      if on k then s.modSlot k fun t => { t with saved := false, readyAt := max t.readyAt (s.clock + 1) } else s) s)
  | _ => .fault .noEvent
/-- A named-scope entry without a cluster of a device, or invalid where it names a core of it (R336). -/
def ScopeDesc.without (e : ScopeDesc) (num ck : Nat) : ScopeDesc :=
  if tb e.devs.toNat num && (List.range 8).any fun c => tb e.cores.toNat (ck % 160 * 8 + c) then { e with valid := false } else e
/-- FIREWALL_WRITE (R299): a cluster that leaves its partition takes the named scopes that name one of its cores with it (R336). -/
def execFirewallWrite (s : State) : Res :=
  match s.ev with
  | some (.firewallWrite ck v) =>
    let w := (s.cluster ck).fwall
    let old := w.toNat % 65536
    let pid := if v.toNat % 65536 = 65535 then old else v.toNat % 65536
    .next (if tb w.toNat 63 then s
      else
        let s := if pid = old ∨ (s.part old).scopes.isEmpty then s
          else s.modPart old fun p => { p with scopes := p.scopes.map fun e => (e.1, e.2.without (s.numOf (devOf ck)) ck) }
        let drops := if pid = old then bits w.toNat 47 32 else 0
        s.modCluster ck fun x =>
          { x with fwall := BitVec.ofNat 64 (bits v.toNat 63 63 * 2 ^ 63 + drops * 2 ^ 32 + bits v.toNat 18 16 * 2 ^ 16 + pid) })
  | _ => .fault .noEvent
/-- MAIL_RECORD_DELIVERY (R248, R367): the oldest record that waits for a core enters its inbox. -/
def execMailRecordDelivery (s : State) : Res :=
  match s.ev with
  | some (.mailRecordDelivery c) =>
    .next (match (s.core c).mail with
      | [] => s
      | r :: rs => if Config.inbox ≤ (s.core c).inbox.length then s
        else (s.modCore c fun x => { x with mail := rs, inbox := x.inbox ++ [r] }).rouse c)
  | _ => .fault .noEvent

/-! ### Errors (R382-R386) -/

/-- CORRECTABLE_ERROR (R382): an entry in the error log. -/
def execCorrectableError (s : State) : Res :=
  match s.ev with
  | some (.correctableError d loc) => .next (s.modDev d fun x => { x with log := x.log ++ [loc] })
  | _ => .fault .noEvent

/-- Discards the array work and the jobs of the uncommitted nodes of a partition, its threads' or those of threads that have exited, and
the work items that they pushed (R386). -/
def State.discardWork (s : State) (pid : Nat) : State :=
  let mine := fun (p : Option Placed) => p.any fun p => p.pid == pid
  let s := s.clusters.foldl (fun s e =>
    let jobs := e.2.jobs.filter fun j => mine j.2.placed && !j.2.done
    (jobs.foldl (fun s j => (s.useCounts false j.2.refs).leaveFoot e.1 j.2.id) s).modCluster e.1 fun x =>
      { x with jobs := x.jobs.filter fun j => !(jobs.any fun y => y.1 == j.1), items := x.items.filter fun it => !mine it.by_ }) s
  s.cores.foldl (fun s e =>
    let ck := clusterOfCore e.1
    let drains := e.2.slice.owed.filter fun d => mine d.placed
    let loads := (e.2.slice.ldQ ++ e.2.slice.ldRun.toList).filter fun o => mine o.placed
    let s := drains.foldl (fun s d => (s.useCounts false d.refs).leaveFoot ck d.id) s
    let s := loads.foldl (fun s o => s.leaveFoot ck o.id) s
    s.modSlice e.1 fun x =>
      { x with ldQ := x.ldQ.filter fun o => !mine o.placed, ldRun := x.ldRun.filter fun o => !mine o.placed,
               drains := x.drains.filter fun d => !mine d.d.placed }) s
/-- Discards what a slot of a rolled back node owes (R386): its array instructions, its stores and messages; then the slot is vacated.
What firmware has released for an earlier thread of the slot goes on. -/
def State.discardSlot (s : State) (k : Nat) : State :=
  let c := coreOf k
  let t := s.slot k
  let s := if s.isMember k then s.modSlice c fun x => { x with accQ := [], accRun := none, tmm := none } else s
  let s := { s with net := s.net.filter fun m => m.k != k || m.gen != t.gen, lanes := s.lanes.filter fun l => l.k != k || l.gen != t.gen }
  (s.modCore c fun x => { x with sq := x.sq.filter (·.k != k) }).vacate k
/-- An instance after a rollback: its running nodes start again, or a node rolled back three times ends it. -/
def Inst.rolledBack (x : Inst) : Inst :=
  let back := (List.range x.nodes.length).filter fun j => match x.nodes[j]? with
    | some (.running ..) => true
    | _ => false
  { x with nodes := x.nodes.map fun n => match n with
             | .running .. => .waiting
             | n => n,
           placedRecs := [], pushLeft := [], undo := [], rolls := back.foldl (fun m j => m.set j (m.get 0 j + 1)) x.rolls }
/-- Begins the rollback of a partition (R386): its running clusters are stopped by a synchronised stop. -/
def State.rollBack (s : State) (pid : Nat) : State :=
  let cks := (s.clustersOf pid).filter fun ck => (s.cluster ck).stopAt.isNone && !(s.cluster ck).hold
  (cks.foldl (fun s ck => s.modCluster ck fun x => { x with armStop := some { at_ := s.clkOf ck } }) s).modPart pid fun p =>
    { p with rolling := some (s.clock, cks) }
/-- Whether the clusters of a partition that rolls back have stopped. -/
def State.rolledDown (s : State) (pid : Nat) : Bool :=
  match (s.part pid).rolling with
  | some (_, cks) => cks.all fun ck => (s.cluster ck).stopAt.isSome || (s.cluster ck).hold
  | none => false
/-- The rest of a rollback once its clusters have stopped (R386): the uncommitted nodes' threads and owed work go, held effects are
discarded, the undo copies are restored with the poisoned lines they cover, the nodes are placed again, and the others' threads go on. -/
def State.restore (s : State) (pid : Nat) : State :=
  let cks := (((s.part pid).rolling.map (·.2)).getD [])
  let ks := (s.slots.map (·.1)).filter fun k => (s.uncommitted k).any fun p => p.pid == pid
  let s := ks.foldl (fun s k => s.discardSlot k) (s.discardWork pid)
  let undo := (s.part pid).insts.flatMap fun e => e.2.undo
  let s := undo.foldl (fun s u =>
    let s := { s with poison := (linesOf (cellsAt u.pa u.bytes)).foldl (fun m l => m.del l) s.poison }
    s.homeWrite u.key (cellsAt u.pa u.bytes) jobWriter none) s
  let insts := (s.part pid).insts.map (·.1)
  let s := (s.coresOf pid).foldl (fun s c => s.modCore c fun x => { x with inbox := x.inbox.filter fun r =>
    !(fieldAt r 0 1 == 1 && insts.contains (fieldAt r 4 4)) }) s
  let kept := (s.part pid).heldFx.filter fun h => !s.nodeRuns pid h.inst h.node
  let s := s.modPart pid fun p => { p with heldFx := kept, insts := p.insts.map fun e => (e.1, e.2.rolledBack), rolling := none }
  let s := cks.foldl (fun s ck => s.modCluster ck fun x => { x with stopAt := none }) s
  let s := { s with slots := s.slots.map fun e => if cks.contains (clusterOf e.1) && e.2.stopped then (e.1, e.2.goesOn s.clock) else e }
  insts.foldl (fun s i => match (s.inst pid i).rolls.find? fun e => decide (3 ≤ e.2) with
    | some (j, _) => s.endInst pid i j 0x32
    | none => s) s
/-- Charges an error on a device to a partition (R383): one charged to firmware resets the device; a partition in recoverable mode is
rolled back, and killed by a second error on a later clock while that goes on (R386); two on one clock count once. -/
def State.charge (s : State) (d pid : Nat) : State :=
  if pid = 0 then { s with agenda := .deviceReset d :: s.agenda }
  else if (s.part pid).killed then s
  else match (s.part pid).rolling with
    | some (t, _) => if t < s.clock then s.killPart pid else s
    | none => if (s.part pid).recoverable then s.rollBack pid else s.killPart pid
/-- The partition whose directory entry on a device holds a set's colour (R319, R382). -/
def State.colourOwner (s : State) (d colour : Nat) : Option Nat :=
  ((List.range 0xFFFE).map (· + 1)).find? fun pid => match s.dirEntry d pid with
    | some (_, mask) => tb mask colour
    | none => false
/-- A byte changes where no code of an array sees it: the check value of its line stays what it was (R110, R379). -/
def State.corrupt (s : State) (pa : Nat) (x : Byte) : State :=
  { s with checks := if s.checks.has (pa / 64) then s.checks else s.checks.set (pa / 64) (s.checkOf (pa / 64)),
           mem := s.mem.writeCells [(pa, x)] }
/-- Whether a line of DRAM was last written under key 0, which is firmware's (R380, R383). -/
def State.underKey0 (s : State) (line : Nat) : Bool :=
  s.serials.any fun e => e.1 == line && e.2 == s.serialOf 0 (line * 64)
/-- The pid of a message or an operation in a buffer, with the device of its sender (R382). -/
def State.packetPid (s : State) (id : Nat) : Option (Nat × Nat) :=
  ((s.net.find? fun m => m.id == id).map fun m => (devOfSlot m.k, m.pid)).orElse fun _ =>
    ((s.lanes.flatMap (·.flight) ++ s.cores.flatMap fun e => e.2.sq).find? fun e => e.id == id).map fun e => (devOfSlot e.k, e.pid)
/-- UNCORRECTABLE_ERROR (R382, R383, R386): data is poisoned, or changes unseen; an array is charged to its owner, a buffer to the pid of
its packet; an error under key 0 is charged to firmware; a TLB entry is dropped. -/
def execUncorrectableError (s : State) : Res :=
  match s.ev with
  | some (.uncorrectableError e) =>
    .next (match e with
      | .byte pa x => s.corrupt pa x
      | .line pa => if s.underKey0 (pa / 64) then s.charge (devOfAddr pa) 0 else { s with poison := s.poison.set (pa / 64) 0x18 }
      | .l1 c line => s.modCore c fun x => { x with l1 := x.l1.map fun l => if l.pline = line then { l with bad := true } else l }
      | .konst ck line => s.modCluster ck fun x =>
        { x with konst := x.konst.map fun l => if l.pline = line then { l with bad := true } else l }
      | .packet id => (match s.packetPid id with
          | some (d, pid) => s.charge d pid
          | none => s)
      | .cluster ck => s.charge (devOf ck) (s.pidOf ck)
      | .l2tag d set => s.charge d ((s.colourOwner d (bits set 11 6)).getD 0)
      | .tlb last n i =>
        if last then s.modDie n fun x => { x with tlb := x.tlb.eraseIdx i } else s.modCluster n fun x => { x with tlb := x.tlb.eraseIdx i }
      | .restore pid => if s.rolledDown pid then s.restore pid else s)
  | _ => .fault .noEvent

end Sys2Proof.Machine
end

