-- ==== Sys2Proof/Machine/LoadStore.lean ====
section
/-! DEFINITION. Loads and stores of virtual memory (R157, R158), the constant path (R162), LD.acq and ST.rel (R173). -/

namespace Sys2Proof.Machine

/-- A load of `n` bytes (R155, R157): in a region a region access, otherwise the reply's write. -/
def load (p : Pfx) (d a : Fin 32) (off : Int) (n : Nat) (signed : Bool) (s : State) : Res :=
  let nw := nw0 p
  run p nw false s fun s => withFull s [a] nw fun s =>
    let va := eaOf s.me a off n
    withAcc s (s.me.tagOf a) va n 1 false nw fun acc =>
      match acc.s.me.region with
      | some r => (acc.s.fillNext (hintsOf p) va.toNat acc n).regionLoad r va acc n signed d nw
      | none => doLoad (hintsOf p) va acc n nw fun x => [.g d (extend signed n x)]

/-- The low `n` bytes of a register as cells from an address on. -/
def cellsOf (a n : Nat) (x : Word) : List Host.Cell := cellsAt a (toBytes n x.toNat)

/-- A store of `n` bytes (R155, R157): in a region a region access, otherwise an entry of the store queue. -/
def store (p : Pfx) (d a : Fin 32) (off : Int) (n : Nat) (s : State) : Res :=
  let nw := nw0 p
  run p nw false s fun s => withFull s [a, d] nw fun s =>
    let va := eaOf s.me a off n
    withAcc s (s.me.tagOf a) va n 2 true nw fun acc =>
      let cells := cellsOf acc.pa n (s.me.rd d)
      match acc.s.me.region with
      | some r => acc.s.regionStore r va acc cells nw
      | none => acc.s.post va acc (.store cells) acc.s.me.rel nw

/-- LD.s8 (R157). -/
def execLdS8 (p : Pfx) (d a : Fin 32) (off : Int) (s : State) : Res := load p d a off 1 true s
/-- LD.s16 (R157). -/
def execLdS16 (p : Pfx) (d a : Fin 32) (off : Int) (s : State) : Res := load p d a off 2 true s
/-- LD.s32 (R157). -/
def execLdS32 (p : Pfx) (d a : Fin 32) (off : Int) (s : State) : Res := load p d a off 4 true s
/-- LD.s64 and LD.z64 (R157). -/
def execLd64 (p : Pfx) (d a : Fin 32) (off : Int) (s : State) : Res := load p d a off 8 false s
/-- LD.z8 (R157). -/
def execLdZ8 (p : Pfx) (d a : Fin 32) (off : Int) (s : State) : Res := load p d a off 1 false s
/-- LD.z16 (R157). -/
def execLdZ16 (p : Pfx) (d a : Fin 32) (off : Int) (s : State) : Res := load p d a off 2 false s
/-- LD.z32 (R157). -/
def execLdZ32 (p : Pfx) (d a : Fin 32) (off : Int) (s : State) : Res := load p d a off 4 false s
/-- ST.8 (R157). -/
def execSt8 (p : Pfx) (d a : Fin 32) (off : Int) (s : State) : Res := store p d a off 1 s
/-- ST.16 (R157). -/
def execSt16 (p : Pfx) (d a : Fin 32) (off : Int) (s : State) : Res := store p d a off 2 s
/-- ST.32 (R157). -/
def execSt32 (p : Pfx) (d a : Fin 32) (off : Int) (s : State) : Res := store p d a off 4 s
/-- ST.64 (R157). -/
def execSt64 (p : Pfx) (d a : Fin 32) (off : Int) (s : State) : Res := store p d a off 8 s

/-! ### The constant path (R97, R162) -/

/-- The constant-cache line of an access. -/
def State.konstFind (s : State) (a : Acc) : Option RoLine :=
  (s.cluster s.myCluster).konst.find? fun l => l.pline == a.pa / 64
/-- The number of lines of the constant cache (R97). -/
def konstLines : Nat := 4096
/-- Enters a line into the cluster's constant cache, filled from its home; beyond its capacity the oldest line goes (log 38: DESIGN
CHOICE). Local memory is not cached (R93). -/
def State.konstFill (s : State) (va : Nat) (a : Acc) : State :=
  let line := a.pa / 64
  if isLocalWin (localOfAddr a.pa) then s
  else
    let l0 : RoLine := { asid := s.me.asid.toNat, vline := va / 64, pline := line, from_ := s.quiet s.myCore,
                         data := BitVec.ofNat 512 (s.numAt a.key (line * 64) 64), bad := false }
    s.modCluster s.myCluster fun x => { x with konst := (l0 :: x.konst).take konstLines }
/-- The fills of an LDC: its line, and by a hint the following one of the page, where it is sound (R117). -/
def State.konstFor (s : State) (h : Hints) (va : Nat) (a : Acc) : State :=
  let s := if (s.konstFind a).isSome then s else s.konstFill va a
  let va' := va / 64 * 64 + 64
  let a' : Acc := { a with pa := a.pa / 64 * 64 + 64 }
  if h.next && va' / 65536 == va / 65536 && (s.konstFind a').isNone && (s.poisonOf a.key a'.pa 64).isNone then s.konstFill va' a' else s
/-- The 8 bytes that LDC reads: the cached line's, or the home's. -/
def State.konstRead (s : State) (a : Acc) : Nat :=
  match s.konstFind a with
  | some l => l.data.toNat / 2 ^ (8 * (a.pa % 64)) % 2 ^ 64
  | none => s.numAt a.key a.pa 8
/-- The time of the reply of an LDC: open, but not before the invalidations that were on their way when its line was read (R255). -/
def State.konstWait (s : State) (a : Acc) : Wait :=
  match s.konstFind a with
  | some l => if s.clock ≤ l.from_ then .after l.from_ else .latency
  | none => s.replyWait s.myCore

/-- The cause that an LDC traps with: that of its cached line; a miss verifies the line at its home (R110, R111, R382). -/
def State.konstBad (s : State) (a : Acc) : Option Nat :=
  match s.konstFind a with
  | some l => if l.bad then some 0x18 else none
  | none => s.poisonOf a.key a.pa 8

/-- LDC (R162): a miss reads at the home, which may have moved (R320), and verifies the line (R110). -/
def execLdc (p : Pfx) (d a : Fin 32) (off : Int) (s : State) : Res :=
  let nw := nw0 p
  run p nw true s fun s => withFull s [a] nw fun s =>
    let va := eaOf s.me a off 8
    withAcc s (s.me.tagOf a) va 8 1 false nw fun acc =>
      let miss := (acc.s.konstFind acc).isNone
      if miss && acc.s.isMoved acc.s.myPid acc.pa then (acc.s.reread va.toNat).parkRe 1 .latency nw
      else if miss && !acc.s.mayReach acc.s.myCluster acc.pa then acc.s.trap 7 va nw
      else match acc.s.konstBad acc with
      | some c => (acc.s.verifyAll acc.key acc.pa 8).parkAt acc.s.cur 1 .latency (.fault c va) nw false
      | none =>
        let x := BitVec.ofNat 64 (acc.s.konstRead acc)
        ((acc.s.konstFor (hintsOf p) va.toNat acc).parkFin 1 (acc.s.konstWait acc) [.g d x] nw).onPath
          { acc with remote := acc.remote && miss } va

/-- CSYNC (R97, R162): waits for the thread's stores, then empties the cluster's constant cache. -/
def execCsync (p : Pfx) (s : State) : Res :=
  let nw := nwX p
  run p nw true s fun s =>
    if s.allHome s.cur then (s.modCluster s.myCluster fun x => { x with konst := [] }).finish nw
    else s.parkRe 10 (.fence 6 false) nw

/-! ### LD.acq and ST.rel (R173) -/

/-- Drops an L1 copy of a line that a core reads past: an acquire that reads at the home takes a new one (R258, R260). -/
def State.readPast (s : State) (c line : Nat) : State := s.dropLine line fun c' => s.sameL1 c' c

/-- Whether an acquire at an instance of a scope reads at the line's home (R258, R260). -/
def State.readsHome (s : State) (i : ScopeInst) : Bool := decide (3 ≤ s.levelOf s.myCore i)

/-- LD.acq (R173): a release found too narrow is repaired first; the read is at the scope's level, at the home after every store on
its way from the thread's L1; far lines are dropped before the thread's next access. -/
def execLdAcq (p : Pfx) (sc : Scope) (sz : Sz) (d a : Fin 32) (off : Int) (s : State) : Res :=
  let nw := nwX p
  let n := sz.bytes
  run p nw true s fun s => withFull s [a] nw fun s =>
    let va := eaOf s.me a off n
    withAcc s (s.me.tagOf a) va n 1 false nw fun acc => withScope acc.s sc nw fun i =>
      if acc.s.readsHome i && acc.s.opsAhead acc.s.cur va.toNat (acc.pa / 64) true then acc.s.parkRe 1 .latency nw
      else match acc.s.tooNarrow acc.s.cur (acc.pa / 64) i with
      | some t => acc.s.scopeMiss (acc.pa / 64) t 1 nw
      | none =>
        let s := acc.s.modMe fun t => { t with rel := none }
        let s := if s.readsHome i then s.readPast s.myCore (acc.pa / 64) else s
        doLoad (hintsNt p) va { acc with s := s } n nw fun x =>
          .g d (extend false n x) :: acqWr (s.levelOf s.myCore i)

/-- ST.rel (R173): waits as a release fence does, then enqueues its store with the release tag. -/
def execStRel (p : Pfx) (sc : Scope) (sz : Sz) (d a : Fin 32) (off : Int) (s : State) : Res :=
  let nw := nwX p
  let n := sz.bytes
  run p nw true s fun s => withFull s [a, d] nw fun s =>
    let va := eaOf s.me a off n
    withAcc s (s.me.tagOf a) va n 2 true nw fun acc => withScope acc.s sc nw fun i => withLanes acc.s nw fun s =>
      let lv := s.levelOf s.myCore i
      if !s.performedAt s.cur lv then s.parkRe 10 (.fence lv false) nw
      else
        let s := s.modMe fun t => { t with rel := none }
        s.post va { acc with s := s } (.store (cellsOf acc.pa n (s.me.rd d))) (some (s.relTag i)) nw

end Sys2Proof.Machine
end

