-- ==== Sys2Proof/Machine/Scalar.lean ====
section
/-! DEFINITION. Scalar integer instructions, compares and predicate logic (R131-R142), and the scalar stream moves
(R138). -/

namespace Sys2Proof.Machine

/-- A register form: two sources, one destination (R133). -/
def alu (p : Pfx) (nw : Nat) (d a b : Fin 32) (op : Word → Word → Word) (s : State) : Res :=
  run p nw false s fun s => withFull s [a, b] nw fun s =>
    s.finishMe nw fun t => t.wr d (op (t.rd a) (t.rd b))

/-- An immediate form or a single-operand form: one source, one destination (R133, R134). -/
def alu1 (p : Pfx) (nw : Nat) (d a : Fin 32) (op : Word → Word) (s : State) : Res :=
  run p nw false s fun s => withFull s [a] nw fun s =>
    s.finishMe nw fun t => t.wr d (op (t.rd a))

/-- A compare: two sources, a predicate (R139). -/
def cmp (p : Pfx) (d : Fin 8) (a b : Fin 32) (op : Word → Word → Bool) (s : State) : Res :=
  run p (nw0 p) false s fun s => withFull s [a, b] (nw0 p) fun s =>
    s.finishMe (nw0 p) fun t => t.wrP d (op (t.rd a) (t.rd b))

/-- Predicate logic (R140). -/
def plogic (p : Pfx) (d a b : Fin 8) (op : Bool → Bool → Bool) (s : State) : Res :=
  run p (nw0 p) false s fun s => s.finishMe (nw0 p) fun t => t.wrP d (op (t.rdP a) (t.rdP b))

/-- ADD (R133). -/
def execAdd (p : Pfx) (d a b : Fin 32) (s : State) : Res := alu p (nw0 p) d a b (· + ·) s
/-- SUB (R133). -/
def execSub (p : Pfx) (d a b : Fin 32) (s : State) : Res := alu p (nw0 p) d a b (· - ·) s
/-- AND (R133). -/
def execAnd (p : Pfx) (d a b : Fin 32) (s : State) : Res := alu p (nw0 p) d a b (· &&& ·) s
/-- OR (R133). -/
def execOr (p : Pfx) (d a b : Fin 32) (s : State) : Res := alu p (nw0 p) d a b (· ||| ·) s
/-- XOR (R133). -/
def execXor (p : Pfx) (d a b : Fin 32) (s : State) : Res := alu p (nw0 p) d a b (· ^^^ ·) s
/-- MUL: the low 64 bits (R133). -/
def execMul (p : Pfx) (d a b : Fin 32) (s : State) : Res := alu p (nw0 p) d a b (· * ·) s
/-- SHL by a register (R133). -/
def execShl (p : Pfx) (d a b : Fin 32) (s : State) : Res := alu p (nw0 p) d a b (fun x y => x <<< shiftCount y) s
/-- SHR by a register (R133). -/
def execShr (p : Pfx) (d a b : Fin 32) (s : State) : Res := alu p (nw0 p) d a b (fun x y => x >>> shiftCount y) s
/-- SHRA by a register (R133). -/
def execShra (p : Pfx) (d a b : Fin 32) (s : State) : Res :=
  alu p (nw0 p) d a b (fun x y => x.sshiftRight (shiftCount y)) s
/-- ANDN (R133). -/
def execAndn (p : Pfx) (d a b : Fin 32) (s : State) : Res := alu p (nw0 p) d a b (fun x y => x &&& ~~~y) s
/-- ADDI (R133). -/
def execAddi (p : Pfx) (d a : Fin 32) (imm : Int) (s : State) : Res := alu1 p (nw0 p) d a (· + immWord imm) s
/-- SHL by an immediate (R133). -/
def execShli (p : Pfx) (d a : Fin 32) (imm : Int) (s : State) : Res :=
  alu1 p (nw0 p) d a (fun x => x <<< shiftCount (immWord imm)) s
/-- SHR by an immediate (R133). -/
def execShri (p : Pfx) (d a : Fin 32) (imm : Int) (s : State) : Res :=
  alu1 p (nw0 p) d a (fun x => x >>> shiftCount (immWord imm)) s
/-- SHRA by an immediate (R133). -/
def execShrai (p : Pfx) (d a : Fin 32) (imm : Int) (s : State) : Res :=
  alu1 p (nw0 p) d a (fun x => x.sshiftRight (shiftCount (immWord imm))) s
/-- ANDI (R133). -/
def execAndi (p : Pfx) (d a : Fin 32) (imm : Int) (s : State) : Res := alu1 p (nwX p) d a (· &&& immWord imm) s
/-- ORI (R133). -/
def execOri (p : Pfx) (d a : Fin 32) (imm : Int) (s : State) : Res := alu1 p (nwX p) d a (· ||| immWord imm) s
/-- XORI (R133). -/
def execXori (p : Pfx) (d a : Fin 32) (imm : Int) (s : State) : Res := alu1 p (nwX p) d a (· ^^^ immWord imm) s

/-- The signed minimum and maximum of two values (R133). -/
def smin (x y : Word) : Word := if x.slt y then x else y
def smax (x y : Word) : Word := if x.slt y then y else x
/-- The unsigned minimum and maximum. -/
def umin (x y : Word) : Word := if x.ult y then x else y
def umax (x y : Word) : Word := if x.ult y then y else x

/-- MIN (R133). -/
def execMin (p : Pfx) (d a b : Fin 32) (s : State) : Res := alu p (nwX p) d a b smin s
/-- MAX (R133). -/
def execMax (p : Pfx) (d a b : Fin 32) (s : State) : Res := alu p (nwX p) d a b smax s
/-- MINZ (R133). -/
def execMinz (p : Pfx) (d a b : Fin 32) (s : State) : Res := alu p (nwX p) d a b umin s
/-- MAXZ (R133). -/
def execMaxz (p : Pfx) (d a b : Fin 32) (s : State) : Res := alu p (nwX p) d a b umax s

/-- The number of leading zero bits (R134). -/
def clz64 (x : Word) : Nat := if x = 0 then 64 else 63 - x.toNat.log2
/-- The number of trailing zero bits: the leading zeros of the lowest one bit, counted from the other end (R134). -/
def ctz64 (x : Word) : Nat := if x = 0 then 64 else (x &&& (0 - x)).toNat.log2
/-- The number of one bits among the low `n` (R134). -/
def ones : Nat → Nat → Nat
  | 0, _ => 0
  | n + 1, x => x % 2 + ones n (x / 2)
/-- The eight bytes in reverse order (R134). -/
def bswap64 (x : Word) : Word := BitVec.ofNat 64 (ofBytes (toBytes 8 x.toNat).reverse)

/-- CLZ (R134). -/
def execClz (p : Pfx) (d a : Fin 32) (s : State) : Res := alu1 p (nwX p) d a (fun x => BitVec.ofNat 64 (clz64 x)) s
/-- CTZ (R134). -/
def execCtz (p : Pfx) (d a : Fin 32) (s : State) : Res := alu1 p (nwX p) d a (fun x => BitVec.ofNat 64 (ctz64 x)) s
/-- POPC (R134). -/
def execPopc (p : Pfx) (d a : Fin 32) (s : State) : Res :=
  alu1 p (nwX p) d a (fun x => BitVec.ofNat 64 (ones 64 x.toNat)) s
/-- BSWAP (R134). -/
def execBswap (p : Pfx) (d a : Fin 32) (s : State) : Res := alu1 p (nwX p) d a bswap64 s

/-- Bits [127:64] of the signed product (R135). -/
def mulhS (x y : Word) : Word := BitVec.ofInt 64 (x.toInt * y.toInt / 2 ^ 64)
/-- Bits [127:64] of the unsigned product (R135). -/
def mulhU (x y : Word) : Word := BitVec.ofNat 64 (x.toNat * y.toNat / 2 ^ 64)
/-- The signed quotient, rounded toward zero; −1 for a zero divisor (R135). -/
def divS (x y : Word) : Word := if y = 0 then BitVec.allOnes 64 else BitVec.ofInt 64 (x.toInt.tdiv y.toInt)
/-- The unsigned quotient; all ones for a zero divisor (R135). -/
def divU (x y : Word) : Word := if y = 0 then BitVec.allOnes 64 else BitVec.ofNat 64 (x.toNat / y.toNat)
/-- The signed remainder, with the sign of `x`; `x` for a zero divisor (R135). -/
def remS (x y : Word) : Word := if y = 0 then x else BitVec.ofInt 64 (x.toInt.tmod y.toInt)
/-- The unsigned remainder; `x` for a zero divisor (R135). -/
def remU (x y : Word) : Word := if y = 0 then x else BitVec.ofNat 64 (x.toNat % y.toNat)

/-- MULH (R135). -/
def execMulh (p : Pfx) (d a b : Fin 32) (s : State) : Res := alu p (nwX p) d a b mulhS s
/-- MULHZ (R135). -/
def execMulhz (p : Pfx) (d a b : Fin 32) (s : State) : Res := alu p (nwX p) d a b mulhU s
/-- DIV (R135). -/
def execDiv (p : Pfx) (d a b : Fin 32) (s : State) : Res := alu p (nwX p) d a b divS s
/-- DIVZ (R135). -/
def execDivz (p : Pfx) (d a b : Fin 32) (s : State) : Res := alu p (nwX p) d a b divU s
/-- REM (R135). -/
def execRem (p : Pfx) (d a b : Fin 32) (s : State) : Res := alu p (nwX p) d a b remS s
/-- REMZ (R135). -/
def execRemz (p : Pfx) (d a b : Fin 32) (s : State) : Res := alu p (nwX p) d a b remU s

/-- The width of a bit field, cut at bit 63 (R136). -/
def fieldLen (pos w : Nat) : Nat := min (pos + w - 1) 63 + 1 - pos
/-- The field of `w` bits from `pos` (R136). -/
def bfField (x : Word) (pos w : Nat) : Nat := x.toNat / 2 ^ pos % 2 ^ fieldLen pos w
/-- BFX with sign extension (R136). -/
def bfxSigned (x : Word) (pos w : Nat) : Word :=
  let n := fieldLen pos w
  let f := bfField x pos w
  if f < 2 ^ (n - 1) then BitVec.ofNat 64 f else BitVec.ofInt 64 ((f : Int) - 2 ^ n)
/-- BFI: the low bits of `x` in the field of `y` (R136). -/
def bfiOf (x y : Word) (pos w : Nat) : Word :=
  let n := fieldLen pos w
  BitVec.ofNat 64 (y.toNat / 2 ^ (pos + n) * 2 ^ (pos + n) + x.toNat % 2 ^ n * 2 ^ pos + y.toNat % 2 ^ pos)

/-- BFX, zero-extended (R136). -/
def execBfxZ (p : Pfx) (w : Fin 64) (d a : Fin 32) (imm : Int) (s : State) : Res :=
  alu1 p (nwX p) d a (fun x => BitVec.ofNat 64 (bfField x (shiftCount (immWord imm)) (w.val + 1))) s
/-- BFX, sign-extended (R136). -/
def execBfxS (p : Pfx) (w : Fin 64) (d a : Fin 32) (imm : Int) (s : State) : Res :=
  alu1 p (nwX p) d a (fun x => bfxSigned x (shiftCount (immWord imm)) (w.val + 1)) s
/-- BFI reads gD as well (R136). -/
def execBfi (p : Pfx) (w : Fin 64) (d a : Fin 32) (imm : Int) (s : State) : Res :=
  alu p (nwX p) d a d (fun x y => bfiOf x y (shiftCount (immWord imm)) (w.val + 1)) s

/-- SEL reads both sources and writes one (R137). -/
def execSel (p : Pfx) (pr : Fin 8) (d a b : Fin 32) (s : State) : Res :=
  run p (nwX p) false s fun s => withFull s [a, b] (nwX p) fun s =>
    s.finishMe (nwX p) fun t => t.wr d (if t.rdP pr then t.rd a else t.rd b)

/-- QPOP (R138). -/
def execQpop (p : Pfx) (d : Fin 32) (q : Fin 8) (s : State) : Res :=
  run p (nwX p) false s fun s =>
    if s.me.qBad q false false then s.trap 0x10 0 (nwX p)
    else match s.queueOf s.cur q with
      | [] => s.parkRe 7 (.streamIn q 1) (nwX p)
      | x :: xs => (s.setQueue s.cur q xs).finishMe (nwX p) fun t => t.wr d (x.setWidth 64)

/-- QPUSH (R138). -/
def execQpush (p : Pfx) (q : Fin 8) (a : Fin 32) (s : State) : Res :=
  run p (nwX p) false s fun s => withFull s [a] (nwX p) fun s =>
    if s.me.qBad q true false then s.trap 0x10 0 (nwX p)
    else if Config.qdepth ≤ (s.queueOf s.cur q).length then s.parkRe 8 (.streamOut q) (nwX p)
    else (s.setQueue s.cur q (s.queueOf s.cur q ++ [(s.me.rd a).setWidth 1024])).finish (nwX p)

/-- CMP.eq (R139). -/
def execCmpEq (p : Pfx) (d : Fin 8) (a b : Fin 32) (s : State) : Res := cmp p d a b (fun x y => x == y) s
/-- CMP.ne (R139). -/
def execCmpNe (p : Pfx) (d : Fin 8) (a b : Fin 32) (s : State) : Res := cmp p d a b (fun x y => x != y) s
/-- CMP.lt (R139). -/
def execCmpLt (p : Pfx) (d : Fin 8) (a b : Fin 32) (s : State) : Res := cmp p d a b (fun x y => x.slt y) s
/-- CMP.ge (R139). -/
def execCmpGe (p : Pfx) (d : Fin 8) (a b : Fin 32) (s : State) : Res := cmp p d a b (fun x y => !x.slt y) s
/-- CMPU.ltu (R139). -/
def execCmpuLtu (p : Pfx) (d : Fin 8) (a b : Fin 32) (s : State) : Res := cmp p d a b (fun x y => x.ult y) s
/-- CMPU.geu (R139). -/
def execCmpuGeu (p : Pfx) (d : Fin 8) (a b : Fin 32) (s : State) : Res := cmp p d a b (fun x y => !x.ult y) s
/-- CMPU.tst (R139). -/
def execCmpuTst (p : Pfx) (d : Fin 8) (a b : Fin 32) (s : State) : Res := cmp p d a b (fun x y => x &&& y != 0) s
/-- CMPU.ntst (R139). -/
def execCmpuNtst (p : Pfx) (d : Fin 8) (a b : Fin 32) (s : State) : Res := cmp p d a b (fun x y => x &&& y == 0) s

/-- PAND (R140). -/
def execPand (p : Pfx) (d a b : Fin 8) (s : State) : Res := plogic p d a b (· && ·) s
/-- POR (R140). -/
def execPor (p : Pfx) (d a b : Fin 8) (s : State) : Res := plogic p d a b (· || ·) s
/-- PXOR (R140). -/
def execPxor (p : Pfx) (d a b : Fin 8) (s : State) : Res := plogic p d a b (fun x y => x != y) s
/-- PANDN (R140). -/
def execPandn (p : Pfx) (d a b : Fin 8) (s : State) : Res := plogic p d a b (fun x y => x && !y) s

end Sys2Proof.Machine
end

