-- ==== Sys2Proof/Machine/Dispatch.lean ====
section
/-! DEFINITION. The dispatch: one arm per row of the opcode table. -/

namespace Sys2Proof.Machine

def exec (i : Instr) (s : State) : Host.Outcome State Fault Refusal :=
  match i with
  | .add p d a b => Sys2Proof.Machine.execAdd p d a b s
  | .sub p d a b => Sys2Proof.Machine.execSub p d a b s
  | .and p d a b => Sys2Proof.Machine.execAnd p d a b s
  | .or p d a b => Sys2Proof.Machine.execOr p d a b s
  | .xor p d a b => Sys2Proof.Machine.execXor p d a b s
  | .mul p d a b => Sys2Proof.Machine.execMul p d a b s
  | .shl p d a b => Sys2Proof.Machine.execShl p d a b s
  | .shr p d a b => Sys2Proof.Machine.execShr p d a b s
  | .shra p d a b => Sys2Proof.Machine.execShra p d a b s
  | .andn p d a b => Sys2Proof.Machine.execAndn p d a b s
  | .gate p => Sys2Proof.Machine.execGate p s
  | .retx p => Sys2Proof.Machine.execRetx p s
  | .exit p => Sys2Proof.Machine.execExit p s
  | .brk p => Sys2Proof.Machine.execBrk p s
  | .trap p code => Sys2Proof.Machine.execTrap p code s
  | .addi p d a imm => Sys2Proof.Machine.execAddi p d a imm s
  | .shli p d a imm => Sys2Proof.Machine.execShli p d a imm s
  | .shri p d a imm => Sys2Proof.Machine.execShri p d a imm s
  | .shrai p d a imm => Sys2Proof.Machine.execShrai p d a imm s
  | .ldS8 p d a off => Sys2Proof.Machine.execLdS8 p d a off s
  | .ldS16 p d a off => Sys2Proof.Machine.execLdS16 p d a off s
  | .ldS32 p d a off => Sys2Proof.Machine.execLdS32 p d a off s
  | .ld64 p d a off => Sys2Proof.Machine.execLd64 p d a off s
  | .ldZ8 p d a off => Sys2Proof.Machine.execLdZ8 p d a off s
  | .ldZ16 p d a off => Sys2Proof.Machine.execLdZ16 p d a off s
  | .ldZ32 p d a off => Sys2Proof.Machine.execLdZ32 p d a off s
  | .st8 p d a off => Sys2Proof.Machine.execSt8 p d a off s
  | .st16 p d a off => Sys2Proof.Machine.execSt16 p d a off s
  | .st32 p d a off => Sys2Proof.Machine.execSt32 p d a off s
  | .st64 p d a off => Sys2Proof.Machine.execSt64 p d a off s
  | .ldl p mode d a off => Sys2Proof.Machine.execLdl p mode d a off s
  | .stl p mode d a off => Sys2Proof.Machine.execStl p mode d a off s
  | .ldc p d a off => Sys2Proof.Machine.execLdc p d a off s
  | .cmpEq p d a b => Sys2Proof.Machine.execCmpEq p d a b s
  | .cmpNe p d a b => Sys2Proof.Machine.execCmpNe p d a b s
  | .cmpLt p d a b => Sys2Proof.Machine.execCmpLt p d a b s
  | .cmpGe p d a b => Sys2Proof.Machine.execCmpGe p d a b s
  | .cmpuLtu p d a b => Sys2Proof.Machine.execCmpuLtu p d a b s
  | .cmpuGeu p d a b => Sys2Proof.Machine.execCmpuGeu p d a b s
  | .cmpuTst p d a b => Sys2Proof.Machine.execCmpuTst p d a b s
  | .cmpuNtst p d a b => Sys2Proof.Machine.execCmpuNtst p d a b s
  | .pand p d a b => Sys2Proof.Machine.execPand p d a b s
  | .por p d a b => Sys2Proof.Machine.execPor p d a b s
  | .pxor p d a b => Sys2Proof.Machine.execPxor p d a b s
  | .pandn p d a b => Sys2Proof.Machine.execPandn p d a b s
  | .br p imm => Sys2Proof.Machine.execBr p imm s
  | .call p imm => Sys2Proof.Machine.execCall p imm s
  | .callx p imm => Sys2Proof.Machine.execCallx p imm s
  | .jmp p a => Sys2Proof.Machine.execJmp p a s
  | .callReg p a => Sys2Proof.Machine.execCallReg p a s
  | .ret p => Sys2Proof.Machine.execRet p s
  | .callxReg p a => Sys2Proof.Machine.execCallxReg p a s
  | .vadd p t r d a b m => Sys2Proof.Machine.execVadd p t r d a b m s
  | .vsub p t r d a b m => Sys2Proof.Machine.execVsub p t r d a b m s
  | .vmul p t r d a b m => Sys2Proof.Machine.execVmul p t r d a b m s
  | .vfma p t r d a b m => Sys2Proof.Machine.execVfma p t r d a b m s
  | .vfms p t r d a b m => Sys2Proof.Machine.execVfms p t r d a b m s
  | .vfnma p t r d a b m => Sys2Proof.Machine.execVfnma p t r d a b m s
  | .vfnms p t r d a b m => Sys2Proof.Machine.execVfnms p t r d a b m s
  | .vmax p t d a b m => Sys2Proof.Machine.execVmax p t d a b m s
  | .vmin p t d a b m => Sys2Proof.Machine.execVmin p t d a b m s
  | .vmaxa p t d a b m => Sys2Proof.Machine.execVmaxa p t d a b m s
  | .vmina p t d a b m => Sys2Proof.Machine.execVmina p t d a b m s
  | .vcmpEq p neg t d a b m => Sys2Proof.Machine.execVcmpEq p neg t d a b m s
  | .vcmpLt p neg t d a b m => Sys2Proof.Machine.execVcmpLt p neg t d a b m s
  | .vcmpLe p neg t d a b m => Sys2Proof.Machine.execVcmpLe p neg t d a b m s
  | .vcmpUn p neg t d a b m => Sys2Proof.Machine.execVcmpUn p neg t d a b m s
  | .vsel p t d a b m => Sys2Proof.Machine.execVsel p t d a b m s
  | .vand p d a b m => Sys2Proof.Machine.execVand p d a b m s
  | .vor p d a b m => Sys2Proof.Machine.execVor p d a b m s
  | .vxor p d a b m => Sys2Proof.Machine.execVxor p d a b m s
  | .vandn p d a b m => Sys2Proof.Machine.execVandn p d a b m s
  | .vshl p t d a imm m => Sys2Proof.Machine.execVshl p t d a imm m s
  | .vshr p t d a imm m => Sys2Proof.Machine.execVshr p t d a imm m s
  | .vshra p t d a imm m => Sys2Proof.Machine.execVshra p t d a imm m s
  | .vredSum p t r d a m => Sys2Proof.Machine.execVredSum p t r d a m s
  | .vredMax p t r d a m => Sys2Proof.Machine.execVredMax p t r d a m s
  | .vredMin p t r d a m => Sys2Proof.Machine.execVredMin p t r d a m s
  | .vcvt p tt st r ns part d a m => Sys2Proof.Machine.execVcvt p tt st r ns part d a m s
  | .vexp2 p d a m => Sys2Proof.Machine.execVexp2 p d a m s
  | .vrcp p d a m => Sys2Proof.Machine.execVrcp p d a m s
  | .vrsq p d a m => Sys2Proof.Machine.execVrsq p d a m s
  | .vquant p d a b m => Sys2Proof.Machine.execVquant p d a b m s
  | .vdeq p d a b m => Sys2Proof.Machine.execVdeq p d a b m s
  | .vmov p d a m => Sys2Proof.Machine.execVmov p d a m s
  | .vbcast p d a m => Sys2Proof.Machine.execVbcast p d a m s
  | .vgetl p d a b => Sys2Proof.Machine.execVgetl p d a b s
  | .vsetl p d a b => Sys2Proof.Machine.execVsetl p d a b s
  | .vld p sp m d a off => Sys2Proof.Machine.execVld p sp m d a off s
  | .vst p sp m d a off => Sys2Proof.Machine.execVst p sp m d a off s
  | .vgather p t d a b m => Sys2Proof.Machine.execVgather p t d a b m s
  | .mand p d a b => Sys2Proof.Machine.execMand p d a b s
  | .mor p d a b => Sys2Proof.Machine.execMor p d a b s
  | .mxor p d a b => Sys2Proof.Machine.execMxor p d a b s
  | .mandn p d a b => Sys2Proof.Machine.execMandn p d a b s
  | .mpop p d a => Sys2Proof.Machine.execMpop p d a s
  | .mset p d a => Sys2Proof.Machine.execMset p d a s
  | .mget p d a => Sys2Proof.Machine.execMget p d a s
  | .mgetVs p d => Sys2Proof.Machine.execMgetVs p d s
  | .mgetVsClr p d => Sys2Proof.Machine.execMgetVsClr p d s
  | .vabs p t d a m => Sys2Proof.Machine.execVabs p t d a m s
  | .vneg p t d a m => Sys2Proof.Machine.execVneg p t d a m s
  | .gangStatic p => Sys2Proof.Machine.execGangStatic p s
  | .gangElastic p a => Sys2Proof.Machine.execGangElastic p a s
  | .gangEnd p => Sys2Proof.Machine.execGangEnd p s
  | .twld p buf a b => Sys2Proof.Machine.execTwld p buf a b s
  | .tmm p acc buf src b => Sys2Proof.Machine.execTmm p acc buf src b s
  | .tdrain p acc d a b => Sys2Proof.Machine.execTdrain p acc d a b s
  | .tdrainAdd p acc d a b => Sys2Proof.Machine.execTdrainAdd p acc d a b s
  | .tzero p acc => Sys2Proof.Machine.execTzero p acc s
  | .trda p acc a => Sys2Proof.Machine.execTrda p acc a s
  | .twra p acc a b => Sys2Proof.Machine.execTwra p acc a b s
  | .tpack p d a b => Sys2Proof.Machine.execTpack p d a b s
  | .tunpk p d a b => Sys2Proof.Machine.execTunpk p d a b s
  | .tchk p d a => Sys2Proof.Machine.execTchk p d a s
  | .tstxSet p bit a imm => Sys2Proof.Machine.execTstxSet p bit a imm s
  | .tstxClr p bit a imm => Sys2Proof.Machine.execTstxClr p bit a imm s
  | .accMax p d a b => Sys2Proof.Machine.execAccMax p d a b s
  | .accScale p d a b => Sys2Proof.Machine.execAccScale p d a b s
  | .difs p a b => Sys2Proof.Machine.execDifs p a b s
  | .difgo p a imm => Sys2Proof.Machine.execDifgo p a imm s
  | .difwait p => Sys2Proof.Machine.execDifwait p s
  | .ldlLong p mode sg sz d a off => Sys2Proof.Machine.execLdlLong p mode sg sz d a off s
  | .stlLong p mode sz d a off => Sys2Proof.Machine.execStlLong p mode sz d a off s
  | .ldfe p mode d a off => Sys2Proof.Machine.execLdfe p mode d a off s
  | .ldff p mode d a off => Sys2Proof.Machine.execLdff p mode d a off s
  | .stfe p mode d a off => Sys2Proof.Machine.execStfe p mode d a off s
  | .stff p mode d a off => Sys2Proof.Machine.execStff p mode d a off s
  | .seteE p mode a off => Sys2Proof.Machine.execSeteE p mode a off s
  | .seteF p mode a off => Sys2Proof.Machine.execSeteF p mode a off s
  | .rempty p d => Sys2Proof.Machine.execRempty p d s
  | .fill p t d a b => Sys2Proof.Machine.execFill p t d a b s
  | .amoAdd p w64 d a b => Sys2Proof.Machine.execAmoAdd p w64 d a b s
  | .amoAnd p w64 d a b => Sys2Proof.Machine.execAmoAnd p w64 d a b s
  | .amoOr p w64 d a b => Sys2Proof.Machine.execAmoOr p w64 d a b s
  | .amoXor p w64 d a b => Sys2Proof.Machine.execAmoXor p w64 d a b s
  | .amoMin p w64 d a b => Sys2Proof.Machine.execAmoMin p w64 d a b s
  | .amoMax p w64 d a b => Sys2Proof.Machine.execAmoMax p w64 d a b s
  | .amoMinz p w64 d a b => Sys2Proof.Machine.execAmoMinz p w64 d a b s
  | .amoMaxz p w64 d a b => Sys2Proof.Machine.execAmoMaxz p w64 d a b s
  | .amoSwap p w64 d a b => Sys2Proof.Machine.execAmoSwap p w64 d a b s
  | .amoCas p w64 d a b => Sys2Proof.Machine.execAmoCas p w64 d a b s
  | .amopAdd p w64 a b => Sys2Proof.Machine.execAmopAdd p w64 a b s
  | .amopAnd p w64 a b => Sys2Proof.Machine.execAmopAnd p w64 a b s
  | .amopOr p w64 a b => Sys2Proof.Machine.execAmopOr p w64 a b s
  | .amopXor p w64 a b => Sys2Proof.Machine.execAmopXor p w64 a b s
  | .amopMin p w64 a b => Sys2Proof.Machine.execAmopMin p w64 a b s
  | .amopMax p w64 a b => Sys2Proof.Machine.execAmopMax p w64 a b s
  | .amopMinz p w64 a b => Sys2Proof.Machine.execAmopMinz p w64 a b s
  | .amopMaxz p w64 a b => Sys2Proof.Machine.execAmopMaxz p w64 a b s
  | .famoF32 p a b => Sys2Proof.Machine.execFamoF32 p a b s
  | .famoBf16 p a b => Sys2Proof.Machine.execFamoBf16 p a b s
  | .ldr p d a off => Sys2Proof.Machine.execLdr p d a off s
  | .stc p d a off => Sys2Proof.Machine.execStc p d a off s
  | .waitrs p d a => Sys2Proof.Machine.execWaitrs p d a s
  | .fenceAcq p sc => Sys2Proof.Machine.execFenceAcq p sc s
  | .fenceRel p sc => Sys2Proof.Machine.execFenceRel p sc s
  | .fenceAr p sc => Sys2Proof.Machine.execFenceAr p sc s
  | .fenceSc p sc => Sys2Proof.Machine.execFenceSc p sc s
  | .fencePost p => Sys2Proof.Machine.execFencePost p s
  | .scopedef p d a => Sys2Proof.Machine.execScopedef p d a s
  | .csync p => Sys2Proof.Machine.execCsync p s
  | .ebegin p d imm => Sys2Proof.Machine.execEbegin p d imm s
  | .ecommit p => Sys2Proof.Machine.execEcommit p s
  | .eabort p => Sys2Proof.Machine.execEabort p s
  | .ebnd p d a => Sys2Proof.Machine.execEbnd p d a s
  | .epos p d => Sys2Proof.Machine.execEpos p d s
  | .barArrive p sc d a => Sys2Proof.Machine.execBarArrive p sc d a s
  | .barWait p sc a b => Sys2Proof.Machine.execBarWait p sc a b s
  | .barAw p sc d a => Sys2Proof.Machine.execBarAw p sc d a s
  | .barTest p sc d a b => Sys2Proof.Machine.execBarTest p sc d a b s
  | .barInit p a b => Sys2Proof.Machine.execBarInit p a b s
  | .ldAcq p sc sz d a off => Sys2Proof.Machine.execLdAcq p sc sz d a off s
  | .stRel p sc sz d a off => Sys2Proof.Machine.execStRel p sc sz d a off s
  | .copy p d a b => Sys2Proof.Machine.execCopy p d a b s
  | .copyq p d q b => Sys2Proof.Machine.execCopyq p d q b s
  | .cjwait p d a => Sys2Proof.Machine.execCjwait p d a s
  | .cjtest p d a => Sys2Proof.Machine.execCjtest p d a s
  | .mkgrant p rw d a b => Sys2Proof.Machine.execMkgrant p rw d a b s
  | .addg p d a b => Sys2Proof.Machine.execAddg p d a b s
  | .grantq p d a => Sys2Proof.Machine.execGrantq p d a s
  | .revoke p d => Sys2Proof.Machine.execRevoke p d s
  | .wfw p => Sys2Proof.Machine.execWfw p s
  | .spawn p d a => Sys2Proof.Machine.execSpawn p d a s
  | .launch p d a b => Sys2Proof.Machine.execLaunch p d a b s
  | .inrd p d a => Sys2Proof.Machine.execInrd p d a s
  | .krd p n d => Sys2Proof.Machine.execKrd p n d s
  | .kwr p n a => Sys2Proof.Machine.execKwr p n a s
  | .mulh p d a b => Sys2Proof.Machine.execMulh p d a b s
  | .mulhz p d a b => Sys2Proof.Machine.execMulhz p d a b s
  | .div p d a b => Sys2Proof.Machine.execDiv p d a b s
  | .divz p d a b => Sys2Proof.Machine.execDivz p d a b s
  | .rem p d a b => Sys2Proof.Machine.execRem p d a b s
  | .remz p d a b => Sys2Proof.Machine.execRemz p d a b s
  | .bfxZ p w d a imm => Sys2Proof.Machine.execBfxZ p w d a imm s
  | .bfxS p w d a imm => Sys2Proof.Machine.execBfxS p w d a imm s
  | .bfi p w d a imm => Sys2Proof.Machine.execBfi p w d a imm s
  | .sel p pr d a b => Sys2Proof.Machine.execSel p pr d a b s
  | .clz p d a => Sys2Proof.Machine.execClz p d a s
  | .ctz p d a => Sys2Proof.Machine.execCtz p d a s
  | .popc p d a => Sys2Proof.Machine.execPopc p d a s
  | .bswap p d a => Sys2Proof.Machine.execBswap p d a s
  | .min p d a b => Sys2Proof.Machine.execMin p d a b s
  | .max p d a b => Sys2Proof.Machine.execMax p d a b s
  | .minz p d a b => Sys2Proof.Machine.execMinz p d a b s
  | .maxz p d a b => Sys2Proof.Machine.execMaxz p d a b s
  | .andi p d a imm => Sys2Proof.Machine.execAndi p d a imm s
  | .ori p d a imm => Sys2Proof.Machine.execOri p d a imm s
  | .xori p d a imm => Sys2Proof.Machine.execXori p d a imm s
  | .qpop p d q => Sys2Proof.Machine.execQpop p d q s
  | .qpush p q a => Sys2Proof.Machine.execQpush p q a s
  | .srd p n d a => Sys2Proof.Machine.execSrd p n d a s
  | .swr p n a b => Sys2Proof.Machine.execSwr p n a b s
  | .eret p => Sys2Proof.Machine.execEret p s
  | .eretStart p d a => Sys2Proof.Machine.execEretStart p d a s
  | .tlbinvRange p span d a b => Sys2Proof.Machine.execTlbinvRange p span d a b s
  | .tlbinvAsid p span d a b => Sys2Proof.Machine.execTlbinvAsid p span d a b s
  | .tlbinvS2range p span d a b => Sys2Proof.Machine.execTlbinvS2range p span d a b s
  | .tlbinvPartition p span d a b => Sys2Proof.Machine.execTlbinvPartition p span d a b s
  | .tlbprobe p d a b => Sys2Proof.Machine.execTlbprobe p d a b s
  | .cacheopIc p span a b => Sys2Proof.Machine.execCacheopIc p span a b s
  | .cacheopL1 p span a b => Sys2Proof.Machine.execCacheopL1 p span a b s
  | .cacheopCc p span a b => Sys2Proof.Machine.execCacheopCc p span a b s
  | .cacheopL2v p span a b => Sys2Proof.Machine.execCacheopL2v p span a b s
  | .cacheopL2p p a b => Sys2Proof.Machine.execCacheopL2p p a b s
  | .domsetRow p a b => Sys2Proof.Machine.execDomsetRow p a b s
  | .domsetAll p b => Sys2Proof.Machine.execDomsetAll p b s
  | .fwsend p d a b => Sys2Proof.Machine.execFwsend p d a b s
  | .fwsendReply p d a b => Sys2Proof.Machine.execFwsendReply p d a b s
  | .stoparmCore p a => Sys2Proof.Machine.execStoparmCore p a s
  | .stoparmStop p d a b => Sys2Proof.Machine.execStoparmStop p d a b s
  | .stoparmResume p d a b => Sys2Proof.Machine.execStoparmResume p d a b s
  | .step p a => Sys2Proof.Machine.execStep p a s
  | .slpset p d a => Sys2Proof.Machine.execSlpset p d a s
  | .wdsetKick p => Sys2Proof.Machine.execWdsetKick p s
  | .wdsetArm p a b => Sys2Proof.Machine.execWdsetArm p a b s
  | .wdsetRead p d b => Sys2Proof.Machine.execWdsetRead p d b s
  | .deviceReset => Sys2Proof.Machine.execDeviceReset s
  | .recoveryRequest => Sys2Proof.Machine.execRecoveryRequest s
  | .recoveryDataFrame => Sys2Proof.Machine.execRecoveryDataFrame s
  | .recoveryEndFrame => Sys2Proof.Machine.execRecoveryEndFrame s
  | .recoveryTimeout => Sys2Proof.Machine.execRecoveryTimeout s
  | .recoveryRetry => Sys2Proof.Machine.execRecoveryRetry s
  | .parkEvent => Sys2Proof.Machine.execParkEvent s
  | .parkedResume => Sys2Proof.Machine.execParkedResume s
  | .parkTimeout => Sys2Proof.Machine.execParkTimeout s
  | .fillArrival => Sys2Proof.Machine.execFillArrival s
  | .dispense => Sys2Proof.Machine.execDispense s
  | .taskRecordWrite => Sys2Proof.Machine.execTaskRecordWrite s
  | .gangOpen => Sys2Proof.Machine.execGangOpen s
  | .gangStall => Sys2Proof.Machine.execGangStall s
  | .gangStallEnd => Sys2Proof.Machine.execGangStallEnd s
  | .sleepEntry => Sys2Proof.Machine.execSleepEntry s
  | .sleepWake => Sys2Proof.Machine.execSleepWake s
  | .wakeEnd => Sys2Proof.Machine.execWakeEnd s
  | .streamElementArrival => Sys2Proof.Machine.execStreamElementArrival s
  | .streamElementAccept => Sys2Proof.Machine.execStreamElementAccept s
  | .storeQueueDepart => Sys2Proof.Machine.execStoreQueueDepart s
  | .storeOrderAtHome => Sys2Proof.Machine.execStoreOrderAtHome s
  | .invalidationDelivery => Sys2Proof.Machine.execInvalidationDelivery s
  | .remoteStoreAck => Sys2Proof.Machine.execRemoteStoreAck s
  | .leaseExpiry => Sys2Proof.Machine.execLeaseExpiry s
  | .postedOpApply => Sys2Proof.Machine.execPostedOpApply s
  | .postedAck => Sys2Proof.Machine.execPostedAck s
  | .remoteFaultRecord => Sys2Proof.Machine.execRemoteFaultRecord s
  | .remoteRecordResend => Sys2Proof.Machine.execRemoteRecordResend s
  | .atomicAtHome => Sys2Proof.Machine.execAtomicAtHome s
  | .movedAnswer => Sys2Proof.Machine.execMovedAnswer s
  | .barrierAtHome => Sys2Proof.Machine.execBarrierAtHome s
  | .feWaiterService => Sys2Proof.Machine.execFeWaiterService s
  | .regionAccessAtSlice => Sys2Proof.Machine.execRegionAccessAtSlice s
  | .narrowingArrival => Sys2Proof.Machine.execNarrowingArrival s
  | .broadcastTurnGrant => Sys2Proof.Machine.execBroadcastTurnGrant s
  | .finalPositionBroadcast => Sys2Proof.Machine.execFinalPositionBroadcast s
  | .serialTokenGrant => Sys2Proof.Machine.execSerialTokenGrant s
  | .scopeMissMessage => Sys2Proof.Machine.execScopeMissMessage s
  | .scopeMissAnswer => Sys2Proof.Machine.execScopeMissAnswer s
  | .tagEvictionRepair => Sys2Proof.Machine.execTagEvictionRepair s
  | .jobStart => Sys2Proof.Machine.execJobStart s
  | .jobComplete => Sys2Proof.Machine.execJobComplete s
  | .jobEndEarly => Sys2Proof.Machine.execJobEndEarly s
  | .arrayInstrStart => Sys2Proof.Machine.execArrayInstrStart s
  | .arrayInstrComplete => Sys2Proof.Machine.execArrayInstrComplete s
  | .arrayIdleGate => Sys2Proof.Machine.execArrayIdleGate s
  | .accordRelease => Sys2Proof.Machine.execAccordRelease s
  | .diffuserIssue => Sys2Proof.Machine.execDiffuserIssue s
  | .grantInvalidation => Sys2Proof.Machine.execGrantInvalidation s
  | .coreInterruptTake => Sys2Proof.Machine.execCoreInterruptTake s
  | .graphRegister => Sys2Proof.Machine.execGraphRegister s
  | .graphUnregister => Sys2Proof.Machine.execGraphUnregister s
  | .launchWordAccept => Sys2Proof.Machine.execLaunchWordAccept s
  | .nodeStart => Sys2Proof.Machine.execNodeStart s
  | .nodeComplete => Sys2Proof.Machine.execNodeComplete s
  | .instanceComplete => Sys2Proof.Machine.execInstanceComplete s
  | .recoveryModeSet => Sys2Proof.Machine.execRecoveryModeSet s
  | .correctableError => Sys2Proof.Machine.execCorrectableError s
  | .uncorrectableError => Sys2Proof.Machine.execUncorrectableError s
  | .ctxSave => Sys2Proof.Machine.execCtxSave s
  | .ctxClear => Sys2Proof.Machine.execCtxClear s
  | .ctxReplace => Sys2Proof.Machine.execCtxReplace s
  | .syncStop => Sys2Proof.Machine.execSyncStop s
  | .syncResume => Sys2Proof.Machine.execSyncResume s
  | .jobFreeze => Sys2Proof.Machine.execJobFreeze s
  | .sillageSweep => Sys2Proof.Machine.execSillageSweep s
  | .imageWrite => Sys2Proof.Machine.execImageWrite s
  | .imageSeal => Sys2Proof.Machine.execImageSeal s
  | .saveBudgetExpiry => Sys2Proof.Machine.execSaveBudgetExpiry s
  | .imageSwapOut => Sys2Proof.Machine.execImageSwapOut s
  | .imageReadback => Sys2Proof.Machine.execImageReadback s
  | .watchdogExpiry => Sys2Proof.Machine.execWatchdogExpiry s
  | .frozenLeafReread => Sys2Proof.Machine.execFrozenLeafReread s
  | .linkTrainingEnd => Sys2Proof.Machine.execLinkTrainingEnd s
  | .flitResend => Sys2Proof.Machine.execFlitResend s
  | .linkDown => Sys2Proof.Machine.execLinkDown s
  | .clockSyncExchange => Sys2Proof.Machine.execClockSyncExchange s
  | .clockSyncLoss => Sys2Proof.Machine.execClockSyncLoss s
  | .ethernetFrameRx => Sys2Proof.Machine.execEthernetFrameRx s
  | .getDigests => Sys2Proof.Machine.execGetDigests s
  | .getCertificate => Sys2Proof.Machine.execGetCertificate s
  | .challenge => Sys2Proof.Machine.execChallenge s
  | .getMeasurements => Sys2Proof.Machine.execGetMeasurements s
  | .keyExchange => Sys2Proof.Machine.execKeyExchange s
  | .finish => Sys2Proof.Machine.execFinish s
  | .keyUpdate => Sys2Proof.Machine.execKeyUpdate s
  | .heartbeat => Sys2Proof.Machine.execHeartbeat s
  | .endSession => Sys2Proof.Machine.execEndSession s
  | .tenantAppData => Sys2Proof.Machine.execTenantAppData s
  | .clusterHold => Sys2Proof.Machine.execClusterHold s
  | .clusterRelease => Sys2Proof.Machine.execClusterRelease s
  | .firewallWrite => Sys2Proof.Machine.execFirewallWrite s
  | .movedFrameEnter => Sys2Proof.Machine.execMovedFrameEnter s
  | .movedFrameRemove => Sys2Proof.Machine.execMovedFrameRemove s
  | .interleaveCommit => Sys2Proof.Machine.execInterleaveCommit s
  | .keyGenerate => Sys2Proof.Machine.execKeyGenerate s
  | .keyRetire => Sys2Proof.Machine.execKeyRetire s
  | .measurementExtend => Sys2Proof.Machine.execMeasurementExtend s
  | .linkEnable => Sys2Proof.Machine.execLinkEnable s
  | .linkDisable => Sys2Proof.Machine.execLinkDisable s
  | .intcntClear => Sys2Proof.Machine.execIntcntClear s
  | .unallocatedEncoding => Sys2Proof.Machine.execUnallocatedEncoding s
  | .fetchFault => Sys2Proof.Machine.execFetchFault s
  | .mailRecordDelivery => Sys2Proof.Machine.execMailRecordDelivery s

end Sys2Proof.Machine
end

