-- ==== Sys2Proof/Machine/Due.lean ====
section
/-! DEFINITION. The clock: what advances with it, which events happen on it, and which cores take an issue turn (log 4). The
events of the clock that is over come before the turns of the new one; an event whose time the spec leaves open happens on a
clock where the oracle's next choice for it is 0. What a thread is parked on is looked at after the events, so that it is ready on the
next clock (R31), and the timeouts come after, so that an event of the same clock wins (R32); the fills come last, after every change of a
generation (R37). -/

namespace Sys2Proof.Machine

/-! ### What advances with the clock -/

/-- How far a device's clock advances (R377): a correction of one at most once in 256 clocks. -/
def Dev.advance (d : Dev) (clock : Nat) : Nat := if d.drift = 0 ∨ clock < d.lastFix + 256 then 1 else if 0 < d.drift then 0 else 2
/-- A watchdog counts `n` clocks down (R370). -/
def Watchdog.count (w : Watchdog) (n : Nat) : Watchdog :=
  let f := w.frac + n
  if w.period = 0 ∨ w.left = 0 then w
  else if f < usClocks then { w with frac := f } else { w with frac := f - usClocks, left := w.left - 1 }
/-- Whether a partition is stopped on a device, from the stop clock to the resume clock, which suspends its watchdog there: a cluster of
it is, or a thread in its slot or in an image (R353, R370). -/
def State.stoppedOn (s : State) (d pid : Nat) : Bool :=
  (s.clusters.any fun e => devOf e.1 == d && s.pidOf e.1 == pid && e.2.stopAt.isSome) ||
  (s.slots.any fun e => devOfSlot e.1 == d && e.2.stopped && s.pidOf (clusterOf e.1) == pid) ||
  (s.part pid).images.any fun e => devOfCore e.2.core == d
/-- A device on the next clock. -/
def State.devTick (s : State) (d : Nat) (x : Dev) : Dev :=
  let n := x.advance s.clock
  { x with clk := (x.clk + n) % 2 ^ 64,
           lastFix := if n = 1 then x.lastFix else s.clock,
           drift := if n = 0 then x.drift - 1 else if n = 2 then x.drift + 1 else x.drift,
           dogs := x.dogs.map fun w => if s.stoppedOn d w.1 then w else (w.1, w.2.count n) }
/-- Since when a core has been idle (R47). -/
def State.idleTick (s : State) (c : Nat) (x : Core) : Core :=
  { x with idleSince := if x.sdepth = 0 ∨ x.asleep ∨ x.wakeEnd.isSome ∨ !s.coreIdle c then none
                        else some (x.idleSince.getD (s.clock - 1)) }
/-- The next clock: what SRDs read on the last one is settled (R360); the devices' clocks, the watchdogs, the idle times. -/
def State.advance (s : State) : State :=
  let s := { s.settleReads with clock := s.clock + 1, ev := none }
  { s with devs := s.devs.map fun e => (e.1, s.devTick e.1 e.2),
           cores := s.cores.map fun e => (e.1, s.idleTick e.1 e.2) }

/-! ### The events of a clock, by what they belong to -/

/-- An event that happens when a condition holds. -/
def when_ (b : Bool) (e : Event) : List Event := if b then [e] else []

/-- Whether the time of a wait's end is open (R395). -/
def Wait.isOpen : Wait → Bool
  | .latency => true
  | .after _ => true
  | .pieces .. => true
  | .words .. => true
  | .held _ => true
  | _ => false
/-- The reread of a frozen leaf (R320). -/
def State.slotDue (s : State) (k : Nat) (t : Slot) : List Event :=
  match t.park with
  | none => []
  | some p => when_ (!p.arrived && match p.wait with
      | .frozen n => decide (n < s.clock)
      | _ => false) (.frozenLeafReread k)
/-- A reply of open time (R395), which may have an earliest clock (R255); each piece of a vector load still to be read, each part of a
vector access of local memory (R265). -/
def State.slotOpen (s : State) (k : Nat) (t : Slot) : List Event :=
  match t.park with
  | none => []
  | some p => if p.arrived then [] else match p.wait with
    | .pieces ps _ => ps.map fun _ => .parkEvent k
    | .words _ ws => ws.map fun _ => .parkEvent k
    | w => when_ (w.isOpen && s.waitOver k w) (.parkEvent k)
/-- Whether a wait's end is fixed, or a fixed clock ends what is open of it (R395). -/
def Wait.isLate (w : Wait) (clock : Nat) : Bool :=
  match w with
  | .words (some t) _ => decide (t < clock)
  | w => !w.isOpen
/-- A thread is parked on what the events of this clock may have brought about (R31). -/
def State.slotLate (s : State) (k : Nat) (t : Slot) : List Event :=
  match t.park with
  | none => []
  | some p => when_ (!p.arrived && p.wait.isLate s.clock) (.parkEvent k)
/-- Its time may have run out (R32). -/
def State.slotTimeout (k : Nat) (t : Slot) : List Event :=
  match t.park with
  | none => []
  | some p => when_ (!p.arrived && !p.exempt && t.k.parkto != 0) (.parkTimeout k)

/-- The arrival of a message at its home, core or slot (R35, R156, R165, R167, R176, R180, R256, R262). -/
def Msg.event (m : Msg) : Event :=
  match m.kind with
  | .op e => (match e.op with
      | .store _ => .storeOrderAtHome m.id
      | _ => .atomicAtHome m.id)
  | .amo .. => .atomicAtHome m.id
  | .stc .. => .atomicAtHome m.id
  | .bar .. => .barrierAtHome m.id
  | .fill .. => .fillArrival m.id
  | .region .. => .regionAccessAtSlice m.id
  | .ack .. => .remoteStoreAck m.id
  | .scopeMiss .. => .scopeMissMessage m.id
  | .moved .. => .movedAnswer m.id
/-- Whether it may arrive on this clock: one that waits at a frozen leaf rereads it at its time (R320). -/
def State.mayArrive (s : State) (m : Msg) : Bool :=
  match m.kind with
  | .moved _ n => decide (n < s.clock)
  | _ => true

/-- What lanes owe, by their index: operations, answers, records (R158, R159). -/
def State.laneOpen (s : State) : List Event :=
  s.lanes.zipIdx.flatMap fun e =>
    when_ (!e.1.flight.isEmpty) (.postedOpApply e.2) ++ when_ (!e.1.acks.isEmpty) (.postedAck e.2) ++
    when_ (e.1.broken.isSome && !e.1.delivered && !e.1.refused) (.remoteFaultRecord e.2) ++
    when_ (e.1.refused && decide ((s.slot e.1.k).recs.length < recMax)) (.remoteRecordResend e.2)

/-- What stands in a core's queues and units and begins or ends on this clock (R47, R209-R213, R224, R227, R256, R287). A narrowing
reaches its core on the clock after its home sends it: the spec gives no figure (log 48: DESIGN CHOICE). -/
def State.coreDue (s : State) (c : Nat) (x : Core) : List Event :=
  (x.l1.filter fun l => match l.lease with
    | some e => decide (e < s.clock)
    | none => false).map (fun l => .leaseExpiry c l.pline) ++
  when_ (!x.narrow.isEmpty) (.narrowingArrival c) ++
  when_ ((x.accArr.bind (·.release)).isSome) (.accordRelease c) ++
  when_ (x.slice.ldRun.isSome && decide (x.slice.ldEnd ≤ s.clock)) (.arrayInstrComplete c true) ++
  when_ (x.slice.accRun.isSome && decide (x.slice.accEnd ≤ s.clock)) (.arrayInstrComplete c false) ++
  when_ (x.dif.run.isSome) (.diffuserIssue c) ++
  when_ ((x.wakeEnd.map fun t => decide (t < s.clock)).getD false) (.wakeEnd c) ++
  when_ ((x.idleSince.map fun t => decide (t + 64 ≤ s.clock)).getD false) (.sleepEntry c)
/-- The starts of a slice (R209), after every completion of this clock; the first core of a cluster stands for a gang TMM. -/
def State.coreStarts (s : State) (c : Nat) (x : Core) : List Event :=
  when_ (!x.slice.ldQ.isEmpty) (.arrayInstrStart c true) ++
  when_ (!x.slice.accQ.isEmpty) (.arrayInstrStart c false) ++
  when_ (c % 8 == 0 && (coresIn (c / 8)).all fun c => (s.slice c).tmm.isSome) (.arrayInstrStart c false) ++
  when_ (!x.slice.gated && x.agate != 0 && decide (x.slice.lastTmm + x.agate.toNat ≤ s.clock)) (.arrayIdleGate c)
/-- What a core sends or receives at an open time (R100, R156, R235, R248, R367, R392). -/
def State.coreOpen (s : State) (c : Nat) (x : Core) : List Event :=
  when_ (!x.sq.isEmpty) (.storeQueueDepart c) ++
  when_ (s.revokes.any (·.2 == c)) (.grantInvalidation c) ++
  when_ (!x.mail.isEmpty && decide (x.inbox.length < Config.inbox)) (.mailRecordDelivery c)
/-- The movement of stream elements of a core's bound queues (R53, R100, R235). -/
def State.streamOpen (s : State) (c : Nat) : List Event :=
  (List.range 8).flatMap fun q => match s.binding c q with
    | none => []
    | some (_, b) =>
      let n := (s.queueAt c q).length
      let t := (s.core c).taken.toArray.getD q 0
      when_ (if b.eng then !b.outbound && (s.streamJob c q).isSome else b.outbound && decide (t < n)) (.streamElementArrival c q) ++
      when_ (if b.eng then b.outbound && decide (0 < n) && (s.streamJob c q).isSome else decide (0 < t)) (.streamElementAccept c q)

/-- The gang, the stops and the dispenser of a cluster on this clock (R41, R42, R45, R161, R346, R348, R356). -/
def State.clusterStops (s : State) (ck : Nat) (x : Cluster) : List Event :=
  when_ ((x.armStop.map fun a => decide (a.at_ ≤ s.clkOf ck)).getD false) (.syncStop ck) ++
  when_ ((x.armResume.map fun a => decide (a.at_ ≤ s.clkOf ck)).getD false && s.resumable ck) (.syncResume ck) ++
  (x.jobs.filter fun j => !j.2.done && !j.2.frozen && match s.freezeAt (coreOf j.2.k) with
    | some t => decide (t ≤ s.clkOf ck)
    | none => false).map fun j => Event.jobFreeze ck j.1
def State.clusterDue (s : State) (ck : Nat) (x : Cluster) : List Event :=
  ((x.bank.map (·.word)).eraseDups.map .feWaiterService) ++
  when_ ((s.arrivals ck).isSome) (.gangOpen ck) ++
  when_ (x.stall.isSome && !x.late) (.gangStallEnd ck)
/-- The jobs and the drains of a cluster, which take open times (R236-R238, R218), and the arrival of what a gang waits for (R45). -/
def State.jobOpen (s : State) (ck : Nat) (x : Cluster) : List Event :=
  when_ (x.stall.isSome && x.late) (.gangStallEnd ck) ++
  ((x.jobs.filter fun j => !j.2.done).map fun j => if j.2.started then .jobComplete ck j.1 else .jobStart ck j.1) ++
  (coresIn ck).flatMap fun c => (s.slice c).drains.map fun d => Event.jobComplete ck (16 + d.d.id)

/-- The head of a die's network on its clock (R182, R255), its turns and its token (R182, R184). -/
def State.dieDue (s : State) (d : Nat) (x : Die) : List Event :=
  (x.notices.filter fun n => decide (n.due < s.clock)).map fun n => match n with
    | .inval .. => .invalidationDelivery d
    | .final .. => .finalPositionBroadcast d
def dieTurns (d : Nat) : List Event := [.broadcastTurnGrant d, .serialTokenGrant d]
/-- The dies with a turn or a token to give: one waits for it, or a region of the die waits for its answers. -/
def State.turnDies (s : State) : List Nat :=
  ((s.dies.filter fun e => !e.2.turnQ.isEmpty || !e.2.tokenQ.isEmpty).map (·.1) ++
    (s.slots.filter fun e => (e.2.park.map (·.wait)) == some .answers).map fun e => dieOf (clusterOf e.1)).eraseDups

/-- The timers of a device (R306, R373, R377): a training that has lasted 2.6 million clocks times out. -/
def State.devDue (s : State) (d : Nat) (x : Dev) : List Event :=
  (x.train.filter fun e => decide (e.2 + 2600000 ≤ s.clock)).map (fun e => .linkTrainingEnd d e.1 0 d 0 2) ++
  when_ (s.syncDue d) (.clockSyncExchange d) ++
  when_ (x.recovery.on && x.recovery.server.isNone && decide (x.recovery.last + secClocks ≤ x.clk)) (.recoveryRequest d) ++
  when_ (x.recovery.on && decide (x.recovery.first + 64 * secClocks ≤ x.clk)) (.recoveryTimeout d) ++
  when_ ((x.recovery.retry.map fun t => decide (t ≤ x.clk)).getD false) (.recoveryRetry d) ++
  when_ (tb x.clksync.toNat 63 && decide (x.lastSync + 65536 ≤ s.clock)) (.clockSyncLoss d)

/-- The watchdogs of a device that have run out (R370). -/
def Dev.expired (x : Dev) (d : Nat) : List Event :=
  (x.dogs.filter fun w => w.2.period != 0 && w.2.left == 0).map fun w => .watchdogExpiry d w.1

/-- The front end of a partition (R332, R333), whose times are open, the records on their way to the inboxes (R329), the groups that
wait for room at a re-placing (R336), and what is held for nodes (R385). -/
def Part.open_ (p : Part) (pid : Nat) : List Event :=
  when_ (p.images.any fun i => i.2.waits.isSome) (.ctxReplace pid 0 none) ++
  p.insts.flatMap fun i =>
    (i.2.nodes.zipIdx.flatMap fun n => match n.1 with
      | .waiting => [Event.nodeStart pid i.1 n.2]
      | .running .. => [Event.nodeComplete pid i.1 n.2, Event.nodeStart pid i.1 n.2]
      | .done => []) ++
    (i.2.placedRecs.map fun r => Event.taskRecordWrite r.2.1).eraseDups ++
    when_ (i.2.endStatus.isSome) (.instanceComplete pid i.1) ++
  ((p.heldFx.map fun h => (h.inst, h.node)).eraseDups.map fun e => Event.nodeComplete pid e.1 e.2)
/-- The save of a partition (R349-R353). -/
def Part.saving (p : Part) (pid : Nat) : List Event :=
  match p.save with
  | none => []
  | some v => (if v.swept then [] else [Event.sillageSweep pid]) ++
      (v.cores.filter fun c => !p.images.has c).map (fun c => Event.imageWrite pid c) ++
      (v.cores.filter fun c => p.images.has c).map fun c => Event.imageSeal pid c

/-! ### The tick -/

/-- The events of a list that the next choices let happen, one choice each: 0 lets an event happen now. -/
def State.letHappen : State → List Event → List Event × State
  | s, [] => ([], s)
  | s, e :: es =>
    let c := s.choose
    let r := c.2.letHappen es
    (if c.1 = 0 then e :: r.1 else r.1, r.2)

/-- The partitions that clusters are bound to. -/
def State.pids (s : State) : List Nat := (s.clusters.map fun e => s.pidOf e.1).eraseDups

/-- The events of open time, of which the oracle says which happen on this clock. -/
def State.openEvents (s : State) : List Event :=
  ((s.net.filter s.mayArrive).map Msg.event) ++ s.laneOpen ++
  (s.slots.flatMap fun e => s.slotOpen e.1 e.2) ++
  (s.cores.flatMap fun e => s.coreOpen e.1 e.2) ++
  ((s.slots.map fun e => coreOf e.1).eraseDups.flatMap s.streamOpen) ++
  (s.clusters.flatMap fun e => s.jobOpen e.1 e.2) ++
  (s.portTurn.map .launchWordAccept).toList ++
  (s.parts.flatMap fun e => e.2.open_ e.1 ++ e.2.saving e.1)
/-- The events of this clock before those of open time: stops, deliveries, ends, the dispenser (R37). -/
def State.dueFirst (s : State) : List Event :=
  (s.clusters.flatMap fun e => s.clusterStops e.1 e.2) ++
  (s.dies.flatMap fun e => s.dieDue e.1 e.2) ++
  (s.slots.flatMap fun e => s.slotDue e.1 e.2) ++
  (s.cores.flatMap fun e => s.coreDue e.1 e.2) ++
  ((s.clusters.filter fun e => !e.2.items.isEmpty).map fun e => .dispense e.1)
/-- The partitions whose save or re-placing has taken longer than it may (R336, R353). -/
def State.latePids (s : State) : List Nat :=
  (s.pids ++ s.parts.map (·.1)).eraseDups.filter fun pid =>
    s.budgetOver pid || (s.part pid).images.any fun i => s.roomLate pid i.2
/-- Those after them: gangs, starts, budgets, rollbacks and timers; then what threads are parked on, and the grants of turns. -/
def State.dueLast (s : State) : List Event :=
  (s.clusters.flatMap fun e => s.clusterDue e.1 e.2) ++
  (s.cores.flatMap fun e => s.coreStarts e.1 e.2) ++
  (s.latePids.map .saveBudgetExpiry) ++
  ((s.parts.filter fun e => s.rolledDown e.1).map fun e => .uncorrectableError (.restore e.1)) ++
  (s.devs.flatMap fun e => s.devDue e.1 e.2) ++
  (s.slots.flatMap fun e => s.slotLate e.1 e.2) ++
  (s.turnDies.flatMap dieTurns)
/-- Whether an event is the arrival of a fill. -/
def isFill : Event → Bool
  | .fillArrival _ => true
  | _ => false
/-- The slot and the register that an arriving fill is for. -/
def State.fillFor? (s : State) (e : Event) : Option (Nat × Fin 32) :=
  match e with
  | .fillArrival id => (s.msg id).bind fun m => match m.kind with
      | .fill w r _ _ _ => (s.slotOfName (devOfSlot m.k) w).map fun k => (k, r)
      | _ => none
  | _ => none
/-- Whether one of the arriving fills is for the register that a slot is parked on. -/
def State.awaitsFill (s : State) (fills : List Event) (k : Nat) (t : Slot) : Bool :=
  t.park.any fun p => match p.wait with
    | .reg r => fills.any fun e => s.fillFor? e == some (k, r)
    | _ => false
/-- The end of the events of a clock: every change of a slot's generation comes before the fills that arrive on the clock (R37), and so
do the timeouts but those of slots that such a fill may wake, where the fill wins (R32). -/
def State.fillsLast (s : State) (fills : List Event) : List Event :=
  let late := s.slots.filter fun e => s.awaitsFill fills e.1 e.2
  ((s.slots.filter fun e => !s.awaitsFill fills e.1 e.2).flatMap fun e => State.slotTimeout e.1 e.2) ++ fills ++
  (late.flatMap fun e => s.slotLate e.1 e.2) ++ late.flatMap fun e => State.slotTimeout e.1 e.2

/-- Whether a core is the ROM's while network recovery runs: the ROM's own work is the events of recovery (R304, R306). -/
def State.inRom (s : State) (c : Nat) : Bool :=
  let r := (s.dev (devOfCore c)).recovery
  c == (devOfCore c * 160 + 7) * 8 && (r.on || r.retry.isSome)
/-- The cores that take an issue turn on a clock: those with a thread, and those with a scope-miss to answer (R26). -/
def State.issuers (s : State) : List Nat :=
  ((((s.slots.filter fun e => e.2.occ).map fun e => coreOf e.1) ++ (s.cores.filter fun e => !e.2.misses.isEmpty).map (·.1)).eraseDups).filter
    fun c => !s.inRom c
/-- The next clock: the events that happen on it, what comes from outside first, and then an issue turn for every core that has one. A
watchdog that ran out on the last clock kills now, unless a kick of that clock has reloaded it (R370). -/
def State.tick (s : State) : State :=
  let dogs := s.devs.flatMap fun e => e.2.expired e.1
  let s := s.advance.writeBacks
  let come := (s.inputs.filter fun i => decide (i.1 < s.clock)).map (·.2)
  let r := s.letHappen s.openEvents
  { r.2 with agenda := come ++ s.dueFirst ++ dogs ++ (r.1.filter fun e => !isFill e) ++ s.dueLast ++ s.fillsLast (r.1.filter isFill),
             inputs := s.inputs.filter fun i => !decide (i.1 < s.clock),
             turns := s.issuers }

end Sys2Proof.Machine
end

