-- ==== Sys2Proof/Machine/Step.lean ====
section
/-! DEFINITION. One step: the event at the head of the agenda, or the issue turn of one core, or the next clock. -/

namespace Sys2Proof.Machine

/-- The event `e` happens. -/
def State.happen (s : State) (e : Event) : Host.Outcome State Fault Refusal := exec e.instr { s with ev := some e }

/-- The issue turn of core `c` (R27): the slot the barrel picks takes a held interrupt, resumes a parked instruction whose
event has arrived, or fetches its next instruction and executes it. -/
def State.turn (s : State) (c : Nat) : Host.Outcome State Fault Refusal :=
  match s.pick c with
  | none => .next s
  | some k =>
    match (s.beginIssue k).atIssue k with
    | .instr i _ s => exec i s
    | .park w nw s => .next ((s.parkAt k 1 w .reissue nw false).modSlot k Slot.anew)
    | .event e s => s.happen e
    | .again s => .next s

/-- One step of the machine. -/
def step (s : State) : Host.Outcome State Fault Refusal :=
  match s.agenda with
  | e :: rest => State.happen { s with agenda := rest } e
  | [] =>
    match s.turns with
    | c :: rest => State.turn { s with turns := rest, ev := none } c
    | [] => .next s.tick

/-- `s` with an instruction where `step` fetches next: the words of the table row at the PC of the slot whose instruction
runs, in memory and in its core's instruction cache, on a page of that slot's domain and of class 2, and that slot about
to take the next turn. -/
def State.withFetchWord (s : State) (nbits w : Nat) : State := s.placeCode (tableWords nbits w ++ [0, 0, 0, 0])

end Sys2Proof.Machine
end

