-- ==== Sys2Proof/Safety.lean ====
section
/-! DEFINITION. What counts as a safe run, the forms the data of a state keep, and the terms the statements use: when an
instruction issues and completes, what it leaves as it was, and the tables of instructions of one shape. -/

namespace Sys2Proof.Machine

/-- The step at `s` answers a next state. -/
def State.Goes (s : State) : Prop := ∃ t, step s = .next t

/-- The memory of a state is in its canonical form. -/
def State.MemWf (s : State) : Prop := s.mem.wf = true

end Sys2Proof.Machine

namespace Sys2Proof.Claims

open Sys2Proof.Machine

/-! ### Issue and completion -/

/-- The prefixes of an encoded instruction. -/
def pfxOf (i : Instr) : Option Pfx := i.fields.map (·.p)

/-- The running thread's instruction issues from its first word (no answer to an earlier park of it is in) and its guard
holds (R9, R22). -/
abbrev Begins (s : State) (p : Pfx) : Prop := s.me.replied = false ∧ s.me.guard p = true
/-- The same, and no single-step trap follows (R56). -/
abbrev Plain (s : State) (p : Pfx) : Prop := Begins s p ∧ s.me.sstep = false
/-- The same, outside an elastic region: what an instruction that R183, R206, R229, R250 forbid in one needs. -/
abbrev Outside (s : State) (p : Pfx) : Prop := Plain s p ∧ s.me.region = none
/-- Every register of a list is full (R131). -/
abbrev Full (s : State) (rs : List (Fin 32)) : Prop := ∀ r ∈ rs, s.me.full r = true

/-- A slot at the end of an instruction: the next PC, and no park. -/
def endAt (t : Slot) (pc : Word) : Slot := { t with pc := pc, park := none, src := none }

/-- The running instruction of `nw` words is complete, `f` being what it did to its own slot: the PC stands at the next
chain (R120) and the thread is not parked. -/
def retired (s : State) (nw : Nat) (f : Slot → Slot) : State :=
  s.modMe fun t => endAt (f t) (t.pc + BitVec.ofNat 64 (2 * nw))

/-- A park under a cause that begins now, with what it awaits and what is left of its instruction of `nw` words (R22). -/
def parkNow (s : State) (cause : Nat) (w : Wait) (rest : Rest) (nw : Nat) (exempt : Bool) : Park :=
  { cause := cause, since := s.clock, wait := w, nw := nw, rest := rest, arrived := false, exempt := exempt, via := [] }
/-- The running instruction of `nw` words is parked; one that issues again keeps the registers as it found them (R22). -/
def parked (s : State) (cause : Nat) (w : Wait) (rest : Rest) (nw : Nat) (exempt : Bool) : State :=
  s.modMe fun t => { t with src := t.keeps cause rest, park := some (parkNow s cause w rest nw exempt) }

/-- Every byte of memory reads as before. -/
def SameBytes (s t : State) : Prop := ∀ a, t.mem.read a = s.mem.read a
/-- Every byte outside a list of cells reads as before. -/
def SameBytesBut (s t : State) (cells : List Host.Cell) : Prop :=
  ∀ a, (∀ c ∈ cells, c.1 ≠ a) → t.mem.read a = s.mem.read a
/-- Nothing but the running thread's slot differs. -/
def OnlyMe (s t : State) : Prop := t = { s with slots := t.slots } ∧ ∀ k, k ≠ s.cur → t.slot k = s.slot k

/-! ### Scalar instructions -/

/-- The register forms of R133 and R135. -/
inductive Alu2 where
  | add | sub | and | or | xor | mul | shl | shr | shra | andn | min | max | minz | maxz | mulh | mulhz | div | divz | rem | remz
deriving DecidableEq, Repr

/-- Their instructions: prefixes, gD, gA, gB. -/
def Alu2.instr (p : Pfx) (d a b : Fin 32) : Alu2 → Instr
  | .add => .add p d a b
  | .sub => .sub p d a b
  | .and => .and p d a b
  | .or => .or p d a b
  | .xor => .xor p d a b
  | .mul => .mul p d a b
  | .shl => .shl p d a b
  | .shr => .shr p d a b
  | .shra => .shra p d a b
  | .andn => .andn p d a b
  | .min => .min p d a b
  | .max => .max p d a b
  | .minz => .minz p d a b
  | .maxz => .maxz p d a b
  | .mulh => .mulh p d a b
  | .mulhz => .mulhz p d a b
  | .div => .div p d a b
  | .divz => .divz p d a b
  | .rem => .rem p d a b
  | .remz => .remz p d a b

/-- Their results, as the tables of R133 and R135 give them. -/
def Alu2.result (x y : Word) : Alu2 → Word
  | .add => BitVec.ofNat 64 (x.toNat + y.toNat)
  | .sub => BitVec.ofInt 64 (x.toInt - y.toInt)
  | .and => x &&& y
  | .or => x ||| y
  | .xor => x ^^^ y
  | .mul => BitVec.ofNat 64 (x.toNat * y.toNat)
  | .shl => x <<< (y.toNat % 64)
  | .shr => x >>> (y.toNat % 64)
  | .shra => x.sshiftRight (y.toNat % 64)
  | .andn => x &&& ~~~y
  | .min => if x.toInt < y.toInt then x else y
  | .max => if x.toInt < y.toInt then y else x
  | .minz => if x.toNat < y.toNat then x else y
  | .maxz => if x.toNat < y.toNat then y else x
  | .mulh => BitVec.ofInt 64 (x.toInt * y.toInt / 2 ^ 64)
  | .mulhz => BitVec.ofNat 64 (x.toNat * y.toNat / 2 ^ 64)
  | .div => if y = 0 then BitVec.allOnes 64 else BitVec.ofInt 64 (x.toInt.tdiv y.toInt)
  | .divz => if y = 0 then BitVec.allOnes 64 else BitVec.ofNat 64 (x.toNat / y.toNat)
  | .rem => if y = 0 then x else BitVec.ofInt 64 (x.toInt.tmod y.toInt)
  | .remz => if y = 0 then x else BitVec.ofNat 64 (x.toNat % y.toNat)

/-- The immediate and single-source forms of R133, R134 and R136; BFX carries its width less one. -/
inductive Alu1 where
  | addi (imm : Int) | shli (imm : Int) | shri (imm : Int) | shrai (imm : Int) | andi (imm : Int) | ori (imm : Int)
  | xori (imm : Int) | clz | ctz | popc | bswap | bfxZ (w : Fin 64) (imm : Int) | bfxS (w : Fin 64) (imm : Int)
deriving DecidableEq, Repr

/-- Their instructions. -/
def Alu1.instr (p : Pfx) (d a : Fin 32) : Alu1 → Instr
  | .addi imm => .addi p d a imm
  | .shli imm => .shli p d a imm
  | .shri imm => .shri p d a imm
  | .shrai imm => .shrai p d a imm
  | .andi imm => .andi p d a imm
  | .ori imm => .ori p d a imm
  | .xori imm => .xori p d a imm
  | .clz => .clz p d a
  | .ctz => .ctz p d a
  | .popc => .popc p d a
  | .bswap => .bswap p d a
  | .bfxZ w imm => .bfxZ p w d a imm
  | .bfxS w imm => .bfxS p w d a imm

/-- Their results; `Obligations.BitOperations` says what the named functions compute. -/
def Alu1.result (x : Word) : Alu1 → Word
  | .addi imm => BitVec.ofInt 64 (x.toInt + imm)
  | .shli imm => x <<< (imm % 64).toNat
  | .shri imm => x >>> (imm % 64).toNat
  | .shrai imm => x.sshiftRight (imm % 64).toNat
  | .andi imm => x &&& BitVec.ofInt 64 imm
  | .ori imm => x ||| BitVec.ofInt 64 imm
  | .xori imm => x ^^^ BitVec.ofInt 64 imm
  | .clz => BitVec.ofNat 64 (clz64 x)
  | .ctz => BitVec.ofNat 64 (ctz64 x)
  | .popc => BitVec.ofNat 64 (ones 64 x.toNat)
  | .bswap => bswap64 x
  | .bfxZ w imm => BitVec.ofNat 64 (bfField x (imm % 64).toNat (w.val + 1))
  | .bfxS w imm => bfxSigned x (imm % 64).toNat (w.val + 1)

/-- The compares of R139. -/
inductive Cmp where
  | eq | ne | lt | ge | ltu | geu | tst | ntst
deriving DecidableEq, Repr

/-- Their instructions. -/
def Cmp.instr (p : Pfx) (d : Fin 8) (a b : Fin 32) : Cmp → Instr
  | .eq => .cmpEq p d a b
  | .ne => .cmpNe p d a b
  | .lt => .cmpLt p d a b
  | .ge => .cmpGe p d a b
  | .ltu => .cmpuLtu p d a b
  | .geu => .cmpuGeu p d a b
  | .tst => .cmpuTst p d a b
  | .ntst => .cmpuNtst p d a b

/-- Their tests. -/
def Cmp.test (x y : Word) : Cmp → Bool
  | .eq => decide (x = y)
  | .ne => decide (x ≠ y)
  | .lt => decide (x.toInt < y.toInt)
  | .ge => decide (y.toInt ≤ x.toInt)
  | .ltu => decide (x.toNat < y.toNat)
  | .geu => decide (y.toNat ≤ x.toNat)
  | .tst => decide (x &&& y ≠ 0)
  | .ntst => decide (x &&& y = 0)

/-- Predicate logic (R140). -/
inductive PLogic where
  | pand | por | pxor | pandn
deriving DecidableEq, Repr

/-- Its instructions. -/
def PLogic.instr (p : Pfx) (d a b : Fin 8) : PLogic → Instr
  | .pand => .pand p d a b
  | .por => .por p d a b
  | .pxor => .pxor p d a b
  | .pandn => .pandn p d a b

/-- Its results. -/
def PLogic.result (x y : Bool) : PLogic → Bool
  | .pand => x && y
  | .por => x || y
  | .pxor => xor x y
  | .pandn => x && !y

/-! ### Vector instructions -/

/-- What stream operands and g sources need (R52, R53, R190): each q register is bound its way and wide, the g sources are full, an
outbound queue has room, and every source's elements have arrived. -/
abbrev StreamsReady (s : State) (srcs : List VOpd) (gs : List (Fin 32)) (dst : List VOpd) : Prop :=
  (∀ r ∈ qRegs srcs, s.me.qBad r false true = false) ∧ (∀ r ∈ qRegs dst, s.me.qBad r true true = false) ∧
  Full s gs ∧ (∀ r ∈ qRegs dst, (s.queueOf s.cur r).length < Config.qdepth) ∧
  ∀ r ∈ qRegs srcs,
    ((qRegs srcs).filter fun r' => s.me.q[r'].queue == s.me.q[r].queue).length ≤ (s.queueOf s.cur r).length
/-- What a page-1 or page-2 instruction with stream operands needs (R227): no sequence of the thread runs either. -/
abbrev VecReady (s : State) (srcs : List VOpd) (gs : List (Fin 32)) (dst : List VOpd) : Prop :=
  s.seqRuns = false ∧ StreamsReady s srcs gs dst

/-- The state in which a vector instruction acts: its core's vector unit is used on this clock (R227). -/
def onUnit (s : State) : State := s.modCore s.myCore fun c => { c with vecAt := s.clock }

/-- The lane loop of R190, complete: the sources are read (stream elements popped), every lane of the mask gets its result and
raises its flags, the others keep the old destination lane, and the destination is written or pushed. -/
def vecEnd (s : State) (nw : Nat) (srcs : List VOpd) (dst : VOpd) (mask : BitVec 32)
    (lane : Nat → List Nat → Nat → Nat × AFlags) : State :=
  let x := (onUnit s).popOpds srcs
  let old := x.2.me.oldVec dst
  let rs := (List.range 32).map fun i => lane i (x.1.map (laneOf · i)) (laneOf old i)
  retired ((x.2.flag (laneFlags mask (rs.map (·.2)))).putVec dst (mergeLanes old mask (rs.map (·.1)))) nw id

/-- The elementwise vector instructions (R192-R197, R201-R203), with their operands but the mask. -/
inductive VOp where
  | vadd (t : VTy) (r : Rnd) (d a b : VOpd) | vsub (t : VTy) (r : Rnd) (d a b : VOpd) | vmul (t : VTy) (r : Rnd) (d a b : VOpd)
  | vfma (t : VTy) (r : Rnd) (d : Fin 16) (a b : VOpd) | vfms (t : VTy) (r : Rnd) (d : Fin 16) (a b : VOpd)
  | vfnma (t : VTy) (r : Rnd) (d : Fin 16) (a b : VOpd) | vfnms (t : VTy) (r : Rnd) (d : Fin 16) (a b : VOpd)
  | vmax (t : VTy) (d a b : VOpd) | vmin (t : VTy) (d a b : VOpd) | vmaxa (t : VTy) (d a b : VOpd)
  | vmina (t : VTy) (d a b : VOpd) | vabs (t : VTy) (d a : VOpd) | vneg (t : VTy) (d a : VOpd)
  | vand (d a b : VOpd) | vor (d a b : VOpd) | vxor (d a b : VOpd) | vandn (d a b : VOpd)
  | vshl (t : VTy) (d : Fin 16) (a : VOpd) (imm : Int) | vshr (t : VTy) (d : Fin 16) (a : VOpd) (imm : Int)
  | vshra (t : VTy) (d : Fin 16) (a : VOpd) (imm : Int) | vsel (t : VTy) (d : Fin 16) (a b : VOpd)
  | vexp2 (d a : VOpd) | vrcp (d a : VOpd) | vrsq (d a : VOpd) | vquant (d a : VOpd) (b : Fin 32) | vdeq (d a : VOpd) (b : Fin 32)
  | vmov (d a : VOpd) | vbcast (d : Fin 16) (a : Fin 32)
deriving DecidableEq, Repr

/-- Their instructions. -/
def VOp.instr (p : Pfx) (m : Fin 4) : VOp → Instr
  | .vadd t r d a b => .vadd p t r d a b m
  | .vsub t r d a b => .vsub p t r d a b m
  | .vmul t r d a b => .vmul p t r d a b m
  | .vfma t r d a b => .vfma p t r d a b m
  | .vfms t r d a b => .vfms p t r d a b m
  | .vfnma t r d a b => .vfnma p t r d a b m
  | .vfnms t r d a b => .vfnms p t r d a b m
  | .vmax t d a b => .vmax p t d a b m
  | .vmin t d a b => .vmin p t d a b m
  | .vmaxa t d a b => .vmaxa p t d a b m
  | .vmina t d a b => .vmina p t d a b m
  | .vabs t d a => .vabs p t d a m
  | .vneg t d a => .vneg p t d a m
  | .vand d a b => .vand p d a b m
  | .vor d a b => .vor p d a b m
  | .vxor d a b => .vxor p d a b m
  | .vandn d a b => .vandn p d a b m
  | .vshl t d a imm => .vshl p t d a imm m
  | .vshr t d a imm => .vshr p t d a imm m
  | .vshra t d a imm => .vshra p t d a imm m
  | .vsel t d a b => .vsel p t d a b m
  | .vexp2 d a => .vexp2 p d a m
  | .vrcp d a => .vrcp p d a m
  | .vrsq d a => .vrsq p d a m
  | .vquant d a b => .vquant p d a b m
  | .vdeq d a b => .vdeq p d a b m
  | .vmov d a => .vmov p d a m
  | .vbcast d a => .vbcast p d a m

/-- Their v operands. -/
def VOp.srcs : VOp → List VOpd
  | .vadd _ _ _ a b | .vsub _ _ _ a b | .vmul _ _ _ a b | .vfma _ _ _ a b | .vfms _ _ _ a b | .vfnma _ _ _ a b
  | .vfnms _ _ _ a b | .vmax _ _ a b | .vmin _ _ a b | .vmaxa _ _ a b | .vmina _ _ a b | .vand _ a b | .vor _ a b
  | .vxor _ a b | .vandn _ a b | .vsel _ _ a b => [a, b]
  | .vabs _ _ a | .vneg _ _ a | .vshl _ _ a _ | .vshr _ _ a _ | .vshra _ _ a _ | .vexp2 _ a | .vrcp _ a | .vrsq _ a
  | .vquant _ a _ | .vdeq _ a _ | .vmov _ a => [a]
  | .vbcast .. => []
/-- Their g operands. -/
def VOp.regs : VOp → List (Fin 32)
  | .vquant _ _ b | .vdeq _ _ b => [b]
  | .vbcast _ a => [a]
  | _ => []
/-- Their destination. -/
def VOp.dst : VOp → VOpd
  | .vadd _ _ d _ _ | .vsub _ _ d _ _ | .vmul _ _ d _ _ | .vmax _ d _ _ | .vmin _ d _ _ | .vmaxa _ d _ _ | .vmina _ d _ _
  | .vabs _ d _ | .vneg _ d _ | .vand d _ _ | .vor d _ _ | .vxor d _ _ | .vandn d _ _ | .vexp2 d _ | .vrcp d _ | .vrsq d _
  | .vquant d _ _ | .vdeq d _ _ | .vmov d _ => d
  | .vfma _ _ d _ _ | .vfms _ _ d _ _ | .vfnma _ _ d _ _ | .vfnms _ _ d _ _ | .vshl _ d _ _ | .vshr _ d _ _ | .vshra _ d _ _
  | .vsel _ d _ _ | .vbcast d _ => .v d
/-- The lanes they write: the mask's, and every lane for VSEL (R197). -/
def VOp.mask (t : Slot) (m : Fin 4) : VOp → BitVec 32
  | .vsel .. => BitVec.allOnes 32
  | _ => t.mask m

/-- Two sources, or one, of a lane. -/
def two (f : Nat → Nat → Nat × AFlags) (xs : List Nat) : Nat × AFlags := f (xs.getD 0 0) (xs.getD 1 0)
def one (f : Nat → Nat × AFlags) (xs : List Nat) : Nat × AFlags := f (xs.getD 0 0)
/-- The elements of one source lane, or the pairs of two, through a function of elements of `t` (R65). -/
def elems1 (t : VTy) (f : Nat → Nat × AFlags) (x : Nat) : Nat × AFlags :=
  let rs := (List.range (32 / t.width)).map fun p => f (elemOf t.width x p)
  (packElems t.width (rs.map (·.1)), AFlags.union (rs.map (·.2)))
def elems2 (t : VTy) (f : Nat → Nat → Nat × AFlags) (x y : Nat) : Nat × AFlags :=
  let rs := (List.range (32 / t.width)).map fun p => f (elemOf t.width x p) (elemOf t.width y p)
  (packElems t.width (rs.map (·.1)), AFlags.union (rs.map (·.2)))

/-- Lane `i` of the result, with its flags, from the lanes of the sources and the old lane of the destination; `u` is the
thread's slot, for the g operands and VSEL's mask. -/
def VOp.lane (u : Slot) (m : Fin 4) (i : Nat) (xs : List Nat) (old : Nat) : VOp → Nat × AFlags
  | .vadd t r _ _ _ => two (elems2 t (vaddE t r)) xs
  | .vsub t r _ _ _ => two (elems2 t (vsubE t r)) xs
  | .vmul t r _ _ _ => two (elems2 t (vmulE t r)) xs
  | .vfma t r _ _ _ => two (fun x y => fusedLane .fma t r x y old) xs
  | .vfms t r _ _ _ => two (fun x y => fusedLane .fms t r x y old) xs
  | .vfnma t r _ _ _ => two (fun x y => fusedLane .fnma t r x y old) xs
  | .vfnms t r _ _ _ => two (fun x y => fusedLane .fnms t r x y old) xs
  | .vmax t _ _ _ => two (elems2 t (extremeE t true false)) xs
  | .vmin t _ _ _ => two (elems2 t (extremeE t false false)) xs
  | .vmaxa t _ _ _ => two (elems2 t (extremeE t true true)) xs
  | .vmina t _ _ _ => two (elems2 t (extremeE t false true)) xs
  | .vabs t _ _ => one (elems1 t (signE t false)) xs
  | .vneg t _ _ => one (elems1 t (signE t true)) xs
  | .vand .. => two (fun x y => (x &&& y, 0)) xs
  | .vor .. => two (fun x y => (x ||| y, 0)) xs
  | .vxor .. => two (fun x y => (x ^^^ y, 0)) xs
  | .vandn .. => two (fun x y => (x &&& (2 ^ 32 - 1 - y), 0)) xs
  | .vshl t _ _ imm => one (elems1 t fun x => (x * 2 ^ (imm % t.width).toNat, 0)) xs
  | .vshr t _ _ imm => one (elems1 t fun x => (x / 2 ^ (imm % t.width).toNat, 0)) xs
  | .vshra t _ _ imm => one (elems1 t fun x => (((BitVec.ofNat t.width x).sshiftRight (imm % t.width).toNat).toNat, 0)) xs
  | .vsel .. => two (fun x y => (if (u.mask m).getLsbD i then x else y, 0)) xs
  | .vexp2 .. => one fpExp2 xs
  | .vrcp .. => one fpRcp xs
  | .vrsq .. => one fpRsq xs
  | .vquant _ _ b => one (fun x => ((BitVec.ofInt 32 (quantise x ((u.rd b).toNat % 256)).1).toNat,
      (quantise x ((u.rd b).toNat % 256)).2)) xs
  | .vdeq _ _ b => one (fun x => dequantise (BitVec.ofNat 8 x).toInt ((u.rd b).toNat % 256)) xs
  | .vmov .. => one (fun x => (x, 0)) xs
  | .vbcast _ a => ((u.rd a).toNat, 0)

/-! ### Memory instructions -/

/-- The effective address of a format-M operand, whose offset counts units of `n` bytes (R6, R113). -/
def ea (s : State) (a : Fin 32) (off : Int) (n : Nat) : Word := s.me.rd a + BitVec.ofInt 64 (off * n)

/-- A state in which the event that the running thread is parked on has arrived (R31). -/
def answered (t : State) : State := t.modMe fun u => { u with park := u.park.map fun p => { p with arrived := true } }
/-- The same, at the issue turn in which the rest of the instruction takes effect (R22). -/
def resuming (t : State) : State := { answered t with ev := some (.parkedResume t.cur) }
/-- The parked instruction of the running thread, once its event has arrived, completes with the change `f` of its slot. -/
def Finishes (t : State) (nw : Nat) (f : Slot → Slot) : Prop :=
  exec .parkedResume (resuming t) = .next (retired { t with ev := some (.parkedResume t.cur) } nw f)

/-- The parked instruction of the running thread, once its event has arrived, takes the state to `u`. -/
def Resumes (t u : State) : Prop := exec .parkedResume (resuming t) = .next u
/-- The running thread of `s` has completed an instruction of `nw` words in `t`, which changed in its slot only the PC, the park
and the marks of its reservations. -/
def Done (s t : State) (nw : Nat) : Prop :=
  t.me = { endAt s.me (s.me.pc + BitVec.ofNat 64 (2 * nw)) with resv := t.me.resv }
/-- A write of cells that no key encrypts: they hold their bytes, and every other byte reads as before (R160). -/
def Stored (s t : State) (cells : List Host.Cell) : Prop :=
  (∀ c ∈ cells, t.mem.read c.1 = c.2) ∧ SameBytesBut s t cells
/-- Every 8-byte local word but those of `cells` keeps its full/empty bit (R94). -/
def SameFullBut (s t : State) (cells : List Nat) : Prop := ∀ a, (∀ c ∈ cells, c / 8 ≠ a / 8) → t.wordFull a = s.wordFull a

/-- A load of `n` bytes at `va` whose access is checked reads now (R110, R111, R156, R320): nothing of its thread comes before it, its
home has not moved unless the L1 holds the line, and no line that it reads there is bad. -/
abbrev LoadReady (acc : Acc) (va n : Nat) : Prop :=
  acc.s.loadHeld va acc.pa n = false ∧ ((acc.s.copyAt va acc.pa).isSome = true ∨ acc.s.isMoved acc.s.myPid acc.pa = false) ∧
  acc.s.loadBad acc.key va acc.pa n = none
/-- A store to the local window it goes to is not refused by the router, and no region holds its lines (R88, R184, R300). -/
abbrev WindowReady (acc : Acc) (cells : List Host.Cell) : Prop :=
  acc.s.walled acc.s.myCluster acc.s.myPid acc.pa = false ∧
  ∀ l ∈ linesOf cells, acc.s.heldBySerial l = false
/-- A thread that has read a local word has learned what is on its way now (R275). -/
def learned (s : State) (t : Slot) : Slot := { t with seen := max t.seen (s.quiet s.myCore) }
/-- Lane `j` of what some pieces of a vector load put over register `d` (R204, R205). -/
def pieceLane (s : State) (ps : List Piece) (d : Fin 16) (j : Nat) : Nat :=
  match ps.find? fun q => q.lanes.getLsbD j with
  | some q => ofBytes (s.viewBytes q.va (q.acc s) q.len) / 2 ^ (32 * (j - q.at_ / 4)) % 2 ^ 32
  | none => laneOf (s.me.rdV d) j

/-- The `n` bytes at `va` within one page pass the checks of a load, and are `bs` (R155, R156). -/
def ReadsPage (s : State) (tag : Option (BitVec 32)) (va n : Nat) (bs : List Byte) (s' : State) : Prop :=
  ∃ acc, s.check tag va n 1 false = .ok acc ∧ acc.s.loadHeld va acc.pa n = false ∧
    acc.s.isMoved acc.s.myPid acc.pa = false ∧ acc.s.loadBad acc.key va acc.pa n = none ∧
    bs = acc.s.viewBytes va acc n ∧ s' = acc.s
/-- The same for bytes in one page or two. -/
def Reads (s : State) (tag : Option (BitVec 32)) (va : Word) (n : Nat) (bs : List Byte) (s' : State) : Prop :=
  let n1 := min n (65536 - va.toNat % 65536)
  if n1 = n then ReadsPage s tag va.toNat n bs s'
  else ∃ b1 b2 s1, ReadsPage s tag va.toNat n1 b1 s1 ∧
    ReadsPage s1 tag (va + BitVec.ofNat 64 n1).toNat (n - n1) b2 s' ∧ bs = b1 ++ b2

/-- What an acquire at a level does: it drops the lines of other dies, and of other devices, from the running core's L1 (R258), and at
a level of an L1 the releases of its thread will cover what that L1 has let it see (R261). -/
def acquired (s : State) (lv : Nat) : State :=
  if lv = 4 then s.dropFar s.myCore false else if lv = 5 then s.dropFar s.myCore true
  else if lv = 3 then s else s.modMe fun t => { t with behind := s.nextId }
/-- The running thread takes the trap of its oldest remote fault record `r`, which reopens the lane that broke (R56, R159). -/
def faultTaken (s : State) (r : RemRec) (rs : List RemRec) (nw : Nat) : State :=
  let open_ := s.lanes.filter fun l => !(l.k == s.cur && l.gen == s.me.gen && l.delivered && l.broken.map (·.dev) == some r.dev)
  { s.modMe fun t => { t with recs := rs } with lanes := open_ }.trapAt s.cur 0x0E 0 nw (some r)
/-- What an instruction does that starts with its thread's remote faults, one being pending outside the trap handler: it waits for the
lane to be answered, and takes the trap of the oldest record (R159, R341). -/
def FaultFirst (x : Instr) (s s' : State) : Prop :=
  ∀ r rs, s.me.inh = false → s.me.recs = r :: rs →
    exec x s = .next (if s'.lanesAnswered s.cur then faultTaken s' r rs x.nwords else parked s' 10 .lanes .reissue x.nwords false)
/-- No remote fault record is pending for the running thread, or it is in its trap handler (R159, R341). -/
abbrev NoRecords (s : State) : Prop := s.me.inh = true ∨ s.me.recs = []

/-- The full/empty operations that wait (R161). -/
inductive Fe where
  | ldfe | ldff | stfe | stff
deriving DecidableEq, Repr

/-- Their instructions, the state of the word they wait for, whether they store, and the state they leave it in. -/
def Fe.instr (p : Pfx) (m : LMode) (d a : Fin 32) (off : Int) : Fe → Instr
  | .ldfe => .ldfe p m d a off
  | .ldff => .ldff p m d a off
  | .stfe => .stfe p m d a off
  | .stff => .stff p m d a off
def Fe.wants : Fe → Bool
  | .stfe => false
  | _ => true
def Fe.stores : Fe → Bool
  | .stfe | .stff => true
  | _ => false
def Fe.leaves : Fe → Bool
  | .ldfe => false
  | _ => true

/-- The loads of R157. -/
inductive Ld where
  | s8 | s16 | s32 | d64 | z8 | z16 | z32
deriving DecidableEq, Repr

/-- Their instructions, sizes and extensions. -/
def Ld.instr (p : Pfx) (d a : Fin 32) (off : Int) : Ld → Instr
  | .s8 => .ldS8 p d a off
  | .s16 => .ldS16 p d a off
  | .s32 => .ldS32 p d a off
  | .d64 => .ld64 p d a off
  | .z8 => .ldZ8 p d a off
  | .z16 => .ldZ16 p d a off
  | .z32 => .ldZ32 p d a off
def Ld.size : Ld → Nat
  | .s8 | .z8 => 1
  | .s16 | .z16 => 2
  | .s32 | .z32 => 4
  | .d64 => 8
def Ld.signed : Ld → Bool
  | .s8 | .s16 | .s32 => true
  | _ => false

/-- The stores of R157. -/
inductive St where
  | b8 | b16 | b32 | b64
deriving DecidableEq, Repr

/-- Their instructions and sizes; d is the data register. -/
def St.instr (p : Pfx) (d a : Fin 32) (off : Int) : St → Instr
  | .b8 => .st8 p d a off
  | .b16 => .st16 p d a off
  | .b32 => .st32 p d a off
  | .b64 => .st64 p d a off
def St.size : St → Nat
  | .b8 => 1
  | .b16 => 2
  | .b32 => 4
  | .b64 => 8

/-- The entry an operation takes in the store queue (R156, R158). -/
def entryOf (s : State) (va : Word) (acc : Acc) (op : POp) (tag : Option RelTag) : SqEntry :=
  { id := s.nextId, k := s.cur, gen := s.me.gen, va := va, pa := acc.pa, op := op, tag := tag, pid := s.myPid,
    cls := s.me.cls.toNat, key := acc.key, seq := s.me.seq }
/-- The state with an entry at the tail of the running thread's store queue, which takes a number for each line it writes (R265); an
operation to another device takes the thread's
next sequence number (R156, R158, R289). -/
def queued (s : State) (e : SqEntry) (remote : Bool) : State :=
  let s' := { s with nextId := s.nextId + e.op.lines.length }.modCore s.myCore fun c => { c with sq := c.sq ++ [e] }
  if remote then s'.modMe fun t => { t with seq := t.seq + 1 } else s'
/-- The store queue has room (R156). -/
abbrev HasRoom (s : State) : Prop := (s.core s.myCore).sq.length < Config.sqdepth

/-- The posted atomics of R166: integer operations of 4 or 8 bytes, and floating adds. -/
inductive Posted where
  | add (w64 : Bool) | and (w64 : Bool) | or (w64 : Bool) | xor (w64 : Bool) | min (w64 : Bool) | max (w64 : Bool)
  | minz (w64 : Bool) | maxz (w64 : Bool) | f32 | bf16
deriving DecidableEq, Repr

/-- Their instructions, sizes, and what their homes do. -/
def Posted.instr (p : Pfx) (a b : Fin 32) : Posted → Instr
  | .add w => .amopAdd p w a b
  | .and w => .amopAnd p w a b
  | .or w => .amopOr p w a b
  | .xor w => .amopXor p w a b
  | .min w => .amopMin p w a b
  | .max w => .amopMax p w a b
  | .minz w => .amopMinz p w a b
  | .maxz w => .amopMaxz p w a b
  | .f32 => .famoF32 p a b
  | .bf16 => .famoBf16 p a b
def Posted.size : Posted → Nat
  | .add w | .and w | .or w | .xor w | .min w | .max w | .minz w | .maxz w => if w then 8 else 4
  | .f32 => 4
  | .bf16 => 2
def Posted.op (pa : Nat) (x : Word) : Posted → POp
  | .add w => .amop .add w pa x
  | .and w => .amop .and w pa x
  | .or w => .amop .or w pa x
  | .xor w => .amop .xor w pa x
  | .min w => .amop .min w pa x
  | .max w => .amop .max w pa x
  | .minz w => .amop .minz w pa x
  | .maxz w => .amop .maxz w pa x
  | .f32 => .famo false pa x
  | .bf16 => .famo true pa x

/-- The instruction of a returning atomic (R165). -/
def amoInstr (p : Pfx) (w64 : Bool) (d a b : Fin 32) : AmoOp → Instr
  | .add => .amoAdd p w64 d a b
  | .and => .amoAnd p w64 d a b
  | .or => .amoOr p w64 d a b
  | .xor => .amoXor p w64 d a b
  | .min => .amoMin p w64 d a b
  | .max => .amoMax p w64 d a b
  | .minz => .amoMinz p w64 d a b
  | .maxz => .amoMaxz p w64 d a b
  | .swap => .amoSwap p w64 d a b
  | .cas => .amoCas p w64 d a b

/-- What memory becomes of `m` with operand `b` and, for a compare and swap, the compared value `o` (R165): numbers of `w`
bits, compared as two's complement by min and max. -/
def amoMem (op : AmoOp) (w : Nat) (m b o : Nat) : Nat :=
  let sg := fun (x : Nat) => (BitVec.ofNat w x).toInt
  match op with
  | .add => (m + b) % 2 ^ w
  | .and => m &&& b
  | .or => m ||| b
  | .xor => m ^^^ b
  | .min => if sg m ≤ sg b then m else b
  | .max => if sg m ≤ sg b then b else m
  | .minz => min m b
  | .maxz => max m b
  | .swap => b
  | .cas => if m = o then b else m
/-- What gD receives of the old value: sign-extended for add, min and max (R165). -/
def amoOld (op : AmoOp) (w : Nat) (m : Nat) : Word :=
  match op with
  | .add | .min | .max => (BitVec.ofNat w m).signExtend 64
  | _ => (BitVec.ofNat w m).setWidth 64

/-- A write of cells under a key: they hold their bytes; the other bytes of their lines read under that key as before; and every
byte of another line reads as before (R381). -/
def Wrote (s t : State) (key : Nat) (cells : List Host.Cell) : Prop :=
  (∀ c ∈ cells, t.byteAt key c.1 = c.2) ∧
  (∀ a, (∃ c ∈ cells, c.1 / 64 = a / 64) → (∀ c ∈ cells, c.1 ≠ a) → t.byteAt key a = s.byteAt key a) ∧
  ∀ a, (∀ c ∈ cells, c.1 / 64 ≠ a / 64) → t.mem.read a = s.mem.read a

/-! ### Array, engine and grants -/

/-- The running thread is the member of an open gang that is not stalled, and no sequence of it runs (R209, R227). -/
abbrev Member (s : State) : Prop :=
  s.seqRuns = false ∧ s.isMember s.cur = true ∧ (s.cluster s.myCluster).stall = none
/-- Ranges (tag, code, address, length) are captured one after the other as chunks (R108). -/
def Captures : State → List (Option (BitVec 32) × Nat × Nat × Nat) → List (List Chunk) → State → Prop
  | s, [], css, s' => css = [] ∧ s' = s
  | s, (tag, need, va, n) :: rs, css, s' =>
    ∃ cs rest s1, css = cs :: rest ∧ s.capture tag need (piecesOf va n) [] = .ok cs s1 ∧ Captures s1 rs rest s'
/-- The regions of a card are translated one after the other (R234). -/
def Translates (a b : Fin 32) : State → List Desc → List (List Chunk) → State → Prop
  | s, [], css, s' => css = [] ∧ s' = s
  | s, d :: ds, css, s' =>
    ∃ cs rest s1, css = cs :: rest ∧ Translates a b s1 ds rest s' ∧
      if d.kind = 0 then s.translateAll (piecesOf (d.va s.me a b).toNat d.len) [] = .ok cs s1
      else s1 = s ∧ cs = if d.kind = 3 then [] else [d.store s.myCluster]
/-- The rights of the virtual regions of a card hold one after the other (R108). -/
def Rights (a b : Fin 32) (need : Nat) : State → List Desc → State → Prop
  | s, [], s' => s' = s
  | s, d :: ds, s' =>
    if d.kind = 0 then ∃ cs s1, s.captureRights (s.me.tagOf (if d.base = 1 then a else b)) need
        (piecesOf (d.va s.me a b).toNat d.len) = .ok cs s1 ∧ Rights a b need s1 ds s'
    else Rights a b need s ds s'
/-- Every page an instruction walks is in the boundary TLB, or the instruction has parked for its walks (R316). -/
def Walked (s s' : State) : Prop :=
  s.me.park.map (·.rest) = some .again ∨ ∀ e ∈ (s'.cluster s.myCluster).tlb, e ∈ (s.cluster s.myCluster).tlb

/-! ### Regions, control transfers, traps -/

/-- The encoded instructions that an open region permits: scalar instructions, loads and stores, transfers, what reads vector state
alone, vector instructions that push to a stream, and what R182, R185, R229 and R250 name. -/
def permitted : Instr → Bool
  | .add .. | .sub .. | .and .. | .or .. | .xor .. | .mul .. | .shl .. | .shr .. | .shra .. | .andn .. | .gate ..
  | .retx .. | .addi .. | .shli .. | .shri .. | .shrai .. | .ldS8 .. | .ldS16 .. | .ldS32 .. | .ld64 .. | .ldZ8 ..
  | .ldZ16 .. | .ldZ32 .. | .st8 .. | .st16 .. | .st32 .. | .st64 .. | .cmpEq .. | .cmpNe .. | .cmpLt .. | .cmpGe ..
  | .cmpuLtu .. | .cmpuGeu .. | .cmpuTst .. | .cmpuNtst .. | .pand .. | .por .. | .pxor .. | .pandn .. | .br ..
  | .call .. | .callx .. | .jmp .. | .callReg .. | .ret .. | .callxReg .. | .vredSum .. | .vredMax .. | .vredMin ..
  | .vgetl .. | .mpop .. | .mget .. | .mgetVs .. | .mgetVsClr .. | .tchk .. | .tstxSet .. | .tstxClr .. | .difwait ..
  | .ecommit .. | .eabort .. | .ebnd .. | .epos .. | .cjtest .. | .addg .. | .grantq .. | .krd .. | .mulh ..
  | .mulhz .. | .div .. | .divz .. | .rem .. | .remz .. | .bfxZ .. | .bfxS .. | .bfi .. | .sel .. | .clz .. | .ctz ..
  | .popc .. | .bswap .. | .min .. | .max .. | .minz .. | .maxz .. | .andi .. | .ori .. | .xori .. | .qpop ..
  | .qpush .. => true
  | .vst _ sp _ _ _ _ => sp == .virt
  | .vadd _ _ _ d .. | .vsub _ _ _ d .. | .vmul _ _ _ d .. | .vmax _ _ d .. | .vmin _ _ d .. | .vmaxa _ _ d .. | .vmina _ _ d ..
  | .vabs _ _ d .. | .vneg _ _ d .. | .vand _ d .. | .vor _ d .. | .vxor _ d .. | .vandn _ d .. | .vexp2 _ d .. | .vrcp _ d ..
  | .vrsq _ d .. | .vquant _ d .. | .vdeq _ d .. | .vmov _ d .. => (match d with
      | .q _ => true
      | .v _ => false)
  | _ => false

/-- The row of a domain that slot `k` holds once it is reloaded from the matrix in memory, or one that is read again at its next use
where the reading fails (R104, R297). -/
def reloaded (s : State) (k : Nat) (dom : BitVec 8) : Row :=
  match s.readRow (coreOf k) (s.slot k).asid.toNat dom.toNat with
  | .ok r => r
  | _ => Row.unloaded
/-- A slot on the domain and class of a page that it enters: into another domain, or by a crossing of classes, with the row that it
reloads, and ready once that has ended (R101, R104, R144). -/
def entered (row : Row) (ready : Nat) (dom : BitVec 8) (cls : BitVec 2) (cross : Bool) (t : Slot) : Slot :=
  if cross = true ∨ dom ≠ t.dom then { t with dom := dom, cls := cls, row := some row, readyAt := ready } else { t with cls := cls }

/-- What the abort of the region `r` of a slot with a code restores (R183): registers, predicates and domain return records from
the begin, the code in gD, the PC at the handler. -/
def abortedSlot (s : State) (k code : Nat) (r : Region) (t : Slot) : Slot :=
  (entered (reloaded s k r.dom) (s.reloadEnd k) r.dom r.cls false
    { t with g := r.g, src := none, p := r.p, drs := r.drs, region := none, pc := r.h, park := none, readyAt := max t.readyAt s.clock,
             streak := if code = 1 then min 4 (t.streak + 1) else t.streak }).wr r.gd (BitVec.ofNat 64 code)

/-- What a store `x` of cells does in the open region `r` (R179, R300): a router that refuses it traps it; a line of another die aborts
with code 3, one past the capacity with code 2; otherwise its bytes are buffered, line by line, and an access for each line goes to the
line's home slice with the bounds. No byte of memory changes. -/
def RegionStore (s : State) (x : Instr) (acc : Acc) (r : Region) (va : Word) (cells : List Host.Cell) : Prop :=
  let fits := r.fitsAll (acc.s.cluster s.myCluster).fused ((linesOf cells).map fun l => (va.toNat / 64 + (l - acc.pa / 64), l))
  let refused := acc.remote = false ∧ acc.s.walled s.myCluster s.myPid acc.pa = true
  (refused → exec x s = .next ((acc.s.countDrop (clusterOfWin acc.pa)).trap 7 va x.nwords)) ∧
  (¬ refused → acc.s.onDie acc = true → fits = true →
    ∃ t r', exec x s = .next t ∧ SameBytes s t ∧ t.me.region = some r' ∧
      r'.writes = r.writes ++ (linesOf cells).flatMap (fun l => cells.filter fun c => c.1 / 64 == l) ∧
      r'.out = r.out + (linesOf cells).length ∧ (∀ l ∈ linesOf cells, r'.wlines.has l = true) ∧
      ∀ l ∈ linesOf cells, ∃ m ∈ t.net, m.kind = .region r.id l acc.key s.me.eblo s.me.ebhi
        (.write (BitVec.ofNat 64 ((va.toNat + (l - acc.pa / 64) * 64) / 64 * 64)))) ∧
  (¬ refused → acc.s.onDie acc = false → exec x s = .next (acc.s.abort s.cur 3)) ∧
  (¬ refused → acc.s.onDie acc = true → fits = false → exec x s = .next (acc.s.abort s.cur 2))

/-- The checks of a transfer's target (R143), which give its page and whether it crosses domains: even, canonical, on a page that
permits the fetch, and, into another domain or a higher class, a gate that the row's code permits. -/
def Target (s : State) (t : Word) (cross : Bool) (e : TlbEnt) (s' : State) : Prop :=
  t.toNat % 2 = 0 ∧ canonical t.toNat = true ∧ ∃ s0, s.fetchPage s.myCore s.me.asid.toNat t.toNat s.me.cls.toNat = .ok (e, s0) ∧
    if e.dom = s.me.dom ∧ e.cls ≤ s.me.cls then cross = false ∧ s' = s0
    else cross = true ∧ s0.gateAt s.myCore s.me.asid.toNat e t.toNat = true ∧
      ∃ r, s0.rowOf s.cur = .ok (r, s') ∧ r.code e.dom = 3
/-- The line of a target is in the instruction cache, or cannot come there and traps at the target (R119, R144). -/
abbrev Cached (s : State) (t : Word) (e : TlbEnt) : Prop :=
  s.icHit s.myCore s.me.asid.toNat e t.toNat = true ∨ s.routeUp s.myDev e.dev = false ∨ (s.poisonOf e.key (e.pa t.toNat) 1).isSome = true
/-- The running thread has gone to `t` on page `e` (R101, R104, R144). -/
def went (s : State) (t : Word) (e : TlbEnt) (cross : Bool) (f : Slot → Slot) : State :=
  s.modMe fun u => endAt (entered (reloaded s s.cur e.dom) (s.reloadEnd s.cur) e.dom e.cls cross (f u)) t
/-- The running thread waits for the line of its target, before any effect of its transfer (R144, R154). -/
def awaits (s : State) (t : Word) (e : TlbEnt) (nw : Nat) : State :=
  parked (s.icFill s.myCore s.me.asid.toNat e t.toNat) 1 .latency .reissue nw false

/-- The plain transfers (R145), with their sources, their targets and whether they write g31. -/
inductive Go where
  | br (imm : Int) | call (imm : Int) | jmp (a : Fin 32) | callReg (a : Fin 32) | ret
deriving DecidableEq, Repr

/-- Their instructions. -/
def Go.instr (p : Pfx) : Go → Instr
  | .br imm => .br p imm
  | .call imm => .call p imm
  | .jmp a => .jmp p a
  | .callReg a => .callReg p a
  | .ret => .ret p
def Go.srcs : Go → List (Fin 32)
  | .jmp a | .callReg a => [a]
  | .ret => [31]
  | _ => []
def Go.target (t : Slot) : Go → Word
  | .br imm | .call imm => t.pc + BitVec.ofInt 64 (2 * imm)
  | .jmp a | .callReg a => t.rd a
  | .ret => t.rd 31
def Go.links : Go → Bool
  | .call _ | .callReg _ => true
  | _ => false

/-- The transfers to an address `t`: the plain ones, CALLX, and TSTX where its bit is as it asks; with the registers they read. -/
def GoesTo (s : State) (p : Pfx) (i : Instr) (srcs : List (Fin 32)) (t : Word) : Prop :=
  (∃ o : Go, i = o.instr p ∧ srcs = o.srcs ∧ t = o.target s.me) ∨
  (∃ imm, i = .callx p imm ∧ srcs = [] ∧ t = s.me.pc + BitVec.ofInt 64 (2 * imm)) ∨
  (∃ a, i = .callxReg p a ∧ srcs = [a] ∧ t = s.me.rd a) ∨
  ∃ (bit : Fin 64) (a : Fin 32) (imm : Int), srcs = [a] ∧ t = s.me.pc + BitVec.ofInt 64 (2 * imm) ∧
    (i = .tstxSet p bit a imm ∧ (s.me.rd a).getLsbD bit = true ∨ i = .tstxClr p bit a imm ∧ (s.me.rd a).getLsbD bit = false)

/-- What a trap needs to be delivered to the running thread (R340): it is not in its handler, its vector word is a gate, and its
save area is writable; the pages of both, and the state after their translations. -/
def Delivers (s : State) (grp : Nat) (ve se : TlbEnt) (s' : State) : Prop :=
  s.me.inh = false ∧ ∃ s1, s.vectorOk s.cur grp = .ok (ve, s1) ∧ s1.savePage s.cur = .ok (se, s')
/-- The slot of a thread that has taken a trap (R339, R340): on the vector's page, with the row `row` where that is in another
domain. -/
def trappedSlot (s : State) (row : Row) (grp : Nat) (ve : TlbEnt) (t : Slot) : Slot :=
  entered row (s.reloadEnd s.cur) ve.dom ve.cls false
    { t with shadow := (List.finRange 32).filterMap fun r => ({ t with src := none }.tagOf r).map fun g => (r, g),
             g := t.g.map fun r => { r with full := true, tag := none }, drs := [], sstep := false, inh := true, held := [],
             park := none, src := none, pc := (s.core s.myCore).tvec + BitVec.ofNat 64 (64 * grp), readyAt := max t.readyAt s.clock }
/-- The running thread of `s` has taken a trap in `t`: its frame stands in its save area, it is at its vector, and its
reservations may be marked; no other slot differs but in such marks. -/
def TookTrap (s t : State) (ve se : TlbEnt) (i : TrapInfo) : Prop :=
  Wrote s t se.key (cellsAt (se.pa s.me.tsave.toNat) ((frameWords { s.me with src := none } i).flatMap (toBytes 8))) ∧
  t.me = { trappedSlot s (reloaded t s.cur ve.dom) (trapGroup i.cause) ve s.me with resv := t.me.resv } ∧
  ∀ k, k ≠ s.cur → t.slot k = { s.slot k with resv := (t.slot k).resv }

/-- The running thread has returned from its handler, or been resumed, from the frame at its save area on page `e`, with a new
single-step bit: what it holds is the frame's, with the tags of its shadow where it was in its handler (R343, R361, R362). -/
def Returned (s s1 t : State) (e : TlbEnt) (step : Bool) : Prop :=
  let w := fun n => s1.frameAt e s.me.tsave.toNat n
  Wrote s t e.key (cellsAt (e.pa s.me.tsave.toNat) (toBytes 8 (if (w 0).testBit 14 then w 0 - 2 ^ 14 else w 0))) ∧
  t.me.pc = BitVec.ofNat 64 (w 2 / 2 * 2) ∧ t.me.inh = false ∧ t.me.shadow = [] ∧ t.me.held = [] ∧ t.me.park = none ∧
  t.me.row = none ∧ t.me.drs = (List.range (bits (w 4) 15 12)).map (fun j => DomRet.ofWord (w (12 + j))) ∧ t.me.sstep = step ∧
  (∀ r : Fin 8, t.me.p[r] = (w 10).testBit r.val) ∧
  ∀ r : Fin 32, (s.me.inh = true → ∀ h ∈ s.me.held, h.reg ≠ r) →
    t.me.g[r] = { val := BitVec.ofNat 64 (w (32 + r.val)), full := (w 8).testBit r.val,
                  tag := if s.me.inh && (w 9).testBit r.val then (s.me.shadow.find? (·.1 == r)).map (·.2) else none }

/-! ### What happens at a home -/

/-- The thread that sent message `id` is told what is left of its instruction (R22): where its park awaits that reply, it awaits
only the reply's time now, which does not come before the invalidations that were on their way (R255); its slot changes in nothing
else but the reservation. -/
def Replied (s t : State) (k id : Nat) (r : Rest) : Prop :=
  let told := fun (p : Park) => if p.wait = .reply id then { p with wait := s.replyWait (coreOf k), rest := r, via := [] } else p
  t.slot k = { s.slot k with park := (s.slot k).park.map told, resv := (t.slot k).resv }
/-- A message may be performed at its home now (R156, R167, R184, R320, R385): no earlier operation of its thread to the line is
outstanding, no region holds the line, its frame has not moved, and no uncommitted node holds it back. -/
abbrev HomeReady (s : State) (m : Msg) (pa : Nat) : Prop :=
  s.mayWrite m = true ∧ s.isMoved (s.pidOf (clusterOf m.k)) pa = false ∧ s.heldAtomic m pa = none

/-! ### Events -/

/-- What a trap at the instruction of a slot tells its frame (R23, R338): the handler of an open region is the resume PC. -/
def trapInfo (t : Slot) (cause : Nat) (addr : Word) (nw : Nat) : TrapInfo :=
  { cause := cause, addr := addr, nw := nw, pc := t.pc, rec_ := none,
    rpc := match t.region with
      | some r => r.h
      | none => if cause = 0x12 ∨ (0x40 ≤ cause ∧ cause ≤ 0x7F) then t.pc + BitVec.ofNat 64 (2 * nw) else t.pc }
/-- Slot `k` has taken a trap. -/
def TookTrapAt (s t : State) (k : Nat) (ve se : TlbEnt) (i : TrapInfo) : Prop :=
  TookTrap { s with cur := k } { t with cur := k } ve se i
/-- A trap with a cause can be delivered to slot `k`. -/
def DeliversAt (s : State) (k cause : Nat) (ve se : TlbEnt) : Prop :=
  ∃ s', Delivers { s with cur := k } (trapGroup cause) ve se s'
/-- What a park of slot `k` is once its event has arrived (R31): the slot may issue, and its core wakes. -/
def awake (s : State) (k : Nat) (q : Park) (r : Rest) : State :=
  (s.modSlot k fun t => { t with park := some { q with rest := r, arrived := true }, readyAt := max t.readyAt s.clock }).rouse
    (coreOf k)
/-- The sender of fill `id` is told a status (R35). -/
def toldFill (id status : Nat) (t : Slot) : Slot :=
  { t with park := t.park.map fun p => if p.wait = .reply id then
      { p with wait := .latency, rest := match p.rest with
        | .finish [.g d _] => .finish [.g d (BitVec.ofNat 64 status)]
        | r => r } else p }
/-- A fill of register `r` of slot `k` with `x` (R34, R37): the register is full, unless the instruction that issued on that clock has
written it; the thread has learned what is on its way (R275). -/
def filled (s : State) (k : Nat) (r : Fin 32) (x : Word) (u : Slot) : Slot :=
  { u with g := if r = 0 ∨ s.overwritten k r = true then u.g else u.g.set r (GReg.of x), seen := max u.seen (s.quiet (coreOf k)) }
/-- A state without the links of its running thread's park (R374). -/
def unlinked (t : State) : State := t.modMe fun x => { x with park := x.park.map fun q => { q with via := [] } }
/-- No message of the network has a number. -/
def Gone (t : State) (id : Nat) : Prop := ∀ x ∈ t.net, x.id ≠ id
/-- Partition `pid` of `s` is killed in `t` (R355): its clusters are held and not stopped, its slots vacant, its local and weight
memory cleared, its instances, graphs, launch words and images gone, its keys but 0 retired. -/
def Killed (s t : State) (pid : Nat) : Prop :=
  (t.part pid).killed = true ∧ (t.part pid).insts = [] ∧ (t.part pid).graphs = [] ∧ (t.part pid).port = [] ∧
  (t.part pid).images = [] ∧ (t.part pid).save = none ∧
  (∀ ck ∈ s.clustersOf pid, (t.cluster ck).hold = true ∧ (t.cluster ck).stopAt = none ∧
    (∀ k, clusterOf k = ck → (t.slot k).occ = false) ∧ ∀ a, inCluster ck a = true → t.mem.read a = 0) ∧
  ∀ e ∈ (s.part pid).keys, e.2 ≠ 0 → FMap.has (t.dev e.1).keys e.2 = false

/-! ### Fetch -/

/-- The words `ws` of a chain, after those of `done`, are read from state `s` on, which ends in `t`: each lies on a page of the domain
and class of `e0` that the thread may execute, and in a line that the instruction cache of its core holds (R103, R119). -/
def Fetches (k : Nat) (e0 : TlbEnt) : List Nat → List Nat → State → State → Prop
  | _, [], s, t => t = s
  | done, w :: ws, s, t =>
    let x := s.slot k
    let va := (x.pc + BitVec.ofNat 64 (2 * done.length)).toNat
    ∃ e s', s.fetchPage (coreOf k) x.asid.toNat va x.cls.toNat = .ok (e, s') ∧ e.dom = e0.dom ∧ e.cls = e0.cls ∧
      s'.icHit (coreOf k) x.asid.toNat e va = true ∧ s'.codeWord (coreOf k) x.asid.toNat e va = w ∧
      Fetches k e0 (done ++ [w]) ws s' t

end Sys2Proof.Claims
end

