-- ==== Sys2Proof/Certificates/Slice0/Obligations.lean ====
section
/-! DEFINITION. The statements about the machine, one definition each. -/

open Sys2Proof Sys2Proof.Machine Sys2Proof.Claims

/-- R9: a guard that is false makes an instruction a no-op, which occupies its issue and advances the PC. -/
def Obligations.FalseGuardIsNoop : Prop :=
  ∀ (i : Instr) (p : Pfx) (s : State), pfxOf i = some p → s.me.replied = false → s.me.guard p = false →
    s.me.sstep = false → exec i s = .next (retired s i.nwords id)

/-- R131, R133-R136: the register, immediate and single-source forms write the table's result to gD, full and untagged, and change
nothing else; with an empty source the register forms park under cause 2 on the first one, and have written nothing. -/
def Obligations.ScalarForms : Prop :=
  (∀ (o : Alu2) (p : Pfx) (d a b : Fin 32) (s : State), Plain s p →
    let i := o.instr p d a b
    (Full s [a, b] → exec i s = .next (retired s i.nwords fun t => t.wr d (o.result (t.rd a) (t.rd b)))) ∧
    (¬ Full s [a, b] → exec i s = .next (parked s 2 (.reg (if s.me.full a then b else a)) .reissue i.nwords false))) ∧
  (∀ (o : Alu1) (p : Pfx) (d a : Fin 32) (s : State), Plain s p → Full s [a] →
    exec (o.instr p d a) s = .next (retired s (o.instr p d a).nwords fun t => t.wr d (o.result (t.rd a))))

/-- R136, R137, R139, R140: BFI replaces the field of gD by the low bits of gA; SEL chooses by its predicate, both sources being
full; compares write their predicate from two full registers, predicate logic from two predicates. -/
def Obligations.InsertSelectCompare : Prop :=
  (∀ (p : Pfx) (w : Fin 64) (d a : Fin 32) (imm : Int) (s : State), Plain s p → Full s [a, d] →
    exec (.bfi p w d a imm) s = .next (retired s (Instr.bfi p w d a imm).nwords fun t =>
      t.wr d (bfiOf (t.rd a) (t.rd d) (imm % 64).toNat (w.val + 1)))) ∧
  (∀ (p : Pfx) (pr : Fin 8) (d a b : Fin 32) (s : State), Plain s p → Full s [a, b] →
    exec (.sel p pr d a b) s = .next (retired s (Instr.sel p pr d a b).nwords fun t =>
      t.wr d (if t.rdP pr then t.rd a else t.rd b))) ∧
  (∀ (o : Cmp) (p : Pfx) (d : Fin 8) (a b : Fin 32) (s : State), Plain s p → Full s [a, b] →
    exec (o.instr p d a b) s =
      .next (retired s (o.instr p d a b).nwords fun t => t.wrP d (o.test (t.rd a) (t.rd b)))) ∧
  (∀ (o : PLogic) (p : Pfx) (d a b : Fin 8) (s : State), Plain s p →
    exec (o.instr p d a b) s =
      .next (retired s (o.instr p d a b).nwords fun t => t.wrP d (o.result (t.rdP a) (t.rdP b))))

/-- R131, R133-R137: on every path, be it completion, a false guard or a park, a scalar register instruction leaves memory and
every other thread as they were, and of its own slot changes only gD, the PC and the park, and what the model notes of an instruction
that is under way (`src`, `wrote`). -/
def Obligations.ScalarFrame : Prop :=
  ∀ (i : Instr) (d : Fin 32) (s t : State),
    ((∃ o p a b, i = Alu2.instr p d a b o) ∨ (∃ o p a, i = Alu1.instr p d a o) ∨ (∃ p w a imm, i = .bfi p w d a imm) ∨
      ∃ p pr a b, i = .sel p pr d a b) →
    s.me.replied = false → s.me.sstep = false → exec i s = .next t →
    OnlyMe s t ∧ SameBytes s t ∧ t.me = { s.me with g := t.me.g, pc := t.me.pc, park := t.me.park, src := t.me.src, wrote := t.me.wrote } ∧
    ∀ r : Fin 32, r ≠ d → t.me.g[r] = s.me.g[r]

/-- R48, R50, R51, R131: a write to a g register makes it full and untagged and changes no other; g0 reads zero and is full, and a
write to it is discarded; so for p0, which reads 1, and m0, which reads all ones. R22: an instruction that has parked reads on
what it found (`src`). -/
def Obligations.RegisterFile : Prop :=
  ∀ (t : Slot),
    (∀ (r : Fin 32) (x : Word), r ≠ 0 → (t.wr r x).g[r] = { val := x, full := true, tag := none } ∧ (t.src = none → (t.wr r x).rd r = x) ∧
      ∀ r' : Fin 32, r' ≠ r → (t.wr r x).g[r'] = t.g[r']) ∧
    (∀ x : Word, t.wr 0 x = t ∧ t.rd 0 = 0 ∧ t.full 0 = true ∧ t.tagOf 0 = none) ∧
    (∀ (r : Fin 8) (b : Bool), r ≠ 0 → (t.wrP r b).rdP r = b ∧ ∀ r' : Fin 8, r' ≠ r → (t.wrP r b).rdP r' = t.rdP r') ∧
    (∀ b : Bool, t.wrP 0 b = t ∧ t.rdP 0 = true) ∧
    (∀ (r : Fin 8) (x : BitVec 32), r ≠ 0 → (t.wrM r x).rdM r = x ∧ ∀ r' : Fin 8, r' ≠ r → (t.wrM r x).rdM r' = t.rdM r') ∧
    (∀ x : BitVec 32, t.wrM 0 x = t ∧ t.rdM 0 = BitVec.allOnes 32)

/-- R134, R136: what CLZ, CTZ, POPC and BSWAP compute, said of the bits of the source; and, bit by bit, BFX gives the field at its
low end and then zeros or copies of the field's highest bit, BFI the low bits of gA in the field and gD's own bits around it. The
field is cut at bit 63. -/
def Obligations.BitOperations : Prop :=
  (∀ x : Word,
    (x = 0 → clz64 x = 64 ∧ ctz64 x = 64) ∧
    (x ≠ 0 → clz64 x ≤ 63 ∧ x.getLsbD (63 - clz64 x) = true ∧ ∀ i, 63 - clz64 x < i → x.getLsbD i = false) ∧
    (x ≠ 0 → ctz64 x ≤ 63 ∧ x.getLsbD (ctz64 x) = true ∧ ∀ i, i < ctz64 x → x.getLsbD i = false) ∧
    ones 64 x.toNat = ((List.range 64).filter fun i => x.getLsbD i).length ∧
    (∀ j, j < 8 → (bswap64 x).toNat / 2 ^ (8 * j) % 256 = x.toNat / 2 ^ (8 * (7 - j)) % 256)) ∧
  (∀ (x y : Word) (pos w i : Nat), pos < 64 → 1 ≤ w → i < 64 →
    (BitVec.ofNat 64 (bfField x pos w)).getLsbD i = (decide (i < w) && x.getLsbD (pos + i)) ∧
    (bfxSigned x pos w).getLsbD i = x.getLsbD (min (pos + min i (w - 1)) 63) ∧
    (bfiOf x y pos w).getLsbD i = (if pos ≤ i ∧ i < pos + w then x.getLsbD (i - pos) else y.getLsbD i))

/-- R138: the encodings of QPOP and QPUSH, whatever their reserved bits, an XR extension of the q field being illegal; QPOP takes the
oldest element of its queue into gD, full and untagged, QPUSH appends the value of gA; QPUSH parks under cause 2 on an empty gA; an
unbound register, or one bound the other way or with 128-byte width, traps with cause 0x10; an empty queue parks under cause 7 until
an element has arrived, a queue of 16 entries under cause 8 until it holds fewer. -/
def Obligations.ScalarStreamMoves : Prop :=
  (∀ u d a b f, u < 64 → d < 8 → a < 8 → b < 8 → f < 4 →
    let w := 8 * 2048 + 256 * d + 32 * a + 4 * b + f
    decodeWords [0xFA80 + 2 * u, w] = .ok (.qpop Pfx.none (fin32 d) (fin8 a)) 2 ∧
    decodeWords [0xFA81 + 2 * u, w] = .ok (.qpush Pfx.none (fin8 d) (fin32 a)) 2 ∧
    ∀ x, x < 2048 → (x / 128 % 4 ≠ 0 → decodeWords [0xF000 + x, 0xFA80 + 2 * u, w] = .trap 1 3) ∧
      (x / 512 % 4 ≠ 0 → decodeWords [0xF000 + x, 0xFA81 + 2 * u, w] = .trap 1 3)) ∧
  (∀ (t : Slot) (q : Fin 8) (out : Bool), t.qBad q out false = true ↔
    t.q[q].bound = false ∨ t.q[q].outbound ≠ out ∨ t.q[q].wide = true) ∧
  (∀ (p : Pfx) (d : Fin 32) (q : Fin 8) (x : BitVec 1024) (xs : Queue) (s : State), Plain s p →
    s.me.qBad q false false = false → s.queueOf s.cur q = x :: xs →
    exec (.qpop p d q) s = .next (retired (s.setQueue s.cur q xs) (Instr.qpop p d q).nwords fun t => t.wr d (x.setWidth 64))) ∧
  (∀ (p : Pfx) (d : Fin 32) (q : Fin 8) (s : State), Plain s p →
    s.me.qBad q false false = false → s.queueOf s.cur q = [] →
    exec (.qpop p d q) s = .next (parked s 7 (.streamIn q 1) .reissue (Instr.qpop p d q).nwords false)) ∧
  (∀ (p : Pfx) (d : Fin 32) (q : Fin 8) (s : State), Begins s p → s.me.qBad q false false = true →
    exec (.qpop p d q) s = .next (s.trap 0x10 0 (Instr.qpop p d q).nwords)) ∧
  (∀ (p : Pfx) (q : Fin 8) (a : Fin 32) (s : State), Plain s p → Full s [a] → s.me.qBad q true false = false →
    (s.queueOf s.cur q).length < Config.qdepth →
    exec (.qpush p q a) s = .next (retired (s.setQueue s.cur q (s.queueOf s.cur q ++ [(s.me.rd a).setWidth 1024]))
      (Instr.qpush p q a).nwords id)) ∧
  (∀ (p : Pfx) (q : Fin 8) (a : Fin 32) (s : State), Plain s p → Full s [a] →
    s.me.qBad q true false = false → Config.qdepth ≤ (s.queueOf s.cur q).length →
    exec (.qpush p q a) s = .next (parked s 8 (.streamOut q) .reissue (Instr.qpush p q a).nwords false)) ∧
  (∀ (p : Pfx) (q : Fin 8) (a : Fin 32) (s : State), Plain s p → s.me.full a = false →
    exec (.qpush p q a) s = .next (parked s 2 (.reg a) .reissue (Instr.qpush p q a).nwords false)) ∧
  (∀ (p : Pfx) (q : Fin 8) (a : Fin 32) (s : State), Begins s p → Full s [a] → s.me.qBad q true false = true →
    exec (.qpush p q a) s = .next (s.trap 0x10 0 (Instr.qpush p q a).nwords)) ∧
  Config.qdepth = 16 ∧
  ∀ (s : State) (q : Fin 8), (s.waitOver s.cur (.streamIn q 1) = true ↔ s.queueOf s.cur q ≠ []) ∧
    (s.waitOver s.cur (.streamOut q) = true ↔ (s.queueOf s.cur q).length < 16)

/-- R190, R192-R197, R201-R203: the elementwise instructions read their sources, popping streams, write the lanes of the mask
and keep the others. In an open region they act in the same way where they push to a stream (R206). -/
def Obligations.VectorElementwise : Prop :=
  ∀ (o : VOp) (p : Pfx) (m : Fin 4) (s : State), Plain s p → (s.me.region = none ∨ ∃ q, o.dst = .q q) → VecReady s o.srcs o.regs [o.dst] →
    exec (o.instr p m) s = .next (vecEnd s (o.instr p m).nwords o.srcs o.dst (o.mask s.me m) fun i xs old =>
      o.lane s.me m i xs old)

/-- R190: said lane by lane for v operands: lane i of vD holds the result where the mask sets it, cut to 32 bits, and its old
value elsewhere; no other register, no queue and no byte of memory changes, and no other thread. -/
def Obligations.VectorLanes : Prop :=
  ∀ (o : VOp) (p : Pfx) (m : Fin 4) (rs : List (Fin 16)) (d : Fin 16) (s : State), Outside s p →
    o.srcs = rs.map .v → o.dst = .v d → VecReady s o.srcs o.regs [o.dst] →
    ∃ t, exec (o.instr p m) s = .next t ∧
      (∀ i, i < 32 → laneOf (t.me.rdV d) i =
        if (o.mask s.me m).getLsbD i then
          (o.lane s.me m i (rs.map fun r => laneOf (s.me.rdV r) i) (laneOf (s.me.rdV d) i)).1 % 2 ^ 32
        else laneOf (s.me.rdV d) i) ∧
      t.me = { s.me with v := t.me.v, vsw := t.me.vsw, pc := t.me.pc, park := none, src := none } ∧
      (∀ r : Fin 16, r ≠ d → t.me.v[r] = s.me.v[r]) ∧
      (∀ k, k ≠ s.cur → t.slot k = s.slot k) ∧ (∀ c, (t.core c).queues = (s.core c).queues) ∧ SameBytes s t

/-- R197: VCMP sets bit i of mD for each lane of the mask to the test, inverted where neg is set; the other bits stay.
R199: VRED combines the upper half of the mask's lanes into the lower half, five times; an absent lane is neutral. -/
def Obligations.VectorComparesAndReductions : Prop :=
  (∀ (cc : Fin 4) (p : Pfx) (neg : Bool) (ty : VTy) (d : Fin 8) (a b : VOpd) (m : Fin 4) (s : State), Outside s p →
    VecReady s [a, b] [] [] →
    let i : Instr := match cc with
      | 0 => .vcmpEq p neg ty d a b m
      | 1 => .vcmpLt p neg ty d a b m
      | 2 => .vcmpLe p neg ty d a b m
      | 3 => .vcmpUn p neg ty d a b m
    let x := (onUnit s).popOpds [a, b]
    let rs := (List.range 32).map fun j => cmpLane cc.val ty (laneOf (x.1.getD 0 0) j) (laneOf (x.1.getD 1 0) j)
    let mask := s.me.mask m
    ∃ t, exec i s = .next t ∧
      (d ≠ 0 → ∀ j, j < 32 → (t.me.rdM d).getLsbD j =
        if mask.getLsbD j then xor (rs.getD j (false, 0)).1 neg else (s.me.rdM d).getLsbD j) ∧
      t = retired (x.2.flag (laneFlags mask (rs.map (·.2)))) i.nwords fun u => u.wrM d (t.me.rdM d)) ∧
  (∀ (which : Fin 3) (p : Pfx) (ty : VTy) (r : Rnd) (d : Fin 32) (a : VOpd) (m : Fin 4) (s : State), Plain s p →
    VecReady s [a] [] [] →
    let i : Instr := match which with
      | 0 => .vredSum p ty r d a m
      | 1 => .vredMax p ty r d a m
      | 2 => .vredMin p ty r d a m
    let f := match which with
      | 0 => vaddE ty r
      | 1 => extremeE ty true false
      | 2 => extremeE ty false false
    let x := (onUnit s).popOpds [a]
    let ts := (List.range 32).map fun j =>
      (if (s.me.mask m).getLsbD j then some (laneOf (x.1.getD 0 0) j) else none, (0 : AFlags))
    let y := (redLevels f 5 ts).headD (none, 0)
    exec i s = .next (retired (x.2.flag (y.2, 0)) i.nwords fun u =>
      u.wr d (if intTy ty then signExtend 4 (y.1.getD 0 % 2 ^ 32) else BitVec.ofNat 64 (y.1.getD 0 % 2 ^ 32))))

/-- R198, R200, R203: mask logic, the moves between masks, lanes and g registers, and the reads of VSW; VCVT converts each lane of
the mask, into one register or two, a masked-off lane being kept in each register written. -/
def Obligations.MasksConversionsLanes : Prop :=
  (∀ (p : Pfx) (d a b : Fin 8) (s : State), Outside s p → s.seqRuns = false →
    let end_ := fun (i : Instr) (f : BitVec 32 → BitVec 32 → BitVec 32) =>
      exec i s = .next (retired (onUnit s) i.nwords fun t => t.wrM d (f (t.rdM a) (t.rdM b)))
    end_ (.mand p d a b) (fun x y => x &&& y) ∧ end_ (.mor p d a b) (fun x y => x ||| y) ∧
    end_ (.mxor p d a b) (fun x y => x ^^^ y) ∧ end_ (.mandn p d a b) (fun x y => x &&& ~~~y)) ∧
  (∀ (p : Pfx) (d : Fin 32) (a : Fin 8) (s : State), Plain s p → s.seqRuns = false →
    let end_ := fun (i : Instr) (f : Slot → Slot) => exec i s = .next (retired (onUnit s) i.nwords f)
    end_ (.mpop p d a) (fun t => t.wr d (BitVec.ofNat 64 ((List.range 32).filter fun i => (t.rdM a).getLsbD i).length)) ∧
    end_ (.mget p d a) (fun t => t.wr d ((t.rdM a).setWidth 64)) ∧
    end_ (.mgetVs p d) (fun t => t.wr d (t.vsw.setWidth 64)) ∧
    end_ (.mgetVsClr p d) (fun t => { t.wr d (t.vsw.setWidth 64) with vsw := 0 })) ∧
  (∀ (p : Pfx) (d : Fin 8) (a : Fin 32) (s : State), Outside s p → s.seqRuns = false → Full s [a] →
    exec (.mset p d a) s = .next (retired (onUnit s) (Instr.mset p d a).nwords fun t => t.wrM d ((t.rd a).setWidth 32))) ∧
  (∀ (p : Pfx) (d : Fin 32) (a : Fin 16) (b : Fin 32) (s : State), Plain s p → s.seqRuns = false → Full s [b] →
    exec (.vgetl p d a b) s = .next (retired (onUnit s) (Instr.vgetl p d a b).nwords fun t =>
      t.wr d (BitVec.ofNat 64 (laneOf (t.rdV a) ((t.rd b).toNat % 32))))) ∧
  (∀ (p : Pfx) (d : Fin 16) (a b : Fin 32) (s : State), Outside s p → s.seqRuns = false → Full s [a, b] →
    ∃ t, exec (.vsetl p d a b) s = .next t ∧
      t = retired (onUnit s) (Instr.vsetl p d a b).nwords (fun u => u.wrV d (t.me.rdV d)) ∧
      ∀ i, i < 32 → laneOf (t.me.rdV d) i =
        if i = (s.me.rd b).toNat % 32 then (s.me.rd a).toNat % 2 ^ 32 else laneOf (s.me.rdV d) i) ∧
  (∀ (p : Pfx) (tt st : VTy) (r : Rnd) (ns part : Bool) (d a : Fin 16) (m : Fin 4) (s : State), Outside s p →
    s.seqRuns = false →
    let i := Instr.vcvt p tt st r ns part d a m
    let t := s.me
    let rs := (List.range 32).map fun j =>
      cvtLane tt st r ns part (laneOf (t.rdV a) j) (laneOf (t.rdV (a + 1)) j) (laneOf (t.rdV d) j)
    exec i s = .next (retired ((onUnit s).flag (laneFlags (t.mask m) (rs.map (·.2)))) i.nwords fun u =>
      let w := u.wrV d (mergeLanes (t.rdV d) (t.mask m) (rs.map fun x => x.1.getD 0 0))
      if st.width < tt.width then
        w.wrV (d + 1) (mergeLanes (w.rdV (d + 1)) (t.mask m) (rs.map fun x => x.1.getD 1 0)) else w))

/-- R155-R157: a load outside a region whose checks pass reads its bytes at issue and parks under cause 1; its reply writes the
extended value to gD and completes it; a request to another device leaves on a link (R376). It sees the bytes that its own
thread's stores in the queue put at its address, the latest one first. No byte of memory changes. -/
def Obligations.LoadsComplete : Prop :=
  (∀ (o : Ld) (p : Pfx) (d a : Fin 32) (off : Int) (s : State) (acc : Acc), Outside s p → Full s [a] →
    (ea s a off o.size).toNat % o.size = 0 →
    s.check (s.me.tagOf a) (ea s a off o.size).toNat o.size 1 false = .ok acc →
    LoadReady acc (ea s a off o.size).toNat o.size →
    let i := o.instr p d a off
    let va := (ea s a off o.size).toNat
    let x := extend o.signed o.size (ofBytes (acc.s.viewBytes va acc o.size))
    let t := (parked (acc.s.fillFor (hintsOf p) va acc o.size) 1 (acc.s.loadWait va) (.finish [.g d x]) i.nwords false).onPath
      { acc with remote := acc.remote && (acc.s.l1Find s.myCore s.me.asid.toNat va).isNone } (ea s a off o.size)
    exec i s = .next t ∧ Finishes t i.nwords (fun u => u.wr d x) ∧ SameBytes s t) ∧
  (∀ (s : State) (va : Word) (acc : Acc) (n : Nat) (x : Word) (tag : Option RelTag),
    acc.pa % 64 + n ≤ 64 → n ≤ 8 → devOfAddr acc.pa = devOfSlot s.cur →
    (queued s (entryOf s va acc (.store (cellsAt acc.pa (toBytes n x.toNat))) tag) false).viewBytes va.toNat acc n =
      toBytes n x.toNat)

/-- R156, R157: a store outside a region whose checks pass takes the tail of the store queue with its bytes and completes; a
store to a local memory window of the device parks instead under cause 1 (R88), unless the window's router refuses it, which counts it
and traps it with cause 0x07 (R300). At issue no byte of memory changes. The model's choice (log 23): the bytes of a window store are
written when its park ends, and it takes no entry of the store queue. -/
def Obligations.StoresComplete : Prop :=
  ∀ (o : St) (p : Pfx) (d a : Fin 32) (off : Int) (s : State) (acc : Acc), Outside s p → Full s [a, d] →
    (ea s a off o.size).toNat % o.size = 0 →
    s.check (s.me.tagOf a) (ea s a off o.size).toNat o.size 2 true = .ok acc → HasRoom acc.s →
    let i := o.instr p d a off
    let va := ea s a off o.size
    let cells := cellsAt acc.pa (toBytes o.size (s.me.rd d).toNat)
    (acc.window = false → ∃ t, exec i s = .next t ∧ SameBytes s t ∧
      t = retired (queued acc.s (entryOf acc.s va acc (.store cells) s.me.rel) acc.remote) i.nwords id) ∧
    (acc.window = true → acc.s.walled acc.s.myCluster acc.s.myPid acc.pa = true →
      exec i s = .next ((acc.s.countDrop (clusterOfWin acc.pa)).trap 7 va i.nwords)) ∧
    (acc.window = true → WindowReady acc cells →
      let t := parked acc.s 1 .latency (.finish [.lmPut cells acc.s.me.rel]) i.nwords false
      exec i s = .next t ∧ SameBytes s t ∧ ∃ u, exec .parkedResume (resuming t) = .next u ∧
        u.me = { endAt acc.s.me (s.me.pc + BitVec.ofNat 64 (2 * i.nwords)) with resv := u.me.resv } ∧ Stored s u cells)

/-- R166: a posted atomic whose checks pass takes the tail of the store queue and completes; it writes no register and, at issue,
no byte of memory. One to a local memory window parks under cause 1 until its home answers (R88). -/
def Obligations.PostedAtomicsComplete : Prop :=
  ∀ (o : Posted) (p : Pfx) (a b : Fin 32) (s : State) (acc : Acc), Outside s p → Full s [a, b] →
    (s.me.rd a).toNat % o.size = 0 → s.check (s.me.tagOf a) (s.me.rd a).toNat o.size 2 true = .ok acc → HasRoom acc.s →
    let i := o.instr p a b
    let u := queued acc.s (entryOf acc.s (s.me.rd a) acc (o.op acc.pa (s.me.rd b)) s.me.rel) acc.remote
    ∃ t, exec i s = .next t ∧ SameBytes s t ∧
      t = if acc.window then parked u 1 (.reply acc.s.nextId) (.finish []) i.nwords true else retired u i.nwords id

/-- R155-R157, R165, R166: with all entries taken, a store or a posted atomic parks under cause 8 and issues again; a misaligned
load, store, returning or posted atomic traps with cause 0x05 at its address before anything else (the trap is the shared
operation `State.trap`). -/
def Obligations.MemoryStops : Prop :=
  (∀ (o : St) (p : Pfx) (d a : Fin 32) (off : Int) (s : State) (acc : Acc), Outside s p → Full s [a, d] →
    (ea s a off o.size).toNat % o.size = 0 →
    s.check (s.me.tagOf a) (ea s a off o.size).toNat o.size 2 true = .ok acc → ¬ HasRoom acc.s →
    exec (o.instr p d a off) s = .next (parked acc.s 8 .storeQueue .reissue (o.instr p d a off).nwords false)) ∧
  (∀ (o : Posted) (p : Pfx) (a b : Fin 32) (s : State) (acc : Acc), Outside s p → Full s [a, b] →
    (s.me.rd a).toNat % o.size = 0 → s.check (s.me.tagOf a) (s.me.rd a).toNat o.size 2 true = .ok acc → ¬ HasRoom acc.s →
    exec (o.instr p a b) s = .next (parked acc.s 8 .storeQueue .reissue (o.instr p a b).nwords false)) ∧
  (∀ (o : Ld) (p : Pfx) (d a : Fin 32) (off : Int) (s : State), Begins s p → Full s [a] →
    (ea s a off o.size).toNat % o.size ≠ 0 →
    exec (o.instr p d a off) s = .next (s.trap 5 (ea s a off o.size) (o.instr p d a off).nwords)) ∧
  (∀ (o : St) (p : Pfx) (d a : Fin 32) (off : Int) (s : State), Begins s p → Full s [a, d] →
    (ea s a off o.size).toNat % o.size ≠ 0 →
    exec (o.instr p d a off) s = .next (s.trap 5 (ea s a off o.size) (o.instr p d a off).nwords)) ∧
  (∀ (op : AmoOp) (p : Pfx) (w64 : Bool) (d a b : Fin 32) (s : State), Begins s p → s.me.region = none →
    Full s (if op = .cas then [a, b, d] else [a, b]) →
    (s.me.rd a).toNat % (if w64 then 8 else 4) ≠ 0 →
    exec (amoInstr p w64 d a b op) s = .next (s.trap 5 (s.me.rd a) (amoInstr p w64 d a b op).nwords)) ∧
  (∀ (o : Posted) (p : Pfx) (a b : Fin 32) (s : State), Begins s p → s.me.region = none → Full s [a, b] →
    (s.me.rd a).toNat % o.size ≠ 0 → exec (o.instr p a b) s = .next (s.trap 5 (s.me.rd a) (o.instr p a b).nwords))

/-- R165, R169: a returning atomic or STC whose checks pass sends its operation to the home of the line and parks for the reply
under cause 1; one to another device leaves on a link (R376). A compare and swap also reads gD. -/
def Obligations.AtomicsIssue : Prop :=
  (∀ (op : AmoOp) (p : Pfx) (w64 : Bool) (d a b : Fin 32) (s : State) (acc : Acc), Outside s p →
    Full s (if op = .cas then [a, b, d] else [a, b]) → (s.me.rd a).toNat % (if w64 then 8 else 4) = 0 →
    s.check (s.me.tagOf a) (s.me.rd a).toNat (if w64 then 8 else 4) 2 false = .ok acc →
    let i := amoInstr p w64 d a b op
    exec i s = .next ((parked (acc.s.send acc.s.cur
      (.amo op w64 (s.me.rd a) acc.pa acc.key d (s.me.rd b) (s.me.rd d) s.me.rel)) 1 (.reply acc.s.nextId) (.finish [])
      i.nwords true).onPath acc (s.me.rd a))) ∧
  (∀ (p : Pfx) (d a : Fin 32) (off : Int) (s : State) (acc : Acc), Outside s p → Full s [a, d] →
    (ea s a off 8).toNat % 8 = 0 → s.check (s.me.tagOf a) (ea s a off 8).toNat 8 2 false = .ok acc →
    let i := Instr.stc p d a off
    exec i s = .next ((parked (acc.s.send acc.s.cur (.stc (ea s a off 8) acc.pa acc.key d (s.me.rd d) s.me.rel)) 1
      (.reply acc.s.nextId) (.finish []) i.nwords true).onPath acc (ea s a off 8)))

/-- R156, R165, R166, R169, R253, R255: the oldest entry of a core's store queue leaves it towards its home on the device, a store
one line at a time (R265); at the home a store's bytes take their place together. An atomic replaces its word there by the table's
value and answers the old one; a posted one does so, and only the thread of one to a local window awaits its answer; an STC whose
thread still holds the line's reservation unwritten stores and answers 0, and any other answers 1 and stores nothing; either way
the reservation is freed with the answer. Every other byte is as before. -/
def Obligations.AtHome : Prop :=
  (∀ (s : State) (id : Nat) (m : Msg) (op : AmoOp) (w64 : Bool) (va : Word) (pa key : Nat) (d : Fin 32) (b old : Word)
      (tag : Option RelTag),
    s.ev = some (.atomicAtHome id) → s.msg id = some m → m.kind = .amo op w64 va pa key d b old tag → HomeReady s m pa →
    s.poisonOf key pa (if w64 then 8 else 4) = none →
    let w := if w64 then 64 else 32
    let x := s.numAt key pa (w / 8)
    ∃ t, exec .atomicAtHome s = .next t ∧
      Wrote s t key (cellsAt pa (toBytes (w / 8) (amoMem op w x (b.toNat % 2 ^ w) (old.toNat % 2 ^ w)))) ∧
      Replied s t m.k m.id (.finish [.g d (amoOld op w x)])) ∧
  (∀ (s : State) (id : Nat) (m : Msg) (va : Word) (pa key : Nat) (d : Fin 32) (x : Word) (tag : Option RelTag),
    s.ev = some (.atomicAtHome id) → s.msg id = some m → m.kind = .stc va pa key d x tag → HomeReady s m pa →
    s.poisonOf key pa 8 = none →
    ∃ t, exec .atomicAtHome s = .next t ∧
      if (s.slot m.k).resv.any (fun r => r.line == pa / 64 && !r.written) then
        Wrote s t key (cellsAt pa (toBytes 8 x.toNat)) ∧
        Replied s t m.k m.id (.finish [.g d 0, .unresv (pa / 64)])
      else SameBytes s t ∧ Replied s t m.k m.id (.finish [.g d 1, .unresv (pa / 64)])) ∧
  (∀ (s : State) (c : Nat) (e : SqEntry) (rest : List SqEntry), s.ev = some (.storeQueueDepart c) → (s.core c).sq = e :: rest →
    devOfAddr e.pa = devOfCore c →
    let Leaves := fun (t : State) (x : SqEntry) (sq : List SqEntry) => exec .storeQueueDepart s = .next t ∧ (t.core c).sq = sq ∧
      t.net = s.net ++ [{ id := e.id, k := e.k, gen := e.gen, pid := e.pid, kind := .op x }] ∧ SameBytes s t ∧ ∀ k, t.slot k = s.slot k
    (e.op.isAtomic = true → ∃ t, Leaves t e rest) ∧
    ∀ cells, e.op = .store cells → cells ≠ [] → ∃ t line, line ∈ linesOf cells ∧
      let left := cells.filter fun x => x.1 / 64 != line
      Leaves t (e.part cells line) (if left = [] then rest else { e with id := e.id + 1, op := .store left } :: rest) ∧
      (e.part cells line).op = .store (cells.filter fun x => x.1 / 64 == line)) ∧
  (∀ (s : State) (id : Nat) (m : Msg) (e : SqEntry) (cells : List Host.Cell),
    s.ev = some (.storeOrderAtHome id) → s.msg id = some m → m.kind = .op e → e.op = .store cells →
    cells.Pairwise (fun c c' => c.1 ≠ c'.1) → s.mayWrite m = true → s.isMoved e.pid e.pa = false →
    ∃ t, exec .storeOrderAtHome s = .next t ∧ Wrote s t e.key cells ∧
      ∀ x ∈ t.net, ∀ e', x.id = id → x.kind ≠ .op e') ∧
  (∀ (s : State) (id : Nat) (m : Msg) (e : SqEntry), s.ev = some (.atomicAtHome id) → s.msg id = some m → m.kind = .op e →
    s.mayWrite m = true → s.isMoved e.pid e.pa = false → s.walled (clusterOf e.k) e.pid e.pa = false →
      s.poisonOf e.key e.pa e.op.size = none →
    ∃ t, exec .atomicAtHome s = .next t ∧ Replied s t m.k m.id (.finish []) ∧ (∀ x ∈ t.net, ∀ e', x.id = m.id → x.kind ≠ .op e') ∧
      (∀ op w64 pa b, e.op = .amop op w64 pa b →
        let w := if w64 then 64 else 32
        Wrote s t e.key (cellsAt e.pa (toBytes (w / 8) (amoMem op w (s.numAt e.key e.pa (w / 8)) (b.toNat % 2 ^ w) 0)))) ∧
      ∀ b16 pa b, e.op = .famo b16 pa b →
        Wrote s t e.key (cellsAt e.pa (if b16 then toBytes 2 (bf16.add .rn (s.numAt e.key e.pa 2) (b.toNat % 2 ^ 16)).1
          else toBytes 4 (fp32.add .rn (s.numAt e.key e.pa 4) (b.toNat % 2 ^ 32)).1)))

/-- R162, R168, R173: LDR is a load that arms a reservation on its line; LD.acq whose line bears no release found too narrow reads at
its scope's level, and its reply also drops the far lines; LDC reads the cluster's constant cache, filling it from the home where it
misses; CSYNC waits for the thread's stores and empties the cache. -/
def Obligations.OtherLoads : Prop :=
  (∀ (p : Pfx) (d a : Fin 32) (off : Int) (s : State) (acc : Acc), Outside s p → Full s [a] → (ea s a off 8).toNat % 8 = 0 →
    s.check (s.me.tagOf a) (ea s a off 8).toNat 8 1 false = .ok acc → LoadReady acc (ea s a off 8).toNat 8 →
    let i := Instr.ldr p d a off
    ∃ t, exec i s = .next t ∧ SameBytes s t ∧ t.me.resv = armResv s.me.resv (acc.pa / 64) acc.s.nextId ∧
      Finishes t i.nwords fun u => u.wr d (BitVec.ofNat 64 (ofBytes (acc.s.viewBytes (ea s a off 8).toNat acc 8)))) ∧
  (∀ (rs : List Resv) (line now : Nat), rs.Pairwise (fun r r' => r.i ≠ r'.i) →
    (∃ r ∈ armResv rs line now, r.line = line ∧ r.written = false) ∧
    ∀ r ∈ rs, r.line ≠ line → r ∈ armResv rs line now ∨
      (∀ i : Fin 8, ∃ r' ∈ rs, r'.i = i) ∧ ∀ r' ∈ rs, r.armed ≤ r'.armed) ∧
  (∀ (p : Pfx) (sc : Scope) (sz : Sz) (d a : Fin 32) (off : Int) (s : State) (acc : Acc) (i : ScopeInst), Outside s p →
    Full s [a] → (ea s a off sz.bytes).toNat % sz.bytes = 0 →
    s.check (s.me.tagOf a) (ea s a off sz.bytes).toNat sz.bytes 1 false = .ok acc → s.scopeInst s.cur sc = some i →
    acc.s.tooNarrow s.cur (acc.pa / 64) i = none →
    (acc.s.readsHome i = true → acc.s.opsAhead s.cur (ea s a off sz.bytes).toNat (acc.pa / 64) true = false) →
    let s0 := acc.s.modMe fun t => { t with rel := none }
    let s1 := if s0.readsHome i then s0.readPast s.myCore (acc.pa / 64) else s0
    LoadReady { acc with s := s1 } (ea s a off sz.bytes).toNat sz.bytes →
    let x := Instr.ldAcq p sc sz d a off
    let v := extend false sz.bytes (ofBytes (s1.viewBytes (ea s a off sz.bytes).toNat acc sz.bytes))
    ∃ t, exec x s = .next t ∧ SameBytes s t ∧ t.me.rel = none ∧
      Resumes t (retired (acquired { t with ev := some (.parkedResume t.cur) } (s.levelOf s.myCore i)) x.nwords fun u => u.wr d v)) ∧
  (∀ (p : Pfx) (d a : Fin 32) (off : Int) (s : State) (acc : Acc), Outside s p → Full s [a] → (ea s a off 8).toNat % 8 = 0 →
    s.check (s.me.tagOf a) (ea s a off 8).toNat 8 1 false = .ok acc →
    let i := Instr.ldc p d a off
    let va := (ea s a off 8).toNat
    (∀ l, acc.s.konstFind acc = some l → l.bad = false →
      let x := BitVec.ofNat 64 (l.data.toNat / 2 ^ (8 * (acc.pa % 64)))
      let t := parked (acc.s.konstFor (hintsOf p) va acc) 1 (acc.s.konstWait acc) (.finish [.g d x]) i.nwords false
      exec i s = .next t ∧ SameBytes s t ∧ Finishes t i.nwords fun u => u.wr d x) ∧
    (acc.s.konstFind acc = none → acc.s.poisonOf acc.key acc.pa 8 = none → acc.s.isMoved acc.s.myPid acc.pa = false →
      acc.s.mayReach acc.s.myCluster acc.pa = true →
      let x := BitVec.ofNat 64 (acc.s.numAt acc.key acc.pa 8)
      ∃ t, exec i s = .next t ∧ SameBytes s t ∧ Finishes t i.nwords (fun u => u.wr d x) ∧
        (isLocalWin (localOfAddr acc.pa) = false →
          ∃ l, t.konstFind acc = some l ∧ l.data = BitVec.ofNat 512 (acc.s.numAt acc.key (acc.pa / 64 * 64) 64)))) ∧
  (∀ (p : Pfx) (s : State), Outside s p →
    (s.allHome s.cur = true → ∃ t, exec (.csync p) s = .next t ∧ (t.cluster s.myCluster).konst = [] ∧
      t = retired (s.modCluster s.myCluster fun x => { x with konst := [] }) (Instr.csync p).nwords id) ∧
    (s.allHome s.cur = false →
      exec (.csync p) s = .next (parked s 10 (.fence 6 false) .reissue (Instr.csync p).nwords false)))

/-- R90, R92, R160: LDL and STL of the own core act at once, of another core of the cluster with the reply 14 clocks later; no
line that a load reads is bad (R111). A load changes no byte; a store writes its bytes and fills their words. -/
def Obligations.LocalLoadsAndStores : Prop :=
  (∀ (i : Instr) (p : Pfx) (m : LMode) (d a : Fin 32) (off : Int) (n : Nat) (sg : Bool) (s : State),
    (∃ f : Fin 8, i = .ldl p m d a f ∧ off = f.val ∧ n = 8 ∧ sg = false) ∨
      (∃ sz : Sz, i = .ldlLong p m sg sz d a off ∧ n = sz.bytes) →
    Outside s p → Full s [a] → (ea s a off n).toNat % n = 0 →
    let la := (ea s a off n).toNat
    let x := fun (s : State) => extend sg n (s.plainAt (s.lmPa m la) n)
    s.poisonOf 0 (s.lmPa m la) n = none →
    if s.lmOwn m la then exec i s = .next (retired s i.nwords fun t => learned s (t.wr d (x s)))
    else ∃ t, exec i s = .next t ∧ t = parked s 1 (.time (s.clock + 14)) (.finish [.lmGet d (ea s a off n) (s.lmPa m la) n sg])
        i.nwords false ∧
      Finishes t i.nwords fun u => learned t (u.wr d (x t))) ∧
  (∀ (i : Instr) (p : Pfx) (m : LMode) (d a : Fin 32) (off : Int) (n : Nat) (s : State),
    (∃ f : Fin 8, i = .stl p m d a f ∧ off = f.val ∧ n = 8) ∨ (∃ sz : Sz, i = .stlLong p m sz d a off ∧ n = sz.bytes) →
    Outside s p → Full s [a, d] → (ea s a off n).toNat % n = 0 →
    let la := (ea s a off n).toNat
    let cells := cellsAt (s.lmPa m la) (toBytes n (s.me.rd d).toNat)
    if s.lmOwn m la then ∃ t, exec i s = .next t ∧ Done s t i.nwords ∧ Stored s t cells ∧ ∀ c ∈ cells, t.wordFull c.1 = true
    else ∃ t u, exec i s = .next t ∧ t = parked s 1 (.time (s.clock + 14)) (.finish [.lmPut cells s.me.rel]) i.nwords false ∧
      Resumes t u ∧ Done s u i.nwords ∧ Stored t u cells ∧ ∀ c ∈ cells, u.wordFull c.1 = true)

/-- R94, R161: a full/empty operation of the own core in the right state acts at once, leaving its word full or empty; otherwise it
enters its bank's list under cause 1 or 3. SETE sets the bit and moves no data. -/
def Obligations.FullEmptyOperations : Prop :=
  (∀ (f : Fe) (p : Pfx) (m : LMode) (d a : Fin 32) (off : Int) (s : State), Outside s p →
    Full s (if f.stores then [a, d] else [a]) → (ea s a off 8).toNat % 8 = 0 →
    let i := f.instr p m d a off
    let la := (ea s a off 8).toNat
    let pa := s.lmPa m la
    let cells := cellsAt pa (toBytes 8 (s.me.rd d).toNat)
    (f.stores = false → s.poisonOf 0 pa 8 = none) →
    if s.wordFull pa = f.wants ∧ s.lmOwn m la = true then
      ∃ t, exec i s = .next t ∧ t.wordFull pa = f.leaves ∧ SameFullBut s t [pa] ∧
        if f.stores then Stored s t cells ∧ Done s t i.nwords
        else SameBytes s t ∧
          t.me = endAt (learned s (s.me.wr d (BitVec.ofNat 64 (s.plainAt pa 8)))) (s.me.pc + BitVec.ofNat 64 (2 * i.nwords))
    else
      let b : BankWait := { word := pa / 8, full := f.wants, k := s.cur, d := d, la := ea s a off 8,
                            store := if f.stores then some (s.me.rd d) else none, leave := f.leaves, tag := s.me.rel }
      exec i s = .next (parked (s.modCluster s.myCluster fun c => { c with bank := c.bank ++ [b] })
        (if s.wordFull pa = f.wants then 1 else 3) (.bank (pa / 8) f.wants) (.finish []) i.nwords false)) ∧
  (∀ (full : Bool) (p : Pfx) (m : LMode) (a : Fin 32) (off : Int) (s : State), Outside s p → Full s [a] →
    (ea s a off 8).toNat % 8 = 0 →
    let i := if full then Instr.seteF p m a off else .seteE p m a off
    let la := (ea s a off 8).toNat
    let pa := s.lmPa m la
    if s.lmOwn m la then ∃ t, exec i s = .next t ∧ t.wordFull pa = full ∧ SameFullBut s t [pa] ∧ SameBytes s t ∧ Done s t i.nwords
    else ∃ t u, exec i s = .next t ∧ t = parked s 1 (.time (s.clock + 14)) (.finish [.lmSet pa full]) i.nwords false ∧
      Resumes t u ∧ u.wordFull pa = full ∧ SameFullBut t u [pa] ∧ SameBytes t u ∧ Done s u i.nwords)

/-- R204, R205, R265: VLD reads the lanes of its mask from memory, virtual or local, VST writes them, and VGATHER reads one element a
lane; the other lanes, and every byte that no lane of the mask names, are as before. A load of virtual memory is read by pieces: those
that the L1 holds at once, the others each on its own, the last of which completes it. A local access of another core, or of an
interleaved address, is performed by its 8-byte words, one of a window by its lines, each on its own. The model's choices: at the own
core the words of a local access are performed together, and a window access takes no entry of the store queue (log 23); which piece
comes next is the oracle's next choice (log 46). -/
def Obligations.VectorMemory : Prop :=
  (∀ (p : Pfx) (m : Fin 4) (d : Fin 16) (a : Fin 32) (off : Int) (s : State) (acc : Acc), Outside s p → s.seqRuns = false →
    Full s [a] → (ea s a off 128).toNat % 128 = 0 →
    (onUnit s).check (s.me.tagOf a) (ea s a off 128).toNat 128 1 false = .ok acc →
    let i := Instr.vld p .virt m d a off
    let va := (ea s a off 128).toNat
    let ps := vldPieces va acc (s.me.mask m) (hintsOf p).nt
    let u := acc.s.fillNext (hintsOf p) va acc 128
    (∀ q ∈ ps, acc.s.loadHeld q.va q.pa q.len = false) → (∀ q ∈ ps, u.pieceHit q = true → u.pieceBad q = none) →
    ∃ t v, exec i s = .next t ∧ SameBytes s t ∧
      (∀ j, j < 32 → laneOf v j = pieceLane u (ps.filter u.pieceHit) d j) ∧
      ((∀ q ∈ ps, u.pieceHit q = true) → Finishes t i.nwords (fun x => x.wrV d v) ∧
        ∀ j, j < 32 → laneOf v j = if (s.me.mask m).getLsbD j then
          ofBytes (u.viewBytes va acc 128) / 2 ^ (32 * j) % 2 ^ 32 else laneOf (s.me.rdV d) j) ∧
      ∀ q ∈ ps, u.pieceHit q = false →
        t.me.park.map (fun x => { x with via := [] }) = some (parkNow s 1 (.pieces (ps.filter fun q => !u.pieceHit q) d) (.finish [.v d v]) i.nwords false)) ∧
  (∀ (s : State) (k : Nat) (q : Park) (ps : List Piece) (r : Fin 16) (v : BitVec 1024) (x : Piece), s.ev = some (.parkEvent k) →
    (s.slot k).park = some q → q.arrived = false → q.wait = .pieces ps r → q.rest = .finish [.v r v] →
    let u := { s.choose.2 with cur := k }
    ps[s.choose.1 % ps.length]? = some x → (u.pieceHit x = true ∨ u.isMoved u.myPid x.pa = false) → u.pieceBad x = none →
    let left := ps.eraseIdx (s.choose.1 % ps.length)
    ∃ t, exec .parkEvent s = .next t ∧ SameBytes s t ∧
      (t.slot k).park = some { q with wait := if left = [] then s.replyWait (coreOf k) else .pieces left r,
                                      rest := .finish [.v r (x.put (u.viewBytes x.va (x.acc u) x.len) v)] }) ∧
  (∀ (p : Pfx) (mode : LMode) (m : Fin 4) (d : Fin 16) (a : Fin 32) (off : Int) (s : State), Outside s p → s.seqRuns = false →
    Full s [a] → (ea s a off 128).toNat % 128 = 0 →
    let i := Instr.vld p (.lm mode) m d a off
    let la := (ea s a off 128).toNat
    let Lanes := fun (v : BitVec 1024) => ∀ j, j < 32 → laneOf v j = if (s.me.mask m).getLsbD j then
      s.plainAt (s.lmPa mode (la + 4 * j)) 4 else laneOf (s.me.rdV d) j
    (∀ j, j < 32 → (s.me.mask m).getLsbD j = true → s.poisonOf 0 (s.lmPa mode (la + 4 * j)) 4 = none) →
    if mode ≠ .ilv ∧ s.lmOwn mode la = true then
      ∃ v, exec i s = .next (retired (onUnit s) i.nwords fun u =>
        if s.me.mask m = 0 then u.wrV d v else learned s (u.wrV d v)) ∧ Lanes v
    else exec i s = .next (parked (onUnit s) 1 (partsWait (some (s.clock + 14))
      (lmLoads d (ea s a off 128) (s.me.mask m) ((List.range 32).map fun j => s.lmPa mode (la + 4 * j)))) (.finish []) i.nwords false)) ∧
  (∀ (p : Pfx) (m : Fin 4) (d : Fin 16) (a : Fin 32) (off : Int) (s : State) (acc : Acc), Outside s p → s.seqRuns = false →
    Full s [a] → (ea s a off 128).toNat % 128 = 0 →
    (onUnit s).check (s.me.tagOf a) (ea s a off 128).toNat 128 2 true = .ok acc → acc.window = false → HasRoom acc.s →
    let i := Instr.vst p .virt m d a off
    let cells := laneCells (s.me.rdV d) (s.me.mask m) fun j => acc.pa + 4 * j
    ∃ t, exec i s = .next t ∧ SameBytes s t ∧
      t = retired (queued acc.s (entryOf acc.s (ea s a off 128) acc (.store cells) s.me.rel) acc.remote) i.nwords id) ∧
  (∀ (p : Pfx) (m : Fin 4) (d : Fin 16) (a : Fin 32) (off : Int) (s : State) (acc : Acc), Outside s p → s.seqRuns = false →
    Full s [a] → (ea s a off 128).toNat % 128 = 0 →
    (onUnit s).check (s.me.tagOf a) (ea s a off 128).toNat 128 2 true = .ok acc → acc.window = true → HasRoom acc.s →
    let i := Instr.vst p .virt m d a off
    let cells := laneCells (s.me.rdV d) (s.me.mask m) fun j => acc.pa + 4 * j
    WindowReady acc cells →
    exec i s = .next (parked acc.s 1 (partsWait none (lmStores 64 cells acc.s.me.rel)) (.finish []) i.nwords false)) ∧
  (∀ (p : Pfx) (mode : LMode) (m : Fin 4) (d : Fin 16) (a : Fin 32) (off : Int) (s : State), Outside s p → s.seqRuns = false →
    Full s [a] → (ea s a off 128).toNat % 128 = 0 →
    let i := Instr.vst p (.lm mode) m d a off
    let la := (ea s a off 128).toNat
    let cells := laneCells (s.me.rdV d) (s.me.mask m) fun j => s.lmPa mode (la + 4 * j)
    if mode ≠ .ilv ∧ s.lmOwn mode la = true then
      ∃ t, exec i s = .next t ∧ Done s t i.nwords ∧ Stored s t cells ∧ ∀ c ∈ cells, t.wordFull c.1 = true
    else exec i s = .next (parked (onUnit s) 1 (partsWait (some (s.clock + 14)) (lmStores 8 cells s.me.rel)) (.finish [])
      i.nwords false)) ∧
  (∀ (s : State) (k : Nat) (q : Park) (at_ : Option Nat) (ws : List Wr) (w : Wr), s.ev = some (.parkEvent k) →
    (s.slot k).park = some q → q.arrived = false → q.wait = .words at_ ws → (∀ e, at_ = some e → s.clock ≤ e) →
    ws[s.choose.1 % ws.length]? = some w → s.choose.2.wrBad w = none →
    let on := partsWait at_ (ws.eraseIdx (s.choose.1 % ws.length))
    ∃ t, exec .parkEvent s = .next t ∧
      (∀ r la mask pas l, w = .lmGetV r la mask pas → q.rest = .finish l → SameBytes s t ∧ ∃ v : BitVec 1024,
        (t.slot k).park = some { q with wait := on, rest := .finish (l ++ [.vmerge r mask v]) } ∧
        ∀ j a, j < 32 → pas[j]? = some a → laneOf v j = s.plainAt a 4) ∧
      ∀ cells tag, w = .lmPut cells tag → cells.Pairwise (fun c c' => c.1 ≠ c'.1) →
        (∀ c ∈ cells, isDram (localOfAddr c.1) = false) → Stored s t cells ∧ (t.slot k).park = some { q with wait := on }) ∧
  (∀ (p : Pfx) (ty : VTy) (d : Fin 16) (a : Fin 32) (b : Fin 16) (m : Fin 4) (s g : State) (ps : List Piece), Outside s p →
    s.seqRuns = false → Full s [a] →
    gather (s.me.tagOf a) (s.me.rd a) (s.me.rdV b) (hintsOf p).nt (lanesOn (s.me.mask m)) [] (onUnit s) = .inr (ps, g) →
    (∀ q ∈ ps, g.pieceHit q = true → g.pieceBad q = none) →
    let i := Instr.vgather p ty d a b m
    (ps.map fun q => (q.va, q.len, q.at_, q.lanes)) = (lanesOn (s.me.mask m)).map (fun j =>
      ((s.me.rd a + signExtend 4 (laneOf (s.me.rdV b) j) * 4).toNat, 4, 4 * j, BitVec.ofNat 32 (2 ^ j))) ∧
    if s.me.mask m = 0 then exec i s = .next (retired g i.nwords id)
    else ∃ t v, exec i s = .next t ∧ SameBytes s t ∧
      (∀ j, j < 32 → laneOf v j = pieceLane g (ps.filter g.pieceHit) d j) ∧
      ((∀ q ∈ ps, g.pieceHit q = true) → Finishes t i.nwords fun u => u.wrV d v) ∧
      ∀ q ∈ ps, g.pieceHit q = false →
        t.me.park.map (fun x => { x with via := [] }) = some (parkNow s 1 (.pieces (ps.filter fun q => !g.pieceHit q) d) (.finish [.v d v]) i.nwords false))

/-- R172-R174, R258-R261: a fence whose scope is valid and whose waits are met drops what its acquire drops and marks what follows
as its release, an unmet one parks under cause 10; ST.rel waits as a release does and tags its store. R159: with a remote fault
record pending, a fence, FENCE.POST and ST.rel wait for the lane to be answered and then trap with cause 0x0E, the record in the
frame. The model's choices and readings: an acquiring fence parks until the invalidations that its thread has learned of are
delivered (`seen`, log 45: DEDUCED); ST.rel to a local window takes no entry of the store queue, and its bytes are written when
its park ends (log 23). -/
def Obligations.FencesAndReleases : Prop :=
  (∀ (x : Instr) (w vis acq rel : Bool) (p : Pfx) (sc : Scope) (i : ScopeInst) (s : State),
    (x, w, vis, acq, rel) ∈ [(Instr.fenceAcq p sc, false, false, true, false), (.fenceRel p sc, true, false, false, true),
      (.fenceAr p sc, true, false, true, true), (.fenceSc p sc, true, true, true, true)] →
    Outside s p → s.scopeInst s.cur sc = some i → NoRecords s →
    let lv := s.levelOf s.myCore i
    if w = true ∧ s.fenceMet s.cur lv vis = false then exec x s = .next (parked s 10 (.fence lv vis) .reissue x.nwords false)
    else if acq = true ∧ 3 ≤ lv ∧ s.clock ≤ s.me.seen then exec x s = .next (parked s 10 (.time s.me.seen) .reissue x.nwords false)
    else exec x s = .next (retired (if acq then acquired s lv else s) x.nwords fun t =>
      { t with rel := if rel then some (s.relTag i) else none })) ∧
  (∀ (x : Instr) (p : Pfx) (sc : Scope) (i : ScopeInst) (s : State),
    x ∈ [Instr.fenceAcq p sc, .fenceRel p sc, .fenceAr p sc, .fenceSc p sc] → Begins s p → s.me.region = none →
    s.scopeInst s.cur sc = some i → FaultFirst x s s) ∧
  (∀ (p : Pfx) (s : State), Begins s p → s.me.region = none → s.postedAnswered s.cur = true → s.recComing s.cur = false →
    FaultFirst (.fencePost p) s s) ∧
  (∀ (p : Pfx) (sc : Scope) (sz : Sz) (d a : Fin 32) (off : Int) (s : State) (acc : Acc) (i : ScopeInst), Begins s p →
    s.me.region = none → Full s [a, d] → (ea s a off sz.bytes).toNat % sz.bytes = 0 →
    s.check (s.me.tagOf a) (ea s a off sz.bytes).toNat sz.bytes 2 true = .ok acc → s.scopeInst s.cur sc = some i →
    FaultFirst (.stRel p sc sz d a off) s acc.s) ∧
  (∀ (p : Pfx) (s : State), Outside s p →
    (s.postedAnswered s.cur = true → s.recComing s.cur = false → NoRecords s →
      exec (.fencePost p) s = .next (retired s (Instr.fencePost p).nwords fun t => { t with rel := none })) ∧
    (s.postedAnswered s.cur = false ∨ s.recComing s.cur = true →
      exec (.fencePost p) s = .next (parked s 10 .posted .reissue (Instr.fencePost p).nwords false))) ∧
  (∀ (p : Pfx) (sc : Scope) (sz : Sz) (d a : Fin 32) (off : Int) (s : State) (acc : Acc) (i : ScopeInst), Outside s p →
    Full s [a, d] → (ea s a off sz.bytes).toNat % sz.bytes = 0 →
    s.check (s.me.tagOf a) (ea s a off sz.bytes).toNat sz.bytes 2 true = .ok acc → s.scopeInst s.cur sc = some i →
    NoRecords s → acc.s.performedAt s.cur (s.levelOf s.myCore i) = true → HasRoom acc.s →
    let x := Instr.stRel p sc sz d a off
    let s1 := acc.s.modMe fun t => { t with rel := none }
    let cells := cellsAt acc.pa (toBytes sz.bytes (s.me.rd d).toNat)
    (acc.window = false → exec x s = .next (retired (queued s1 (entryOf s1 (ea s a off sz.bytes) acc (.store cells)
      (some (s.relTag i))) acc.remote) x.nwords id)) ∧
    (acc.window = true → WindowReady { acc with s := s1 } cells →
      exec x s = .next (parked s1 1 .latency (.finish [.lmPut cells (some (s.relTag i))]) x.nwords false)))

/-- R163, R164, R170, R175: REMPTY empties a register; FILL sends its value to a slot of its own partition or answers 0x08,
and traps with cause 0x18 where no route leads there (R375); WAITRS
ends at once where a slot is written or none is armed, and empties the set; SCOPEDEF enters a descriptor in the table. -/
def Obligations.RegistersAndScopes : Prop :=
  (∀ (p : Pfx) (d : Fin 32) (s : State), Outside s p →
    exec (.rempty p d) s = .next (retired s (Instr.rempty p d).nwords fun t =>
      t.setReg d { val := t.rd d, full := false, tag := none })) ∧
  (∀ (p : Pfx) (r d a b : Fin 32) (s : State), Outside s p → Full s [a, b] →
    let i := Instr.fill p r d a b
    (s.fillTarget (s.me.rd a) = none → exec i s = .next (retired s i.nwords fun t => t.wr d 8)) ∧
    (∀ k, s.fillTarget (s.me.rd a) = some k →
      (s.routeUp s.myDev (devOfSlot k) = true →
        exec i s = .next ((parked (s.send s.cur (.fill (s.me.rd a) r (s.me.rd b) (some d) none)) 1 (.reply s.nextId)
          (.finish [.g d 0]) i.nwords false).onPath
            { pa := 0, key := 0, dev := devOfSlot k, remote := devOfSlot k ≠ s.myDev, s := s } 0)) ∧
      (s.routeUp s.myDev (devOfSlot k) = false → exec i s = .next (s.trap 0x18 0 i.nwords)))) ∧
  (∀ (p : Pfx) (d a : Fin 32) (s : State), Outside s p → Full s [a] →
    let i := Instr.waitrs p d a
    ((s.me.resv = [] ∨ ∃ r ∈ s.me.resv, r.written = true) →
      ∃ t x, exec i s = .next t ∧ t = retired s i.nwords (fun u => { u with resv := [] }.wr d x) ∧
        ∀ j : Fin 8, x.getLsbD j = decide (∃ r ∈ s.me.resv, r.written = true ∧ r.i = j)) ∧
    (s.me.resv ≠ [] → (∀ r ∈ s.me.resv, r.written = false) →
      exec i s = .next (parked s 4 (.resv (if s.me.rd a = 0 then none else some (s.clock + (s.me.rd a).toNat)) d) (.finish [])
        i.nwords false))) ∧
  (∀ (p : Pfx) (d a : Fin 32) (s s' : State) (bs : List Byte), Outside s p → Full s [a] → (s.me.rd a).toNat % 64 = 0 →
    Reads s (s.me.tagOf a) (s.me.rd a) 256 bs s' →
    let i := Instr.scopedef p d a
    let r := s'.defineScope s.myPid (ofBytes bs)
    let w := r.2.replyWait r.2.myCore
    exec i s = .next (parked r.2 1 w (.finish [.g d r.1]) i.nwords true) ∧
    Finishes (parked r.2 1 w (.finish [.g d r.1]) i.nwords true) i.nwords fun u => u.wr d r.1)

/-- R176, R177, R279: the barrier operations that write send their operation to the record's home and park for the reply, an arrival
once its release is performed; a wait goes on when the phase differs, as an acquire, and parks under cause 5 while it is the same. The
model's reading (log 45: DEDUCED): a wait whose phase differs ends once the invalidations on their way then are delivered. -/
def Obligations.BarriersIssue : Prop :=
  ∀ (p : Pfx) (sc : Scope) (d a b : Fin 32) (s : State) (acc : Acc), Outside s p → Full s [a] →
    (s.me.rd a).toNat % 16 = 0 → s.check (s.me.tagOf a) (s.me.rd a).toNat 16 2 false = .ok acc →
    let sent := fun (x : Instr) (o : BarOp) (tag : Option RelTag) (acq : Option ScopeInst) =>
      exec x s = .next (((parked (acc.s.send s.cur (.bar (s.me.rd a) acc.pa acc.key o tag acq)) 1 (.reply acc.s.nextId) (.finish [])
        x.nwords true).onPath acc (s.me.rd a)).modMe fun t => { t with src := some acc.s.me.regs })
    (Full s [b] → sent (.barInit p a b) (.init (s.me.rd b)) s.me.rel none) ∧
    ∀ i, s.scopeInst s.cur sc = some i →
      (Full s [b] → sent (.barTest p sc d a b) (.test d (s.me.rd b)) none (some i)) ∧
      (acc.s.performedAt s.cur (s.levelOf s.myCore i) = true →
        sent (.barArrive p sc d a) (.arrive d false) (some (s.relTag i)) none ∧
        (s.me.arrv = false → sent (.barAw p sc d a) (.arrive d true) (some (s.relTag i)) none)) ∧
      let waits := fun (x : Instr) (old : Word) (ws : List Wr) (f : Slot → Slot) =>
        acc.s.isMoved s.myPid acc.pa = false → acc.s.opsAhead s.cur (s.me.rd a).toNat (acc.pa / 64) false = false →
        acc.s.poisonOf acc.key acc.pa 16 = none →
        (acc.s.barPhase acc.key acc.pa ≠ old → acc.s.tooNarrow s.cur (acc.pa / 64) i = none →
          if acc.s.clock ≤ acc.s.quiet s.myCore then
            exec x s = .next (parked acc.s 5 (.time (acc.s.quiet s.myCore)) (.finish (acqWr (s.levelOf s.myCore i) ++ ws))
              x.nwords false)
          else exec x s = .next (retired (acquired acc.s (s.levelOf s.myCore i)) x.nwords f)) ∧
        (acc.s.barPhase acc.key acc.pa = old →
          exec x s = .next (parked acc.s 5 (.barrier (s.me.rd a) acc.pa old) .reissue x.nwords false))
      (Full s [b] → waits (.barWait p sc a b) (s.me.rd b) [] id) ∧
      (s.me.arrv = true → Full s [d] → waits (.barAw p sc d a) (s.me.rd d) [.arrv false] fun t => { t with arrv := false })

/-- R176, R177: at its home BAR.init writes the count and clears the rest; an arrival counts, and the last one clears the arrivals and
advances the phase; BAR.test compares the phase; each answers its thread. -/
def Obligations.BarriersAtHome : Prop :=
  ∀ (s : State) (id : Nat) (m : Msg) (va : Word) (pa key : Nat) (o : BarOp) (tag : Option RelTag) (acq : Option ScopeInst),
    s.ev = some (.barrierAtHome id) → s.msg id = some m → m.kind = .bar va pa key o tag acq → HomeReady s m pa →
    s.poisonOf key pa 16 = none →
    let n := s.numAt key pa 4
    let arr := s.numAt key (pa + 4) 4
    let ph := s.numAt key (pa + 8) 8
    let Writes := fun (t : State) (n arr ph : Nat) =>
      Wrote s t key (cellsAt pa (toBytes 4 n ++ toBytes 4 arr ++ toBytes 8 ph))
    let Counts := fun (t : State) => if n ≤ arr + 1 then Writes t n 0 (ph + 1) else Writes t n (arr + 1) ph
    ∃ t, exec .barrierAtHome s = .next t ∧
      (∀ b, o = .init b → Writes t (b.toNat % 2 ^ 32) 0 0 ∧ Replied s t m.k m.id (.finish [])) ∧
      (∀ d, o = .arrive d false → Counts t ∧ Replied s t m.k m.id (.finish [.g d (BitVec.ofNat 64 ph)])) ∧
      (∀ d q, o = .arrive d true → (s.slot m.k).park = some q → q.wait = .reply m.id → Counts t ∧
        t.slot m.k = { (s.slot m.k).wr d (BitVec.ofNat 64 ph) with
          arrv := true, src := (s.slot m.k).src.map (fun g => if d = 0 then g else g.set d (GReg.of (BitVec.ofNat 64 ph))),
          park := some { q with wait := s.replyWait (coreOf m.k), rest := .reissue, via := [] }, resv := (t.slot m.k).resv }) ∧
      (∀ d b, o = .test d b → SameBytes s t ∧
        (ph = b.toNat → Replied s t m.k m.id (.finish [.g d 0])) ∧
        (ph ≠ b.toNat → acq = none → Replied s t m.k m.id (.finish [.g d 1])) ∧
        (∀ i, ph ≠ b.toNat → acq = some i → (s.drop m.id).tooNarrow m.k (pa / 64) i = none →
          Replied s t m.k m.id (.finish (.g d 1 :: acqWr (s.levelOf (coreOf m.k) i)))))

/-- R183, R206, R229, R250: an abort restores the registers, predicates and domain return records of the begin, writes the code to
gD, goes to the handler, and leaves nothing of the region in its die or on the network; memory and every other slot are as before. An
instruction that regions do not permit aborts an open one with code 6, and has no other effect; no trap is taken. -/
def Obligations.RegionAborts : Prop :=
  (∀ (s : State) (k code : Nat) (r : Region), (s.slot k).region = some r →
    let t := s.abort k code
    let die := t.die (dieOf (clusterOf k))
    t.slot k = abortedSlot s k code r (s.slot k) ∧ (∀ k', k' ≠ k → t.slot k' = s.slot k') ∧ SameBytes s t ∧
    (∀ l ∈ die.lines, r.id ∉ l.readers ∧ r.id ∉ l.writers) ∧ (∀ e ∈ die.edges, e.r1 ≠ r.id ∧ e.r2 ≠ r.id) ∧
    (∀ m ∈ t.net, ∀ line key lo hi acc, m.kind ≠ .region r.id line key lo hi acc) ∧ die.token ≠ some k ∧ die.turnOf ≠ some k) ∧
  (∀ (i : Instr) (p : Pfx) (s : State), pfxOf i = some p → permitted i = false → Plain s p → s.me.region.isSome = true →
    exec i s = .next (s.abort s.cur 6))

/-- R178, R182, R185: EBEGIN opens a region, serial where the streak is 4 and the die's token is held; ECOMMIT parks under cause 13;
EABORT aborts with code 5; EBND and EPOS read the bounds and the last position. Outside a region ECOMMIT and EABORT trap. -/
def Obligations.RegionInstructions : Prop :=
  (∀ (p : Pfx) (d : Fin 32) (imm : Int) (s s1 : State) (e : TlbEnt), Outside s p →
    let i := Instr.ebegin p d imm
    let h := s.me.pc + BitVec.ofInt 64 (2 * imm)
    let ser := decide (s.me.streak = 4)
    let cc := (s.die s.myDie).cc
    s.fetchPage s.myCore s.me.asid.toNat h.toNat s.me.cls.toNat = .ok (e, s1) → e.dom = s.me.dom → e.cls = s.me.cls →
    if ser = true ∧ (s.die s.myDie).token ≠ some s.cur then
      ∃ t, exec i s = .next t ∧ s.cur ∈ (t.die s.myDie).tokenQ ∧ t.me.region = none ∧
        t.me.park = some (parkNow s 1 .token .reissue i.nwords false)
    else exec i s = .next (retired { s1 with nextId := s1.nextId + 1 } i.nwords fun t =>
      { t with region := some { id := s1.nextId, serial := ser, h := h, gd := d, g := t.g, p := t.p, drs := t.drs, dom := t.dom,
                                cls := t.cls, writes := [], wlines := [], wvas := [], rlines := [], out := 0 },
               eblo := cc, ebhi := if ser then 2 ^ 48 - 1 else min (cc + t.k.ewin.toNat) (2 ^ 48 - 1),
               streak := if ser then 0 else t.streak })) ∧
  (∀ (p : Pfx) (s : State) (r : Region), Plain s p → s.me.region = some r →
    let t := parked s 0xD .answers (.finish []) (Instr.ecommit p).nwords false
    exec (.ecommit p) s = .next t ∧ Finishes t (Instr.ecommit p).nwords id ∧
    exec (.eabort p) s = .next (s.abort s.cur 5)) ∧
  (∀ (p : Pfx) (s : State), Plain s p → s.me.region = none →
    exec (.ecommit p) s = .next (s.trap 0x15 0 (Instr.ecommit p).nwords) ∧
    exec (.eabort p) s = .next (s.trap 0x15 0 (Instr.eabort p).nwords)) ∧
  (∀ (p : Pfx) (d a : Fin 32) (s : State), Plain s p →
    exec (.ebnd p d a) s = .next (retired s (Instr.ebnd p d a).nwords fun t =>
      (t.wr d (BitVec.ofNat 64 t.eblo)).wr a (BitVec.ofNat 64 t.ebhi)) ∧
    exec (.epos p d) s = .next (retired s (Instr.epos p d).nwords fun t => t.wr d (BitVec.ofNat 64 t.lastF)))

/-- R179, R206, R300: in a region a load sends its access with the bounds to the line's home slice and parks for the answer; a store,
scalar or VST of virtual memory, is buffered; a line of another die aborts with code 3, one past the capacity with code 2; a router
that refuses a store traps it; a VST with no lane set makes no access. No byte of memory changes. -/
def Obligations.RegionAccesses : Prop :=
  (∀ (o : Ld) (p : Pfx) (d a : Fin 32) (off : Int) (s : State) (acc : Acc) (r : Region), Plain s p → s.me.region = some r →
    Full s [a] → (ea s a off o.size).toNat % o.size = 0 →
    s.check (s.me.tagOf a) (ea s a off o.size).toNat o.size 1 false = .ok acc →
    let i := o.instr p d a off
    let u := acc.s.fillNext (hintsOf p) (ea s a off o.size).toNat acc o.size
    let lines := addNew (acc.pa / 64) r.rlines
    (acc.s.onDie acc = true → lines.length ≤ 2048 →
      exec i s = .next (parked ((u.modRegion s.cur fun x => { x with rlines := lines, out := x.out + 1 }).send s.cur
        (.region r.id (acc.pa / 64) acc.key s.me.eblo s.me.ebhi (.read d (ea s a off o.size) acc.pa o.size o.signed)))
        1 (.reply acc.s.nextId) (.finish []) i.nwords false)) ∧
    (acc.s.onDie acc = false → exec i s = .next (u.abort s.cur 3)) ∧
    (acc.s.onDie acc = true → 2048 < lines.length → exec i s = .next (u.abort s.cur 2))) ∧
  (∀ (o : St) (p : Pfx) (d a : Fin 32) (off : Int) (s : State) (acc : Acc) (r : Region), Plain s p → s.me.region = some r →
    Full s [a, d] → (ea s a off o.size).toNat % o.size = 0 →
    s.check (s.me.tagOf a) (ea s a off o.size).toNat o.size 2 true = .ok acc →
    RegionStore s (o.instr p d a off) acc r (ea s a off o.size) (cellsAt acc.pa (toBytes o.size (s.me.rd d).toNat))) ∧
  (∀ (p : Pfx) (m : Fin 4) (d : Fin 16) (a : Fin 32) (off : Int) (s : State) (acc : Acc) (r : Region), Plain s p →
    s.me.region = some r → s.seqRuns = false → Full s [a] → (ea s a off 128).toNat % 128 = 0 →
    (onUnit s).check (s.me.tagOf a) (ea s a off 128).toNat 128 2 true = .ok acc →
    let i := Instr.vst p .virt m d a off
    let cells := laneCells (s.me.rdV d) (s.me.mask m) fun j => acc.pa + 4 * j
    (s.me.mask m = 0 → exec i s = .next (retired acc.s i.nwords id)) ∧
    (s.me.mask m ≠ 0 → RegionStore s i acc r (ea s a off 128) cells))

/-- R143-R145, R154, R221: a transfer whose target passes the checks goes there, with the domain and class of the target's page; a
call leaves the address after it in g31. One whose target's line is not in the instruction cache waits for it with no effect.
R143: a target that fails a check traps: odd 0x05, not canonical 0x06, on a page that cannot be fetched from with the cause of
that, in another domain or class without a gate 0x0A, with a gate that the row does not permit 0x08; so for CALLX, and for TSTX
where it branches. The model's choice (log 37): the fault address of these traps is the target. -/
def Obligations.TransfersAndBadTargets : Prop :=
  (∀ (o : Go) (p : Pfx) (s s1 : State) (cross : Bool) (e : TlbEnt), Plain s p → Full s o.srcs →
    Target s (o.target s.me) cross e s1 →
    (Cached s1 (o.target s.me) e → exec (o.instr p) s = .next (went s1 (o.target s.me) e cross fun u =>
      if o.links then u.wr 31 (u.pc + BitVec.ofNat 64 (2 * (o.instr p).nwords)) else u)) ∧
    (¬ Cached s1 (o.target s.me) e → exec (o.instr p) s = .next (awaits s1 (o.target s.me) e (o.instr p).nwords))) ∧
  (∀ (set : Bool) (p : Pfx) (bit : Fin 64) (a : Fin 32) (imm : Int) (s : State), Plain s p → Full s [a] →
    let i := if set then Instr.tstxSet p bit a imm else .tstxClr p bit a imm
    let t := s.me.pc + BitVec.ofInt 64 (2 * imm)
    ((s.me.rd a).getLsbD bit ≠ set → exec i s = .next (retired (s.hinted (hintsOf p) t) i.nwords id)) ∧
    ∀ s1 cross e, (s.me.rd a).getLsbD bit = set → Target s t cross e s1 →
      (Cached s1 t e → exec i s = .next (went s1 t e cross id)) ∧
      (¬ Cached s1 t e → exec i s = .next (awaits s1 t e i.nwords))) ∧
  (∀ (p : Pfx) (i : Instr) (srcs : List (Fin 32)) (t : Word) (s : State), Plain s p → GoesTo s p i srcs t → Full s srcs →
    let page := s.fetchPage s.myCore s.me.asid.toNat t.toNat s.me.cls.toNat
    (t.toNat % 2 = 1 → exec i s = .next (s.trap 5 t i.nwords)) ∧
    (t.toNat % 2 = 0 → canonical t.toNat = false → exec i s = .next (s.trap 6 t i.nwords)) ∧
    (t.toNat % 2 = 0 → canonical t.toNat = true → ∀ c, page = .fault c → exec i s = .next (s.trap c t i.nwords)) ∧
    ∀ e s0, t.toNat % 2 = 0 → canonical t.toNat = true → page = .ok (e, s0) → ¬ (e.dom = s.me.dom ∧ e.cls ≤ s.me.cls) →
      (s0.gateAt s.myCore s.me.asid.toNat e t.toNat = false → exec i s = .next (s0.trap 0x0A t i.nwords)) ∧
      ∀ r s1, s0.gateAt s.myCore s.me.asid.toNat e t.toNat = true → s0.rowOf s.cur = .ok (r, s1) → r.code e.dom ≠ 3 →
        exec i s = .next (s1.trap 8 t i.nwords))

/-- R146-R149: CALLX goes to a gate and pushes the domain and the return address, RETX returns through the top record, GATE has no
effect. A record keeps an even canonical address. CALLX of a target that is no gate, or with eight records, and RETX with none, or
to a page that has not the record's domain, trap with cause 0x0A. The model's choice (log 37): the fault address is the target, 0
where there is none. -/
def Obligations.DomainCalls : Prop :=
  (∀ (i : Instr) (srcs : List (Fin 32)) (t : Word) (p : Pfx) (s s1 : State) (cross : Bool) (e : TlbEnt),
    (∃ imm, i = .callx p imm ∧ srcs = [] ∧ t = s.me.pc + BitVec.ofInt 64 (2 * imm)) ∨
      (∃ a, i = .callxReg p a ∧ srcs = [a] ∧ t = s.me.rd a) →
    Plain s p → Full s srcs → Target s t cross e s1 → s1.gateAt s.myCore s.me.asid.toNat e t.toNat = true →
    s.me.drs.length < 8 →
    (Cached s1 t e → exec i s = .next (went s1 t e cross fun u =>
      { u with drs := u.drs ++ [DomRet.make u.dom (u.pc + BitVec.ofNat 64 (2 * i.nwords))] })) ∧
    (¬ Cached s1 t e → exec i s = .next (awaits s1 t e i.nwords))) ∧
  (∀ (p : Pfx) (s s1 : State) (r : DomRet) (rs : List DomRet) (e : TlbEnt), Plain s p → s.me.drs = rs ++ [r] →
    s.fetchPage s.myCore s.me.asid.toNat r.rpc.toNat s.me.cls.toNat = .ok (e, s1) → e.dom = r.dom →
    (Cached s1 r.rpc e →
      exec (.retx p) s = .next (went s1 r.rpc e (decide (s.me.cls < e.cls)) fun u => { u with drs := rs })) ∧
    (¬ Cached s1 r.rpc e → exec (.retx p) s = .next (awaits s1 r.rpc e (Instr.retx p).nwords))) ∧
  (∀ (i : Instr) (srcs : List (Fin 32)) (t : Word) (p : Pfx) (s s1 : State) (cross : Bool) (e : TlbEnt),
    (∃ imm, i = .callx p imm ∧ srcs = [] ∧ t = s.me.pc + BitVec.ofInt 64 (2 * imm)) ∨
      (∃ a, i = .callxReg p a ∧ srcs = [a] ∧ t = s.me.rd a) →
    Plain s p → Full s srcs → Target s t cross e s1 →
    s1.gateAt s.myCore s.me.asid.toNat e t.toNat = false ∨ 8 ≤ s.me.drs.length →
    exec i s = .next (s1.trap 0x0A t i.nwords)) ∧
  (∀ (p : Pfx) (s : State), Plain s p → s.me.drs = [] → exec (.retx p) s = .next (s.trap 0x0A 0 (Instr.retx p).nwords)) ∧
  (∀ (p : Pfx) (s : State) (r : DomRet) (rs : List DomRet), Plain s p → s.me.drs = rs ++ [r] →
    let page := s.fetchPage s.myCore s.me.asid.toNat r.rpc.toNat s.me.cls.toNat
    (∀ c, page = .fault c → exec (.retx p) s = .next (s.trap c r.rpc (Instr.retx p).nwords)) ∧
    ∀ e s1, page = .ok (e, s1) → e.dom ≠ r.dom → exec (.retx p) s = .next (s1.trap 0x0A r.rpc (Instr.retx p).nwords)) ∧
  (∀ (p : Pfx) (s : State), Plain s p → exec (.gate p) s = .next (retired s (Instr.gate p).nwords id)) ∧
  (∀ (dom : BitVec 8) (ret : Word), ret.toNat % 2 = 0 → canonical ret.toNat = true →
    DomRet.make dom ret = { dom := dom, rpc := ret })

/-- R150, R151, R337-R340: TRAP and BRK take their trap: the frame, with the address after the chain as the resume PC, goes to the
save area, the tags to the shadow, and the thread to its vector, on the domain and class of the vector's page; in a handler, or
where the vector is no gate, they kill the thread. The 64 doublewords of the frame: cause, sizes and group; the PC of the trap and
the resume PC; the address; the status word; the remote fault record; the full bits, the tag bits and the predicates; the domain
return records; the registers. -/
def Obligations.TrapsAreTaken : Prop :=
  (∀ (p : Pfx) (s s2 : State) (ve se : TlbEnt), Outside s p → Delivers s 1 ve se s2 →
    ∃ t, exec (.brk p) s = .next t ∧ TookTrap s t ve se
      { cause := 0x12, addr := 0, nw := (Instr.brk p).nwords, pc := s.me.pc,
        rpc := s.me.pc + BitVec.ofNat 64 (2 * (Instr.brk p).nwords), rec_ := none }) ∧
  (∀ (p : Pfx) (code : Fin 64) (s s2 : State) (ve se : TlbEnt), Outside s p → Delivers s 0 ve se s2 →
    ∃ t, exec (.trap p code) s = .next t ∧ TookTrap s t ve se
      { cause := 0x40 + code.val, addr := 0, nw := (Instr.trap p code).nwords, pc := s.me.pc,
        rpc := s.me.pc + BitVec.ofNat 64 (2 * (Instr.trap p code).nwords), rec_ := none }) ∧
  (∀ (p : Pfx) (s : State), Outside s p → (s.me.inh = true ∨ ∃ c, s.vectorOk s.cur 1 = .fault c) →
    exec (.brk p) s = .next (s.kill s.cur)) ∧
  (∀ (p : Pfx) (code : Fin 64) (s : State), Outside s p → (s.me.inh = true ∨ ∃ c, s.vectorOk s.cur 0 = .fault c) →
    exec (.trap p code) s = .next (s.kill s.cur)) ∧
  (∀ (t : Slot) (i : TrapInfo),
    let w := fun n => (frameWords t i).getD n 0
    (frameWords t i).length = 64 ∧ w 0 % 256 = i.cause % 256 ∧ w 1 = i.pc.toNat ∧ w 2 = i.rpc.toNat ∧ w 3 = i.addr.toNat ∧
    w 4 = t.ownTsw.toNat ∧ (i.rec_ = none → w 5 = 0 ∧ w 6 = 0 ∧ w 7 = 0) ∧ (∀ r, i.rec_ = some r → w 5 = r.va.toNat) ∧
    (∀ r : Fin 32, (w 8).testBit r.val = t.full r ∧ (w 9).testBit r.val = (t.tagOf r).isSome ∧ w (32 + r.val) = (t.rd r).toNat) ∧
    (∀ r : Fin 8, (w 10).testBit r.val = (decide (r ≠ 0) && t.rdP r)) ∧
    ∀ j, j < 8 → w (12 + j) = ((t.drs[j]?).map DomRet.word).getD 0)

/-- R62, R152, R159, R342: EXIT waits under cause 10 for the thread's stores, posted operations and fault records, and traps with
cause 0x0E where a record is pending; then the slot is vacant with the next generation, its registers empty, its reservations,
records and bindings gone, memory as before. A trap in a handler, or one whose vector is no gate, kills the thread: the slot is
vacant in the same way and no trap is delivered. -/
def Obligations.ThreadsEnd : Prop :=
  (∀ (p : Pfx) (s : State), Outside s p →
    (s.storesHome s.cur = true → s.postedAnswered s.cur = true → s.recComing s.cur = false → NoRecords s →
      ∃ t, exec (.exit p) s = .next t ∧ SameBytes s t ∧ t.me.occ = false ∧ t.me.gen = s.me.gen + 1 ∧ t.me.drs = [] ∧
        t.me.resv = [] ∧ t.me.recs = [] ∧ t.me.park = none ∧ (∀ q : Fin 8, t.me.q[q].bound = false) ∧
        ∀ r : Fin 32, r ≠ 0 → t.me.full r = false) ∧
    (s.storesHome s.cur = false ∨ s.postedAnswered s.cur = false ∨ s.recComing s.cur = true →
      exec (.exit p) s = .next (parked s 10 .storesOut .reissue (Instr.exit p).nwords false))) ∧
  (∀ (p : Pfx) (s : State), Begins s p → s.me.region = none → s.storesHome s.cur = true → s.postedAnswered s.cur = true →
    s.recComing s.cur = false → FaultFirst (.exit p) s s) ∧
  (∀ (s : State) (cause nw : Nat) (addr : Word), s.me.region = none →
    s.me.inh = true ∨ (∃ c, s.vectorOk s.cur (trapGroup cause) = .fault c) →
    let t := s.trap cause addr nw
    t = s.kill s.cur ∧ t.me.occ = false ∧ t.me.gen = s.me.gen + 1 ∧ t.me.inh = false ∧
    ∀ r : Fin 32, r ≠ 0 → t.me.full r = false)

/-- R209, R211, R214-R219: the array instructions. GANG parks its arrival, a second one of a core traps; the others need the member
of an open gang: GANG.end parks for the end; TWLD, TZERO, TRDA, TWRA and TDRAIN are accepted by the slice and complete; TMM places its
rows in the slice and parks for the gang. The model's choice (log 36): the rows of a TMM with a stream source are ready 7 clocks after
its issue, as those of local memory (R216). -/
def Obligations.ArrayInstructions : Prop :=
  (∀ (p : Pfx) (s : State), Outside s p → s.seqRuns = false →
    let i := Instr.gangStatic p
    if (s.core s.myCore).gangArr = none ∧ (s.cluster s.myCluster).gang = none then
      exec i s = .next (parked ((onUnit s).modCore s.myCore fun x =>
        { x with gangArr := some { k := s.cur, elastic := false, stat := none } }) 12 .gangJoin (.finish []) i.nwords false)
    else exec i s = .next ((onUnit s).trap 0x0C 0 i.nwords)) ∧
  (∀ (p : Pfx) (a : Fin 32) (s : State) (acc : Acc), Outside s p → s.seqRuns = false → Full s [a] → (s.me.rd a).toNat % 8 = 0 →
    (onUnit s).check (s.me.tagOf a) (s.me.rd a).toNat 8 2 false = .ok acc → (s.core s.myCore).gangArr = none →
    (s.cluster s.myCluster).gang = none →
    let i := Instr.gangElastic p a
    exec i s = .next (parked (acc.s.modCore s.myCore fun x =>
      { x with gangArr := some { k := s.cur, elastic := true, stat := some ((s.me.rd a).toNat, acc.pa, acc.key) } }) 12 .gangJoin (.finish [])
      i.nwords false)) ∧
  (∀ (p : Pfx) (s : State), Outside s p → Member s →
    let i := Instr.gangEnd p
    exec i s = .next (parked ((onUnit s).modCluster s.myCluster fun x =>
      { x with gang := x.gang.map fun g => { g with ended := (s.myCore % 8) :: g.ended } }) 12 .gangEnd (.finish []) i.nwords false)) ∧
  (∀ (p : Pfx) (buf : Bool) (a b : Fin 32) (s : State), Outside s p → Member s → Full s [a, b] → (s.me.rd a).toNat % 16 = 0 →
    (s.me.rd a).toNat + 512 ≤ 3 * 2 ^ 20 →
    let pa := wmAddr s.myCore (s.me.rd a).toNat
    let s1 := { onUnit s with nextId := s.nextId + 1 }.enterFoot s.myCluster
      { id := s.nextId, reads := [{ va := none, pa := pa, len := 512, key := 0 }], writes := [], regs := [] }
    let op : LoadOp := { id := s.nextId, buf := buf, pa := pa, kc := (s.me.rd b).setWidth 16, placed := s.me.node }
    exec (.twld p buf a b) s = .next (retired (s1.modSlice s.myCore fun x => { x with ldQ := x.ldQ ++ [op] })
      (Instr.twld p buf a b).nwords id)) ∧
  (∀ (p : Pfx) (acc : Fin 4) (a b : Fin 32) (s : State), Outside s p → Member s → Full s [a, b] →
    let la := (s.me.rd a).toNat % 2 ^ 18
    let accepts := fun (i : Instr) (o : ArrOp) => exec i s = .next (retired ((onUnit s).modSlice s.myCore fun x =>
      { x with accQ := x.accQ ++ [o] }) i.nwords id)
    accepts (.tzero p acc) (.tzero acc) ∧
    (la % 128 = 0 → la + 2056 ≤ 2 ^ 18 →
      accepts (.trda p acc a) (.trda acc la) ∧ accepts (.twra p acc a b) (.twra acc la (s.me.rd b)))) ∧
  (∀ (p : Pfx) (acc : Fin 4) (buf : Bool) (src : TSrc) (b : Fin 32) (s : State), Outside s p → Member s → Full s [b] →
    let i := Instr.tmm p acc buf src b
    let m := (s.me.rd b).toNat % 8 + 1
    let row0 := bits (s.me.rd b).toNat 7 4
    let places := fun (rows : List (List Byte)) (pop : Option (Fin 8)) =>
      exec i s = .next (parked ((onUnit s).modSlice s.myCore fun x =>
        { x with tmm := some { k := s.cur, ready := s.clock + 7, acc := acc, buf := buf, rows := rows, row0 := row0, pop := pop,
                               dif := false } }) 12 (.fifo 0) (.finish []) i.nwords false)
    row0 + m ≤ 16 → (s.slice s.myCore).rowsUsed s.clock + m ≤ Config.afifo →
    (∀ a, src = .local a → Full s [a] → (s.me.rd a).toNat % 16 = 0 → (s.me.rd a).toNat % 2 ^ 18 + 16 * m ≤ 2 ^ 18 →
      s.poisonOf 0 (s.ownPa ((s.me.rd a).toNat % 2 ^ 18)) (16 * m) = none →
        places ((List.range m).map fun j => (List.range 10).map fun k =>
        s.mem.read (s.ownPa ((s.me.rd a).toNat % 2 ^ 18 + 16 * j + k))) none) ∧
    ∀ q x xs, src = .stream q → s.me.qBad q false true = false → s.queueOf s.cur q = x :: xs →
      places ((List.range m).map fun j => (List.range 10).map fun k => BitVec.ofNat 8 (x.toNat / 2 ^ (8 * (16 * j + k)))) (some q)) ∧
  (∀ (p : Pfx) (add : Bool) (acc : Fin 4) (d a b : Fin 32) (s s1 : State) (g : Gang) (css : List (List Chunk)), Outside s p →
    Member s → Full s [d, a, b] → (s.cluster s.myCluster).gang = some g → (s.me.rd d).toNat % 4 = 0 → (s.me.rd b).toNat % 4 = 0 →
    (s.me.rd a).toNat % 8 = 0 → 128 ≤ (s.me.rd b).toNat % 2 ^ 16 →
    let i := if add then Instr.tdrainAdd p acc d a b else .tdrain p acc d a b
    let gb := (s.me.rd b).toNat
    let tag := (s.slice s.myCore).tagAfter acc
    let gi := (tag.map (·.toNat)).getD 0
    let rows := (List.range 16).map fun j => (s.me.tagOf d, 2, ((s.me.rd d).toNat + j * (gb % 2 ^ 16)) % 2 ^ 64, 128)
    let scales := (none, 1, (g.tscw.toNat + 2 * (gi * bits gb 63 48 + bits gb 47 32)) % 2 ^ 64, 64)
    let codes := if g.tfmt = 1 then [] else [(none, 1, (g.tsca.toNat + bits gb 31 16) % 2 ^ 64, 16)]
    Captures (onUnit s) (rows ++ [(s.me.tagOf a, 2, (s.me.rd a).toNat, 8), scales] ++ codes) css s1 → Walked s s1 →
    ∃ t dr, exec i s = .next t ∧ (t.slice s.myCore).accQ = (s.slice s.myCore).accQ ++ [.tdrain dr] ∧
      dr = { id := s1.nextId, acc := acc, add := add, rows := css.take 16, stat := css.getD 16 [], scales := css.getD 17 [],
             codes := css[18]?, gi := gi, tagv := tag.isSome, refs := s1.refsOf [d, a], k := s.cur, gen := s.me.gen,
             asid := s.me.asid, placed := s.me.node, elastic := g.elastic } ∧
      t.me = endAt s1.me (s.me.pc + BitVec.ofNat 64 (2 * i.nwords)) ∧
      (s.me.tagOf d = none → s.me.tagOf a = none → SameBytes s t))

/-- R78, R222-R224: TPACK packs five elements to a byte, TUNPK takes them apart, TCHK finds illegal bytes; an Accord names its own
core and cores of its sector in its partition, and parks its arrival under cause 5. -/
def Obligations.WeightsAndAccord : Prop :=
  (∀ (p : Pfx) (d a : Fin 16) (b : Fin 32) (s : State), Outside s p → s.seqRuns = false → Full s [b] →
    let x := s.me.rdV a
    let j := (s.me.rd b).toNat % 8
    let digit := fun (k : Nat) => if byteOf x k = 0 then 0 else if byteOf x k < 128 then 1 else 2
    let bad := (List.range 80).any fun k => byteOf x k != 0 && byteOf x k != 1 && byteOf x k != 255
    ∃ v, exec (.tpack p d a b) s = .next (retired ((onUnit s).flag (if bad then AFlags.sat else 0, 0)) (Instr.tpack p d a b).nwords
        fun u => u.wrV d v) ∧
      ∀ k, k < 128 → byteOf v k = if 16 * j ≤ k ∧ k < 16 * j + 16 then
        ((List.range 5).map fun r => digit (5 * (k - 16 * j) + r) * 3 ^ r).sum else byteOf (s.me.rdV d) k) ∧
  (∀ (p : Pfx) (d a : Fin 16) (b : Fin 32) (s : State), Outside s p → s.seqRuns = false → Full s [b] →
    let x := s.me.rdV a
    let j := (s.me.rd b).toNat % 8
    let bad := (List.range 16).any fun k => decide (243 ≤ byteOf x (16 * j + k))
    ∃ v, exec (.tunpk p d a b) s = .next (retired ((onUnit s).flag (if bad then AFlags.nv else 0, 0)) (Instr.tunpk p d a b).nwords
        fun u => u.wrV d v) ∧
      ∀ k, k < 128 → byteOf v k = if 80 ≤ k ∨ 243 ≤ byteOf x (16 * j + k / 5) then 0
        else match byteOf x (16 * j + k / 5) / 3 ^ (k % 5) % 3 with
          | 1 => 1
          | 2 => 255
          | _ => 0) ∧
  (∀ (p : Pfx) (d : Fin 32) (a : Fin 16) (s : State), Plain s p → s.seqRuns = false →
    exec (.tchk p d a) s = .next (retired (onUnit s) (Instr.tchk p d a).nwords fun u => u.wr d (BitVec.ofNat 64 (chkWord (u.rdV a)))) ∧
    (∀ j, j < 8 → ((chkWord (s.me.rdV a)).testBit j = true ↔ ∃ k, k < 128 ∧ k / 16 = j ∧ 243 ≤ byteOf (s.me.rdV a) k)) ∧
    ((∀ k, k < 128 → byteOf (s.me.rdV a) k < 243) → chkWord (s.me.rdV a) = 255 * 256) ∧
    ∀ k, k < 128 → 243 ≤ byteOf (s.me.rdV a) k → (∀ k', k' < k → byteOf (s.me.rdV a) k' < 243) → chkWord (s.me.rdV a) / 256 = k) ∧
  (∀ (p : Pfx) (scale : Bool) (d a b : Fin 32) (s : State), Outside s p → s.seqRuns = false → Full s [a, b] →
    let i := if scale then Instr.accScale p d a b else .accMax p d a b
    let cs := sectorCores s.myCluster (s.me.rd b).toNat
    let r : AccArr := { k := s.cur, mask := s.me.rd b, scale := scale, x := (s.me.rd a).setWidth 32, at_ := s.clock, d := d,
                        release := none }
    if s.myCore ∈ cs ∧ (∀ c ∈ cs, s.pidOf (clusterOfCore c) = s.myPid) ∧ (s.core s.myCore).accArr = none then
      exec i s = .next (parked (((onUnit s).modCore s.myCore fun x => { x with accArr := some r }).accordTry s.myCluster (s.me.rd b)
        scale) 5 .accord (.finish []) i.nwords false)
    else exec i s = .next ((onUnit s).trap 0x0C 0 i.nwords))

/-- R225, R226: DIFS records the chains at its address; DIFGO starts the owner's sequence with a snapshot of the g registers. The
model's choices (log 36): DIFS with a count of 0 leaves the Diffuser with no owner, the word that an illegal record traps at is
the first of its chain, and DIFGO of no repetition completes. -/
def Obligations.DiffuserInstructions : Prop :=
  (∀ (p : Pfx) (a b : Fin 32) (s s1 : State) (ws : List Nat), Outside s p → s.seqRuns = false → Full s [a, b] →
    s.dif.run = none → s.dif.trap = none → 0 < (s.me.rd b).toNat % 64 → (s.me.rd b).toNat % 64 ≤ 32 → (s.me.rd a).toNat % 2 = 0 →
    readDif (s.me.rd a) ((s.me.rd b).toNat % 64) (onUnit s) [] = .inr (ws, s1) → recordBad 33 0 ws = none →
    exec (.difs p a b) s = .next (retired (s1.modDif fun x => { x with words := ws, owner := some s.cur })
      (Instr.difs p a b).nwords id)) ∧
  (∀ (p : Pfx) (a b : Fin 32) (s : State), Outside s p → s.seqRuns = false → Full s [a, b] →
    let i := Instr.difs p a b
    let n := (s.me.rd b).toNat % 64
    (s.dif.run.isSome ∨ s.dif.trap.isSome → exec i s = .next (parked (onUnit s) 9 .diffuser .reissue i.nwords false)) ∧
    (s.dif.run = none → s.dif.trap = none →
      (n = 0 → exec i s = .next (retired ((onUnit s).modDif fun x => { x with words := [], owner := none }) i.nwords id)) ∧
      (32 < n → exec i s = .next ((onUnit s).trap 0x0C 0 i.nwords)) ∧
      (0 < n → n ≤ 32 → (s.me.rd a).toNat % 2 = 1 → exec i s = .next ((onUnit s).trap 5 (s.me.rd a) i.nwords)) ∧
      ∀ ws s1 k, 0 < n → n ≤ 32 → (s.me.rd a).toNat % 2 = 0 → readDif (s.me.rd a) n (onUnit s) [] = .inr (ws, s1) →
        recordBad 33 0 ws = some k → exec i s = .next (s1.trap 1 (s.me.rd a + BitVec.ofNat 64 (2 * k)) i.nwords))) ∧
  (∀ (p : Pfx) (a : Fin 32) (imm : Int) (s : State), Outside s p → s.seqRuns = false → Full s [a] →
    s.dif.owner = some s.cur → Full s (s.dif.instrs.flatMap fun x => (recG x).1.toList ++ (recG x).2) →
    difMisuse s.me s.dif.instrs (s.me.rd a).toNat (imm % 65536).toNat = false → (imm % 65536).toNat ≠ 0 →
    exec (.difgo p a imm) s = .next (retired ((onUnit s).modDif fun x =>
      { x with run := some { total := (imm % 65536).toNat, rep := 0, next := 0, snap := s.me.g, stag := s.me.rd a, wrote := [],
                             blocked := false, nw := 1 } }) (Instr.difgo p a imm).nwords id)) ∧
  (∀ (p : Pfx) (a : Fin 32) (imm : Int) (s : State), Outside s p → s.seqRuns = false → Full s [a] →
    let i := Instr.difgo p a imm
    let n := (imm % 65536).toNat
    (s.dif.owner ≠ some s.cur → exec i s = .next ((onUnit s).trap 0x0C 0 i.nwords)) ∧
    (s.dif.owner = some s.cur → Full s (s.dif.instrs.flatMap fun x => (recG x).1.toList ++ (recG x).2) →
      (difMisuse s.me s.dif.instrs (s.me.rd a).toNat n = true → exec i s = .next ((onUnit s).trap 0x10 0 i.nwords)) ∧
      (n = 0 → exec i s = .next (retired (onUnit s) i.nwords id))))

/-- R228: DIFWAIT is page 2, major 14, whatever its reserved fields; it parks under cause 9 until the thread's sequence ends, and
completes at once when none runs. -/
def Obligations.DifwaitWaits : Prop :=
  (∀ fn w, fn < 128 → w < 2048 → decodeWords [0xF900 + fn, 14 * 2048 + w] = .ok (.difwait Pfx.none) 2) ∧
  (∀ (p : Pfx) (s : State), Plain s p →
    let i := Instr.difwait p
    let runs := (s.core s.myCore).dif.owner = some s.cur ∧ (s.core s.myCore).dif.run.isSome = true
    (¬ runs → exec i s = .next (retired s i.nwords id)) ∧
    (runs → exec i s = .next (parked s 9 .diffuser .reissue i.nwords false)) ∧
    ∀ u : State, u.cur = s.cur → (u.core s.myCore).dif.owner = some s.cur →
      (u.waitOver s.cur .diffuser = true ↔ (u.core s.myCore).dif.run = none))

/-- R232-R235, R238, R239: COPY and COPYQ read a card in the own scratchpad, check it, translate and capture its regions, and enter a
job under a handle; CJTEST and CJWAIT answer a job's status, CJWAIT parking under cause 9 while it is in flight. -/
def Obligations.CopyJobs : Prop :=
  (∀ (i : Instr) (p : Pfx) (d a b : Fin 32) (stream : Option (Fin 8 × Bool × Bool)) (s s1 s2 s3 : State) (css : List (List Chunk))
      (slot : Nat), Outside s p → Full s [d] →
    (i = .copy p d a b ∧ stream = none) ∨
      (∃ q, i = .copyq p d q b ∧ a = 0 ∧ s.me.q[q].bound = true ∧ s.me.q[q].eng = true ∧
        stream = some (s.me.q[q].queue, s.me.q[q].outbound, s.me.q[q].wide)) →
    let off := (s.me.rd d).toNat % 2 ^ 18
    let c := cardOf (s.cardAt off)
    let named := ((c.src ++ c.dst).filterMap fun x =>
      if x.base = 1 then some a else if x.base = 2 then some b else none).eraseDups
    let src := css.take c.src.length
    let dst := css.drop c.src.length
    off % 64 = 0 → s.cardBad (stream.map fun x => (x.2.1, if x.2.2 then 128 else 8)) c = false → Full s named →
    (∀ q, stream.map (·.1) = some q → ∀ e ∈ (s.cluster s.myCluster).jobs,
      e.2.done = true ∨ coreOf e.2.k ≠ s.myCore ∨ e.2.q ≠ some q) →
    s.mySlot = some slot →
    (∀ x ∈ c.src ++ c.dst, x.kind = 0 → nonCanonical (x.va s.me a b) x.len = none) →
    Translates a b s (c.src ++ c.dst) css s1 →
    (∀ x ∈ pairs dst, meets Chunk.sameByte x.1 x.2 = false) → (∀ x ∈ dst, ∀ y ∈ src, meets Chunk.sameByte x y = false) →
    Rights a b 1 s1 c.src s2 → Rights a b 2 s2 c.dst s3 → Walked s s3 →
    let seq := (s.cluster s.myCluster).jobseq
    ∃ t j, exec i s = .next t ∧
      t.me = { endAt (s3.me.wr d (BitVec.ofNat 64 (slot + 16 * seq.toNat))) (s.me.pc + BitVec.ofNat 64 (2 * i.nwords)) with
               resv := t.me.resv } ∧
      (t.cluster s.myCluster).jobs.find? (·.1 == slot) = some (slot, j) ∧ j.op = c.op ∧ j.seq = seq ∧ j.src = src.flatten ∧
      j.dst = (List.zipWith dstParts c.dst dst).flatten ∧ j.k = s.cur ∧ j.q = stream.map (·.1) ∧ j.started = false ∧ j.done = false ∧
      ((∀ r ∈ named, s.me.tagOf r = none) → SameBytes s t)) ∧
  (∀ (p : Pfx) (d a : Fin 32) (s : State), Plain s p → Full s [a] →
    exec (.cjtest p d a) s = .next (retired s (Instr.cjtest p d a).nwords fun t =>
      t.wr d (((s.jobOf s.myCluster (s.me.rd a)).map Job.status).getD 5))) ∧
  (∀ (p : Pfx) (d a : Fin 32) (s : State), Outside s p → Full s [a] →
    let i := Instr.cjwait p d a
    (s.jobOf s.myCluster (s.me.rd a) = none → exec i s = .next (retired s i.nwords fun t => t.wr d 5)) ∧
    ∀ j, s.jobOf s.myCluster (s.me.rd a) = some j →
      (j.done = true → exec i s = .next (retired s i.nwords fun t => t.wr d j.status)) ∧
      (j.done = false → exec i s =
        .next (parked s 9 (.jobDone (Fin.ofNat 16 (s.me.rd a).toNat)) (.finish [.g d 0]) i.nwords false)))

/-- R242: ADDG writes the sum of gA and gB modulo 2^64 to gD, full, with gA's tag, whatever gB's; no tag where gA has none. It checks
no bounds: it completes for every sum and every tag; a store through the result is checked against the tag's grant. -/
def Obligations.AddgKeepsTheTag : Prop :=
  (∀ (p : Pfx) (d a b : Fin 32) (s : State), Plain s p → Full s [a, b] →
    let x : GReg := { val := BitVec.ofNat 64 (((s.me.rd a).toNat + (s.me.rd b).toNat) % 2 ^ 64), full := true, tag := s.me.tagOf a }
    exec (.addg p d a b) s = .next (retired s (Instr.addg p d a b).nwords fun t =>
      if d = 0 then t else { t with g := t.g.set d.val x })) ∧
  (∀ (o : St) (p : Pfx) (d a : Fin 32) (off : Int) (s s1 : State) (c : Nat), Outside s p → Full s [a, d] →
    (ea s a off o.size).toNat % o.size = 0 → s.check (s.me.tagOf a) (ea s a off o.size).toNat o.size 2 true = .trap c s1 →
    exec (o.instr p d a off) s = .next (s1.trap c (ea s a off o.size) (o.instr p d a off).nwords))

/-- R107, R241, R243, R244: MKGRANT takes the lowest free entry for a range its thread may access and tags gD with it; GRANTQ
reports a tag and its entry; REVOKE advances the generation, waits for jobs and copies, frees the entry and clears the tag. -/
def Obligations.Grants : Prop :=
  (∀ (p : Pfx) (rw : Bool) (d a b : Fin 32) (s s1 : State) (j pa key : Nat) (g : Grant), Outside s p → Full s [a, b] →
    let i := Instr.mkgrant p rw d a b
    let va := s.me.rd a
    let n := (s.me.rd b).toNat
    let g' : Grant := { g with base := va.toNat, len := n, rw := rw, val := true, rvk := false, use := 0 }
    0 < n → n ≤ 2 ^ 40 → canonical va.toNat = true → canonical ((va.toNat + n - 1) % 2 ^ 64) = true →
    grantPages (if rw then 2 else 1) (va.toNat + n) .done (n / 65536 + 2) va.toNat s = .done s1 →
    s1.freeGrant 4096 0 = .ok (some (j, pa, key, g)) → Walked s s1 →
    exec i s = .next (retired ((s1.putGrant key pa g').takeCopy s.myCore pa g'.toRaw) i.nwords fun t =>
      t.wrTag d va (some (BitVec.ofNat 32 (j * 2 ^ 20 + g.gen))))) ∧
  (∀ (p : Pfx) (d a : Fin 32) (s : State), Plain s p → Full s [a] →
    let i := Instr.grantq p d a
    (s.me.tagOf a = none → exec i s = .next (retired s i.nwords fun t => t.wr d 0)) ∧
    ∀ ref pk g, s.me.tagOf a = some ref → s.grantAddr s.myCore s.me.asid.toNat (refIndex ref) = .ok pk →
      s.grantCopy s.myCore pk.1 = some g →
      exec i s = .next (retired (s.takeCopy s.myCore pk.1 g.toRaw) i.nwords fun t => t.wr d (grantReport ref g))) ∧
  (∀ (p : Pfx) (d : Fin 32) (s : State) (ref : BitVec 32) (pk : Nat × Nat), Outside s p → Full s [d] → s.me.tagOf d = some ref →
    s.grantAddr s.myCore s.me.asid.toNat (refIndex ref) = .ok pk →
    let i := Instr.revoke p d
    let g := Grant.ofRaw (s.numAt pk.2 pk.1 32)
    let resumed := g.rvk = true ∧ g.gen = refGen ref + 1
    let g' : Grant := { g with gen := g.gen + 1, rvk := true }
    let s1 := if g.rvk = true ∧ g.gen = refGen ref + 1 then s else
      let s1 := (s.putGrant pk.2 pk.1 g').takeCopy s.myCore pk.1 g'.toRaw
      { s1 with revokes := s1.revokes ++ ((s1.coresOf s.myPid).filter (· != s.myCore)).map fun c => (pk.1, c) }
    let h := Grant.ofRaw (s1.numAt pk.2 pk.1 32)
    let h' : Grant := { h with rvk := false, val := false, ret := h.ret || h.gen == 0xFFFFF }
    (¬ resumed → g.gen ≠ refGen ref ∨ g.val = false → exec i s = .next (s.trap 9 0 i.nwords)) ∧
    (resumed ∨ (g.gen = refGen ref ∧ g.val = true) →
      (s1.revokeOver pk.1 pk.2 = false → exec i s = .next (parked s1 9 (.revoke pk.1) .reissue i.nwords false)) ∧
      (s1.revokeOver pk.1 pk.2 = true →
        exec i s = .next (retired ((s1.putGrant pk.2 pk.1 h').takeCopy s.myCore pk.1 h'.toRaw) i.nwords fun t =>
          t.setReg d { val := t.rd d, full := true, tag := none }))))

/-- R245-R249: WFW parks under cause 6 for the dispenser; SPAWN pushes an item whose PC is a permitted target; LAUNCH sends its word
to the port and parks for the answer; INRD pops a task record into the scratchpad; KRD and KWR read and write control registers. -/
def Obligations.ThreadInstructions : Prop :=
  (∀ (p : Pfx) (s : State), Outside s p →
    exec (.wfw p) s = .next (parked (s.modMe fun t => { t with item := none }) 6 .work .reissue (Instr.wfw p).nwords true)) ∧
  (∀ (p : Pfx) (d a : Fin 32) (s : State), Outside s p → Full s [a] →
    let i := Instr.spawn p d a
    let la := (s.me.rd a).toNat % 2 ^ 18
    let h := (s.ownWord la).toNat
    let n := bits h 59 56
    let pc := signExtend 8 (bits h 55 0 * 2 + (if tb h 55 then 127 * 2 ^ 57 else 0))
    la % 8 = 0 →
    (8 < n → exec i s = .next (retired s i.nwords fun t => t.wr d 1)) ∧
    ∀ cross e s1, n ≤ 8 → Target s pc cross e s1 →
      (Config.dspdepth ≤ (s.cluster s.myCluster).items.length →
        exec i s = .next (parked s1 8 .dispenser .reissue i.nwords false)) ∧
      ((s.cluster s.myCluster).items.length < Config.dspdepth →
        let node := s1.pushNode s.cur pc
        let s2 := match node with
          | some q => s1.pushed q s.myCore
          | none => s1
        exec i s = .next (retired (s2.modCluster s.myCluster fun x => { x with items := x.items ++
          [{ pc := pc, args := (List.range n).map fun j => s1.ownWord (la + 8 + 8 * j),
             core := if tb h 63 then none else some (Fin.ofNat 8 (bits h 62 60)), asid := s.me.asid, placed := node,
             by_ := s.me.node }] }) i.nwords fun t => t.wr d 0))) ∧
  (∀ (p : Pfx) (d a b : Fin 32) (s : State), Outside s p → Full s [a, b] →
    let i := Instr.launch p d a b
    let blk := (s.me.rd b).toNat
    let r := s.launchBy s.cur (BitVec.ofNat 64 ((s.me.rd a).toNat % 2 ^ 32 * 2 ^ 32 + blk / 64))
    (blk % 64 ≠ 0 ∨ 2 ^ 38 ≤ blk → exec i s = .next (retired s i.nwords fun t => t.wr d 2)) ∧
    (blk % 64 = 0 → blk < 2 ^ 38 →
      let t := parked r.2 1 .latency (.finish [.g d (BitVec.ofNat 64 r.1)]) i.nwords false
      exec i s = .next t ∧ Finishes t i.nwords fun u => u.wr d (BitVec.ofNat 64 r.1))) ∧
  (∀ (s : State) (pid : Nat) (w : Word),
    let r := s.launch pid w none
    match s.graphOf pid (w.toNat / 2 ^ 32) with
    | none => r = (3, s)
    | some g => if 64 ≤ (s.part pid).port.length then r = (1, s)
        else r = (0, s.modPart pid fun q => { q with port := q.port ++ [{ word := w, session := none, graph := g }] })) ∧
  (∀ (p : Pfx) (d a : Fin 32) (s : State), Outside s p → Full s [a] →
    let i := Instr.inrd p d a
    let la := (s.me.rd a).toNat % 2 ^ 18
    la % 64 = 0 →
    ((s.core s.myCore).inbox = [] → exec i s = .next (parked s 11 .inbox .reissue i.nwords true)) ∧
    ∀ r rs, (s.core s.myCore).inbox = r :: rs →
      ∃ t, exec i s = .next t ∧ Stored s t (cellsAt (s.ownPa la) r) ∧ (t.core s.myCore).inbox = rs ∧
        t.me = { endAt (s.me.wr d (BitVec.ofNat 64 rs.length)) (s.me.pc + BitVec.ofNat 64 (2 * i.nwords)) with resv := t.me.resv }) ∧
  (∀ (p : Pfx) (n : Fin 64) (d : Fin 32) (s : State), Plain s p →
    exec (.krd p n d) s = .next (retired s (Instr.krd p n d).nwords fun t => t.wr d (s.krd n)) ∧ s.krd 9 = s.slotName s.cur ∧
    s.krd 10 = s.me.ownTsw) ∧
  (∀ (p : Pfx) (n : Fin 64) (a : Fin 32) (s : State), Outside s p → Full s [a] →
    exec (.kwr p n a) s = .next (retired s (Instr.kwr p n a).nwords fun t => { t with k := t.k.write n (t.rd a) }))

/-- R296, R305, R358, R360, R393: SRD and SWR act on the register of an instance: at once on the issuer's own, with a park under
cause 1 on another's, for the slow device registers, and for a hold of a cluster until its cores have stopped; an instance out of
range traps 0x01, another's below class 2 traps 0x04. A retire of a key waits for the accesses under it (R380), the entry of a
moved frame for the final positions on their way to it (R320). An SRD is noted, so that an SWR of the same clock goes before it.
What SWR writes to a plain register SRD reads back in the bits the register has. -/
def Obligations.SystemRegisters : Prop :=
  (∀ (p : Pfx) (n : Fin 128) (d a : Fin 32) (s : State), Outside s p → Full s (instRegs n.val a) →
    let i := Instr.srd p n d a
    (s.sysKey n.val (s.me.rd a) = none → exec i s = .next (s.trap 1 0 i.nwords)) ∧
    ∀ key, s.sysKey n.val (s.me.rd a) = some key →
      let u := { s with srds := s.srds ++ [{ k := s.cur, d := d, n := n.val, key := key }] }
      (s.sysOwn n.val key = true → exec i s = .next (retired u i.nwords fun t => t.wr d (s.sysRead n.val key))) ∧
      (s.sysOwn n.val key = false → s.me.cls.toNat < 2 → exec i s = .next (s.trap 4 0 i.nwords)) ∧
      (s.sysOwn n.val key = false → 2 ≤ s.me.cls.toNat →
        let t := parked u 1 .latency (.finish [.g d (s.sysRead n.val key)]) i.nwords false
        exec i s = .next t ∧ Finishes t i.nwords fun u => u.wr d (s.sysRead n.val key))) ∧
  (∀ (p : Pfx) (n : Fin 128) (a b : Fin 32) (s : State) (key : Nat), Outside s p → Full s (a :: instRegs n.val b) →
    s.sysKey n.val (s.me.rd b) = some key →
    let i := Instr.swr p n a b
    let v := s.me.rd a
    (s.sysOwn n.val key = false → s.me.cls.toNat < 2 → exec i s = .next (s.trap 4 0 i.nwords)) ∧
    let u := { s.sysWrite n.val key v with swrs := s.swrs ++ [(n.val, key)] }
    (s.sysOwn n.val key = true ∨ 2 ≤ s.me.cls.toNat →
      (n.val = 0x08 → v.toNat.testBit 0 = true →
        exec i s = .next (parked u 1 (.held key) (.finish []) i.nwords true)) ∧
      (n.val ≠ 0x1C → ¬ (n.val = 0x08 ∧ v.toNat.testBit 0 = true) →
        ¬ (n.val = 0x54 ∧ bits v.toNat 63 62 = 2 ∧ s.keyBusy key (bits v.toNat 13 0) = true) →
        ¬ (n.val = 0x21 ∧ v.toNat.testBit 63 = true ∧ s.finalTo key (movedBase v.toNat) (v.toNat % 4) = true) →
        exec i s = .next (if s.sysOwn n.val key = true ∧ sysSlow n.val = false then retired u i.nwords id
          else parked u 1 .latency (.finish []) i.nwords (!s.sysOwn n.val key))) ∧
      ((n.val = 0x54 ∧ bits v.toNat 63 62 = 2 ∧ s.keyBusy key (bits v.toNat 13 0) = true) ∨
          (n.val = 0x21 ∧ v.toNat.testBit 63 = true ∧ s.finalTo key (movedBase v.toNat) (v.toNat % 4) = true) →
        exec i s = .next (parked s 1 .latency .reissue i.nwords false)) ∧
      (n.val = 0x1C →
        let r := v.toNat % 16
        let locked := r < 5 ∧ bits (s.dev s.myDev).bootst.toNat 3 0 = 2
        (locked → exec i s = .next (s.trap 4 0 i.nwords)) ∧
        ∀ bs s', ¬ locked → Reads s none (keep v 63 6) 48 bs s' →
          exec i s = .next (parked (s'.then_ (.measurementExtend s.myDev r bs)) 9 .latency (.finish []) i.nwords false)))) ∧
  (∀ (s : State) (key n : Nat) (mask v : Word),
    (n, mask) ∈ [(0x00, BitVec.allOnes 64), (0x01, BitVec.allOnes 64), (0x02, 0xFFFF#64), (0x03, 0xFFFFFFFFFFFFF000#64),
      (0x0A, BitVec.allOnes 64), (0x0B, BitVec.allOnes 64), (0x0C, 0xFFFFFFFF#64), (0x10, BitVec.allOnes 64),
      (0x17, BitVec.allOnes 64), (0x20, 0xFFFFFF00000#64), (0x30, 0x30F#64), (0x3F, 0x30F#64), (0x51, 0xFFFFFFFF000#64),
      (0x52, 0xFFFFFFFF#64)] →
    (s.sysWrite n key v).sysRead n key = v &&& mask) ∧
  (∀ (s : State) (r : SysGet), s.srds = [r] →
    (s.swrs.contains (r.n, r.key) = false → s.settleReads = { s with srds := [], swrs := [] }) ∧
    (s.swrs.contains (r.n, r.key) = true → (s.slot r.k).park = none →
      (s.settleReads.slot r.k) = (s.slot r.k).wr r.d (s.sysRead r.n r.key)))

/-- R343, R361, R362: ERET resumes its thread from the frame at its save area, with the shadowed tags and the fills held where it
was in its handler; STEP is ERET with a new single-step bit; eret.start starts a vacant slot of the core from its frame, or answers
1 or 2. A record count above 8 traps 0x01. -/
def Obligations.Returns : Prop :=
  (∀ (p : Pfx) (s s1 : State) (e : TlbEnt), Outside s p →
    s.dataPage s.myCore s.me.asid.toNat s.me.tsave.toNat = .ok (e, s1) → bits (s1.frameAt e s.me.tsave.toNat 4) 15 12 ≤ 8 →
    ∃ t, exec (.eret p) s = .next t ∧ Returned s s1 t e ((s1.frameAt e s.me.tsave.toNat 4).testBit 16)) ∧
  (∀ (p : Pfx) (a : Fin 32) (s s1 : State) (e : TlbEnt), Outside s p → Full s [a] →
    s.dataPage s.myCore s.me.asid.toNat s.me.tsave.toNat = .ok (e, s1) → bits (s1.frameAt e s.me.tsave.toNat 4) 15 12 ≤ 8 →
    ∃ t, exec (.step p a) s = .next t ∧ Returned s s1 t e ((s.me.rd a).getLsbD 0)) ∧
  (∀ (p : Pfx) (a : Fin 32) (s s1 : State) (e : TlbEnt), Outside s p →
    s.dataPage s.myCore s.me.asid.toNat s.me.tsave.toNat = .ok (e, s1) → 8 < bits (s1.frameAt e s.me.tsave.toNat 4) 15 12 →
    exec (.eret p) s = .next (s1.trap 1 0 (Instr.eret p).nwords) ∧
    (Full s [a] → exec (.step p a) s = .next (s1.trap 1 0 (Instr.step p a).nwords))) ∧
  (∀ (p : Pfx) (d a : Fin 32) (s s1 : State) (e : TlbEnt) (k : Nat), Outside s p → Full s [a] → s.me.occ = true →
    k = s.myCore * 16 + (s.me.rd a).toNat % 16 → k % 16 ≠ 0 → (s.slot k).occ = false →
    s.dataPage s.myCore (s.slot k).asid.toNat (s.slot k).tsave.toNat = .ok (e, s1) →
    canonical (s1.frameAt e (s.slot k).tsave.toNat 2 / 2 * 2) = true → bits (s1.frameAt e (s.slot k).tsave.toNat 4) 15 12 ≤ 8 →
    ∃ t, exec (.eretStart p d a) s = .next t ∧ (t.slot k).occ = true ∧ (t.slot k).park = none ∧
      (t.slot k).pc = BitVec.ofNat 64 (s1.frameAt e (s.slot k).tsave.toNat 2 / 2 * 2) ∧
      t.me = { endAt (s.me.wr d 0) (s.me.pc + BitVec.ofNat 64 (2 * (Instr.eretStart p d a).nwords)) with resv := t.me.resv }) ∧
  (∀ (p : Pfx) (d a : Fin 32) (s : State), Outside s p → Full s [a] → s.me.occ = true →
    let i := Instr.eretStart p d a
    let k := s.myCore * 16 + (s.me.rd a).toNat % 16
    (k % 16 = 0 ∨ (s.slot k).occ = true → exec i s = .next (retired s i.nwords fun t => t.wr d 1)) ∧
    ∀ e s1, k % 16 ≠ 0 → (s.slot k).occ = false →
      s.dataPage s.myCore (s.slot k).asid.toNat (s.slot k).tsave.toNat = .ok (e, s1) →
      canonical (s1.frameAt e (s.slot k).tsave.toNat 2 / 2 * 2) = false ∨
        8 < bits (s1.frameAt e (s.slot k).tsave.toNat 4) 15 12 →
      exec i s = .next (retired s1 i.nwords fun t => t.wr d 2))

/-- R317, R322, R363-R366: TLBINV takes the named translations and lines out of the TLBs and the L1s of its devices and parks
under cause 10, on the range widened to the pages removed; TLBPROBE reports a translation; CACHEOP takes the named lines out once
the thread's stores are home, an L2 line under a second key reaching DRAM; DOMSET makes the named rows be read again. Memory is
otherwise as before. The model's readings (log 6): TLBINV s2range drops every L1 line of the partition, while TLB entries that it
does not name stay; a home and its L2 line are one, but for a line under a second key, and l2p writes back the lines under every
key. -/
def Obligations.Maintenance : Prop :=
  (∀ (p : Pfx) (span : Bool) (d a b : Fin 32) (s : State), Outside s p → Full s [d] →
    let at_ := (s.me.rd a).toNat
    let n := min (s.me.rd b).toNat (2 ^ 64 - at_)
    let asid : BitVec 16 := (s.me.rd d).setWidth 16
    let pid := (s.me.rd d).toNat % 65536
    let shoots := fun (i : Instr) (who : Nat) (asid : Option (BitVec 16)) (lo hi : Nat) (ent : TlbEnt → Bool) (l1 : L1Line → Bool) =>
      ∃ t, exec i s = .next t ∧ SameBytes s t ∧
        (∃ lo' hi', lo' ≤ lo ∧ hi ≤ hi' ∧ (∀ ck, ∀ e ∈ (s.cluster ck).tlb, ent e = true → lo' ≤ e.vbase ∧ e.vbase + 2 ^ e.szlog ≤ hi') ∧
          t.me = { s.me with
            src := none, park := some (parkNow s 10 (.maint s.nextId who asid lo' hi' span) (.finish []) i.nwords false) }) ∧
        ∀ ck, devOf ck ∈ s.spanDevs s.myCluster span →
          (∀ e, e ∈ (t.cluster ck).tlb ↔ e ∈ (s.cluster ck).tlb ∧ ent e = false) ∧
          ∀ c, clusterOfCore c = ck → ∀ l, l ∈ (t.core c).l1 ↔ l ∈ (s.core c).l1 ∧ l1 l = false
    (Full s [a, b] → n ≠ 0 →
      shoots (.tlbinvRange p span d a b) s.myPid (some asid) at_ (at_ + n)
        (fun e => e.pid == s.myPid && e.asid == asid.toNat && meet e.vbase (2 ^ e.szlog) at_ n)
        (fun l => l.pid == s.myPid && l.asid == asid.toNat && meet (l.vline * 64) 64 at_ n) ∧
      shoots (.tlbinvS2range p span d a b) pid none 0 (2 ^ 64)
        (fun e => e.pid == pid && !e.remote && meet (e.part % 2 ^ 44) (2 ^ e.szlog) at_ n) (fun l => l.pid == pid)) ∧
    (Full s [a, b] → n = 0 →
      exec (.tlbinvRange p span d a b) s = .next (retired s (Instr.tlbinvRange p span d a b).nwords id) ∧
      exec (.tlbinvS2range p span d a b) s = .next (retired s (Instr.tlbinvS2range p span d a b).nwords id)) ∧
    shoots (.tlbinvAsid p span d a b) s.myPid (some asid) 0 (2 ^ 64) (fun e => e.pid == s.myPid && e.asid == asid.toNat)
      (fun l => l.pid == s.myPid && l.asid == asid.toNat) ∧
    shoots (.tlbinvPartition p span d a b) pid none 0 (2 ^ 64) (fun e => e.pid == pid) (fun l => l.pid == pid)) ∧
  (∀ (p : Pfx) (d a b : Fin 32) (s : State), Outside s p → Full s [a, b] →
    let i := Instr.tlbprobe p d a b
    let o := (s.me.rd b).toNat
    let r := s.probe s.myCore (if o.testBit 32 ∧ s.me.cls = 2 then bits o 31 16 else s.myPid) (o % 65536) (s.me.rd a).toNat
    let ends := fun (u : Slot) => (u.wr d (BitVec.ofNat 64 r.1)).wr a (BitVec.ofNat 64 r.2.1)
    (r.2.2 = true → exec i s = .next (retired s i.nwords ends)) ∧
    (r.2.2 = false → ∃ t, exec i s = .next t ∧ Finishes t i.nwords ends)) ∧
  (∀ (p : Pfx) (span : Bool) (a b : Fin 32) (s : State), Outside s p → Full s [a, b] →
    let at_ := (s.me.rd a).toNat
    let n := min (s.me.rd b).toNat (2 ^ 64 - at_)
    let named := fun (asid vline : Nat) => asid = s.me.asid.toNat ∧ 0 < n ∧ meet (vline * 64) 64 at_ n = true ∧
      (s.probe s.myCore s.myPid asid (vline * 64)).2.1 % 2 = 1
    let ops := [Instr.cacheopIc p span a b, .cacheopL1 p span a b, .cacheopCc p span a b, .cacheopL2v p span a b, .cacheopL2p p a b]
    (s.allHome s.cur = false → ∀ i ∈ ops, exec i s = .next (parked s 10 (.fence 6 false) .reissue i.nwords false)) ∧
    (s.allHome s.cur = true → ∀ i ∈ ops, ∃ t, exec i s = .next t ∧
      t.me = { s.me with src := none, park := some (parkNow s 10 .latency (.finish []) i.nwords false) } ∧
      (i ≠ .cacheopL2v p span a b → i ≠ .cacheopL2p p a b → SameBytes s t) ∧
      (i = .cacheopL2v p span a b → (s.l2.map (·.line)).Nodup → ∀ l ∈ s.l2, s.serials.get 0 l.line ≠ l.ser →
        let hit := devOfAddr (l.line * 64) ∈ s.spanDevs s.myCluster span ∧ 0 < n ∧ s.l2Named at_ n l = true
        (hit → l ∉ t.l2 ∧ t.serials.get 0 l.line = l.ser ∧ ∀ x, x / 64 = l.line → t.mem.read x = lineByte l.data x) ∧
        (¬ hit → l ∈ t.l2 ∧ ∀ x, x / 64 = l.line → t.mem.read x = s.mem.read x)) ∧
      (i = .cacheopL2p p a b →
        let hit := fun (line : Nat) => devOfAddr (line * 64) = s.myDev ∧ 0 < n ∧ meet (localOfAddr (line * 64)) 64 at_ n = true
        (∀ l ∈ t.l2, ¬ hit l.line) ∧ (∀ l ∈ s.l2, ¬ hit l.line → l ∈ t.l2) ∧
        ∀ x, t.mem.read x = s.mem.read x ∨ hit (x / 64) ∧ ∃ l ∈ s.l2, l.line = x / 64 ∧ t.mem.read x = lineByte l.data x) ∧
      ∀ c, s.pidOf (clusterOfCore c) = s.myPid → devOfCore c ∈ s.spanDevs s.myCluster span →
        (i = .cacheopIc p span a b → ∀ l, l ∈ (t.core c).ic ↔ l ∈ (s.core c).ic ∧ ¬ named l.asid l.vline) ∧
        (i = .cacheopL1 p span a b → ∀ l, l ∈ (t.core c).l1 ↔ l ∈ (s.core c).l1 ∧ ¬ named l.asid l.vline) ∧
        (i = .cacheopCc p span a b → ∀ l, l ∈ (t.cluster (clusterOfCore c)).konst ↔
          l ∈ (s.cluster (clusterOfCore c)).konst ∧ ¬ named l.asid l.vline))) ∧
  (∀ (p : Pfx) (row : Bool) (a b : Fin 32) (s : State), Outside s p → Full s (if row then [a, b] else [b]) →
    let i := if row then Instr.domsetRow p a b else .domsetAll p b
    let hit := fun (k : Nat) (r : Row) => s.pidOf (clusterOf k) = s.myPid ∧ devOfSlot k = s.myDev ∧
      r.asid = (s.me.rd b).toNat % 65536 ∧ (row = true → r.dom = (s.me.rd a).toNat % 256)
    ∃ t, exec i s = .next t ∧ SameBytes s t ∧ Finishes t i.nwords id ∧
      ∀ k, ((s.slot k).row = none → (t.slot k).row = none) ∧
        ∀ r, (s.slot k).row = some r → (t.slot k).row = some r ∧ ¬ hit k r ∨ (t.slot k).row = some Row.unloaded ∧ hit k r)

/-- R345, R346, R367-R370: FWSEND puts its message before the next core of a role and parks for the answer, fwsend.reply gives one;
STOPARM interrupts a core or arms the stop or the resume of clusters; SLPSET and WDSET set the sleep depth and the watchdogs. The
model's choices and readings: a core number of 1280 or above traps with cause 0x01 (log 15: DEDUCED); a message of an uncommitted node
to role 5, by which it asks for an Ethernet send, is held until its node commits, and answered with a free value (log 49). -/
def Obligations.MessagesStopsWatchdogs : Prop :=
  (∀ (p : Pfx) (d a b : Fin 32) (s : State), Outside s p → Full s [a, b] →
    let i := Instr.fwsend p d a b
    let role := (s.me.rd b).toNat % 8
    (6 ≤ role → exec i s = .next (retired s i.nwords fun t => t.wr d (BitVec.allOnes 64))) ∧
    ∀ bs s', role < 6 → (s.me.rd a).toNat % 16 = 0 → Reads s (s.me.tagOf a) (s.me.rd a) 48 bs s' →
      (∀ q, role = 5 → s'.uncommitted s.cur = some q → ∃ t x, exec i s = .next t ∧
        t.me.park = some (parkNow s 1 .latency (.finish [.g d x]) i.nwords false) ∧
        ∃ h ∈ (t.part q.pid).heldFx, h.fx = .mail s.myDev 5 (s.mailRecord 5 bs)) ∧
      let awaits := fun (t : State) => t.me.park = some (parkNow s 1 (.mail s.myDev) (.finish [.g d 0]) i.nwords false)
      ((s'.nextRole s.myDev role).1 = none → (role = 5 → s'.uncommitted s.cur = none) → ∃ t, exec i s = .next t ∧ awaits t) ∧
      ∀ c, (s'.nextRole s.myDev role).1 = some c → (role = 5 → s'.uncommitted s.cur = none) →
        (s.admits s.myPid (clusterOfCore c) (some 17) = true → ∃ t, exec i s = .next t ∧ awaits t ∧
          (t.core c).mail = (s'.core c).mail ++ [s.mailRecord role bs]) ∧
        (s.admits s.myPid (clusterOfCore c) (some 17) = false →
          exec i s = .next (((s'.nextRole s.myDev role).2.countDrop (clusterOfCore c)).trap 7 (s.me.rd a) i.nwords))) ∧
  (∀ (p : Pfx) (d a b : Fin 32) (s : State), Outside s p → Full s [a, b] →
    let i := Instr.fwsendReply p d a b
    let tk := s.me.rd a
    (s.slotOfName s.myDev tk = none ∨ bits tk.toNat 63 40 ≠ 0 → exec i s = .next (retired s i.nwords fun t => t.wr d 0x16)) ∧
    ∀ k, s.slotOfName s.myDev tk = some k → bits tk.toNat 63 40 = 0 →
      exec i s = .next (retired (s.mailAnswer k (tk.toNat % 65536) (s.me.rd b)).2 i.nwords fun t =>
        t.wr d (BitVec.ofNat 64 (s.mailAnswer k (tk.toNat % 65536) (s.me.rd b)).1))) ∧
  (∀ (p : Pfx) (a : Fin 32) (s : State), Outside s p → Full s [a] →
    let i := Instr.stoparmCore p a
    let j := (s.me.rd a).toNat % 2048
    let c := s.myDev * 1280 + j
    (1280 ≤ j → exec i s = .next (s.trap 1 0 i.nwords)) ∧
    (j < 1280 → 2 ≤ s.me.cls.toNat ∨ s.pidOf (clusterOfCore c) = s.myPid →
      exec i s = .next (if c = s.myCore then (retired s i.nwords id).interruptCore c
        else parked (s.interruptCore c) 1 .latency (.finish []) i.nwords false)) ∧
    (j < 1280 → s.me.cls.toNat < 2 → s.pidOf (clusterOfCore c) ≠ s.myPid → exec i s = .next (s.trap 4 0 i.nwords))) ∧
  (∀ (p : Pfx) (stop : Bool) (d a b : Fin 32) (s : State), Outside s p → Full s [d, a, b] →
    let i := if stop then Instr.stoparmStop p d a b else .stoparmResume p d a b
    let n := (s.me.rd d).toNat
    let arm := fun (u : State) (ck : Nat) (x : Cluster) =>
      if stop then (if x.stopAt.isSome then x else { x with armStop := some { at_ := (s.me.rd a).toNat } })
      else if u.resumable ck then { x with armResume := some { at_ := (s.me.rd a).toNat } } else x
    let answers := fun (u : State) (x : Word) => ∃ t, exec i s = .next t ∧
      unlinked t = unlinked (parked u 1 .latency (.finish [.g d x]) i.nwords false)
    (n = 0 ∨ 512 < n → exec i s = .next (retired s i.nwords fun t => t.wr d 1)) ∧
    ∀ bs s', 0 < n → n ≤ 512 → (s.me.rd b).toNat % 32 = 0 → Reads s (s.me.tagOf b) (s.me.rd b) (32 * n) bs s' →
      (s'.stopEntries s.myDev bs n = none → answers s' 1) ∧
      ∀ es, s'.stopEntries s.myDev bs n = some es →
        let r := s'.stopClusters s.myDev es
        ((∃ ck ∈ r.1, s'.pidOf ck = 0) → answers s' 2) ∧
        ((∀ ck ∈ r.1, s'.pidOf ck ≠ 0) → r.2 = true → answers (r.1.foldl (fun u ck => u.modCluster ck (arm u ck)) s') 0)) ∧
  (∀ (p : Pfx) (d a : Fin 32) (s : State), Outside s p → Full s [a] →
    exec (.slpset p d a) s = .next (retired (s.modCore s.myCore fun c =>
      { c with sdepth := if (s.me.rd a).toNat % 4 = 3 then c.sdepth else (s.me.rd a).setWidth 2 }) (Instr.slpset p d a).nwords
      fun t => t.wr d ((s.core s.myCore).sdepth.setWidth 64))) ∧
  (∀ (p : Pfx) (s : State), Outside s p →
    exec (.wdsetKick p) s = .next (retired (s.modDev s.myDev fun d => { d with dogs := d.dogs.map fun e =>
      if e.1 = s.myPid then (e.1, { e.2 with left := e.2.period, frac := 0 }) else e }) (Instr.wdsetKick p).nwords id)) ∧
  (∀ (p : Pfx) (a b : Fin 32) (s : State), Outside s p → Full s [a, b] →
    let n := (s.me.rd a).toNat % 2 ^ 32
    let pid := (s.me.rd b).toNat % 65536
    exec (.wdsetArm p a b) s = .next (retired (s.modDev s.myDev fun d =>
      { d with dogs := if n = 0 then d.dogs.del pid else d.dogs.set pid { period := n, left := n, frac := 0 } })
      (Instr.wdsetArm p a b).nwords id)) ∧
  (∀ (p : Pfx) (d b : Fin 32) (s : State), Outside s p → Full s [b] →
    let pid := if s.me.cls.toNat < 2 then s.myPid else (s.me.rd b).toNat % 65536
    exec (.wdsetRead p d b) s = .next (retired s (Instr.wdsetRead p d b).nwords fun t =>
      t.wr d (BitVec.ofNat 64 ((((s.dev s.myDev).dogs.find? (·.1 == pid)).map (·.2.left)).getD 0))))

/-- R22, R31, R32, R119, R320, R345: the event a thread is parked on makes it ready and wakes its core; its turn then makes what
is left of its instruction, which completes, issues again, or traps; a trap that has waited for a frozen leaf is delivered. A park
that outlasts k.parkto is withdrawn and traps 0x11; a held interrupt traps 0x21 outside handlers; an encoding or a fetch that
fails traps with its cause. -/
def Obligations.ParksEnd : Prop :=
  (∀ (s : State) (k : Nat) (q : Park), s.ev = some (.parkedResume k) → (s.slot k).park = some q →
    let s1 := { s with cur := k }
    (∀ ws, q.rest = .finish ws → (s.slot k).sstep = false → (∀ w ∈ ws, s1.wrBad w = none) →
      exec .parkedResume s = .next (retired (ws.foldl (fun u w => u.applyWr k w) s1) q.nw id)) ∧
    (q.rest = .reissue ∨ q.rest = .again → exec .parkedResume s = .next (s1.modMe fun t => { t with park := none })) ∧
    let s2 := s1.modMe fun t => { t with park := none }
    (∀ cause addr ve se, q.rest = .fault cause addr → DeliversAt (s2.abort k 6) k cause ve se →
      ∃ t, exec .parkedResume s = .next t ∧ TookTrapAt (s2.abort k 6) t k ve se (trapInfo (s.slot k) cause addr q.nw)) ∧
    ∀ i ve se, q.rest = .trap i → DeliversAt s2 k i.cause ve se →
      ∃ t, exec .parkedResume s = .next t ∧ TookTrapAt s2 t k ve se i) ∧
  (∀ (s : State) (k : Nat) (q : Park), s.ev = some (.parkEvent k) → (s.slot k).park = some q → q.arrived = false →
    (s.waitOver k q.wait = false → exec .parkEvent s = .next s) ∧
    (s.waitOver k q.wait = true →
      (q.wait ≠ .answers → q.wait ≠ .gangEnd → (∀ u d, q.wait ≠ .resv u d) → (∀ ps d, q.wait ≠ .pieces ps d) →
        (∀ e ws, q.wait ≠ .words e ws) →
        exec .parkEvent s = .next (awake s k q q.rest)) ∧
      (∀ u d, q.wait = .resv u d →
        exec .parkEvent s = .next (awake s k q (.finish [.g d (resvMask (s.slot k).resv), .resvEmpty]))) ∧
      (q.wait = .gangEnd →
        exec .parkEvent s = .next (awake (s.modCluster (clusterOf k) fun x => { x with gang := none }) k q q.rest)) ∧
      (q.wait = .answers → ∃ t, exec .parkEvent s = .next t ∧ t.slot k = { s.slot k with park := some { q with wait := .turn } } ∧
        (t.die (dieOf (clusterOf k))).turnQ = (s.die (dieOf (clusterOf k))).turnQ ++ [k]))) ∧
  (∀ (s : State) (k : Nat) (q : Park), s.ev = some (.parkTimeout k) → (s.slot k).park = some q →
    let out := q.arrived = false ∧ q.exempt = false ∧ (s.slot k).inh = false ∧ (s.slot k).stopped = false ∧
      (s.cluster (clusterOf k)).hold = false ∧ (s.slot k).k.parkto ≠ 0 ∧ q.since + (s.slot k).k.parkto.toNat < s.clock
    let s1 := (s.withdraw k).rouse (coreOf k)
    (¬ out → exec .parkTimeout s = .next s) ∧
    ∀ ve se, out → DeliversAt (s1.abort k 6) k 0x11 ve se →
      ∃ t, exec .parkTimeout s = .next t ∧ TookTrapAt (s1.abort k 6) t k ve se (trapInfo (s.slot k) 0x11 0 q.nw)) ∧
  (∀ (s : State) (k : Nat), s.ev = some (.coreInterruptTake k) →
    let s1 := (s.halt k).modSlot k fun t => { t with heldInt := false }
    ((s.slot k).inh = true → exec .coreInterruptTake s = .next s) ∧
    ((s.slot k).park = none → s.halt k = s.abort k 4) ∧
    ∀ ve se, (s.slot k).inh = false → DeliversAt s1 k 0x21 ve se →
      ∃ t, exec .coreInterruptTake s = .next t ∧ TookTrapAt s1 t k ve se
        { cause := 0x21, addr := 0, nw := 0, pc := (s1.slot k).pc, rpc := (s1.slot k).pc, rec_ := none }) ∧
  (∀ (s : State) (k n : Nat) (q : Park), s.ev = some (.frozenLeafReread k) → (s.slot k).park = some q → q.wait = .frozen n →
    exec .frozenLeafReread s = .next (awake s k q q.rest)) ∧
  (∀ (s : State) (cause nw : Nat) (addr : Word) (ve se : TlbEnt), DeliversAt (s.abort s.cur 6) s.cur cause ve se →
    let s1 := s.abort s.cur 6
    let takes := fun (i : Instr) =>
      ∃ t, exec i s = .next t ∧ TookTrapAt s1 t s.cur ve se (trapInfo s.me cause addr nw)
    (s.ev = some (.unallocatedEncoding cause addr nw) → takes .unallocatedEncoding) ∧
    (s.ev = some (.fetchFault cause addr nw) → takes .fetchFault))

/-- R34, R35, R37, R41, R47, R300, R341: a fill reaches the slot of its name: it fills the register and its sender is answered 0;
a vacant slot or another generation answers 0x16 and is counted; a slot in its handler holds it, and a full buffer leaves it on
the network; a router that does not admit it drops it, and its sender is told (log 48: the model's choice of the status 8 for a
FILL). The dispenser gives the oldest item that a slot waits for to it. An idle core goes to sleep, and a fill or an event wakes
it. -/
def Obligations.FillsItemsAndSleep : Prop :=
  (∀ (s : State) (id : Nat) (m : Msg) (w x : Word) (r : Fin 32) (d : Option (Fin 32)) (job : Option (Nat × Nat)),
    s.ev = some (.fillArrival id) → s.msg id = some m → m.kind = .fill w r x d job →
    let named := fun (k : Nat) => s.slotOfName (devOfSlot m.k) w = some k ∧ (s.core (coreOf k)).asleep = false ∧
      (s.core (coreOf k)).wakeEnd = none ∧ s.admits m.pid (clusterOf k) none = true
    let room := fun (k : Nat) => (s.slot k).held.length < 32 ∧ s.savePage k ≠ .frozen
    (s.slotOfName (devOfSlot m.k) w = none →
      ∃ t, exec .fillArrival s = .next t ∧ Gone t id ∧ ∀ k, t.slot k = toldFill id 0x16 (s.slot k)) ∧
    ∀ k, named k →
      let u := s.slot k
      let here := u.occ = true ∧ u.gen.toNat = w.toNat % 65536
      (here → u.inh = false → ∃ t, exec .fillArrival s = .next t ∧ Gone t id ∧ SameBytes s t ∧
        ∀ j, t.slot j = toldFill id 0 (if j = k then filled s k r x u else s.slot j)) ∧
      (¬ here → (u.inh = false ∨ room k) → ∃ t, exec .fillArrival s = .next t ∧ Gone t id ∧ SameBytes s t ∧
        (∀ j, t.slot j = toldFill id 0x16 (s.slot j)) ∧
        (t.part (s.pidOf (clusterOf k))).discards = (s.part (s.pidOf (clusterOf k))).discards + 1) ∧
      (here → u.inh = true → room k → ∃ t, exec .fillArrival s = .next t ∧ Gone t id ∧
        (t.slot k).held = u.held ++ [{ reg := r, val := x, sender := some id }] ∧ (t.slot k).g = u.g) ∧
      (u.inh = true → 32 ≤ u.held.length → exec .fillArrival s = .next s)) ∧
  (∀ (s : State) (id : Nat) (m : Msg) (w x : Word) (r : Fin 32) (d : Option (Fin 32)) (job : Option (Nat × Nat)) (k : Nat),
    s.ev = some (.fillArrival id) → s.msg id = some m → m.kind = .fill w r x d job →
    s.slotOfName (devOfSlot m.k) w = some k → (s.slot k).inh = false → s.admits m.pid (clusterOf k) none = false →
    ∃ t, exec .fillArrival s = .next t ∧ Gone t id ∧ SameBytes s t ∧
      ∀ j, t.slot j = toldFill id (if job.isSome then 7 else 8) (s.slot j)) ∧
  (∀ (s : State) (id : Nat) (m : Msg) (w x : Word) (r : Fin 32) (d : Option (Fin 32)) (job : Option (Nat × Nat)) (k : Nat),
    s.ev = some (.fillArrival id) → s.msg id = some m → m.kind = .fill w r x d job →
    s.slotOfName (devOfSlot m.k) w = some k → (s.slot k).inh = false → s.admits m.pid (clusterOf k) none = true →
    ((s.core (coreOf k)).asleep = true ∨ (s.core (coreOf k)).wakeEnd ≠ none) →
    ∃ t, exec .fillArrival s = .next t ∧ Gone t id ∧ (t.core (coreOf k)).heldFills = (s.core (coreOf k)).heldFills ++ [m] ∧
      (∀ j, t.slot j = s.slot j) ∧ ((s.core (coreOf k)).asleep = true → Event.sleepWake (coreOf k) ∈ t.agenda)) ∧
  (∀ (s : State) (ck k : Nat) (it : Item) (pre post : List Item), s.ev = some (.dispense ck) →
    (s.cluster ck).items = pre ++ it :: post → (∀ i ∈ pre, s.waiter ck i = none) → s.waiter ck it = some k →
    (k % 16 ≠ 0 ∧ clusterOf k = ck ∧ (s.slot k).waitsWork = true ∧ (s.slot k).asid = it.asid ∧
      ∀ c, it.core = some c → coreOf k = ck * 8 + c.val) ∧
    ((s.slot k).sstep = false → ∃ t, exec .dispense s = .next t ∧ SameBytes s t ∧ (t.cluster ck).items = pre ++ post ∧
      (t.cluster ck).served = Fin.ofNat 8 (coreOf k) ∧
      (t.slot k).pc = it.pc ∧ (t.slot k).park = none ∧ (t.slot k).gen = (s.slot k).gen + 1 ∧ (t.slot k).seq = 0 ∧
      ∀ r : Fin 32, r ≠ 0 →
        (r.val ≤ it.args.length → (t.slot k).g[r] = GReg.of (it.args.getD (r.val - 1) 0)) ∧
        (it.args.length < r.val → r.val ≤ 8 → (t.slot k).full r = false) ∧
        (it.args.length < r.val → 8 < r.val → (t.slot k).g[r] = (s.slot k).g[r]))) ∧
  (∀ (s : State) (c : Nat),
    (s.ev = some (.sleepEntry c) → exec .sleepEntry s = .next (if s.coreIdle c = true ∧ (s.core c).sdepth ≠ 0
      then s.modCore c fun x => { x with asleep := true, slept := x.sdepth, idleSince := none } else s)) ∧
    (s.ev = some (.sleepWake c) → (s.core c).asleep = true → exec .sleepWake s = .next (s.modCore c fun x =>
      { x with asleep := false, wakeEnd := some (s.clock - 1 + if x.slept = 2 then 420 else 24) })) ∧
    (s.ev = some (.wakeEnd c) → ∃ t, exec .wakeEnd s = .next t ∧ (t.core c).wakeEnd = none ∧
      ((s.core c).heldFills = [] → t = s.modCore c fun x => { x with wakeEnd := none }) ∧
      ∀ m w x r d job k, (s.core c).heldFills = [m] → m.kind = .fill w r x d job → (s.core c).asleep = false →
        s.slotOfName (devOfSlot m.k) w = some k → coreOf k = c → (s.slot k).occ = true →
        (s.slot k).gen.toNat = w.toNat % 65536 → (s.slot k).inh = false →
        s.admits m.pid (clusterOf k) none = true →
        ∀ j, t.slot j = toldFill m.id 0 (if j = k then filled s k r x (s.slot k) else s.slot j)))

/-- R156, R158, R159, R161, R167, R255, R256, R262, R263, R265, R267, R392: an invalidation takes the line out of the other L1s of
its die; the oldest operation of a lane is performed at its home and acknowledged, a store by pieces of 32 bytes which, once
begun, go on to the end, or it breaks the lane with a record, after which the later ones are discarded and counted; a record
reaches its core while it has room; a moved operation goes out again under its new translation; the bank serves its oldest fitting
waiter; a scope-miss clears its tag once what its core owed is home, and lets the acquires go whose own waits are over. The
model's choices (log 46): which piece comes next is the oracle's next choice, and a store takes a bad line whole. -/
def Obligations.HomesAndLanes : Prop :=
  (∀ (s : State) (die due line w : Nat) (rest : List Notice), s.ev = some (.invalidationDelivery die) →
    (s.die die).notices = .inval due line w :: rest →
    ∃ t, exec .invalidationDelivery s = .next t ∧ SameBytes s t ∧ (t.die die).notices = rest ∧
      ∀ c l, l ∈ (t.core c).l1 ↔ l ∈ (s.core c).l1 ∧
        ¬ (l.pline = line ∧ dieOf (clusterOfCore c) = die ∧
            (s.homeDie (line * 64) = die → s.sameL1 c (coreOf w) = false))) ∧
  (∀ (s : State) (id line w op : Nat) (m : Msg), s.ev = some (.remoteStoreAck id) → s.msg id = some m → m.kind = .ack line w op →
    let die := dieOf (clusterOf m.k)
    ∃ t, exec .remoteStoreAck s = .next t ∧ Gone t id ∧ SameBytes s t ∧
      (t.die die).notices = (s.die die).notices ++ [.inval (s.clock + 23) line w]) ∧
  (∀ (s : State) (c line : Nat), s.ev = some (.leaseExpiry c line) →
    ∃ t, exec .leaseExpiry s = .next t ∧ SameBytes s t ∧
      ∀ l, l ∈ (t.core c).l1 ↔ l ∈ (s.core c).l1 ∧ ¬ (l.pline = line ∧ ∃ e, l.lease = some e ∧ e < s.clock)) ∧
  (∀ (s : State) (i : Nat) (l : Machine.Lane) (e : SqEntry) (rest : List SqEntry), s.ev = some (.postedOpApply i) →
    s.lanes[i]? = some l → l.flight = e :: rest →
    (∀ a key, l.broken = none → s.postedRest l e = .ok (a, key) →
      let ch := match e.op with
        | .store (_ :: _ :: _) => s.choose.1
        | _ => 0
      let p := e.op.piece (e.badAt s key a) ch
      let cells := s.opCells key a (p.1.rebase e.pa a)
      (∀ c c' cs, e.op = .store (c :: c' :: cs) → ∃ b, p.1 = .store ((c :: c' :: cs).filter (inPiece (e.badAt s key a) b ·.1)) ∧
        (p.2 = none ↔ ∀ x ∈ c :: c' :: cs, inPiece (e.badAt s key a) b x.1 = true)) ∧
      (cells.Pairwise (fun c c' => c.1 ≠ c'.1 ∧ isLocalWin (localOfAddr c.1) = isLocalWin (localOfAddr c'.1)) →
      ∃ t, exec .postedOpApply s = .next t ∧ Wrote s t key cells ∧ t.lanes[i]? = some (match p.2 with
        | some op => { l with flight := { e with op := op } :: rest, begun := some (a, key) }
        | none => { l with flight := rest, acks := l.acks ++ [(e.id, none)], begun := none }))) ∧
    (∀ c, l.broken = none → s.postedRest l e = .fault c →
      let r : RemRec := { va := e.va, cause := BitVec.ofNat 8 c, dev := BitVec.ofNat 9 (s.numOf l.dst), seq := e.seq,
                          lastseq := e.seq, ndisc := 0 }
      ∃ t, exec .postedOpApply s = .next t ∧ SameBytes s t ∧ t.lanes[i]? = some { l with flight := rest, broken := some r }) ∧
    (l.broken = none → s.postedRest l e = .frozen → exec .postedOpApply s = .next s) ∧
    (l.broken.isSome = true → ∃ t, exec .postedOpApply s = .next t ∧ SameBytes s t ∧
      t.lanes[i]? = some { l with flight := rest, acks := l.acks ++ [(e.id, some e.seq)] })) ∧
  (∀ (s : State) (i id : Nat) (l : Machine.Lane) (seq : Option (BitVec 32)) (rest : List (Nat × Option (BitVec 32))),
    s.ev = some (.postedAck i) → s.lanes[i]? = some l → l.acks = (id, seq) :: rest →
    (seq = none → exec .postedAck s = .next ((s.modLane i fun l => { l with acks := rest }).tidyLanes)) ∧
    ∀ q, seq = some q → l.delivered = true → (s.slot l.k).gen = l.gen →
      ∃ t, exec .postedAck s = .next t ∧ ∀ r ∈ (s.slot l.k).recs, r.dev = BitVec.ofNat 9 (s.numOf l.dst) →
        { r with ndisc := r.ndisc + 1, lastseq := if (r.lastseq - r.seq).toNat < (q - r.seq).toNat then q else r.lastseq } ∈
          (t.slot l.k).recs) ∧
  (∀ (s : State) (i : Nat) (l : Machine.Lane), s.lanes[i]? = some l →
    (∀ r, s.ev = some (.remoteFaultRecord i) → l.broken = some r → l.delivered = false → l.refused = false →
      (s.slot l.k).gen = l.gen →
      ((s.slot l.k).recs.length < 4 → ∃ t, exec .remoteFaultRecord s = .next t ∧
        t.slot l.k = { s.slot l.k with recs := (s.slot l.k).recs ++ [r] } ∧
        (l.dst ≠ devOfSlot l.k → t.lanes[i]? = some { l with delivered := true })) ∧
      (4 ≤ (s.slot l.k).recs.length → exec .remoteFaultRecord s = .next (s.modLane i fun l => { l with refused := true }))) ∧
    (s.ev = some (.remoteRecordResend i) →
      exec .remoteRecordResend s = .next (s.modLane i fun l => { l with refused := false }))) ∧
  (∀ (s : State) (id n : Nat) (m : Msg) (kind : MsgKind), s.ev = some (.movedAnswer id) → s.msg id = some m →
    m.kind = .moved kind n →
    let c := coreOf m.k
    let asid := (s.slot m.k).asid.toNat
    let va := kind.va.toNat
    let put := fun (x : MsgKind) => s.net.map fun y => if y.id = id then { y with kind := x } else y
    let tr := ((s.rereadAt c asid va).translate c asid va).bind fun e =>
      (e.2.resolve e.1 va (some (s.msgCls m kind))).bind fun p => .ok (p, e.2)
    (∀ e s', tr = .ok (e, s') → s'.mayReach (clusterOf m.k) (e.pa va) = true → s'.routeUp (devOfSlot m.k) e.dev = true →
      s'.walled (clusterOf m.k) (s'.pidOf (clusterOf m.k)) (e.pa va) = false →
      ∃ t, exec .movedAnswer s = .next t ∧ SameBytes s t ∧ t.net = put (kind.rebase (e.pa va) e.key)) ∧
    (tr = .frozen → exec .movedAnswer s = .next { s with net := put (.moved kind (s.clock + 256)) }) ∧
    (∀ c, tr = .fault c → (∀ e, kind ≠ .op e) → ∃ t, exec .movedAnswer s = .next t ∧
      Replied s t m.k m.id (.fault c kind.va) ∧ Gone t m.id)) ∧
  (∀ (s : State) (word ck : Nat) (b : BankWait), s.ev = some (.feWaiterService word) → s.feNext word = some (ck, b) →
    isLocalWin (localOfAddr (word * 8)) = true → (b.store = none → s.poisonOf 0 (word * 8) 8 = none) → (s.clusters.map (·.1)).Nodup →
    ((s.clusters.flatMap fun x => x.2.bank).filter (·.k == b.k)).length = 1 →
    b.word = word ∧ b.full = s.wordFull (word * 8) ∧
    ∃ t, exec .feWaiterService s = .next t ∧ (t.cluster ck).bank = (s.cluster ck).bank.erase b ∧
      t.wordFull (word * 8) = b.leave ∧ SameFullBut s t [word * 8] ∧
      (b.store = none → SameBytes s t) ∧ (∀ x, b.store = some x → Stored s t (cellsAt (word * 8) (toBytes 8 x.toNat))) ∧
      let ws := if b.store.isSome then [] else [Wr.g b.d (BitVec.ofNat 64 (s.plainAt (word * 8) 8))]
      let served := fun (p : Park) => { p with wait := .time (p.since + 14), exempt := true, rest := .finish ws }
      t.slot b.k = { s.slot b.k with resv := (t.slot b.k).resv, park := (s.slot b.k).park.map served,
                                     seen := if b.store.isSome then (s.slot b.k).seen
                                       else max (s.slot b.k).seen (s.quiet (coreOf b.k)) }) ∧
  (∀ (s : State) (id : Nat) (m : Msg) (line dev upto : Nat) (tag : RelTag), s.ev = some (.scopeMissMessage id) →
    s.msg id = some m → m.kind = .scopeMiss line tag dev upto →
    ∃ t, exec .scopeMissMessage s = .next t ∧ Gone t id ∧ t.nextId = s.nextId + 1 ∧
      (t.core tag.core).misses = (s.core tag.core).misses ++ [{ m with kind := .scopeMiss line tag dev s.nextId }]) ∧
  (∀ (s : State) (c : Nat) (m : Msg) (rest : List Msg) (line dev upto : Nat) (tag : RelTag),
    s.ev = some (.scopeMissAnswer c) → (s.core c).misses = m :: rest → m.kind = .scopeMiss line tag dev upto →
    (s.missMet c dev upto = false → exec .scopeMissAnswer s = .next s) ∧
    (s.missMet c dev upto = true →
      let ids := s.missesMet c line tag
      m.id ∈ ids ∧ ∃ t, exec .scopeMissAnswer s = .next t ∧ SameBytes s t ∧ t.tags.find? (·.1 == line) ≠ some (line, tag) ∧
        (∀ x ∈ (t.core c).misses ++ t.net, x.id ∉ ids) ∧
        ∀ k q id, (s.slot k).park = some q → q.wait = .reply id → id ∈ ids →
          t.slot k = { s.slot k with park := some { q with wait := .latency } })) ∧
  (∀ (s : State) (line : Nat) (tag : RelTag), s.ev = some (.tagEvictionRepair line) →
    s.tags.find? (·.1 == line) = some (line, tag) →
    exec .tagEvictionRepair s = .next (s.send (tag.core * 16) (.scopeMiss line tag anyDev 0))) ∧
  (∀ (s : State) (c : Nat), s.ev = some (.grantInvalidation c) →
    ∃ t, exec .grantInvalidation s = .next t ∧ SameBytes s t ∧ t.revokes = s.revokes.filter (·.2 != c) ∧
      ∀ g, g ∈ (t.core c).grants ↔ g ∈ (s.core c).grants ∧ (g.pa, c) ∉ s.revokes)

/-- R179, R180, R182, R184, R270, R287: a region's access at its home slice records it, narrows it against the line's positions and
against every region the table names, and answers a read with its own bytes over the committed ones; narrowings reach their core
together, and an empty interval aborts with code 1; a broadcast turn fixes the final position at eb.lo and sends it, or aborts; a
final position commits its lines together and narrows its neighbours, of which those before it, unless serial, abort (log 21: the
model's choice); the serial token goes to the oldest request. -/
def Obligations.RegionEvents : Prop :=
  (∀ (s : State) (id rid line key lo hi k : Nat) (m : Msg) (acc : RegAcc) (r : Region), s.ev = some (.regionAccessAtSlice id) →
    s.msg id = some m → m.kind = .region rid line key lo hi acc → s.isMoved (s.pidOf (clusterOf m.k)) (line * 64) = false →
    s.lineAhead m = false → s.regionSlot rid = some k → (s.slot k).region = some r →
    let wr := match acc with
      | .write _ => true
      | .read .. => false
    (s.isSerial rid = true → s.finalAhead line wr = false) →
    let die := s.homeDie (line * 64)
    let slice := sliceOf (line * 64)
    let o := (s.die die).lineRec line
    let B := fun z => if z = rid then (lo, hi) else (s.die die).boundsAt slice z
    let before := fun (x y : Nat) => if s.isSerial y = true ∧ s.isSerial x = false then (y, x) else (x, y)
    ∃ t, exec .regionAccessAtSlice s = .next t ∧ Gone t id ∧ SameBytes s t ∧
      (t.slot k).region = some { r with out := r.out - 1 } ∧
      (∀ d va pa n sg, acc = .read d va pa n sg → s.poisonOf key pa n = none →
        let x := extend sg n (ofBytes ((List.range n).map fun i =>
          ((r.writes.reverse.find? (·.1 == pa + i)).map (·.2)).getD (s.byteAt key (pa + i))))
        ∀ q, (s.slot k).park = some q → q.wait = .reply id →
          (t.slot k).park = some { q with wait := s.replyWait (coreOf k), rest := .finish [.g d x], via := [] }) ∧
      (wr = false → rid ∈ ((t.die die).lineRec line).readers ∧
        (rid, o.wp + 1, 2 ^ 48 - 1, rid) ∈ (t.core (coreOf k)).narrow) ∧
      (wr = true → rid ∈ ((t.die die).lineRec line).writers ∧
        (rid, max o.wp o.rp + 1, 2 ^ 48 - 1, rid) ∈ (t.core (coreOf k)).narrow) ∧
      ∀ y, y ≠ rid → y ∈ o.writers ∨ (wr = true ∧ y ∈ o.readers) →
        let e := if wr = true then before y rid else before rid y
        { slice := slice, r1 := e.1, r2 := e.2 } ∈ (t.die die).edges ∧
        (∀ j, s.regionSlot e.2 = some j → (e.2, (B e.1).1 + 1, 2 ^ 48 - 1, rid) ∈ (t.core (coreOf j)).narrow) ∧
        (s.isSerial e.1 = false →
          ∀ j, s.regionSlot e.1 = some j → (e.1, 0, (B e.2).2 - 1, rid) ∈ (t.core (coreOf j)).narrow)) ∧
  (∀ (s : State) (c k : Nat) (r : Region), s.ev = some (.narrowingArrival c) → coreOf k = c → (s.slot k).region = some r →
    s.regionSlot r.id = some k → (∀ j, (s.slot j).sstep = false) →
    let ns := (s.core c).narrow.filter (·.1 == r.id)
    let u := { s.slot k with eblo := ns.foldl (fun x n => max x n.2.1) (s.slot k).eblo,
                             ebhi := ns.foldl (fun x n => min x n.2.2.1) (s.slot k).ebhi }
    ∃ t, exec .narrowingArrival s = .next t ∧ SameBytes s t ∧ (t.core c).narrow = [] ∧
      t.slot k = if r.serial = false ∧ u.ebhi < u.eblo then abortedSlot s k 1 r u else u) ∧
  (∀ (s : State) (die k : Nat) (rest : List Nat), s.ev = some (.broadcastTurnGrant die) → (s.die die).turnOf = none →
    (s.die die).turnQ = k :: rest →
    let s1 := s.modDie die fun d => { d with turnQ := rest }
    let u := s.slot k
    ((s.slot k).region = none → exec .broadcastTurnGrant s = .next s1) ∧
    ∀ r, (s.slot k).region = some r → u.sstep = false →
      (∀ e ∈ r.wvas, s.isMoved (s.pidOf (clusterOf k)) (e.1 * 64) = false) → (∀ e ∈ r.wlines, s.homeDie (e.1 * 64) = die) →
      (s.commitReady k r = false → exec .broadcastTurnGrant s = .next (s1.modSlot k fun t =>
        { t with park := t.park.map fun p => { p with wait := .answers } })) ∧
      (s.commitReady k r = true →
        (r.serial = true ∨ u.eblo ≤ u.ebhi → ∃ t, exec .broadcastTurnGrant s = .next t ∧ SameBytes s t ∧
          (t.die (dieOf (clusterOf k))).notices = (s.die (dieOf (clusterOf k))).notices ++
            [.final (s.clock + 23) r.id u.eblo (coreOf k) r.serial u.rel r.writes r.wlines r.rlines] ∧
          (t.die die).turnOf = some k ∧ (t.die (dieOf (clusterOf k))).token ≠ some k ∧
          t.slot k = { u with region := none, streak := 0, lastF := u.eblo,
                              park := u.park.map fun p => { p with wait := .time (s.clock + 23), exempt := true } }) ∧
        (r.serial = false → u.ebhi < u.eblo → ∃ t, exec .broadcastTurnGrant s = .next t ∧ SameBytes s t ∧
          t.slot k = abortedSlot s k 1 r u))) ∧
  (∀ (s : State) (die due rid f core : Nat) (serial : Bool) (tag : Option RelTag) (cells : List Host.Cell) (wl : FMap Nat)
      (rl : List Nat) (rest : List Notice), s.ev = some (.finalPositionBroadcast die) →
    (s.die die).notices = .final due rid f core serial tag cells wl rl :: rest → (wl.map (·.1)).Nodup →
    (∀ j, (s.slot j).sstep = false) →
    ∃ t, exec .finalPositionBroadcast s = .next t ∧ (t.die die).turnOf = none ∧ (t.die die).cc = max (s.die die).cc (f + 1) ∧
      (∀ a key, (a / 64, key) ∈ wl →
        t.byteAt key a = ((cells.reverse.find? (·.1 == a)).map (·.2)).getD (s.byteAt key a)) ∧
      (∀ a, FMap.has wl (a / 64) = false → t.mem.read a = s.mem.read a) ∧
      (∀ l ∈ wl.map (·.1), f ≤ ((t.die die).lineRec l).wp ∧ (s.oracle = [] → ((t.die die).lineRec l).wp = f)) ∧
      (∀ k, ∀ r ∈ (t.slot k).resv, FMap.has wl r.line = true → r.written = true) ∧
      (∀ e ∈ (s.die die).edges, e.r1 = rid → ∀ k, s.regionSlot e.r2 = some k → (t.slot k).region = none ∨ f + 1 ≤ (t.slot k).eblo) ∧
      (∀ e ∈ (s.die die).edges, e.r2 = rid → e.r1 ≠ rid → s.isSerial e.r1 = false → ∀ k, s.regionSlot e.r1 = some k →
        (t.slot k).region = none) ∧
      (serial = true → ∀ l ∈ (s.die die).lines, FMap.has wl l.line = true → ∀ y ∈ l.readers, y ≠ rid → s.isSerial y = false →
        ∀ k, s.regionSlot y = some k → (t.slot k).region = none)) ∧
  (∀ (s : State) (die k : Nat) (q : Park) (rest : List Nat), s.ev = some (.serialTokenGrant die) → (s.die die).token = none →
    (s.die die).tokenQ = k :: rest → (s.slot k).park = some q →
    exec .serialTokenGrant s = .next (awake (s.modDie die fun d => { d with token := some k, tokenQ := rest }) k q q.rest))

/-- R42-R45, R209-R219, R223-R228: eight arrivals open their gang, or trap together; a stall stops a static gang's clocks and
moves its times on; the units of a slice start their oldest instruction and complete it, with the load, the clear, the move or the
count that it makes, a TRDA and a TWRA with a bank wait that the oracle chooses (log 5), and a latch buffer or a tile that took
bytes of a bad line keeps its cause for its consumer; a gang TMM adds each row's exact sum to every column; the Accord and the
Diffuser go on. The model's choices: the order of a TMM's faults and the fault address of a bad tile, 0 (log 36), and that an
elastic gang opens only when its status words may be written (log 47). -/
def Obligations.ArrayEvents : Prop :=
  (∀ (s : State) (ck : Nat) (a : GangArr) (rest : List GangArr), s.ev = some (.gangOpen ck) →
    (s.arrivals ck).bind (s.arrivalsNow ck) = some (a :: rest) →
    let same := ∀ b ∈ rest, s.sampled b = s.sampled a
    let grp := (s.slot a.k).k.tgrp.toNat
    let good := 80 ≤ grp ∧ grp % 80 = 0
    let fate : Rest := if same then (if good then .finish [] else .fault 0x0D 0) else .fault 0x0C 0
    ∃ t, exec .gangOpen s = .next t ∧ (∀ c ∈ coresIn ck, (t.core c).gangArr = none) ∧
      (∀ b ∈ a :: rest, ∀ q, (s.slot b.k).park = some q →
        (t.slot b.k).park = some { q with rest := fate, arrived := true }) ∧
      (same → good → ∃ g, (t.cluster ck).gang = some g ∧ g.elastic = a.elastic ∧ g.tfmt = (s.slot a.k).k.tfmt ∧
        g.tsca = (s.slot a.k).k.tsca ∧ g.tscw = (s.slot a.k).k.tscw ∧ g.tgrp = (s.slot a.k).k.tgrp ∧
        g.members = (a :: rest).map (fun b => (coreOf b.k % 8, b.k)) ∧ g.ended = []) ∧
      (¬ (same ∧ good) → (t.cluster ck).gang = (s.cluster ck).gang)) ∧
  (∀ (s : State) (ck : Nat),
    (s.ev = some (.gangStall ck) → s.hasStatic ck = true → (s.cluster ck).stall = none →
      exec .gangStall s = .next (s.modCluster ck fun x =>
        { x with stall := some s.clock, late := x.late || s.stallOver ck })) ∧
    (∀ t0, s.ev = some (.gangStallEnd ck) → (s.cluster ck).stall = some t0 →
      (s.stallOver ck = false → exec .gangStallEnd s = .next (s.modCluster ck fun x => { x with late := false })) ∧
      (s.stallOver ck = true → ∃ t, exec .gangStallEnd s = .next t ∧ (t.cluster ck).stall = none ∧
        ∀ c ∈ coresIn ck,
          (t.slice c).accEnd = (if t0 ≤ (s.slice c).accEnd then (s.slice c).accEnd + (s.clock - t0) else (s.slice c).accEnd) ∧
          (t.slice c).ldEnd = (if t0 ≤ (s.slice c).ldEnd then (s.slice c).ldEnd + (s.clock - t0) else (s.slice c).ldEnd)))) ∧
  (∀ (s : State) (c : Nat), s.ev = some (.arrayInstrStart c true) → (s.slice c).ldRun = none →
    (s.cluster (clusterOfCore c)).stall = none →
    ∀ o rest, (s.slice c).ldQ = o :: rest → s.footFree (clusterOfCore c) o.id = true → (s.slice c).accRun ≠ some (.tmm o.buf) →
    let d := if s.chunkZero o.pa && !s.hasStatic (clusterOfCore c) then 0 else 4
    ∃ t, exec .arrayInstrStart s = .next t ∧ (t.slice c).ldQ = rest ∧ (t.slice c).ldRun = some o ∧
      (t.slice c).ldEnd = s.clock + d ∧ ((t.slice c).latch o.buf).loaded = false ∧
      (t.slice c).latch (!o.buf) = (s.slice c).latch (!o.buf)) ∧
  (∀ (s : State) (c : Nat), s.ev = some (.arrayInstrStart c false) → (s.slice c).accRun = none →
    (s.cluster (clusterOfCore c)).stall = none →
    ∀ o rest, (s.slice c).accQ = o :: rest →
    ∃ t, exec .arrayInstrStart s = .next t ∧ SameBytes s t ∧ (t.slice c).accQ = rest ∧ (t.slice c).accRun = some o ∧
      (∀ a, o = .tzero a → (t.slice c).accEnd = s.clock + 1 ∧ (t.slice c).tiles[a] = { Tile.zero with ofp := true } ∧
        ∀ b, b ≠ a → (t.slice c).tiles[b] = (s.slice c).tiles[b]) ∧
      (∀ a la w, o = .twra a la w → (t.slice c).accEnd = s.clock + 16 + s.choose.1 ∧
        (t.slice c).tiles[a].tag = (if w.getLsbD 16 then some (w.setWidth 16) else none) ∧
        (t.slice c).tiles[a].bad = s.poisonOf 0 (scratchPa c la) 2048 ∧
        ∀ i : Fin 512, (t.slice c).tiles[a].cells[i] =
          BitVec.ofNat 32 (resCanon (ofBytes ((List.range 4).map fun j => s.mem.read (scratchPa c (la + (4 * i.val + j))))))) ∧
      (∀ a la, o = .trda a la → (t.slice c).accEnd = s.clock + 16 + s.choose.1 ∧ (t.slice c).tiles = (s.slice c).tiles) ∧
      ∀ d, o = .tdrain d → (t.slice c).accEnd = s.clock + 16 ∧ (t.slice c).tiles = (s.slice c).tiles) ∧
  (∀ (s : State) (c : Nat) (g : Gang) (e0 : Nat × TmmPend) (rest : List (Nat × TmmPend)), s.ev = some (.arrayInstrStart c false) →
    (s.slice c).accQ = [] → (s.cluster (clusterOfCore c)).gang = some g → s.gangTmm (clusterOfCore c) = some (e0 :: rest) →
    (∀ e ∈ e0 :: rest, (s.slice e.1).gated = false) →
    let ts := e0 :: rest
    let l := fun (e : Nat × TmmPend) => (s.slice e.1).latch e.2.buf
    let gi := (l e0).kc.toNat / (g.tgrp.toNat / 80)
    let rows := (List.range e0.2.rows.length).map fun j => ts.flatMap fun e => e.2.rows.getD j []
    (s.tmmFault g ts = none → ∃ t, exec .arrayInstrStart s = .next t ∧ ∀ e ∈ ts, (t.slice e.1).tmm = none ∧
      (t.slice e.1).accRun = some (.tmm e.2.buf) ∧ (t.slice e.1).tiles[e.2.acc].tag = some (BitVec.ofNat 16 gi) ∧
      (∀ i : Fin 512, (t.slice e.1).tiles[e.2.acc].cells[i] =
        match (if (l e).bytes.all (· == 0) = false ∧ e.2.row0 ≤ i.val / 32 then rows[i.val / 32 - e.2.row0]? else none) with
        | some r => BitVec.ofNat 32 (resAdd (s.slice e.1).tiles[e.2.acc].cells[i].toNat
            ((r.zipIdx.map fun x => (l e).weight (i.val % 32) x.2 * x.1.toInt).sum))
        | none => (s.slice e.1).tiles[e.2.acc].cells[i]) ∧
      (e.2.dif = false → ∀ q, (s.slot e.2.k).park = some q →
        (t.slot e.2.k).park = some { q with rest := .finish [], arrived := true })) ∧
    ∀ cause addr, s.tmmFault g ts = some (cause, addr) →
      ∃ t, exec .arrayInstrStart s = .next t ∧ SameBytes s t ∧ ∀ e ∈ ts, (t.slice e.1).tmm = none ∧
        (e.2.dif = false → ∀ q, (s.slot e.2.k).park = some q →
          (t.slot e.2.k).park = some { q with rest := .fault cause (BitVec.ofNat 64 addr), arrived := true })) ∧
  (∀ (s : State) (c : Nat), s.ev = some (.arrayInstrComplete c true) → (s.cluster (clusterOfCore c)).stall = none →
    s.statHeld c = false → ∀ o, (s.slice c).ldRun = some o → (s.slice c).ldEnd ≤ s.clock →
    ∃ t, exec .arrayInstrComplete s = .next t ∧ (t.slice c).ldRun = none ∧ (t.slice c).done = (s.slice c).done + 1 ∧
      ((t.slice c).latch o.buf).bytes = (List.range 512).map (fun i => s.mem.read (o.pa + i)) ∧
      ((t.slice c).latch o.buf).kc = o.kc ∧ ((t.slice c).latch o.buf).loaded = true ∧
      (((t.slice c).latch o.buf).bad = none ↔ ∀ l ∈ linesIn o.pa 512, s.badLine 0 l = none) ∧
      (((t.slice c).latch o.buf).illegal = none ↔ ∀ i, i < 512 → (s.mem.read (o.pa + i)).toNat < 243)) ∧
  (∀ (s : State) (c : Nat), s.ev = some (.arrayInstrComplete c false) → (s.cluster (clusterOfCore c)).stall = none →
    s.statHeld c = false → ∀ o, (s.slice c).accRun = some o → (s.slice c).accEnd ≤ s.clock →
    ∃ t, exec .arrayInstrComplete s = .next t ∧ (t.slice c).accRun = none ∧
      ((∀ d, o ≠ .tdrain d) → (t.slice c).done = (s.slice c).done + 1 ∧
        ∀ va pa key, (∀ a la, o ≠ .trda a la) → s.statAt c = some (va, pa, key) → Wrote s t key (cellsAt pa (toBytes 8
          (((s.slice c).done + 1) % 2 ^ 32 + if { s.slice c with accRun := none }.idle then 2 ^ 32 else 0)))) ∧
      (∀ a la, o = .trda a la → s.statAt c = none → Wrote s t 0 (cellsAt (scratchPa c la)
        (((s.slice c).tiles[a].cells.toList.flatMap fun w => toBytes 4 w.toNat) ++
          toBytes 8 (((s.slice c).tiles[a].tag.map fun g => 2 ^ 16 + g.toNat).getD 0))) ∧
        ∀ e, (s.slice c).tiles[a].bad = some e → ∀ l ∈ linesIn (scratchPa c la) 2048, FMap.get 0 t.poison l = e) ∧
      ∀ d, o = .tdrain d → SameBytes s t ∧
        (t.slice c).drains = (s.slice c).drains ++ [{ d := d, tile := (s.slice c).tiles[d.acc], stat := none }]) ∧
  (∀ (s : State) (c : Nat), s.ev = some (.arrayIdleGate c) → (s.core c).agate ≠ 0 →
    (s.slice c).lastTmm + (s.core c).agate.toNat ≤ s.clock →
    exec .arrayIdleGate s = .next (s.modSlice c fun x => { x with gated := true })) ∧
  (∀ (s : State) (c at_ : Nat) (x : Word) (a : AccArr) (q : Park), s.ev = some (.accordRelease c) → (s.core c).accArr = some a →
    a.release = some (at_, x) → at_ < s.clock → (s.slot a.k).park = some q →
    exec .accordRelease s = .next (awake (s.modCore c fun y => { y with accArr := none }) a.k q (.finish [.g a.d x]))) ∧
  (∀ (s : State) (c k : Nat) (r : DifRun) (x : Instr), s.ev = some (.diffuserIssue c) → (s.core c).dif.run = some r →
    (s.core c).dif.owner = some k → coreOf k = c → (s.slot k).stopped = false → (s.cluster (clusterOfCore c)).hold = false →
    s.difReady c (s.clock - 1) = true → (s.core c).dif.current r = some x →
    let n := (s.core c).dif.instrs.length
    let onward := fun (t : State) => (t.slot k).g = (s.slot k).g ∧
      (r.next + 1 < n → ∃ r', (t.core c).dif.run = some r' ∧ r'.next = r.next + 1 ∧ r'.rep = r.rep) ∧
      (¬ r.next + 1 < n → r.rep + 1 < r.total → ∃ r', (t.core c).dif.run = some r' ∧ r'.next = 0 ∧ r'.rep = r.rep + 1) ∧
      (¬ r.next + 1 < n → ¬ r.rep + 1 < r.total → (t.core c).dif.run = none)
    ((s.slot k).guard (recPfx x) = false → ∃ t, exec .diffuserIssue s = .next t ∧ SameBytes s t ∧ onward t) ∧
    ∀ (o : VOp) p m, x = o.instr p m → recordable x = true → (s.slot k).guard p = true →
      let v := { s with cur := k }.setSlot k { s.slot k with g := r.snap, src := none }
      let w := vecEnd v 0 o.srcs o.dst (o.mask v.me m) fun i xs old => o.lane v.me m i xs old
      StreamsReady v o.srcs o.regs [o.dst] →
      ∃ t, exec .diffuserIssue s = .next t ∧ SameBytes s t ∧ onward t ∧ (t.slot k).v = (w.slot k).v ∧
        (t.slot k).vsw = (w.slot k).vsw ∧ (t.core c).queues = (w.core c).queues)

/-- R53, R100, R218, R220, R235-R239, R324: a job starts when nothing before it meets it and its issuer's stores are home; it
reads ahead whole aligned words of its sources and writes them to their places (log 46), as much at a time as the oracle says (log
5); once its writes are acknowledged it fills its registers, and once they are announced it ends, and those who wait for it go on;
a drain writes its tile's scaled sums, then, once they are acknowledged, its status word, and then is complete (that its three
parts wait for the acknowledgements of all its homes is the model's reading: log 45); an outbound element arrives at its peer and
leaves its queue on acceptance, or its router drops it where the firewall word names another partition (R300); a job of a stream
gives or takes elements. -/
def Obligations.JobsAndStreams : Prop :=
  (∀ (s : State) (ck i : Nat) (j : Job), s.job ck i = some j →
    let ended := fun (t : State) (cause : Nat) =>
      let e := { j with done := true, doneAt := s.clock, cause := if j.cause = 0 then cause else j.cause, fillsOut := [] }
      t.job ck i = some e ∧ (∀ x ∈ (t.cluster ck).feet, x.id ≠ j.id) ∧
      ((s.slots.map (·.1)).Nodup → ∀ k q d x, clusterOf k = ck → (s.slot k).park = some q →
        q.wait = .jobDone (Fin.ofNat 16 i) → q.rest = .finish [.g d x] →
        (t.slot k).park = some { q with rest := .finish [.g d e.status], arrived := true })
    (s.ev = some (.jobStart ck i) → j.started = false → j.done = false → s.footFree ck j.id = true →
      s.issuerHome j.k j.id = true → exec .jobStart s = .next (s.modJob ck i fun j => { j with started := true })) ∧
    (∀ cause, s.ev = some (.jobEndEarly ck i cause) → j.done = false → ∃ t, exec .jobEndEarly s = .next t ∧ ended t cause) ∧
    (s.ev = some (.jobComplete ck i) → i < 16 → j.started = true → j.done = false → j.frozen = false →
      (j.bytes < j.total → exec .jobComplete s = .next (s.choose.2.moveJob ck i (2 * j.total + 2)
        (if s.choose.1 = 0 then j.total else 8 * s.choose.1))) ∧
      (j.total ≤ j.bytes → j.filled = false → s.jobAcked j.id = false → exec .jobComplete s = .next s) ∧
      (j.total ≤ j.bytes → j.filled = false → s.jobAcked j.id = true → ∃ t, exec .jobComplete s = .next t ∧
        ((∃ r, Sum.inr r ∈ j.dst ∧ s.fillMay j r = false) → ended t 7) ∧
        ((∀ r, Sum.inr r ∈ j.dst → s.fillMay j r = true) → SameBytes s t ∧
          (∃ e, t.job ck i = some e ∧ e.filled = true ∧ e.done = false) ∧
          ∀ x ∈ (j.dst.filterMap Sum.getRight?).zip j.vals, ∃ m ∈ t.net, m.k = j.k ∧
            m.kind = .fill x.1.slot x.1.reg x.2 none (some (ck, i)))) ∧
      (j.total ≤ j.bytes → j.filled = true → j.fillsOut = [] → s.jobSeen j.id = false → exec .jobComplete s = .next s) ∧
      (j.total ≤ j.bytes → j.filled = true → j.fillsOut = [] → s.jobSeen j.id = true →
        ∃ t, exec .jobComplete s = .next t ∧ ended t 0))) ∧
  (∀ (s : State) (ck i fuel budget : Nat) (j : Job), s.job ck i = some j → j.done = false → budget ≠ 0 → j.bytes < j.total →
    (∀ n u, s.jobStep ck i j budget = .on n u → s.moveJob ck i (fuel + 1) budget = u.moveJob ck i fuel (budget - n)) ∧
    (∀ e u, s.jobStep ck i j budget = .ends e u → s.moveJob ck i (fuel + 1) budget = u.endJob ck i e) ∧
    (∀ u, s.jobStep ck i j budget = .waits u → s.moveJob ck i (fuel + 1) budget = u)) ∧
  (∀ (s s1 : State) (ck i budget a key o : Nat) (j : Job) (c : Chunk), s.job ck i = some j →
    partAt partLen j.dst j.bytes = some (.inl c, o) → s.jobPlace j c o = .ok a key s1 →
    let need := min (8 - a % 8) (c.len - o)
    (need ≤ j.buf.length → s1.heldBySerial (a / 64) = true → s.jobStep ck i j budget = .waits s1) ∧
    (need ≤ j.buf.length → s1.heldBySerial (a / 64) = false → ∃ n t, s.jobStep ck i j budget = .on n t ∧
      n ≤ j.buf.length ∧ n ≤ c.len - o ∧ n ≤ 64 - a % 64 ∧ ((a + n) % 8 = 0 ∨ n = c.len - o) ∧
      Wrote s1 t key (cellsAt a (j.buf.take n)) ∧ t.job ck i = some { j with bytes := j.bytes + n, buf := j.buf.drop n }) ∧
    (j.buf.length < need → j.op = 1 → s.jobStep ck i j budget =
      .on 0 (s1.modJob ck i fun j => { j with buf := j.buf ++ List.replicate (min 64 (j.total - (j.bytes + j.buf.length))) 0 })) ∧
    ∀ c' o' a' key' s2, j.buf.length < need → j.op ≠ 1 → partAt Chunk.len j.src (j.bytes + j.buf.length) = some (c', o') →
      s1.jobPlace j c' o' = .ok a' key' s2 →
      (∀ e, s2.badLine key' (a' / 64) = some e → s.jobStep ck i j budget = .ends e (s2.verify key' (a' / 64))) ∧
      (s2.badLine key' (a' / 64) = none → ∃ n, s.jobStep ck i j budget = .on 0 (s2.modJob ck i fun j =>
          { j with buf := j.buf ++ s2.bytesAt key' a' n }) ∧
        n ≤ c'.len - o' ∧ n ≤ 64 - a' % 64 ∧ ((a' + n) % 8 = 0 ∨ n = c'.len - o'))) ∧
  (∀ (s : State) (ck c id : Nat) (dj : DrainJob), s.ev = some (.jobComplete ck (16 + id)) → c ∈ coresIn ck →
    (∀ c' ∈ coresIn ck, c' ≠ c → (s.slice c').drains.find? (·.d.id == id) = none) →
    (s.slice c).drains.find? (·.d.id == id) = some dj → s.footFree ck id = true → s.issuerHome dj.d.k id = true →
    s.jobAcked id = true → s.statHeld c = false → ∀ d, s.drainNow dj.d = .ok d → s.chunksHeld (d.rows.flatten ++ d.stat) = false →
    let rows := d.rows.flatten
    let bad := dj.tile.bad.orElse fun _ => s.chunkPoison (d.scales ++ d.codes.getD [] ++ if d.add then rows else [])
    let scale := fun (j : Nat) => ofBytes (((s.chunkBytes d.scales).drop (2 * j)).take 2)
    let code := fun (j : Nat) => if d.codes.isSome then ((s.chunkBytes (d.codes.getD [])).getD j 127).toNat else 127
    let old := if d.add then s.chunkBytes rows else []
    let out := (List.range 512).map fun n => drainStep (dj.tile.cells.toArray.getD n 0).toNat (code (n / 32)) (scale (n % 32))
      (ofBytes ((old.drop (4 * n)).take 4))
    let w := jobMark d.id
    (dj.stat = none → ∃ t, exec .jobComplete s = .next t ∧
      t.mem = (if bad.isSome then s else s.putChunks w none rows (out.flatMap fun o => toBytes 4 o.1)).mem ∧
      (t.slice c).drains.find? (·.d.id == id) = some { dj with
        stat := some (drainStatus c d dj.tile (AFlags.union (out.map (·.2))) bad, false) }) ∧
    (∀ st, dj.stat = some (st, false) → ∃ t, exec .jobComplete s = .next t ∧
      t.mem = (s.putChunks w none d.stat (toBytes 8 st)).mem ∧
      (t.slice c).drains.find? (·.d.id == id) = some { dj with stat := some (st, true) }) ∧
    ∀ st, dj.stat = some (st, true) → s.statAt c = none → d.refs = [] → ∃ t, exec .jobComplete s = .next t ∧ SameBytes s t ∧
      (t.slice c).done = (s.slice c).done + 1 ∧ (∀ x ∈ (t.slice c).drains, x.d.id ≠ id) ∧ ∀ x ∈ (t.cluster ck).feet, x.id ≠ id) ∧
  (∀ (s : State) (c k : Nat) (q : Fin 8) (b : QBind), s.binding c q.val = some (k, b) → b.eng = false →
    (∀ x, s.ev = some (.streamElementArrival c q.val) → b.outbound = true → (s.queueAt c q.val)[(s.core c).taken[q]]? = some x →
      (b.pcore, b.pq) ≠ (c, q) → (s.queueAt b.pcore b.pq.val).length < 16 →
      s.mayTo (clusterOfCore c) (clusterOfCore b.pcore) = true →
      (s.admits (s.pidOf (clusterOfCore c)) (clusterOfCore b.pcore) none = true → ∃ t, exec .streamElementArrival s = .next t ∧
        SameBytes s t ∧ t.queueAt b.pcore b.pq.val = s.queueAt b.pcore b.pq.val ++ [x] ∧
        t.queueAt c q.val = s.queueAt c q.val ∧ (t.core c).taken[q] = (s.core c).taken[q] + 1) ∧
      (s.admits (s.pidOf (clusterOfCore c)) (clusterOfCore b.pcore) none = false → ∃ t, exec .streamElementArrival s = .next t ∧
        SameBytes s t ∧ t.queueAt b.pcore b.pq.val = s.queueAt b.pcore b.pq.val ∧
        t.queueAt c q.val = (s.queueAt c q.val).eraseIdx (s.core c).taken[q] ∧ (t.core c).taken[q] = (s.core c).taken[q])) ∧
    (s.ev = some (.streamElementAccept c q.val) → (s.core c).taken[q] ≠ 0 →
      ∃ t, exec .streamElementAccept s = .next t ∧ SameBytes s t ∧ t.queueAt c q.val = (s.queueAt c q.val).tail ∧
        (t.core c).taken[q] = (s.core c).taken[q] - 1)) ∧
  (∀ (s : State) (c k i : Nat) (q : Fin 8) (b : QBind) (j : Job), s.binding c q.val = some (k, b) → b.eng = true →
    s.streamJob c q.val = some (i, j) → s.job (clusterOfCore c) i = some j →
    let w := if j.wide then 128 else 8
    (s.ev = some (.streamElementArrival c q.val) → b.outbound = false → (s.queueAt c q.val).length < 16 → w ≤ j.buf.length →
      ∃ t, exec .streamElementArrival s = .next t ∧ SameBytes s t ∧
        t.queueAt c q.val = s.queueAt c q.val ++ [BitVec.ofNat 1024 (ofBytes (j.buf.take w))] ∧
        t.job (clusterOfCore c) i = some { j with bytes := j.bytes + w, buf := j.buf.drop w }) ∧
    ∀ x rest, s.ev = some (.streamElementAccept c q.val) → b.outbound = true → s.queueAt c q.val = x :: rest →
      j.buf.length < 8 → j.bytes + j.buf.length < j.total →
      ∃ t, exec .streamElementAccept s = .next t ∧ SameBytes s t ∧ t.queueAt c q.val = rest ∧
        t.job (clusterOfCore c) i = some { j with buf := j.buf ++ toBytes w x.toNat })

/-- R329, R331-R334, R384, R385: a graph that passes its checks takes the lowest free index under the next serial, one that fails
answers its code; a launch word, when its partition's turn has come, starts an instance with every node waiting; a node whose
predecessors are done takes slots, with their bindings and task records (which way a launch without streams or groups is placed is the
model's choice: log 41), or, a fence, has every copy of the partition's records read again; it commits when its threads and jobs are
gone, and its held effects follow in their order, each once the one before it is performed, a launch word while its port has room; the
last step writes the completion word. What the oracle or firmware decides there is the model's choice: the act of whom firmware reads
for (log 9), and that the next choice says whether the frames supply an undo area (log 27). -/
def Obligations.GraphEvents : Prop :=
  (∀ (s : State) (pid asid header : Nat) (by_ : Option Nat), s.ev = some (.graphRegister pid asid header by_) →
    let p := s.part pid
    let v := s.verifyGraph (s.readCore pid by_) asid header
    let ns? := v.checkGraph pid (v.readCore pid by_) asid header
    (4096 ≤ p.graphs.length → exec .graphRegister s = .next (v.answerTo by_ (BitVec.ofNat 64 (1 * 2 ^ 32)))) ∧
    (∀ c, p.graphs.length < 4096 → ns? = .fault c →
      exec .graphRegister s = .next (v.answerTo by_ (BitVec.ofNat 64 (c * 2 ^ 32)))) ∧
    ∀ ns i, p.graphs.length < 4096 → ns? = .ok ns → i < 4096 →
      FMap.has p.graphs i = false → (∀ j, j < i → FMap.has p.graphs j = true) →
      let ser := (p.regSerial + 1) % 2 ^ 20
      let g : Graph := { serial := ser, asid := BitVec.ofNat 16 asid, header := BitVec.ofNat 64 header, nodes := ns, stale := false }
      exec .graphRegister s = .next ((v.modPart pid fun p => { p with graphs := p.graphs.set i g, regSerial := ser }).answerTo by_
        (BitVec.ofNat 64 (ser * 2 ^ 12 + i)))) ∧
  (∀ (s : State) (pid h : Nat) (by_ : Option Nat), s.ev = some (.graphUnregister pid h by_) →
    exec .graphUnregister s = .next ((if (s.graphOf pid h).isSome then
      s.modPart pid fun p => { p with graphs := p.graphs.del (h % 4096) } else s).answerTo by_ 0)) ∧
  (∀ (s : State) (pid : Nat) (w : PortWord) (ws : List PortWord), s.ev = some (.launchWordAccept pid) →
    (s.part pid).port = w :: ws →
    (s.frontHeld pid = true ∨ s.portTurn ≠ some pid → exec .launchWordAccept s = .next s) ∧
    (s.frontHeld pid = false → s.portTurn = some pid → ∃ t x, exec .launchWordAccept s = .next t ∧ SameBytes s t ∧
      t.frontLast = pid ∧ (t.part pid).port = ws ∧
      t.inst pid (s.part pid).nextInst = x ∧ x.handle.toNat = w.word.toNat / 2 ^ 32 ∧ x.argb.toNat = w.word.toNat % 2 ^ 32 * 64 ∧
      x.graph = w.graph ∧ x.session = w.session ∧ x.status = none ∧ x.ended = false ∧
      x.nodes = w.graph.nodes.map fun _ => NodeState.waiting)) ∧
  (∀ (s : State) (pid i j : Nat) (n : NodeRec), s.ev = some (.nodeStart pid i j) →
    let x := s.inst pid i
    FMap.has (s.part pid).insts i = true → x.graph.nodes[j]? = some n → x.nodes[j]? = some .waiting →
    let goes := s.frontHeld pid = false ∧ x.status = none ∧ x.ended = false
    let v := s.verifyGraph (s.readCore pid none) x.graph.asid.toNat x.graph.header.toNat
    let ns? := v.checkGraph pid (v.readCore pid none) x.graph.asid.toNat x.graph.header.toNat
    (¬ goes ∨ (x.graph.stale = false ∧ x.ready n = false) → exec .nodeStart s = .next s) ∧
    (goes → x.graph.stale = true →
      (ns? = .frozen → exec .nodeStart s = .next v) ∧
      ∀ ns, ns? = .ok ns → ∃ t, exec .nodeStart s = .next t ∧ SameBytes s t ∧
        (t.inst pid i).graph = { x.graph with nodes := ns, stale := false }) ∧
    (goes → x.graph.stale = false → x.ready n = true →
      (∀ ns, n.fence = true → ns? = .ok ns →
        ∃ t, exec .nodeStart s = .next t ∧ SameBytes s t ∧ (j < ns.length → (t.inst pid i).nodes[j]? = some .done) ∧
          (t.inst pid i).graph = { x.graph with nodes := ns } ∧ (∀ w ∈ (t.part pid).port, w.graph.stale = true) ∧
          ∀ i', i' ≠ i → FMap.has (s.part pid).insts i' = true → (t.inst pid i').graph.stale = true) ∧
      (∀ c, n.fence = true → ns? = .fault c →
        ∃ t, exec .nodeStart s = .next t ∧ SameBytes s t ∧ (t.inst pid i).status = some (0x31, j)) ∧
      (n.fence = false → s.placingOther pid i j = true → exec .nodeStart s = .next s) ∧
      ∀ r, n.fence = false → s.placingOther pid i j = false → n.lrec = some r → (s.part pid).recoverable = false →
        let binds := s.readBinds (s.readCore pid none) x.graph.asid.toNat r
        let es := s.chooseSlots pid r (s.placeBy pid (i, j) r binds (prodMembers r.tiers)) (unitCount r) 0 []
        let push := r.sbind = 0 ∧ unitSize r = 1 ∧ s.choose.1 ≠ 0
        (s.placeable pid r = false → ∃ t, exec .nodeStart s = .next t ∧ SameBytes s t ∧ (t.inst pid i).status = some (0x30, j)) ∧
        (s.placeable pid r = true → es = [] → exec .nodeStart s = .next s) ∧
        (s.placeable pid r = true → es ≠ [] → push → ∃ t, exec .nodeStart s = .next t ∧ SameBytes s t ∧
          (t.inst pid i).nodes[j]? = some (.running n es.length [] []) ∧
          (t.inst pid i).placedRecs = x.placedRecs ++ (runsOf es).map (fun run =>
            (j, coreOf ((run.head?.map (·.1)).getD 0), taskRecord true i r.addr.toNat x.argb.toNat run))) ∧
        (s.placeable pid r = true → es ≠ [] → ¬ push → (es.map (·.1)).Nodup → ∃ t, exec .nodeStart s = .next t ∧ SameBytes s t ∧
          (t.inst pid i).nodes[j]? = some (.running n es.length (es.map (·.1)) es) ∧
          (t.inst pid i).placedRecs = x.placedRecs ++ (runsOf es).map (fun run =>
            (j, coreOf ((run.head?.map (·.1)).getD 0), taskRecord false i r.addr.toNat x.argb.toNat run)) ∧
          ∀ e ∈ es, ∀ q : Fin 8, (t.slot e.1).q[q] =
            match (binds e.2)[q.val]? with
            | some b => s.bindOf (devOfSlot e.1) b
            | none => QBind.none))) ∧
  (∀ (s : State) (c i : Nat) (r : Nat × Nat × List Byte), s.ev = some (.taskRecordWrite c) →
    let pid := s.pidOf (clusterOfCore c)
    (s.core c).inbox.length < 4 → FMap.has (s.part pid).insts i = true →
    (s.part pid).insts.findSome? (fun e => (e.2.placedRecs.find? fun r => r.2.1 == c).map fun r => (e.1, r)) = some (i, r) →
    ∃ t, exec .taskRecordWrite s = .next t ∧ SameBytes s t ∧ (t.core c).inbox = (s.core c).inbox ++ [r.2.2] ∧
      (t.inst pid i).placedRecs = (s.inst pid i).placedRecs.erase r ∧
      (t.inst pid i).pushLeft = (s.inst pid i).pushLeft ++
        if fieldAt r.2.2 0 1 = 2 then [(r.1, r.2.1, fieldAt r.2.2 1 1)] else []) ∧
  (∀ (s : State) (pid i j : Nat), s.ev = some (.nodeComplete pid i j) →
    let p := s.part pid
    let mine := p.heldFx.filter fun h => h.inst == i && h.node == j
    let rest := p.heldFx.filter fun h => !(h.inst == i && h.node == j)
    (s.nodeOver pid i j = false → exec .nodeComplete s = .next (if s.nodeRuns pid i j then s else s.releaseFx pid i j)) ∧
    (s.nodeOver pid i j = true → ∃ t, exec .nodeComplete s = .next t ∧ SameBytes s t ∧
      (mine = [] → (t.part pid).heldFx = rest ∧ (t.part pid).port = p.port ∧ t.net = s.net) ∧
      (∀ h hs m, mine = h :: hs → h.fx = .msg m → (t.part pid).port = p.port ∧
        (h.sent = false → (t.part pid).heldFx = { h with sent := true } :: hs ++ rest ∧
          ((∀ e, m.kind ≠ .op e) → t.net = s.net ++ [m])) ∧
        (h.sent = true → s.flying m.id = true → (t.part pid).heldFx = h :: hs ++ rest ∧ t.net = s.net)) ∧
      (∀ h hs w, mine = h :: hs → h.fx = .launch w → 64 ≤ p.port.length →
        (t.part pid).heldFx = h :: hs ++ rest ∧ (t.part pid).port = p.port) ∧
      (∀ ws, mine.map (·.fx) = ws.map Fx.launch → p.port.length + ws.length ≤ 64 →
        (t.part pid).heldFx = rest ∧ (t.part pid).port = p.port ++ ws) ∧
      ((s.inst pid i).ended = false → (t.inst pid i).nodes[j]? = some .done ∧ ∀ u ∈ (t.inst pid i).undo, u.node ≠ j))) ∧
  (∀ (s : State) (pid i : Nat), s.ev = some (.instanceComplete pid i) →
    let x := s.inst pid i
    let c := s.readCore pid none
    let ended := fun (t : State) => FMap.has (t.part pid).insts i = true → (t.inst pid i).ended = true
    (x.endStatus = none → exec .instanceComplete s = .next s) ∧
    (x.ended = false → x.status = none → (∀ n ∈ x.nodes, n = .done) → x.endStatus = some (0, 0xFFFF)) ∧
    ∀ st node, x.endStatus = some (st, node) →
      let at_ := s.vaAddr c x.graph.asid.toNat (x.argb.toNat + 128)
      (at_ = .frozen → exec .instanceComplete s = .next s) ∧
      (∀ f, at_ = .fault f → ∃ t, exec .instanceComplete s = .next t ∧ SameBytes s t ∧ ended t) ∧
      ∀ pa key, at_ = .ok (pa, key) → ∃ t, exec .instanceComplete s = .next t ∧ ended t ∧
        Wrote s t key (cellsAt pa (toBytes 8 (1 + st * 2 ^ 8 + node % 65536 * 2 ^ 16))) ∧
        ∀ d n, x.session = some (d, n) → ((s.dev d).sessions.any fun y => y.id == n && y.open_) = true →
          ∃ f, (t.dev d).sent = (s.dev d).sent ++ [f] ∧ f.payload = toBytes 8 (1 + st * 2 ^ 8 + node % 65536 * 2 ^ 16)) ∧
  (∀ (s : State) (pid mode area : Nat) (by_ : Option Nat), s.ev = some (.recoveryModeSet pid mode area by_) →
    let runs := (s.part pid).insts.any fun e => !e.2.ended
    let bad := 2 ≤ mode ∨ (mode = 1 ∧ (area = 0 ∨ 65536 ≤ area)) ∨ (mode = 0 ∧ area ≠ 0)
    (runs = true → exec .recoveryModeSet s = .next (s.answerTo by_ 1)) ∧
    (runs = false → bad → exec .recoveryModeSet s = .next (s.answerTo by_ 2)) ∧
    (runs = false → ¬ bad →
      (mode = 0 → exec .recoveryModeSet s = .next ((s.modPart pid fun p =>
        { p with recoverable := false, area := 0 }).answerTo by_ 0)) ∧
      (mode = 1 → s.choose.1 = 0 → exec .recoveryModeSet s = .next ((s.choose.2.modPart pid fun p =>
        { p with recoverable := true, area := area }).answerTo by_ 0)) ∧
      (mode = 1 → s.choose.1 ≠ 0 → exec .recoveryModeSet s = .next (s.choose.2.answerTo by_ 3))))

/-- R346-R357, R370, R391: on its clock a stop halts every thread of a cluster and a resume lets it go on; the jobs of a save
freeze, the sweep takes the partition's packets off the network, each core gets an image in memory, with the pages that fault in
the reserve, which is sealed, and the last seal answers the sender; a watchdog, an outlived budget, a reserve that cannot take an
image and a failed readback kill the partition. The context engine saves, clears and places again what a descriptor names: each
group that finds room, the others wait in their images until the budget is over. The model's choices: whose memory firmware reads
(log 9); a save beside clusters of another partition, and of held clusters (log 10); where images lie, which core's image takes a
packet, and the bytes that R352 leaves open (log 11); the groups of a re-placing and their order (log 29). -/
def Obligations.StopsAndSaves : Prop :=
  (∀ (s : State) (d pid : Nat) (w : Watchdog), s.ev = some (.watchdogExpiry d pid) →
    (s.dev d).dogs.find? (·.1 == pid) = some (pid, w) →
    (w.period ≠ 0 → w.left = 0 → ∃ t, exec .watchdogExpiry s = .next t ∧ Killed s t pid) ∧
    (w.left ≠ 0 → exec .watchdogExpiry s = .next s)) ∧
  (∀ (s : State) (ck : Nat) (a : Arm), s.ev = some (.syncStop ck) → (s.cluster ck).armStop = some a →
    (s.clkOf ck < a.at_ → exec .syncStop s = .next s) ∧
    (a.at_ ≤ s.clkOf ck → ∃ t, exec .syncStop s = .next t ∧ SameBytes s t ∧ (t.cluster ck).stopAt = some a.at_ ∧
      (t.cluster ck).armStop = none ∧ ∀ k, clusterOf k = ck → (s.slot k).occ = true → (t.slot k).stopped = true ∧
        (t.slot k).region = none ∧ ∀ q, (t.slot k).park = some q → q.kept = true)) ∧
  (∀ (s : State) (ck : Nat) (a : Arm), s.ev = some (.syncResume ck) → (s.cluster ck).armResume = some a →
    (s.clkOf ck < a.at_ ∨ s.resumable ck = false → exec .syncResume s = .next s) ∧
    (a.at_ ≤ s.clkOf ck → s.resumable ck = true → ∃ t, exec .syncResume s = .next t ∧ SameBytes s t ∧
      (t.cluster ck).stopAt = none ∧ (t.cluster ck).armResume = none ∧ (∀ j ∈ (t.cluster ck).jobs, j.2.frozen = false) ∧
      (∀ v, (s.part (s.pidOf ck)).save = some v → (∃ c ∈ v.cores, clusterOfCore c = ck) → (t.part (s.pidOf ck)).save = none) ∧
      ∀ k, clusterOf k = ck → (s.part (s.pidOf ck)).mayResume (coreOf k) = true → (t.slot k).stopped = false ∧
        ((s.slot k).stopped = true → (s.slot k).saved = true → ∀ r ∈ (t.slot k).resv, r.written = true))) ∧
  (∀ (s : State) (ck i t0 : Nat) (j : Job), s.ev = some (.jobFreeze ck i) → s.job ck i = some j →
    s.freezeAt (coreOf j.k) = some t0 →
    (s.clkOf ck < t0 → exec .jobFreeze s = .next s) ∧
    (t0 ≤ s.clkOf ck → j.done = false → ∃ t, exec .jobFreeze s = .next t ∧ t.job ck i = some { j with frozen := true })) ∧
  (∀ (s : State) (c : Nat) (v : Save), (s.part (s.pidOf (clusterOfCore c))).save = some v → c ∈ v.cores →
    ∀ t0, (s.cluster (clusterOfCore c)).stopAt = some t0 → s.freezeAt c = some (max t0 v.request + 2048)) ∧
  (∀ (s : State) (pid : Nat) (v : Save), (s.part pid).save = some v →
    (s.ev = some (.sillageSweep pid) → v.swept = false → (∀ c ∈ v.cores, s.coreDrained c = true) →
      ∃ t ps, exec .sillageSweep s = .next t ∧ SameBytes s t ∧ t.net = s.net.filter (fun m => m.pid != pid) ∧
        (t.part pid).save = some { v with swept := true, packets := ps } ∧ ps.map (·.2) = s.net.filter (fun m => m.pid == pid) ∧
        ∀ e ∈ ps, v.cores ≠ [] → e.1 ∈ v.cores) ∧
    (∀ c, s.ev = some (.imageWrite pid c) → v.swept = true → c ∈ v.cores → FMap.has (s.part pid).images c = false →
      let r := s.imagePlace pid c
      let i := r.2.flacon pid c r.1 v 0 0
      let out := [0, 1].filter fun p => match r.2.imagePage i p with
        | .fault _ => true
        | _ => false
      ((∃ p, p < 2 ∧ r.2.imagePage i p = .frozen) → exec .imageWrite s = .next r.2) ∧
      ((∀ p, p < 2 → r.2.imagePage i p ≠ .frozen) →
        (out ≠ [] → r.2.reserveFor (devOfCore c) out.length = none → ∃ t, exec .imageWrite s = .next t ∧ Killed s t pid) ∧
        ∀ n, (out = [] ∧ n = 0) ∨ (out ≠ [] ∧ r.2.reserveFor (devOfCore c) out.length = some n) →
          ∃ t x, exec .imageWrite s = .next t ∧ (t.part pid).images.find? (·.1 == c) = some (c, x) ∧
            (t.part pid).save = some v ∧ x.core = c ∧ x.pid = pid ∧ x.stop = v.stop ∧ x.sealAt = none ∧ x.res = true ∧
            x.state = s.core c ∧ x.packets = (v.packets.filter (·.1 == c)).map (·.2) ∧ x.waits = none ∧ x.base = r.1 ∧
            x.dmap = (out.map (2 ^ ·)).sum ∧ x.rsv = (if out = [] then 0 else 65536 * n) ∧
            (∀ e, e ∈ x.slots ↔ e ∈ s.slots ∧ coreOf e.1 = c ∧ e.2.occ = true) ∧
            let cells := ((r.2.imageHeader x).mapIdx fun j b => (j, b)) ++ x.body r.2.fresh
            ∀ p a a', p < 2 → r.2.pageAt x p = some a → r.2.pageAt x (1 - p) = some a' → a % 65536 = 0 → a' % 65536 = 0 → a ≠ a' →
              ∀ j, j < 65536 → t.byteAt x.key (a + j) =
                (((cells.filter fun y => y.2 != 0).reverse.find? (·.1 == 65536 * p + j)).map (·.2)).getD 0)) ∧
    (∀ c x, s.ev = some (.imageSeal pid c) → (s.part pid).images.find? (·.1 == c) = some (c, x) → x.sealAt = none →
      c ∈ v.cores →
      ((s.core c).misses ≠ [] → exec .imageSeal s = .next s) ∧
      ((s.core c).misses = [] →
        let y := { x with sealAt := some (s.clkOf (clusterOfCore c)) }
        let left := v.cores.filter (· != c)
        ∃ u, exec .imageSeal s = .next (if left = [] then u.answerTo v.replyTo 0 else u) ∧
          (u.part pid).images.find? (·.1 == c) = some (c, y) ∧
          (u.part pid).save = (if left = [] then none else some { v with cores := left }) ∧
          (∀ e ∈ x.slots, (u.slot e.1).saved = true) ∧
          (∀ a, s.pageAt y 0 = some a → Wrote s u y.key (cellsAt a (s.imageHeader y)))))) ∧
  (∀ (s : State) (pid : Nat), s.ev = some (.saveBudgetExpiry pid) →
    (s.budgetOver pid = false → (∀ e ∈ (s.part pid).images, s.roomLate pid e.2 = false) → exec .saveBudgetExpiry s = .next s) ∧
    (s.budgetOver pid = false → ∀ e ∈ (s.part pid).images, s.roomLate pid e.2 = true → ∃ t, exec .saveBudgetExpiry s = .next t ∧
      SameBytes s t ∧ FMap.has (t.part pid).images e.1 = false ∧ ∀ k u i j, (k, u) ∈ e.2.slots →
        u.node = some { pid := pid, inst := i, node := j } → FMap.has (s.part pid).insts i = true → (s.inst pid i).ended = false →
        (s.inst pid i).status = none → ∃ n, (t.inst pid i).status = some (0x33, n)) ∧
    (s.budgetOver pid = true → ∃ t, exec .saveBudgetExpiry s = .next t ∧ Killed s t pid)) ∧
  (∀ (s : State) (pid c : Nat) (x : Image), (s.part pid).images.find? (·.1 == c) = some (c, x) →
    (∀ lba, s.ev = some (.imageSwapOut pid c lba) → driveBlocks < lba + imageBlocks → exec .imageSwapOut s = .next s) ∧
    (∀ lba, s.ev = some (.imageSwapOut pid c lba) → lba + imageBlocks ≤ driveBlocks → x.sealAt.isSome = true →
      let y := { x with res := false, lba := lba }
      ∃ t, exec .imageSwapOut s = .next t ∧ (t.part pid).images.find? (·.1 == c) = some (c, y) ∧
        ∀ a, s.pageAt y 0 = some a → Wrote s t y.key (cellsAt a (s.imageHeader y))) ∧
    (s.ev = some (.imageReadback pid c true) → (x.res = true → exec .imageReadback s = .next s) ∧
      (x.res = false → ∃ t, exec .imageReadback s = .next t ∧
        (t.part pid).images.find? (·.1 == c) = some (c, { x with res := true, lba := 0 }))) ∧
    (s.ev = some (.imageReadback pid c false) → ∃ t, exec .imageReadback s = .next t ∧ Killed s t pid)) ∧
  (∀ (s : State) (pid desc : Nat) (by_ : Option Nat),
    let save := Event.ctxSave pid desc by_
    let clear := Event.ctxClear pid desc by_
    let place := Event.ctxReplace pid desc by_
    let still := fun (ck : Nat) => (s.cluster ck).stopAt.isSome = true ∨ (s.cluster ck).hold = true
    (s.ctxClusters desc by_ = .frozen →
      (s.ev = some save → exec .ctxSave s = .next (s.retry save)) ∧ (s.ev = some clear → exec .ctxClear s = .next (s.retry clear)) ∧
      (s.ev = some place → exec .ctxReplace s = .next (s.retry place))) ∧
    (∀ f, s.ctxClusters desc by_ = .fault f →
      (s.ev = some save → exec .ctxSave s = .next (s.answerTo by_ 1)) ∧
      (s.ev = some clear → exec .ctxClear s = .next (s.answerTo by_ 1)) ∧
      (s.ev = some place → by_.isSome = true → exec .ctxReplace s = .next (s.answerTo by_ 1))) ∧
    (s.ev = some (.ctxReplace pid desc none) → (∀ i ∈ (s.part pid).saved, i.waits = none) → exec .ctxReplace s = .next s) ∧
    ∀ cks, s.ctxClusters desc by_ = .ok cks →
      (¬ (∀ ck ∈ cks, still ck ∧ s.pidOf ck = pid) →
        (s.ev = some clear → exec .ctxClear s = .next (s.answerTo by_ 1)) ∧
        (s.ev = some place → exec .ctxReplace s = .next (s.answerTo by_ 1))) ∧
      (¬ (∀ ck ∈ cks, still ck ∧ (s.pidOf ck = pid ∨ s.hasThread ck = false)) → s.ev = some save →
        exec .ctxSave s = .next (s.answerTo by_ 1)) ∧
      ((∀ ck ∈ cks, still ck ∧ (s.pidOf ck = pid ∨ s.hasThread ck = false)) → s.ev = some save →
        let mine := cks.filter fun ck => s.pidOf ck == pid
        let cores := (mine.flatMap coresIn).filter fun c =>
          (slotsOf c).any fun k => (s.slot k).occ && !(s.slot k).saved
        ((s.part pid).killed = true → exec .ctxSave s = .next (s.answerTo by_ 2)) ∧
        ((s.part pid).killed = false → (s.part pid).save ≠ none → exec .ctxSave s = .next (s.retry save)) ∧
        ((s.part pid).killed = false → (s.part pid).save = none → cores = [] → exec .ctxSave s = .next (s.answerTo by_ 0)) ∧
        ((s.part pid).killed = false → (s.part pid).save = none → cores ≠ [] → ∃ t v, exec .ctxSave s = .next t ∧
          (t.part pid).save = some v ∧ (∀ ck ∈ mine, ∀ t0, (s.cluster ck).stopAt = some t0 → t0 ≤ v.stop) ∧
          v.cores = cores ∧ v.swept = false ∧ v.packets = [] ∧ v.replyTo = by_)) ∧
      ((∀ ck ∈ cks, still ck ∧ s.pidOf ck = pid) →
        (s.ev = some clear → ∃ t, exec .ctxClear s = .next t ∧ ∀ ck ∈ cks,
          (∀ k, clusterOf k = ck → (t.slot k).occ = false) ∧ ∀ a, inCluster ck a = true → t.mem.read a = 0) ∧
        (s.ev = some place →
          let saved := (s.part pid).saved
          let ks := savedSlots saved
          let named := cks.mergeSort
          let m := s.assign pid named ks (s.moveGroups ks) []
          ((saved.flatMap (·.slots)).map (·.1)).Nodup → (m.map (·.2)).Nodup →
          ∃ t, exec .ctxReplace s = .next t ∧ ∀ i ∈ saved, ∀ k u, (k, u) ∈ i.slots →
            (∀ k', goneTo m k = some k' → clusterOf k' ∈ cks ∧ (t.slot k').occ = u.occ ∧ (t.slot k').g = u.g ∧
              (t.slot k').v = u.v ∧ (t.slot k').m = u.m ∧ (t.slot k').pc = u.pc ∧ (∀ r ∈ (t.slot k').resv, r.written = true) ∧
              (t.slot k').stopped = true ∧ ∀ e ∈ (t.part pid).images, e.2.core = i.core → e.2.sealAt.isSome = true →
                e.2.res = true → FMap.has e.2.slots k = false) ∧
            (goneTo m k = none → ∃ e ∈ (t.part pid).images, e.2.core = i.core ∧ (k, u) ∈ e.2.slots ∧ e.2.waits = some named))))

/-- R299, R320, R325, R367, R372-R374, R377, R379-R386, R393: a link trains, counts resends, fails after 64 of one flit and is
disabled, with what was on it lost; the span's clock, by the lowest-numbered device that is reached over links that are up; the
keys, the interleave, the moved frames and the integrity counter; holds, firewalls and mail; an uncorrectable error poisons its
line, or leaves it with a check value that fails, or its copies bad, drops its entry, resets the device, or rolls back or kills
the partition it is charged to. The model's choices: what a link loses (log 26), the estimate of the clocks' offset, and that a
line under key 0 is charged to firmware (log 49), and a save that a release ends (log 10). -/
def Obligations.FabricEvents : Prop :=
  (∀ (s : State) (d i : Nat),
    let w := (s.link d i).toNat
    let F := fun (t : State) (hi lo : Nat) => bits (t.link d i).toNat hi lo
    let down := fun (t : State) (en reason st : Nat) => F t 63 63 = en ∧ F t 47 39 = 0 ∧ F t 35 32 = 0 ∧ F t 31 16 = bits w 31 16 ∧
      F t 15 8 = reason % 256 ∧ F t 2 0 = st
    let loses := fun (t : State) =>
      ((s.slots.map (·.1)).Nodup → ∀ k q va, (s.slot k).park = some q → q.lostAt d i = some va → (∀ n, q.wait ≠ .jobDone n) →
        (t.slot k).park = some { q with rest := .fault 0x18 va, arrived := true } ∧ ∀ id, q.wait = .reply id → Gone t id) ∧
      (∀ m ∈ s.net, s.fillOver d i m = true → Gone t m.id) ∧
      ∀ l ∈ s.lanes, ∀ e rest, devOfSlot l.k = d → l.path = some i → l.broken = none → l.flight = e :: rest →
        ∃ l' ∈ t.lanes, l'.k = l.k ∧ l'.gen = l.gen ∧ l'.dst = l.dst ∧ l'.flight = [] ∧ ∃ r, l'.broken = some r ∧
          r.cause = 0x18 ∧ r.va = e.va ∧ r.seq = e.seq ∧ r.ndisc = BitVec.ofNat 32 rest.length
    (s.ev = some (.linkEnable d i) → ∃ t, exec .linkEnable s = .next t ∧ F t 63 63 = 1 ∧
      (w % 8 = 0 ∨ w % 8 = 3 → F t 35 32 = 0 ∧ F t 31 16 = 0 ∧ F t 15 8 = bits w 15 8 ∧ F t 2 0 = 1 ∧
        FMap.get 0 (t.dev d).train i = s.clock) ∧
      (w % 8 ≠ 0 → w % 8 ≠ 3 → ∀ b, b < 63 → (t.link d i).getLsbD b = (s.link d i).getLsbD b)) ∧
    (∀ lanes peer plink reason, s.ev = some (.linkTrainingEnd d i lanes peer plink reason) → w % 8 = 1 →
      ∃ t, exec .linkTrainingEnd s = .next t ∧ F t 63 63 = 1 ∧ F t 31 16 = 0 ∧
        let fails := fun (r : Nat) => F t 2 0 = 3 ∧ F t 15 8 = r
        if reason = 1 ∨ reason = 2 then fails reason
        else if s.numOf peer = s.numOf d then fails 3
        else if lanes < 4 ∨ 8 < lanes ∨ reason = 4 then fails 4
        else F t 2 0 = 2 ∧ F t 35 32 = lanes ∧ F t 47 39 = s.numOf peer % 512 ∧ F t 51 48 = plink % 16) ∧
    (∀ same, s.ev = some (.flitResend d i same) → w % 8 = 2 →
      let n := if same then FMap.get 0 (s.dev d).resends i + 1 else 1
      ∃ t, exec .flitResend s = .next t ∧ F t 2 0 = 2 ∧ F t 31 16 = min 65535 (bits w 31 16 + 1) ∧ F t 63 32 = bits w 63 32 ∧
        F t 15 3 = bits w 15 3 ∧ FMap.get 0 (t.dev d).resends i = n ∧
        t.agenda = if n < 64 then s.agenda else .linkDown d i :: s.agenda) ∧
    (s.ev = some (.linkDown d i) →
      (w % 8 ≠ 2 ∨ FMap.get 0 (s.dev d).resends i < 64 → exec .linkDown s = .next s) ∧
      (w % 8 = 2 → 64 ≤ FMap.get 0 (s.dev d).resends i → ∃ t, exec .linkDown s = .next t ∧ down t 1 5 3 ∧ loses t)) ∧
    (s.ev = some (.linkDisable d i) → ∃ t, exec .linkDisable s = .next t ∧ down t 0 (bits w 15 8) 0 ∧ (w % 8 = 2 → loses t))) ∧
  (∀ (s : State) (d : Nat),
    (s.ev = some (.clockSyncExchange d) →
      let m := s.masterOf d
      let off : Int := (s.dev d).clk - (s.dev m).clk
      let run := if off.natAbs ≤ 4 then (s.dev d).syncRun + 1 else 0
      (s.syncDue d = false → exec .clockSyncExchange s = .next s) ∧
      (∀ y ∈ s.reach s.devs.length [d], s.numOf m ≤ s.numOf y) ∧
      (s.syncDue d = true → ∃ t, exec .clockSyncExchange s = .next t ∧ (t.dev d).drift = off ∧ (t.dev d).lastSync = s.clock ∧
        (t.dev d).syncRun = run ∧ bits (t.dev d).clksync.toNat 8 0 = s.numOf m % 512 ∧
        (t.dev d).clksync.getLsbD 63 = (if 8 < off.natAbs then false else (s.dev d).clksync.getLsbD 63 || decide (16 ≤ run)))) ∧
    (s.ev = some (.clockSyncLoss d) → (s.dev d).lastSync + 65536 ≤ s.clock → ∃ t, exec .clockSyncLoss s = .next t ∧
      (t.dev d).syncRun = 0 ∧ (t.dev d).clksync.getLsbD 63 = false ∧
      ∀ b, b < 63 → (t.dev d).clksync.getLsbD b = (s.dev d).clksync.getLsbD b) ∧
    (∀ id, s.ev = some (.keyGenerate d id) →
      (FMap.has (s.dev d).keys id = true → exec .keyGenerate s = .next (s.modDev d fun x => { x with keyErr := 1 })) ∧
      (FMap.has (s.dev d).keys id = false → ∃ t, exec .keyGenerate s = .next t ∧ (t.dev d).keyErr = 0 ∧
        FMap.has (t.dev d).keys id = true ∧ (t.dev d).genCount = (s.dev d).genCount + 1 ∧
        FMap.get 0 (t.dev d).keys id = (s.dev d).bootCount.toNat * 2 ^ 32 + ((s.dev d).genCount + 1).toNat)) ∧
    (∀ id, s.ev = some (.keyRetire d id) →
      (id = 0 ∨ FMap.has (s.dev d).keys id = false → exec .keyRetire s = .next (s.modDev d fun x => { x with keyErr := 2 })) ∧
      (id ≠ 0 → FMap.has (s.dev d).keys id = true → ∃ t, exec .keyRetire s = .next t ∧ (t.dev d).keyErr = 0 ∧
        (t.dev d).keys = (s.dev d).keys.del id)) ∧
    (s.ev = some (.interleaveCommit d) →
      (milvOk (s.dev d).milvStaged = false → exec .interleaveCommit s = .next (s.modDev d fun x => { x with milvErr := true })) ∧
      (milvOk (s.dev d).milvStaged = true → ∃ t, exec .interleaveCommit s = .next t ∧ (t.dev d).milvErr = false ∧
        (t.dev d).milv = (s.dev d).milvStaged ∧
        ∀ key a, (devOfAddr a = d → isDram (localOfAddr a) = true →
            (s.dev d).milv[Fin.ofNat 16 (localOfAddr a / 2 ^ 33)] = (s.dev d).milvStaged[Fin.ofNat 16 (localOfAddr a / 2 ^ 33)]) →
          t.byteAt key a = s.byteAt key a)) ∧
    (∀ f z, let e : Moved := { frame := f, size := z }
      (s.ev = some (.movedFrameEnter d f z) → exec .movedFrameEnter s = .next (s.modDev d fun x =>
        if e ∈ x.moved then x else if x.moved.length < 64 then { x with moved := x.moved ++ [e] } else { x with mvovf := true })) ∧
      (s.ev = some (.movedFrameRemove d f z) → ∃ t, exec .movedFrameRemove s = .next t ∧ (t.dev d).mvovf = false ∧
        ∀ g, g ∈ (t.dev d).moved ↔ g ∈ (s.dev d).moved ∧ g ≠ e)) ∧
    (s.ev = some (.intcntClear d) → exec .intcntClear s = .next (s.modDev d fun x => { x with intcnt := 0 })) ∧
    (∀ loc, s.ev = some (.correctableError d loc) →
      exec .correctableError s = .next (s.modDev d fun x => { x with log := x.log ++ [loc] }))) ∧
  (∀ (s : State) (ck : Nat),
    (s.ev = some (.clusterHold ck) → ∃ t, exec .clusterHold s = .next t ∧ SameBytes s t ∧ (t.cluster ck).hold = true ∧
      ∀ k, clusterOf k = ck → (s.slot k).occ = true → (t.slot k).occ = true ∧ (t.slot k).region = none ∧
        ∀ q, (t.slot k).park = some q → q.kept = true) ∧
    (s.ev = some (.clusterRelease ck) →
      let goes := fun (k : Nat) => clusterOf k = ck ∧ (s.slot k).occ = true ∧ (s.slot k).stopped = false
      ∃ t, exec .clusterRelease s = .next t ∧ SameBytes s t ∧ t.cluster ck = { s.cluster ck with hold := false } ∧
        (∀ k, goes k → ∀ e ∈ (t.part (s.pidOf ck)).images, e.1 ≠ coreOf k) ∧
        (∀ v, (s.part (s.pidOf ck)).save = some v → (∃ c ∈ v.cores, clusterOfCore c = ck) → (∃ k, goes k) →
          (t.part (s.pidOf ck)).save = none) ∧
        ((s.part (s.pidOf ck)).save = none → ∀ k, t.slot k = if goes k then
          { s.slot k with saved := false, readyAt := max (s.slot k).readyAt (s.clock + 1) } else s.slot k)) ∧
    (∀ v, s.ev = some (.firewallWrite ck v) →
      let w := (s.cluster ck).fwall
      (w.getLsbD 63 = true → ∃ t, exec .firewallWrite s = .next t ∧ t.cluster ck = s.cluster ck) ∧
      (w.getLsbD 63 = false → ∃ t, exec .firewallWrite s = .next t ∧
        let x := (t.cluster ck).fwall.toNat
        let pid := if v.toNat % 65536 = 65535 then w.toNat % 65536 else v.toNat % 65536
        x % 65536 = pid ∧ bits x 18 16 = bits v.toNat 18 16 ∧ bits x 63 63 = bits v.toNat 63 63 ∧
        bits x 47 32 = (if pid = w.toNat % 65536 then bits w.toNat 47 32 else 0) ∧
        (pid ≠ w.toNat % 65536 → ∀ e ∈ (t.part (w.toNat % 65536)).scopes, tb e.2.devs.toNat (s.numOf (devOf ck)) = true →
          (∃ c, c < 8 ∧ tb e.2.cores.toNat (ck % 160 * 8 + c) = true) → e.2.valid = false)))) ∧
  (∀ (s : State) (c : Nat) (r : List Byte) (rs : List (List Byte)), s.ev = some (.mailRecordDelivery c) →
    (s.core c).mail = r :: rs → (s.core c).inbox.length < 4 →
    ∃ t, exec .mailRecordDelivery s = .next t ∧ SameBytes s t ∧ (t.core c).mail = rs ∧ (t.core c).inbox = (s.core c).inbox ++ [r]) ∧
  (∀ (s : State) (e : ErrSite), s.ev = some (.uncorrectableError e) →
    let charged := fun (d pid : Nat) =>
      let p := s.part pid
      (pid = 0 → exec .uncorrectableError s = .next { s with agenda := .deviceReset d :: s.agenda }) ∧
      (pid ≠ 0 → p.killed = true → exec .uncorrectableError s = .next s) ∧
      (∀ t0 cks, pid ≠ 0 → p.killed = false → p.rolling = some (t0, cks) →
        (s.clock ≤ t0 → exec .uncorrectableError s = .next s) ∧
        (t0 < s.clock → ∃ t, exec .uncorrectableError s = .next t ∧ Killed s t pid)) ∧
      (pid ≠ 0 → p.killed = false → p.rolling = none →
        (p.recoverable = false → ∃ t, exec .uncorrectableError s = .next t ∧ Killed s t pid) ∧
        (p.recoverable = true → ∃ t cks, exec .uncorrectableError s = .next t ∧ SameBytes s t ∧
          (t.part pid).rolling = some (s.clock, cks) ∧ ∀ ck ∈ s.clustersOf pid, (s.cluster ck).stopAt = none →
            (s.cluster ck).hold = false → ck ∈ cks ∧ (t.cluster ck).armStop = some { at_ := s.clkOf ck }))
    (∀ pa x, e = .byte pa x → ∃ t, exec .uncorrectableError s = .next t ∧ t.mem.read pa = x ∧
      (∀ a, a ≠ pa → t.mem.read a = s.mem.read a) ∧
      ∀ key, FMap.has s.checks (pa / 64) = false → FMap.has s.poison (pa / 64) = false → t.checkOf (pa / 64) ≠ s.checkOf (pa / 64) →
        s.unrelated key (pa / 64) = false → t.poisonOf key pa 1 = some 0x17) ∧
    (∀ pa, e = .line pa → (s.underKey0 (pa / 64) = true → charged (devOfAddr pa) 0) ∧
      (s.underKey0 (pa / 64) = false → ∃ t, exec .uncorrectableError s = .next t ∧ SameBytes s t ∧
        ∀ key, s.unrelated key (pa / 64) = false → t.poisonOf key pa 1 = some 0x18)) ∧
    (∀ c line, e = .l1 c line → ∃ t, exec .uncorrectableError s = .next t ∧ SameBytes s t ∧
      (t.core c).l1.length = (s.core c).l1.length ∧ ∀ l ∈ (t.core c).l1, l.pline = line → l.bad = true) ∧
    (∀ ck line, e = .konst ck line → ∃ t, exec .uncorrectableError s = .next t ∧ SameBytes s t ∧
      (t.cluster ck).konst.length = (s.cluster ck).konst.length ∧ ∀ l ∈ (t.cluster ck).konst, l.pline = line → l.bad = true) ∧
    (∀ id, e = .packet id → (s.packetPid id = none → exec .uncorrectableError s = .next s) ∧
      ∀ d pid, s.packetPid id = some (d, pid) → charged d pid) ∧
    (∀ ck, e = .cluster ck → charged (devOf ck) (s.pidOf ck)) ∧
    (∀ d set, e = .l2tag d set → charged d ((s.colourOwner d (bits set 11 6)).getD 0)) ∧
    (∀ n i, e = .tlb true n i → ∃ t, exec .uncorrectableError s = .next t ∧ SameBytes s t ∧
      (t.die n).tlb = (s.die n).tlb.eraseIdx i) ∧
    (∀ n i, e = .tlb false n i → ∃ t, exec .uncorrectableError s = .next t ∧ SameBytes s t ∧
      (t.cluster n).tlb = (s.cluster n).tlb.eraseIdx i) ∧
    ∀ pid, e = .restore pid → (s.rolledDown pid = false → exec .uncorrectableError s = .next s) ∧
      (s.rolledDown pid = true →
        let undo := (s.part pid).insts.flatMap fun e => e.2.undo
        ∃ t, exec .uncorrectableError s = .next t ∧ (t.part pid).rolling = none ∧
          (t.part pid).heldFx = (s.part pid).heldFx.filter (fun h => !s.nodeRuns pid h.inst h.node) ∧
          (∀ k u, FMap.has s.slots k = true → s.uncommitted k = some u → u.pid = pid → (t.slot k).occ = false) ∧
          (∀ i, (t.inst pid i).undo = [] ∧ ∀ j : Nat, (∃ n a b c, (s.inst pid i).nodes[j]? = some (NodeState.running n a b c)) →
            (t.inst pid i).nodes[j]? = some NodeState.waiting) ∧
          (undo.Pairwise (fun u v => ∀ l ∈ linesOf (cellsAt u.pa u.bytes), l ∉ linesOf (cellsAt v.pa v.bytes)) →
            ∀ u ∈ undo, u.bytes.length ≤ 2 ^ 40 → ∀ n b, u.bytes[n]? = some b → t.byteAt u.key (u.pa + n) = b)))

/-- R302-R309, R332, R378: a device reset clears the device but its flash, its boot count and its DRAM, and boots from the flash,
or starts network recovery with the step that failed; the boot signs the alias key with the identity key, which it erases;
recovery asks, stores each frame at its place and acknowledges it, boots from what it received, and fails after 64 s; a
measurement extends its register; the security monitor answers requests while firmware runs, keeps its sessions, a tenant's
session launches, writes and reads for its partition, unless a firewall refuses it, a bad line in a result being unanswered, and a
firmware session creates and destroys partitions (what names one a firmware session, the bodies of the messages and the answer to
a bad line are the model's choices and free values: logs 8, 41; the flash's layout, where an image is loaded and entered, and a
recovery frame out of order: log 3). -/
def Obligations.BootAndSessions : Prop :=
  (∀ (s : State) (d : Nat),
    let boots := fun (t : State) (src : Nat) (f : List Byte) (mr : Vector (BitVec 384) 16) (identity : Nat) =>
      let alias_ := Config.aliasKey (Config.fuseSecret d) ((t.dev d).mr.toList.take 4)
      let w := fieldAt (tableOf f) 8 1
      let ext := fun (r : Fin 16) (x : List Byte) => sha384 (toBytes 48 mr[r].toNat ++ x)
      bits (t.dev d).bootst.toNat 3 0 = 2 ∧ bits (t.dev d).bootst.toNat 23 16 = src ∧ (t.dev d).colcfg.toNat % 256 = w ∧
      (t.dev d).mr[0] = ext 0 (toBytes 48 Config.romDigest.toNat) ∧
      (t.dev d).mr[1] = ext 1 (toBytes 48 (sha384 (rootKey f ++ certOf f)).toNat) ∧ (t.dev d).mr[2] = ext 2 (digestOf f) ∧
      (t.dev d).mr[3] = ext 3 (toBytes 48 (sha384 (tableOf f)).toNat) ∧
      (t.dev d).mr[4] = ext 4 (BitVec.ofNat 8 src :: List.replicate 47 0) ∧ (t.dev d).identity = none ∧
      (t.dev d).aliasId = some (alias_, Config.aliasBody alias_ ++ Config.sign identity (sha384 (Config.aliasBody alias_))) ∧
      (∀ i, i < w → (t.cluster (d * 160 + 8 * i + 7)).hold = false ∧
        (t.cluster (d * 160 + 8 * i + 7)).fwall = BitVec.ofNat 64 (2 ^ 63 + 7 * 2 ^ 16)) ∧
      (t.slot (firmwareCore d 0 * 16)).occ = true ∧ (t.slot (firmwareCore d 0 * 16)).pc.toNat = (Config.imageEntry (imageOf f)).toNat / 2 * 2 ∧
      ((imageOf f).length ≤ 2 ^ 40 → ∀ n b, (imageOf f)[n]? = some b → t.byteAt 0 (addrOf d (Config.imageBase d) + n) = b)
    let recovers := fun (t : State) (fail tries : Nat) => bits (t.dev d).bootst.toNat 3 0 = 1 ∧
      bits (t.dev d).bootst.toNat 15 8 = fail ∧ bits (t.dev d).bootst.toNat 47 32 = tries ∧ (t.dev d).recovery.on = true ∧
      (t.dev d).recovery.server = none ∧ (t.dev d).recovery.data = [] ∧ (t.dev d).recovery.got = []
    let f := (s.dev d).flash
    let short := f.length ≤ rootLen + certLen + tailLen
    (s.ev = some (.deviceReset d) → ∃ t, exec .deviceReset s = .next t ∧ (t.dev d).flash = f ∧
      (t.dev d).bootCount = (s.dev d).bootCount + 1 ∧ (t.dev d).keys = [(0, ((s.dev d).bootCount + 1).toNat * 2 ^ 32)] ∧
      (short → recovers t 1 1) ∧ (∀ c, ¬ short → romFailure d f = some c → recovers t c 1) ∧
      (¬ short → romFailure d f = none → boots t 0 f (Vector.replicate 16 0) (Config.identityKey (Config.fuseSecret d))) ∧
      (short ∨ romFailure d f ≠ none → (∀ k, devOfSlot k = d → (t.slot k).occ = decide (k = (d * 160 + 7) * 128)) ∧
        (∀ ck, devOf ck = d → (t.cluster ck).hold = decide (ck ≠ d * 160 + 7) ∧ (t.cluster ck).fwall = 0) ∧
        ∀ a, devOfAddr a = d → t.mem.read a = if isDram (localOfAddr a) then s.mem.read a else 0)) ∧
    (s.ev = some (.recoveryRequest d) →
      let r := (s.dev d).recovery
      exec .recoveryRequest s = .next (s.modDev d fun x =>
        if r.on = true ∧ r.server = none ∧ r.last + 1300000000 ≤ x.clk then
          { x with sent := x.sent ++ [requestFrame d], recovery := { r with last := x.clk } } else x)) ∧
    (∀ st seq bs, s.ev = some (.recoveryDataFrame d st seq bs) → (s.dev d).recovery.on = true →
      let r := (s.dev d).recovery
      (r.server = some st ∨ r.server = none ∧ seq = 0) →
      ∃ t, exec .recoveryDataFrame s = .next t ∧ (t.dev d).sent = (s.dev d).sent ++ [ackFrame seq] ∧
        (seq ∈ r.got → (t.dev d).recovery = r) ∧
        (seq ∉ r.got → let data := (t.dev d).recovery.data
          (t.dev d).recovery.server = some st ∧ (t.dev d).recovery.got = seq :: r.got ∧
          (∀ n b, (bs.take 1024)[n]? = some b → data[1024 * seq + n]? = some b) ∧
          ∀ n b, r.data[n]? = some b → n < 1024 * seq ∨ 1024 * seq + (bs.take 1024).length ≤ n → data[n]? = some b)) ∧
    (∀ st len, s.ev = some (.recoveryEndFrame d st len) → (s.dev d).recovery.on = true → (s.dev d).recovery.server = some st →
      let g := (s.dev d).recovery.data.take len
      ∃ t, exec .recoveryEndFrame s = .next t ∧ (romFailure d g = none → boots t 1 g (s.dev d).mr ((s.dev d).identity.getD 0)) ∧
        ∀ c, romFailure d g = some c → bits (t.dev d).bootst.toNat 15 8 = c ∧ (t.dev d).recovery.on = false ∧
          (t.dev d).recovery.retry = some ((s.dev d).clk + 13000000000)) ∧
    (s.ev = some (.recoveryTimeout d) → (s.dev d).recovery.on = true → (s.dev d).recovery.first + 64 * 1300000000 ≤ (s.dev d).clk →
      ∃ t, exec .recoveryTimeout s = .next t ∧ bits (t.dev d).bootst.toNat 15 8 = 8 ∧ (t.dev d).recovery.on = false ∧
        (t.dev d).recovery.retry = some ((s.dev d).clk + 13000000000)) ∧
    (∀ at_, s.ev = some (.recoveryRetry d) → (s.dev d).recovery.retry = some at_ → at_ ≤ (s.dev d).clk →
      ∃ t, exec .recoveryRetry s = .next t ∧
        recovers t (bits (s.dev d).bootst.toNat 15 8) (min 65535 (bits (s.dev d).bootst.toNat 47 32 + 1)) ∧
        (t.dev d).sent = (s.dev d).sent ++ [requestFrame d]) ∧
    (∀ port etype st bs, s.ev = some (.ethernetFrameRx d port etype st bs) →
      (port ≠ 0 ∨ etype ≠ 0x88B5 ∨ bs.length < 46 ∨ 9198 < bs.length ∨ bits (s.dev d).bootst.toNat 3 0 ≠ 1 →
        exec .ethernetFrameRx s = .next s) ∧
      (port = 0 → etype = 0x88B5 → 46 ≤ bs.length → bs.length ≤ 9198 → bits (s.dev d).bootst.toNat 3 0 = 1 →
        let leads := fun (e : Event) => exec .ethernetFrameRx s = .next { s with agenda := e :: s.agenda }
        (fieldAt bs 0 2 = 2 → leads (.recoveryDataFrame d st (fieldAt bs 2 4) (bytesIn bs 8 (fieldAt bs 6 2)))) ∧
        (fieldAt bs 0 2 = 4 → leads (.recoveryEndFrame d st (fieldAt bs 8 4))) ∧
        (fieldAt bs 0 2 ≠ 2 → fieldAt bs 0 2 ≠ 4 → exec .ethernetFrameRx s = .next s))) ∧
    (∀ r bs, s.ev = some (.measurementExtend d r bs) → ∃ t, exec .measurementExtend s = .next t ∧
      let i := Fin.ofNat 16 r
      (t.dev d).mr[i] = sha384 (toBytes 48 (s.dev d).mr[i].toNat ++ bs) ∧
      (t.dev d).mrcount[i] = (s.dev d).mrcount[i] + 1 ∧ ∀ j, j ≠ i → (t.dev d).mr[j] = (s.dev d).mr[j])) ∧
  (∀ (s : State) (d id : Nat) (req : List Byte),
    let up := bits (s.dev d).bootst.toNat 3 0 = 2
    let say := fun (x : Dev) (bs : List Byte) => { x with sent := x.sent ++ [{ port := sessPort id, etype := 0x0800, payload := bs }] }
    let blocks := (List.range 16).zipWith (fun k x => (k + 1, x)) (s.dev d).mr.toList
    let certs := (0, Config.identityCert (s.dev d).flash) :: ((s.dev d).aliasId.map fun a => (1, a.2)).toList
    let body := fun (kind : Nat) (req : List Byte) => Config.spdmResponse kind req blocks certs
    let signed := fun (kind : Nat) => body kind req ++
      Config.sign (((s.dev d).aliasId.map (·.1)).getD 0) (sha384 (body kind req))
    let answers := fun (i : Instr) (bs : List Byte) =>
      (up → exec i s = .next (s.modDev d fun x => say x bs)) ∧ (¬ up → ∃ t, exec i s = .next t ∧ t.dev d = s.dev d)
    let fresh : Session := { id := id, key := Config.spdmKey req, cert := Config.requesterCert req, open_ := false, pid := none }
    let known := (s.dev d).sessions.find? (·.id == id)
    (s.ev = some (.getDigests d id req) → answers .getDigests (body 1 req)) ∧
    (s.ev = some (.getCertificate d id req) → answers .getCertificate (body 2 req)) ∧
    (s.ev = some (.challenge d id req) → answers .challenge (signed 3)) ∧
    (s.ev = some (.getMeasurements d id req) → answers .getMeasurements (signed 4)) ∧
    (s.ev = some (.keyExchange d id req) → up →
      (256 ≤ (s.dev d).sessions.length → exec .keyExchange s = .next (s.modDev d fun x => say x (body 0 req))) ∧
      ((s.dev d).sessions.length < 256 → ∃ t, exec .keyExchange s = .next t ∧ (t.dev d).sent = (say (s.dev d) (signed 5)).sent ∧
        (t.dev d).sessions = (s.dev d).sessions ++ [fresh])) ∧
    (∀ x, s.ev = some (.finish d id req) → up → known = some x → x.open_ = false →
      (Config.finishOk x.key req = false → ∃ t, exec .finish s = .next t ∧ ∀ y ∈ (t.dev d).sessions, y.id ≠ id) ∧
      (Config.finishOk x.key req = true → ∃ t, exec .finish s = .next t ∧
        let pid := (s.parts.find? fun e => e.2.cert == x.cert && x.cert != 0).map (·.1)
        (∃ y ∈ (t.dev d).sessions, y.id = id ∧ y.open_ = true ∧ y.pid = pid) ∧
        ∀ p, pid = some p → (t.part p).session = some (d, id) ∧
          ∀ old, (s.part p).session = some old → old ≠ (d, id) → ∀ y ∈ (t.dev old.1).sessions, y.id ≠ old.2)) ∧
    (∀ x, s.ev = some (.keyUpdate d id req) → up → known = some x → x.open_ = true → ∃ t, exec .keyUpdate s = .next t ∧
      (t.dev d).sent = (say (s.dev d) (body 7 req)).sent ∧
      (t.dev d).sessions.find? (·.id == id) = some { x with key := Config.spdmKey (toBytes 32 x.key ++ req) }) ∧
    (∀ x, s.ev = some (.heartbeat d id req) → known = some x → x.open_ = true → answers .heartbeat (body 8 req)) ∧
    (∀ x, s.ev = some (.endSession d id req) → known = some x → ∃ t, exec .endSession s = .next t ∧
      (∀ y ∈ (t.dev d).sessions, y.id ≠ id) ∧ (up → (t.dev d).sent = (say (s.dev d) (body 9 req)).sent) ∧
      ∀ p, (t.part p).session ≠ some (d, id)) ∧
    (∀ x m, s.ev = some (.tenantAppData d id m) → (s.dev d).sessions.find? (fun x => x.id == id && x.open_) = some x →
      x.pid = none →
      (Config.firmwareCert x.cert = false → exec .tenantAppData s = .next s) ∧
      (Config.firmwareCert x.cert = true →
        (∀ p cert keys, m = .create p cert keys → 0 < p → p < 65535 → cert ≠ 0 → (s.part p).cert = 0 →
          ∃ t, exec .tenantAppData s = .next t ∧ SameBytes s t ∧ t.part p = { Part.reset with cert := cert, keys := keys }) ∧
        ∀ p, m = .destroy p → (s.part p).cert ≠ 0 →
          ∃ t, exec .tenantAppData s = .next t ∧ Killed s t p ∧ (t.part p).cert = 0 ∧ (t.part p).scopes = [])) ∧
    ∀ x pid m, s.ev = some (.tenantAppData d id m) → (s.dev d).sessions.find? (fun x => x.id == id && x.open_) = some x →
      x.pid = some pid → (s.part pid).session = some (d, id) →
      (∀ w, m = .launch w →
        let r := s.launch pid w (some (d, id))
        exec .tenantAppData s = .next (r.2.modDev d fun y => say y (toBytes 8 r.1))) ∧
      (∀ asid va bs, m = .write asid va bs → (s.part pid).cert ≠ 0 →
        (s.tenantPieces pid asid va.toNat bs.length = .frozen → exec .tenantAppData s = .next (s.retry (.tenantAppData d id m))) ∧
        ∀ cs, s.tenantPieces pid asid va.toNat bs.length = .ok cs →
          (s.portRefused cs = [] → exec .tenantAppData s = .next (s.putChunks jobWriter none cs bs)) ∧
          (s.portRefused cs ≠ [] → ∃ t, exec .tenantAppData s = .next t ∧ SameBytes s t)) ∧
      ∀ asid va n, m = .read asid va n → (s.part pid).cert ≠ 0 →
        (s.tenantPieces pid asid va.toNat n = .frozen → exec .tenantAppData s = .next (s.retry (.tenantAppData d id m))) ∧
        ∀ cs, s.tenantPieces pid asid va.toNat n = .ok cs →
          (s.portRefused cs = [] → (∀ c ∈ cs, s.chunkPoison [c] = none) →
            exec .tenantAppData s = .next (s.modDev d fun y => say y (s.chunkBytes cs))) ∧
          (s.portRefused cs = [] → (∃ c ∈ cs, s.chunkPoison [c] ≠ none) →
            ∃ t, exec .tenantAppData s = .next t ∧ SameBytes s t ∧ (t.dev d).sent = (s.dev d).sent) ∧
          (s.portRefused cs ≠ [] → ∃ t, exec .tenantAppData s = .next t ∧ t.dev d = s.dev d))

/-- R26, R27, R103, R119, R120: where the barrel picks a slot that owes no answer, no interrupt and no trap, and the words at its PC
lie on pages its thread may execute, in cached lines, and decode to an instruction of its class, one step is that instruction's
meaning on the state in which the slot has taken its turn, a park that does not stay is dropped, and its domain and class are its
page's. -/
def Obligations.StepRunsDecoded : Prop :=
  ∀ (s u v : State) (c k : Nat) (rest ws : List Nat) (e : TlbEnt) (i : Instr),
    let s0 := { s with turns := rest, ev := none }
    let s1 := (s0.beginIssue k).modSlot k fun t => { t with park := t.park.filter Park.stays }
    let t := s.slot k
    let entered := if t.row = none then (u.modSlot k fun t => { t with dom := e.dom, cls := e.cls }).reloadRow k
      else u.modSlot k fun t => { t with cls := e.cls }
    s.agenda = [] → s.turns = c :: rest → s0.pick c = some k → s.handles k = false → t.replied = false → t.heldInt = false ∨
      t.inh = true →
    (s.core (coreOf k)).dif.trap = none →
    s1.fetchPage (coreOf k) t.asid.toNat t.pc.toNat (if t.row.isNone then 2 else t.cls.toNat) = .ok (e, u) →
    t.row = none ∨ (e.dom = t.dom ∧ e.cls ≤ t.cls) → Fetches k e [] ws entered v →
    decodeWords ws = .ok i ws.length → i.cls ≤ e.cls.toNat → step s = exec i v

/-- R10, R11, R112-R128, R133, R144, R157, R189, R213, R232, R365: the words of nine instructions, written from the tables of their
encodings, decode to them, with no prefix, with XR, XI, XP and XH, and with a guard. -/
def Obligations.WordsDecode : Prop :=
  decodeWords [0x0144] = .ok (.add Pfx.none 1 2 1) 1 ∧
  decodeWords [0x1B5F] = .ok (.addi Pfx.none 3 2 (-1)) 1 ∧
  decodeWords [0xF210, 0x0144] = .ok (.add { Pfx.none with xr := true, guard := some (false, 0) } 9 2 1) 2 ∧
  decodeWords [0xE001, 0x1940] = .ok (.addi { Pfx.none with xi := 1 } 1 2 32) 2 ∧
  decodeWords [0x5241] = .ok (.ld64 Pfx.none 2 2 1) 1 ∧
  decodeWords [0xFA81, 0x3144] = .ok (.max Pfx.none 1 2 1) 2 ∧
  decodeWords [0xF900 + 5, 0x1041] = .ok (.tmm Pfx.none 1 true (.stream 2) 0) 2 ∧
  decodeWords [0xE881, 0x5241] = .ok (.ld64 { Pfx.none with hint := some 0x81 } 2 2 1) 2 ∧
  decodeWords [0xFB80, 0x4020] = .ok (.stoparmCore Pfx.none 1) 2 ∧
  decodeWords [0xE884, 0x0144] = .trap 3 2 ∧ decodeWords [0xF800, 0x0144] = .trap 1 2 ∧
  (∀ w, decodeWords [0xE000, 0xE000, 0xE000, 0xE000, 0xE000, w] = .trap 2 5)

/-- R298, R299, R303-R305, R315, log 1, log 2: right after reset the ROM's slot alone holds a thread, every cluster but its own is
held, the firewalls, the sleep depth, the boot status, the translation registers and the measurement registers are 0, and memory
lists nothing: it is in its canonical form, and every byte reads as the model's unlisted byte (log 2: DESIGN CHOICE). -/
def Obligations.ResetState : Prop :=
  let s := State.reset
  (∀ k, (s.slot k).occ = decide (k = 7 * 128)) ∧ (∀ ck, (s.cluster ck).hold = decide (ck ≠ 7)) ∧
  (∀ ck, (s.cluster ck).fwall = 0 ∧ (s.cluster ck).perm = Vector.replicate 3 0 ∧ (s.cluster ck).permdev = Vector.replicate 8 0) ∧
  (∀ c, (s.core c).sdepth = 0 ∧ (s.core c).tvec = 0 ∧ (s.core c).astab = 0 ∧ (s.core c).asleep = false) ∧
  (∀ k, (s.slot k).tsave = 0 ∧ (s.slot k).asid = 0 ∧ (s.slot k).k = KRegs.reset) ∧
  (∀ d, (s.dev d).clk = 0 ∧ (s.dev d).bootst = 0 ∧ (s.dev d).mrsel = 0 ∧ (s.dev d).s2dir = 0 ∧ (s.dev d).moved = [] ∧
    ∀ r : Fin 16, (s.dev d).mr[r] = 0 ∧ (s.dev d).mrcount[r] = 0) ∧
  s.MemWf ∧ ∀ a, s.mem.read a = Memory.unlisted

/-- R87, R115 and log 2: every step leaves memory in its canonical form, so that equal memories are equal data (the form is the
model's own). -/
def Obligations.StepKeepsMemoryForm : Prop :=
  ∀ s t : State, s.MemWf → step s = .next t → t.MemWf

/-- R10, R11, R112-R128: every well-formed instruction, with every operand at every value its encoding admits, decodes from its own
words. -/
def Obligations.EncodeDecode : Prop :=
  ∀ i : Instr, i.wf = true → i.encoded = true → decodeWords (encode i) = .ok i i.nwords

/-- R21-R24, R119: no step stops the machine: at every state, a step of it answers a next state; what an instruction may not do, it
traps on. -/
def Obligations.EveryStepGoes : Prop :=
  ∀ s : State, s.Goes
end

