-- ==== Sys2Proof/Laws/State.lean ====
section
/-! SUPPORT. The small lemmas of `State`: what each named update leaves and what it changes, field by field, so that no later
proof unfolds a record update; and the laws of sparse maps. -/

namespace Sys2Proof

/-! ### Sparse maps -/

@[simp] theorem FMap.get_nil {α : Type} (d : α) (k : Nat) : FMap.get d [] k = d := rfl

@[simp] theorem FMap.get_set_same {α : Type} (d : α) (m : FMap α) (k : Nat) (v : α) : (m.set k v).get d k = v := by
  induction m with
  | nil => simp [FMap.set, FMap.get]
  | cons e m ih =>
    obtain ⟨k', v'⟩ := e
    by_cases h : k' = k <;> simp [FMap.set, FMap.get, h, ih]

theorem FMap.get_set_ne {α : Type} (d : α) (m : FMap α) {k k' : Nat} (v : α) (h : k' ≠ k) :
    (m.set k v).get d k' = m.get d k' := by
  induction m with
  | nil => simp [FMap.set, FMap.get, Ne.symm h]
  | cons e m ih =>
    obtain ⟨k₀, v₀⟩ := e
    by_cases h0 : k₀ = k
    · subst h0; simp [FMap.set, FMap.get, Ne.symm h]
    · by_cases h1 : k₀ = k'
      · subst h1; simp [FMap.set, FMap.get, h0]
      · simp [FMap.set, FMap.get, h0, h1, ih]

@[simp] theorem FMap.set_set {α : Type} (m : FMap α) (k : Nat) (v w : α) : (m.set k v).set k w = m.set k w := by
  induction m with
  | nil => simp [FMap.set]
  | cons e m ih =>
    obtain ⟨k', v'⟩ := e
    by_cases h : k' = k <;> simp [FMap.set, h, ih]

namespace Machine

/-! ### modSlot -/

@[simp] theorem State.modSlot_clock (s : State) (k : Nat) (f : Slot → Slot) : (s.modSlot k f).clock = s.clock := rfl
@[simp] theorem State.modSlot_cur (s : State) (k : Nat) (f : Slot → Slot) : (s.modSlot k f).cur = s.cur := rfl
@[simp] theorem State.modSlot_turns (s : State) (k : Nat) (f : Slot → Slot) : (s.modSlot k f).turns = s.turns := rfl
@[simp] theorem State.modSlot_agenda (s : State) (k : Nat) (f : Slot → Slot) : (s.modSlot k f).agenda = s.agenda := rfl
@[simp] theorem State.modSlot_ev (s : State) (k : Nat) (f : Slot → Slot) : (s.modSlot k f).ev = s.ev := rfl
@[simp] theorem State.modSlot_oracle (s : State) (k : Nat) (f : Slot → Slot) : (s.modSlot k f).oracle = s.oracle := rfl
@[simp] theorem State.modSlot_inputs (s : State) (k : Nat) (f : Slot → Slot) : (s.modSlot k f).inputs = s.inputs := rfl
@[simp] theorem State.modSlot_fresh (s : State) (k : Nat) (f : Slot → Slot) : (s.modSlot k f).fresh = s.fresh := rfl
@[simp] theorem State.modSlot_nextId (s : State) (k : Nat) (f : Slot → Slot) : (s.modSlot k f).nextId = s.nextId := rfl
@[simp] theorem State.modSlot_cores (s : State) (k : Nat) (f : Slot → Slot) : (s.modSlot k f).cores = s.cores := rfl
@[simp] theorem State.modSlot_clusters (s : State) (k : Nat) (f : Slot → Slot) : (s.modSlot k f).clusters = s.clusters := rfl
@[simp] theorem State.modSlot_dies (s : State) (k : Nat) (f : Slot → Slot) : (s.modSlot k f).dies = s.dies := rfl
@[simp] theorem State.modSlot_devs (s : State) (k : Nat) (f : Slot → Slot) : (s.modSlot k f).devs = s.devs := rfl
@[simp] theorem State.modSlot_parts (s : State) (k : Nat) (f : Slot → Slot) : (s.modSlot k f).parts = s.parts := rfl
@[simp] theorem State.modSlot_mem (s : State) (k : Nat) (f : Slot → Slot) : (s.modSlot k f).mem = s.mem := rfl
@[simp] theorem State.modSlot_lmEmpty (s : State) (k : Nat) (f : Slot → Slot) : (s.modSlot k f).lmEmpty = s.lmEmpty := rfl
@[simp] theorem State.modSlot_poison (s : State) (k : Nat) (f : Slot → Slot) : (s.modSlot k f).poison = s.poison := rfl
@[simp] theorem State.modSlot_checks (s : State) (k : Nat) (f : Slot → Slot) : (s.modSlot k f).checks = s.checks := rfl
@[simp] theorem State.modSlot_l2 (s : State) (k : Nat) (f : Slot → Slot) : (s.modSlot k f).l2 = s.l2 := rfl
@[simp] theorem State.modSlot_serials (s : State) (k : Nat) (f : Slot → Slot) : (s.modSlot k f).serials = s.serials := rfl
@[simp] theorem State.modSlot_tags (s : State) (k : Nat) (f : Slot → Slot) : (s.modSlot k f).tags = s.tags := rfl
@[simp] theorem State.modSlot_net (s : State) (k : Nat) (f : Slot → Slot) : (s.modSlot k f).net = s.net := rfl
@[simp] theorem State.modSlot_lanes (s : State) (k : Nat) (f : Slot → Slot) : (s.modSlot k f).lanes = s.lanes := rfl
@[simp] theorem State.modSlot_revokes (s : State) (k : Nat) (f : Slot → Slot) : (s.modSlot k f).revokes = s.revokes := rfl
@[simp] theorem State.modSlot_frontLast (s : State) (k : Nat) (f : Slot → Slot) : (s.modSlot k f).frontLast = s.frontLast := rfl
@[simp] theorem State.modSlot_srds (s : State) (k : Nat) (f : Slot → Slot) : (s.modSlot k f).srds = s.srds := rfl
@[simp] theorem State.modSlot_swrs (s : State) (k : Nat) (f : Slot → Slot) : (s.modSlot k f).swrs = s.swrs := rfl
@[simp] theorem State.core_modSlot (s : State) (k i : Nat) (f : Slot → Slot) : (s.modSlot k f).core i = s.core i := rfl
@[simp] theorem State.cluster_modSlot (s : State) (k i : Nat) (f : Slot → Slot) : (s.modSlot k f).cluster i = s.cluster i := rfl
@[simp] theorem State.die_modSlot (s : State) (k i : Nat) (f : Slot → Slot) : (s.modSlot k f).die i = s.die i := rfl
@[simp] theorem State.dev_modSlot (s : State) (k i : Nat) (f : Slot → Slot) : (s.modSlot k f).dev i = s.dev i := rfl
@[simp] theorem State.part_modSlot (s : State) (k i : Nat) (f : Slot → Slot) : (s.modSlot k f).part i = s.part i := rfl
@[simp] theorem State.slot_modSlot (s : State) (k : Nat) (f : Slot → Slot) : (s.modSlot k f).slot k = f (s.slot k) := by
  simp [State.modSlot, State.slot, State.setSlot]
theorem State.slot_modSlot_ne (s : State) {k i : Nat} (f : Slot → Slot) (h : i ≠ k) : (s.modSlot k f).slot i = s.slot i := by
  simp [State.modSlot, State.slot, State.setSlot, FMap.get_set_ne _ _ _ h]
@[simp] theorem State.modSlot_modSlot (s : State) (k : Nat) (f g : Slot → Slot) :
    (s.modSlot k f).modSlot k g = s.modSlot k (fun x => g (f x)) := by
  simp [State.modSlot, State.slot, State.setSlot]

/-! ### modCore -/

@[simp] theorem State.modCore_clock (s : State) (c : Nat) (f : Core → Core) : (s.modCore c f).clock = s.clock := rfl
@[simp] theorem State.modCore_cur (s : State) (c : Nat) (f : Core → Core) : (s.modCore c f).cur = s.cur := rfl
@[simp] theorem State.modCore_turns (s : State) (c : Nat) (f : Core → Core) : (s.modCore c f).turns = s.turns := rfl
@[simp] theorem State.modCore_agenda (s : State) (c : Nat) (f : Core → Core) : (s.modCore c f).agenda = s.agenda := rfl
@[simp] theorem State.modCore_ev (s : State) (c : Nat) (f : Core → Core) : (s.modCore c f).ev = s.ev := rfl
@[simp] theorem State.modCore_oracle (s : State) (c : Nat) (f : Core → Core) : (s.modCore c f).oracle = s.oracle := rfl
@[simp] theorem State.modCore_inputs (s : State) (c : Nat) (f : Core → Core) : (s.modCore c f).inputs = s.inputs := rfl
@[simp] theorem State.modCore_fresh (s : State) (c : Nat) (f : Core → Core) : (s.modCore c f).fresh = s.fresh := rfl
@[simp] theorem State.modCore_nextId (s : State) (c : Nat) (f : Core → Core) : (s.modCore c f).nextId = s.nextId := rfl
@[simp] theorem State.modCore_slots (s : State) (c : Nat) (f : Core → Core) : (s.modCore c f).slots = s.slots := rfl
@[simp] theorem State.modCore_clusters (s : State) (c : Nat) (f : Core → Core) : (s.modCore c f).clusters = s.clusters := rfl
@[simp] theorem State.modCore_dies (s : State) (c : Nat) (f : Core → Core) : (s.modCore c f).dies = s.dies := rfl
@[simp] theorem State.modCore_devs (s : State) (c : Nat) (f : Core → Core) : (s.modCore c f).devs = s.devs := rfl
@[simp] theorem State.modCore_parts (s : State) (c : Nat) (f : Core → Core) : (s.modCore c f).parts = s.parts := rfl
@[simp] theorem State.modCore_mem (s : State) (c : Nat) (f : Core → Core) : (s.modCore c f).mem = s.mem := rfl
@[simp] theorem State.modCore_lmEmpty (s : State) (c : Nat) (f : Core → Core) : (s.modCore c f).lmEmpty = s.lmEmpty := rfl
@[simp] theorem State.modCore_poison (s : State) (c : Nat) (f : Core → Core) : (s.modCore c f).poison = s.poison := rfl
@[simp] theorem State.modCore_checks (s : State) (c : Nat) (f : Core → Core) : (s.modCore c f).checks = s.checks := rfl
@[simp] theorem State.modCore_l2 (s : State) (c : Nat) (f : Core → Core) : (s.modCore c f).l2 = s.l2 := rfl
@[simp] theorem State.modCore_serials (s : State) (c : Nat) (f : Core → Core) : (s.modCore c f).serials = s.serials := rfl
@[simp] theorem State.modCore_tags (s : State) (c : Nat) (f : Core → Core) : (s.modCore c f).tags = s.tags := rfl
@[simp] theorem State.modCore_net (s : State) (c : Nat) (f : Core → Core) : (s.modCore c f).net = s.net := rfl
@[simp] theorem State.modCore_lanes (s : State) (c : Nat) (f : Core → Core) : (s.modCore c f).lanes = s.lanes := rfl
@[simp] theorem State.modCore_revokes (s : State) (c : Nat) (f : Core → Core) : (s.modCore c f).revokes = s.revokes := rfl
@[simp] theorem State.modCore_frontLast (s : State) (c : Nat) (f : Core → Core) : (s.modCore c f).frontLast = s.frontLast := rfl
@[simp] theorem State.modCore_srds (s : State) (c : Nat) (f : Core → Core) : (s.modCore c f).srds = s.srds := rfl
@[simp] theorem State.modCore_swrs (s : State) (c : Nat) (f : Core → Core) : (s.modCore c f).swrs = s.swrs := rfl
@[simp] theorem State.slot_modCore (s : State) (c i : Nat) (f : Core → Core) : (s.modCore c f).slot i = s.slot i := rfl
@[simp] theorem State.cluster_modCore (s : State) (c i : Nat) (f : Core → Core) : (s.modCore c f).cluster i = s.cluster i := rfl
@[simp] theorem State.die_modCore (s : State) (c i : Nat) (f : Core → Core) : (s.modCore c f).die i = s.die i := rfl
@[simp] theorem State.dev_modCore (s : State) (c i : Nat) (f : Core → Core) : (s.modCore c f).dev i = s.dev i := rfl
@[simp] theorem State.part_modCore (s : State) (c i : Nat) (f : Core → Core) : (s.modCore c f).part i = s.part i := rfl
@[simp] theorem State.core_modCore (s : State) (c : Nat) (f : Core → Core) : (s.modCore c f).core c = f (s.core c) := by
  simp [State.modCore, State.core]
theorem State.core_modCore_ne (s : State) {c i : Nat} (f : Core → Core) (h : i ≠ c) : (s.modCore c f).core i = s.core i := by
  simp [State.modCore, State.core, FMap.get_set_ne _ _ _ h]
@[simp] theorem State.modCore_modCore (s : State) (c : Nat) (f g : Core → Core) :
    (s.modCore c f).modCore c g = s.modCore c (fun x => g (f x)) := by
  simp [State.modCore, State.core]

/-! ### modCluster -/

@[simp] theorem State.modCluster_clock (s : State) (ck : Nat) (f : Cluster → Cluster) : (s.modCluster ck f).clock = s.clock := rfl
@[simp] theorem State.modCluster_cur (s : State) (ck : Nat) (f : Cluster → Cluster) : (s.modCluster ck f).cur = s.cur := rfl
@[simp] theorem State.modCluster_turns (s : State) (ck : Nat) (f : Cluster → Cluster) : (s.modCluster ck f).turns = s.turns := rfl
@[simp] theorem State.modCluster_agenda (s : State) (ck : Nat) (f : Cluster → Cluster) : (s.modCluster ck f).agenda = s.agenda := rfl
@[simp] theorem State.modCluster_ev (s : State) (ck : Nat) (f : Cluster → Cluster) : (s.modCluster ck f).ev = s.ev := rfl
@[simp] theorem State.modCluster_oracle (s : State) (ck : Nat) (f : Cluster → Cluster) : (s.modCluster ck f).oracle = s.oracle := rfl
@[simp] theorem State.modCluster_inputs (s : State) (ck : Nat) (f : Cluster → Cluster) : (s.modCluster ck f).inputs = s.inputs := rfl
@[simp] theorem State.modCluster_fresh (s : State) (ck : Nat) (f : Cluster → Cluster) : (s.modCluster ck f).fresh = s.fresh := rfl
@[simp] theorem State.modCluster_nextId (s : State) (ck : Nat) (f : Cluster → Cluster) : (s.modCluster ck f).nextId = s.nextId := rfl
@[simp] theorem State.modCluster_slots (s : State) (ck : Nat) (f : Cluster → Cluster) : (s.modCluster ck f).slots = s.slots := rfl
@[simp] theorem State.modCluster_cores (s : State) (ck : Nat) (f : Cluster → Cluster) : (s.modCluster ck f).cores = s.cores := rfl
@[simp] theorem State.modCluster_dies (s : State) (ck : Nat) (f : Cluster → Cluster) : (s.modCluster ck f).dies = s.dies := rfl
@[simp] theorem State.modCluster_devs (s : State) (ck : Nat) (f : Cluster → Cluster) : (s.modCluster ck f).devs = s.devs := rfl
@[simp] theorem State.modCluster_parts (s : State) (ck : Nat) (f : Cluster → Cluster) : (s.modCluster ck f).parts = s.parts := rfl
@[simp] theorem State.modCluster_mem (s : State) (ck : Nat) (f : Cluster → Cluster) : (s.modCluster ck f).mem = s.mem := rfl
@[simp] theorem State.modCluster_lmEmpty (s : State) (ck : Nat) (f : Cluster → Cluster) : (s.modCluster ck f).lmEmpty = s.lmEmpty := rfl
@[simp] theorem State.modCluster_poison (s : State) (ck : Nat) (f : Cluster → Cluster) : (s.modCluster ck f).poison = s.poison := rfl
@[simp] theorem State.modCluster_checks (s : State) (ck : Nat) (f : Cluster → Cluster) : (s.modCluster ck f).checks = s.checks := rfl
@[simp] theorem State.modCluster_l2 (s : State) (ck : Nat) (f : Cluster → Cluster) : (s.modCluster ck f).l2 = s.l2 := rfl
@[simp] theorem State.modCluster_serials (s : State) (ck : Nat) (f : Cluster → Cluster) : (s.modCluster ck f).serials = s.serials := rfl
@[simp] theorem State.modCluster_tags (s : State) (ck : Nat) (f : Cluster → Cluster) : (s.modCluster ck f).tags = s.tags := rfl
@[simp] theorem State.modCluster_net (s : State) (ck : Nat) (f : Cluster → Cluster) : (s.modCluster ck f).net = s.net := rfl
@[simp] theorem State.modCluster_lanes (s : State) (ck : Nat) (f : Cluster → Cluster) : (s.modCluster ck f).lanes = s.lanes := rfl
@[simp] theorem State.modCluster_revokes (s : State) (ck : Nat) (f : Cluster → Cluster) : (s.modCluster ck f).revokes = s.revokes := rfl
@[simp] theorem State.modCluster_frontLast (s : State) (ck : Nat) (f : Cluster → Cluster) : (s.modCluster ck f).frontLast = s.frontLast := rfl
@[simp] theorem State.modCluster_srds (s : State) (ck : Nat) (f : Cluster → Cluster) : (s.modCluster ck f).srds = s.srds := rfl
@[simp] theorem State.modCluster_swrs (s : State) (ck : Nat) (f : Cluster → Cluster) : (s.modCluster ck f).swrs = s.swrs := rfl
@[simp] theorem State.slot_modCluster (s : State) (ck i : Nat) (f : Cluster → Cluster) : (s.modCluster ck f).slot i = s.slot i := rfl
@[simp] theorem State.core_modCluster (s : State) (ck i : Nat) (f : Cluster → Cluster) : (s.modCluster ck f).core i = s.core i := rfl
@[simp] theorem State.die_modCluster (s : State) (ck i : Nat) (f : Cluster → Cluster) : (s.modCluster ck f).die i = s.die i := rfl
@[simp] theorem State.dev_modCluster (s : State) (ck i : Nat) (f : Cluster → Cluster) : (s.modCluster ck f).dev i = s.dev i := rfl
@[simp] theorem State.part_modCluster (s : State) (ck i : Nat) (f : Cluster → Cluster) : (s.modCluster ck f).part i = s.part i := rfl
@[simp] theorem State.cluster_modCluster (s : State) (ck : Nat) (f : Cluster → Cluster) : (s.modCluster ck f).cluster ck = f (s.cluster ck) := by
  simp [State.modCluster, State.cluster]
theorem State.cluster_modCluster_ne (s : State) {ck i : Nat} (f : Cluster → Cluster) (h : i ≠ ck) : (s.modCluster ck f).cluster i = s.cluster i := by
  simp [State.modCluster, State.cluster, FMap.get_set_ne _ _ _ h]
@[simp] theorem State.modCluster_modCluster (s : State) (ck : Nat) (f g : Cluster → Cluster) :
    (s.modCluster ck f).modCluster ck g = s.modCluster ck (fun x => g (f x)) := by
  simp [State.modCluster, State.cluster]

/-! ### modDie -/

@[simp] theorem State.modDie_clock (s : State) (x : Nat) (f : Die → Die) : (s.modDie x f).clock = s.clock := rfl
@[simp] theorem State.modDie_cur (s : State) (x : Nat) (f : Die → Die) : (s.modDie x f).cur = s.cur := rfl
@[simp] theorem State.modDie_turns (s : State) (x : Nat) (f : Die → Die) : (s.modDie x f).turns = s.turns := rfl
@[simp] theorem State.modDie_agenda (s : State) (x : Nat) (f : Die → Die) : (s.modDie x f).agenda = s.agenda := rfl
@[simp] theorem State.modDie_ev (s : State) (x : Nat) (f : Die → Die) : (s.modDie x f).ev = s.ev := rfl
@[simp] theorem State.modDie_oracle (s : State) (x : Nat) (f : Die → Die) : (s.modDie x f).oracle = s.oracle := rfl
@[simp] theorem State.modDie_inputs (s : State) (x : Nat) (f : Die → Die) : (s.modDie x f).inputs = s.inputs := rfl
@[simp] theorem State.modDie_fresh (s : State) (x : Nat) (f : Die → Die) : (s.modDie x f).fresh = s.fresh := rfl
@[simp] theorem State.modDie_nextId (s : State) (x : Nat) (f : Die → Die) : (s.modDie x f).nextId = s.nextId := rfl
@[simp] theorem State.modDie_slots (s : State) (x : Nat) (f : Die → Die) : (s.modDie x f).slots = s.slots := rfl
@[simp] theorem State.modDie_cores (s : State) (x : Nat) (f : Die → Die) : (s.modDie x f).cores = s.cores := rfl
@[simp] theorem State.modDie_clusters (s : State) (x : Nat) (f : Die → Die) : (s.modDie x f).clusters = s.clusters := rfl
@[simp] theorem State.modDie_devs (s : State) (x : Nat) (f : Die → Die) : (s.modDie x f).devs = s.devs := rfl
@[simp] theorem State.modDie_parts (s : State) (x : Nat) (f : Die → Die) : (s.modDie x f).parts = s.parts := rfl
@[simp] theorem State.modDie_mem (s : State) (x : Nat) (f : Die → Die) : (s.modDie x f).mem = s.mem := rfl
@[simp] theorem State.modDie_lmEmpty (s : State) (x : Nat) (f : Die → Die) : (s.modDie x f).lmEmpty = s.lmEmpty := rfl
@[simp] theorem State.modDie_poison (s : State) (x : Nat) (f : Die → Die) : (s.modDie x f).poison = s.poison := rfl
@[simp] theorem State.modDie_checks (s : State) (x : Nat) (f : Die → Die) : (s.modDie x f).checks = s.checks := rfl
@[simp] theorem State.modDie_l2 (s : State) (x : Nat) (f : Die → Die) : (s.modDie x f).l2 = s.l2 := rfl
@[simp] theorem State.modDie_serials (s : State) (x : Nat) (f : Die → Die) : (s.modDie x f).serials = s.serials := rfl
@[simp] theorem State.modDie_tags (s : State) (x : Nat) (f : Die → Die) : (s.modDie x f).tags = s.tags := rfl
@[simp] theorem State.modDie_net (s : State) (x : Nat) (f : Die → Die) : (s.modDie x f).net = s.net := rfl
@[simp] theorem State.modDie_lanes (s : State) (x : Nat) (f : Die → Die) : (s.modDie x f).lanes = s.lanes := rfl
@[simp] theorem State.modDie_revokes (s : State) (x : Nat) (f : Die → Die) : (s.modDie x f).revokes = s.revokes := rfl
@[simp] theorem State.modDie_frontLast (s : State) (x : Nat) (f : Die → Die) : (s.modDie x f).frontLast = s.frontLast := rfl
@[simp] theorem State.modDie_srds (s : State) (x : Nat) (f : Die → Die) : (s.modDie x f).srds = s.srds := rfl
@[simp] theorem State.modDie_swrs (s : State) (x : Nat) (f : Die → Die) : (s.modDie x f).swrs = s.swrs := rfl
@[simp] theorem State.slot_modDie (s : State) (x i : Nat) (f : Die → Die) : (s.modDie x f).slot i = s.slot i := rfl
@[simp] theorem State.core_modDie (s : State) (x i : Nat) (f : Die → Die) : (s.modDie x f).core i = s.core i := rfl
@[simp] theorem State.cluster_modDie (s : State) (x i : Nat) (f : Die → Die) : (s.modDie x f).cluster i = s.cluster i := rfl
@[simp] theorem State.dev_modDie (s : State) (x i : Nat) (f : Die → Die) : (s.modDie x f).dev i = s.dev i := rfl
@[simp] theorem State.part_modDie (s : State) (x i : Nat) (f : Die → Die) : (s.modDie x f).part i = s.part i := rfl
@[simp] theorem State.die_modDie (s : State) (x : Nat) (f : Die → Die) : (s.modDie x f).die x = f (s.die x) := by
  simp [State.modDie, State.die]
theorem State.die_modDie_ne (s : State) {x i : Nat} (f : Die → Die) (h : i ≠ x) : (s.modDie x f).die i = s.die i := by
  simp [State.modDie, State.die, FMap.get_set_ne _ _ _ h]
@[simp] theorem State.modDie_modDie (s : State) (x : Nat) (f g : Die → Die) :
    (s.modDie x f).modDie x g = s.modDie x (fun x => g (f x)) := by
  simp [State.modDie, State.die]

/-! ### modDev -/

@[simp] theorem State.modDev_clock (s : State) (d : Nat) (f : Dev → Dev) : (s.modDev d f).clock = s.clock := rfl
@[simp] theorem State.modDev_cur (s : State) (d : Nat) (f : Dev → Dev) : (s.modDev d f).cur = s.cur := rfl
@[simp] theorem State.modDev_turns (s : State) (d : Nat) (f : Dev → Dev) : (s.modDev d f).turns = s.turns := rfl
@[simp] theorem State.modDev_agenda (s : State) (d : Nat) (f : Dev → Dev) : (s.modDev d f).agenda = s.agenda := rfl
@[simp] theorem State.modDev_ev (s : State) (d : Nat) (f : Dev → Dev) : (s.modDev d f).ev = s.ev := rfl
@[simp] theorem State.modDev_oracle (s : State) (d : Nat) (f : Dev → Dev) : (s.modDev d f).oracle = s.oracle := rfl
@[simp] theorem State.modDev_inputs (s : State) (d : Nat) (f : Dev → Dev) : (s.modDev d f).inputs = s.inputs := rfl
@[simp] theorem State.modDev_fresh (s : State) (d : Nat) (f : Dev → Dev) : (s.modDev d f).fresh = s.fresh := rfl
@[simp] theorem State.modDev_nextId (s : State) (d : Nat) (f : Dev → Dev) : (s.modDev d f).nextId = s.nextId := rfl
@[simp] theorem State.modDev_slots (s : State) (d : Nat) (f : Dev → Dev) : (s.modDev d f).slots = s.slots := rfl
@[simp] theorem State.modDev_cores (s : State) (d : Nat) (f : Dev → Dev) : (s.modDev d f).cores = s.cores := rfl
@[simp] theorem State.modDev_clusters (s : State) (d : Nat) (f : Dev → Dev) : (s.modDev d f).clusters = s.clusters := rfl
@[simp] theorem State.modDev_dies (s : State) (d : Nat) (f : Dev → Dev) : (s.modDev d f).dies = s.dies := rfl
@[simp] theorem State.modDev_parts (s : State) (d : Nat) (f : Dev → Dev) : (s.modDev d f).parts = s.parts := rfl
@[simp] theorem State.modDev_mem (s : State) (d : Nat) (f : Dev → Dev) : (s.modDev d f).mem = s.mem := rfl
@[simp] theorem State.modDev_lmEmpty (s : State) (d : Nat) (f : Dev → Dev) : (s.modDev d f).lmEmpty = s.lmEmpty := rfl
@[simp] theorem State.modDev_poison (s : State) (d : Nat) (f : Dev → Dev) : (s.modDev d f).poison = s.poison := rfl
@[simp] theorem State.modDev_checks (s : State) (d : Nat) (f : Dev → Dev) : (s.modDev d f).checks = s.checks := rfl
@[simp] theorem State.modDev_l2 (s : State) (d : Nat) (f : Dev → Dev) : (s.modDev d f).l2 = s.l2 := rfl
@[simp] theorem State.modDev_serials (s : State) (d : Nat) (f : Dev → Dev) : (s.modDev d f).serials = s.serials := rfl
@[simp] theorem State.modDev_tags (s : State) (d : Nat) (f : Dev → Dev) : (s.modDev d f).tags = s.tags := rfl
@[simp] theorem State.modDev_net (s : State) (d : Nat) (f : Dev → Dev) : (s.modDev d f).net = s.net := rfl
@[simp] theorem State.modDev_lanes (s : State) (d : Nat) (f : Dev → Dev) : (s.modDev d f).lanes = s.lanes := rfl
@[simp] theorem State.modDev_revokes (s : State) (d : Nat) (f : Dev → Dev) : (s.modDev d f).revokes = s.revokes := rfl
@[simp] theorem State.modDev_frontLast (s : State) (d : Nat) (f : Dev → Dev) : (s.modDev d f).frontLast = s.frontLast := rfl
@[simp] theorem State.modDev_srds (s : State) (d : Nat) (f : Dev → Dev) : (s.modDev d f).srds = s.srds := rfl
@[simp] theorem State.modDev_swrs (s : State) (d : Nat) (f : Dev → Dev) : (s.modDev d f).swrs = s.swrs := rfl
@[simp] theorem State.slot_modDev (s : State) (d i : Nat) (f : Dev → Dev) : (s.modDev d f).slot i = s.slot i := rfl
@[simp] theorem State.core_modDev (s : State) (d i : Nat) (f : Dev → Dev) : (s.modDev d f).core i = s.core i := rfl
@[simp] theorem State.cluster_modDev (s : State) (d i : Nat) (f : Dev → Dev) : (s.modDev d f).cluster i = s.cluster i := rfl
@[simp] theorem State.die_modDev (s : State) (d i : Nat) (f : Dev → Dev) : (s.modDev d f).die i = s.die i := rfl
@[simp] theorem State.part_modDev (s : State) (d i : Nat) (f : Dev → Dev) : (s.modDev d f).part i = s.part i := rfl
@[simp] theorem State.dev_modDev (s : State) (d : Nat) (f : Dev → Dev) : (s.modDev d f).dev d = f (s.dev d) := by
  simp [State.modDev, State.dev]
theorem State.dev_modDev_ne (s : State) {d i : Nat} (f : Dev → Dev) (h : i ≠ d) : (s.modDev d f).dev i = s.dev i := by
  simp [State.modDev, State.dev, FMap.get_set_ne _ _ _ h]
@[simp] theorem State.modDev_modDev (s : State) (d : Nat) (f g : Dev → Dev) :
    (s.modDev d f).modDev d g = s.modDev d (fun x => g (f x)) := by
  simp [State.modDev, State.dev]

/-! ### modPart -/

@[simp] theorem State.modPart_clock (s : State) (pid : Nat) (f : Part → Part) : (s.modPart pid f).clock = s.clock := rfl
@[simp] theorem State.modPart_cur (s : State) (pid : Nat) (f : Part → Part) : (s.modPart pid f).cur = s.cur := rfl
@[simp] theorem State.modPart_turns (s : State) (pid : Nat) (f : Part → Part) : (s.modPart pid f).turns = s.turns := rfl
@[simp] theorem State.modPart_agenda (s : State) (pid : Nat) (f : Part → Part) : (s.modPart pid f).agenda = s.agenda := rfl
@[simp] theorem State.modPart_ev (s : State) (pid : Nat) (f : Part → Part) : (s.modPart pid f).ev = s.ev := rfl
@[simp] theorem State.modPart_oracle (s : State) (pid : Nat) (f : Part → Part) : (s.modPart pid f).oracle = s.oracle := rfl
@[simp] theorem State.modPart_inputs (s : State) (pid : Nat) (f : Part → Part) : (s.modPart pid f).inputs = s.inputs := rfl
@[simp] theorem State.modPart_fresh (s : State) (pid : Nat) (f : Part → Part) : (s.modPart pid f).fresh = s.fresh := rfl
@[simp] theorem State.modPart_nextId (s : State) (pid : Nat) (f : Part → Part) : (s.modPart pid f).nextId = s.nextId := rfl
@[simp] theorem State.modPart_slots (s : State) (pid : Nat) (f : Part → Part) : (s.modPart pid f).slots = s.slots := rfl
@[simp] theorem State.modPart_cores (s : State) (pid : Nat) (f : Part → Part) : (s.modPart pid f).cores = s.cores := rfl
@[simp] theorem State.modPart_clusters (s : State) (pid : Nat) (f : Part → Part) : (s.modPart pid f).clusters = s.clusters := rfl
@[simp] theorem State.modPart_dies (s : State) (pid : Nat) (f : Part → Part) : (s.modPart pid f).dies = s.dies := rfl
@[simp] theorem State.modPart_devs (s : State) (pid : Nat) (f : Part → Part) : (s.modPart pid f).devs = s.devs := rfl
@[simp] theorem State.modPart_mem (s : State) (pid : Nat) (f : Part → Part) : (s.modPart pid f).mem = s.mem := rfl
@[simp] theorem State.modPart_lmEmpty (s : State) (pid : Nat) (f : Part → Part) : (s.modPart pid f).lmEmpty = s.lmEmpty := rfl
@[simp] theorem State.modPart_poison (s : State) (pid : Nat) (f : Part → Part) : (s.modPart pid f).poison = s.poison := rfl
@[simp] theorem State.modPart_checks (s : State) (pid : Nat) (f : Part → Part) : (s.modPart pid f).checks = s.checks := rfl
@[simp] theorem State.modPart_l2 (s : State) (pid : Nat) (f : Part → Part) : (s.modPart pid f).l2 = s.l2 := rfl
@[simp] theorem State.modPart_serials (s : State) (pid : Nat) (f : Part → Part) : (s.modPart pid f).serials = s.serials := rfl
@[simp] theorem State.modPart_tags (s : State) (pid : Nat) (f : Part → Part) : (s.modPart pid f).tags = s.tags := rfl
@[simp] theorem State.modPart_net (s : State) (pid : Nat) (f : Part → Part) : (s.modPart pid f).net = s.net := rfl
@[simp] theorem State.modPart_lanes (s : State) (pid : Nat) (f : Part → Part) : (s.modPart pid f).lanes = s.lanes := rfl
@[simp] theorem State.modPart_revokes (s : State) (pid : Nat) (f : Part → Part) : (s.modPart pid f).revokes = s.revokes := rfl
@[simp] theorem State.modPart_frontLast (s : State) (pid : Nat) (f : Part → Part) : (s.modPart pid f).frontLast = s.frontLast := rfl
@[simp] theorem State.modPart_srds (s : State) (pid : Nat) (f : Part → Part) : (s.modPart pid f).srds = s.srds := rfl
@[simp] theorem State.modPart_swrs (s : State) (pid : Nat) (f : Part → Part) : (s.modPart pid f).swrs = s.swrs := rfl
@[simp] theorem State.slot_modPart (s : State) (pid i : Nat) (f : Part → Part) : (s.modPart pid f).slot i = s.slot i := rfl
@[simp] theorem State.core_modPart (s : State) (pid i : Nat) (f : Part → Part) : (s.modPart pid f).core i = s.core i := rfl
@[simp] theorem State.cluster_modPart (s : State) (pid i : Nat) (f : Part → Part) : (s.modPart pid f).cluster i = s.cluster i := rfl
@[simp] theorem State.die_modPart (s : State) (pid i : Nat) (f : Part → Part) : (s.modPart pid f).die i = s.die i := rfl
@[simp] theorem State.dev_modPart (s : State) (pid i : Nat) (f : Part → Part) : (s.modPart pid f).dev i = s.dev i := rfl
@[simp] theorem State.part_modPart (s : State) (pid : Nat) (f : Part → Part) : (s.modPart pid f).part pid = f (s.part pid) := by
  simp [State.modPart, State.part]
theorem State.part_modPart_ne (s : State) {pid i : Nat} (f : Part → Part) (h : i ≠ pid) : (s.modPart pid f).part i = s.part i := by
  simp [State.modPart, State.part, FMap.get_set_ne _ _ _ h]
@[simp] theorem State.modPart_modPart (s : State) (pid : Nat) (f g : Part → Part) :
    (s.modPart pid f).modPart pid g = s.modPart pid (fun x => g (f x)) := by
  simp [State.modPart, State.part]

@[simp] theorem State.modMe_clock (s : State) (f : Slot → Slot) : (s.modMe f).clock = s.clock := rfl
@[simp] theorem State.modMe_cur (s : State) (f : Slot → Slot) : (s.modMe f).cur = s.cur := rfl
@[simp] theorem State.modMe_turns (s : State) (f : Slot → Slot) : (s.modMe f).turns = s.turns := rfl
@[simp] theorem State.modMe_agenda (s : State) (f : Slot → Slot) : (s.modMe f).agenda = s.agenda := rfl
@[simp] theorem State.modMe_ev (s : State) (f : Slot → Slot) : (s.modMe f).ev = s.ev := rfl
@[simp] theorem State.modMe_oracle (s : State) (f : Slot → Slot) : (s.modMe f).oracle = s.oracle := rfl
@[simp] theorem State.modMe_inputs (s : State) (f : Slot → Slot) : (s.modMe f).inputs = s.inputs := rfl
@[simp] theorem State.modMe_fresh (s : State) (f : Slot → Slot) : (s.modMe f).fresh = s.fresh := rfl
@[simp] theorem State.modMe_nextId (s : State) (f : Slot → Slot) : (s.modMe f).nextId = s.nextId := rfl
@[simp] theorem State.modMe_cores (s : State) (f : Slot → Slot) : (s.modMe f).cores = s.cores := rfl
@[simp] theorem State.modMe_clusters (s : State) (f : Slot → Slot) : (s.modMe f).clusters = s.clusters := rfl
@[simp] theorem State.modMe_dies (s : State) (f : Slot → Slot) : (s.modMe f).dies = s.dies := rfl
@[simp] theorem State.modMe_devs (s : State) (f : Slot → Slot) : (s.modMe f).devs = s.devs := rfl
@[simp] theorem State.modMe_parts (s : State) (f : Slot → Slot) : (s.modMe f).parts = s.parts := rfl
@[simp] theorem State.modMe_mem (s : State) (f : Slot → Slot) : (s.modMe f).mem = s.mem := rfl
@[simp] theorem State.modMe_lmEmpty (s : State) (f : Slot → Slot) : (s.modMe f).lmEmpty = s.lmEmpty := rfl
@[simp] theorem State.modMe_poison (s : State) (f : Slot → Slot) : (s.modMe f).poison = s.poison := rfl
@[simp] theorem State.modMe_checks (s : State) (f : Slot → Slot) : (s.modMe f).checks = s.checks := rfl
@[simp] theorem State.modMe_l2 (s : State) (f : Slot → Slot) : (s.modMe f).l2 = s.l2 := rfl
@[simp] theorem State.modMe_serials (s : State) (f : Slot → Slot) : (s.modMe f).serials = s.serials := rfl
@[simp] theorem State.modMe_tags (s : State) (f : Slot → Slot) : (s.modMe f).tags = s.tags := rfl
@[simp] theorem State.modMe_net (s : State) (f : Slot → Slot) : (s.modMe f).net = s.net := rfl
@[simp] theorem State.modMe_lanes (s : State) (f : Slot → Slot) : (s.modMe f).lanes = s.lanes := rfl
@[simp] theorem State.modMe_revokes (s : State) (f : Slot → Slot) : (s.modMe f).revokes = s.revokes := rfl
@[simp] theorem State.modMe_frontLast (s : State) (f : Slot → Slot) : (s.modMe f).frontLast = s.frontLast := rfl
@[simp] theorem State.modMe_srds (s : State) (f : Slot → Slot) : (s.modMe f).srds = s.srds := rfl
@[simp] theorem State.modMe_swrs (s : State) (f : Slot → Slot) : (s.modMe f).swrs = s.swrs := rfl
@[simp] theorem State.core_modMe (s : State) (i : Nat) (f : Slot → Slot) : (s.modMe f).core i = s.core i := rfl
@[simp] theorem State.cluster_modMe (s : State) (i : Nat) (f : Slot → Slot) : (s.modMe f).cluster i = s.cluster i := rfl
@[simp] theorem State.die_modMe (s : State) (i : Nat) (f : Slot → Slot) : (s.modMe f).die i = s.die i := rfl
@[simp] theorem State.dev_modMe (s : State) (i : Nat) (f : Slot → Slot) : (s.modMe f).dev i = s.dev i := rfl
@[simp] theorem State.part_modMe (s : State) (i : Nat) (f : Slot → Slot) : (s.modMe f).part i = s.part i := rfl

@[simp] theorem State.me_modMe (s : State) (f : Slot → Slot) : (s.modMe f).me = f s.me := by
  simp [State.modMe, State.me]

@[simp] theorem State.modMe_modMe (s : State) (f g : Slot → Slot) : (s.modMe f).modMe g = s.modMe (fun t => g (f t)) := by
  simp [State.modMe]

theorem State.modMe_congr {s : State} {f g : Slot → Slot} (h : f s.me = g s.me) : s.modMe f = s.modMe g := by
  simp only [State.modMe, State.modSlot]; exact congrArg _ h

@[simp] theorem State.me_modCore (s : State) (c : Nat) (f : Core → Core) : (s.modCore c f).me = s.me := rfl
@[simp] theorem State.me_modCluster (s : State) (ck : Nat) (f : Cluster → Cluster) : (s.modCluster ck f).me = s.me := rfl
@[simp] theorem State.me_modDie (s : State) (x : Nat) (f : Die → Die) : (s.modDie x f).me = s.me := rfl
@[simp] theorem State.me_modDev (s : State) (d : Nat) (f : Dev → Dev) : (s.modDev d f).me = s.me := rfl
@[simp] theorem State.me_modPart (s : State) (pid : Nat) (f : Part → Part) : (s.modPart pid f).me = s.me := rfl
@[simp] theorem State.myCore_modMe (s : State) (f : Slot → Slot) : (s.modMe f).myCore = s.myCore := rfl
@[simp] theorem State.myCluster_modMe (s : State) (f : Slot → Slot) : (s.modMe f).myCluster = s.myCluster := rfl
@[simp] theorem State.myDev_modMe (s : State) (f : Slot → Slot) : (s.modMe f).myDev = s.myDev := rfl
@[simp] theorem State.myPid_modMe (s : State) (f : Slot → Slot) : (s.modMe f).myPid = s.myPid := rfl

theorem State.slot_modMe_ne (s : State) {k : Nat} (f : Slot → Slot) (h : k ≠ s.cur) : (s.modMe f).slot k = s.slot k :=
  State.slot_modSlot_ne s f h

end Machine
end Sys2Proof
end

