-- ==== Sys2Proof/Laws/Ops.lean ====
section
/-! SUPPORT. What the shared operations do, said once: registers, completion, parks, the frame `run` of a meaning. -/

namespace Sys2Proof.Machine

/-! ### Registers -/

/-- A change of a slot that leaves what completion reads: the PC and the single-step bit. -/
def Slot.Keeps (f : Slot → Slot) : Prop := ∀ t, (f t).pc = t.pc ∧ (f t).sstep = t.sstep

theorem Slot.setReg_keeps (t : Slot) (r : Fin 32) (x : GReg) :
    t.setReg r x = { t with g := (t.setReg r x).g, wrote := (t.setReg r x).wrote } := by
  unfold Slot.setReg; split <;> rfl
theorem Slot.wr_keeps (t : Slot) (r : Fin 32) (x : Word) : t.wr r x = { t with g := (t.wr r x).g, wrote := (t.wr r x).wrote } :=
  Slot.setReg_keeps ..
theorem Slot.wrTag_keeps (t : Slot) (r : Fin 32) (x : Word) (tag : Option (BitVec 32)) :
    t.wrTag r x tag = { t with g := (t.wrTag r x tag).g, wrote := (t.wrTag r x tag).wrote } :=
  Slot.setReg_keeps ..
theorem Slot.wrP_keeps (t : Slot) (r : Fin 8) (b : Bool) : t.wrP r b = { t with p := (t.wrP r b).p } := by
  unfold Slot.wrP; split <;> rfl
theorem Slot.wrM_keeps (t : Slot) (r : Fin 8) (x : BitVec 32) : t.wrM r x = { t with m := (t.wrM r x).m } := by
  unfold Slot.wrM; split <;> rfl

@[simp] theorem Slot.wr_pc (t : Slot) (r : Fin 32) (x : Word) : (t.wr r x).pc = t.pc := by rw [Slot.wr_keeps]
@[simp] theorem Slot.wr_sstep (t : Slot) (r : Fin 32) (x : Word) : (t.wr r x).sstep = t.sstep := by rw [Slot.wr_keeps]
@[simp] theorem Slot.wr_park (t : Slot) (r : Fin 32) (x : Word) : (t.wr r x).park = t.park := by rw [Slot.wr_keeps]
@[simp] theorem Slot.setReg_pc (t : Slot) (r : Fin 32) (x : GReg) : (t.setReg r x).pc = t.pc := by rw [Slot.setReg_keeps]
@[simp] theorem Slot.setReg_sstep (t : Slot) (r : Fin 32) (x : GReg) : (t.setReg r x).sstep = t.sstep := by
  rw [Slot.setReg_keeps]
@[simp] theorem Slot.wrTag_pc (t : Slot) (r : Fin 32) (x : Word) (g : Option (BitVec 32)) : (t.wrTag r x g).pc = t.pc := by
  rw [Slot.wrTag_keeps]
@[simp] theorem Slot.wrTag_sstep (t : Slot) (r : Fin 32) (x : Word) (g : Option (BitVec 32)) :
    (t.wrTag r x g).sstep = t.sstep := by
  rw [Slot.wrTag_keeps]
@[simp] theorem Slot.wrP_pc (t : Slot) (r : Fin 8) (b : Bool) : (t.wrP r b).pc = t.pc := by rw [Slot.wrP_keeps]
@[simp] theorem Slot.wrP_sstep (t : Slot) (r : Fin 8) (b : Bool) : (t.wrP r b).sstep = t.sstep := by rw [Slot.wrP_keeps]
@[simp] theorem Slot.wrM_pc (t : Slot) (r : Fin 8) (x : BitVec 32) : (t.wrM r x).pc = t.pc := by rw [Slot.wrM_keeps]
@[simp] theorem Slot.wrM_sstep (t : Slot) (r : Fin 8) (x : BitVec 32) : (t.wrM r x).sstep = t.sstep := by rw [Slot.wrM_keeps]
@[simp] theorem Slot.wrV_pc (t : Slot) (r : Fin 16) (x : BitVec 1024) : (t.wrV r x).pc = t.pc := rfl
@[simp] theorem Slot.wrV_sstep (t : Slot) (r : Fin 16) (x : BitVec 1024) : (t.wrV r x).sstep = t.sstep := rfl

/-! ### Completion -/

theorem retired_congr {s : State} {nw : Nat} {f g : Slot → Slot} (h : f s.me = g s.me) :
    Claims.retired s nw f = Claims.retired s nw g := by
  exact State.modMe_congr (by simp only [h])

/-- Completion of a thread that is not stepped: the PC, and no park. -/
theorem State.doneAt_plain (s : State) (nw : Nat) (pc : Word) (h : s.me.sstep = false) :
    s.doneAt nw pc = s.modMe fun t => Claims.endAt t pc := by
  simp only [State.doneAt, h]; rfl

theorem State.finish_plain (s : State) (nw : Nat) (h : s.me.sstep = false) :
    s.finish nw = Claims.retired s nw id := by
  rw [State.finish, State.doneAt_plain _ _ _ h]; exact State.modMe_congr rfl

theorem State.finishMe_plain (s : State) (nw : Nat) (f : Slot → Slot) (h : (f s.me).sstep = false)
    (hp : (f s.me).pc = s.me.pc) : s.finishMe nw f = Claims.retired s nw f := by
  rw [State.finishMe, State.finish_plain _ _ (by simpa using h), Claims.retired, Claims.retired, State.modMe_modMe]
  exact State.modMe_congr (by simp [hp])

/-! ### Parks -/

theorem State.parkAt_parked (s : State) (cause : Nat) (w : Wait) (rest : Rest) (nw : Nat) (exempt : Bool)
    (h : w.isFrozen = false) : s.parkAt s.cur cause w rest nw exempt = Claims.parked s cause w rest nw exempt := by
  unfold State.parkAt Claims.parked Claims.parkNow
  refine State.modMe_congr ?_
  cases hp : s.me.park <;> simp [h]

/-! ### The frame of a meaning -/

theorem run_begins {p : Pfx} {nw : Nat} {forbidden : Bool} {s : State} {body : State → State} (h : Claims.Begins s p)
    (hr : forbidden = true → s.me.region = none) : run p nw forbidden s body = .next (body s) := by
  obtain ⟨h1, h2⟩ := h
  cases forbidden <;> simp_all [run]

theorem run_false {p : Pfx} {nw : Nat} {forbidden : Bool} {s : State} {body : State → State}
    (h1 : s.me.replied = false) (h2 : s.me.guard p = false) (h3 : s.me.sstep = false) :
    run p nw forbidden s body = .next (Claims.retired s nw id) := by
  simp [run, h1, h2, State.finish_plain s nw h3]

/-- A meaning with the frame `run` always answers a next state. -/
theorem run_next (p : Pfx) (nw : Nat) (forbidden : Bool) (s : State) (body : State → State) :
    ∃ t, run p nw forbidden s body = .next t := ⟨_, rfl⟩

theorem withFull_full {s : State} {rs : List (Fin 32)} (nw : Nat) (f : State → State) (h : Claims.Full s rs) :
    withFull s rs nw f = f s := by
  have : rs.find? (fun r => !s.me.full r) = none := by
    rw [List.find?_eq_none]; intro r hr; simp [h r hr]
  simp [withFull, this]

/-- The words that `nw0` and `nwX` count are those of the encoding. -/
theorem nwords_of_page0 {i : Instr} {f : Fld} (p : Pfx) (h : i.fields = some f) (hf : f.p = p) (hp : f.page = 0) :
    i.nwords = nw0 p := by
  subst hf; simp [Instr.nwords, h, hp, nw0]
theorem nwords_of_page {i : Instr} {f : Fld} (p : Pfx) (h : i.fields = some f) (hf : f.p = p) (hp : f.page ≠ 0) :
    i.nwords = nwX p := by
  subst hf; simp [Instr.nwords, h, hp, nwX, nw0]; omega

end Sys2Proof.Machine
end

