-- ==== Sys2Proof/Laws/Fetch.lean ====
section
/-! SUPPORT. Chains: how a list of words decodes prefix by prefix, what a fetch changes, and how the words of a chain are read. -/

open Sys2Proof.Claims

namespace Sys2Proof.Machine

theorem push_n (c : Chain) (w : Nat) : (c.push w).n = c.n + 1 := by
  unfold Chain.push; split <;> rfl
theorem finish_ok {c : Chain} {w : Nat} {i : Instr} {n : Nat} (h : c.finish w = .ok i n) : n = c.n + 1 := by
  unfold Chain.finish at h
  split at h
  · cases h
  · split at h
    · cases h
    · split at h
      · cases h
      · split at h
        · cases h
        · split at h
          · split at h <;> cases h; rfl
          · cases h; rfl
/-- Before its base word a chain that decodes is not over. -/
theorem scan_more (i : Instr) (post : List Nat) (x : Nat) : ∀ (pre : List Nat) (c : Chain) (n : Nat), n = c.n + (pre ++ x :: post).length →
    scan c (pre ++ x :: post) = .ok i n → scan c pre = .more
  | [], c, n, _, _ => rfl
  | w :: pre, c, n, hn, h => by
    simp only [List.cons_append, scan] at h ⊢
    split at h
    · split at h
      · cases h
      · rename_i h1 h2
        rw [if_pos h1, if_neg h2]
        exact scan_more i post x pre (c.push w) n (by rw [push_n]; simp at hn ⊢; omega) h
    · have := finish_ok h; simp at hn; omega
/-- A chain that decodes has at most five words (R116). -/
theorem scan_len (i : Instr) : ∀ (ws : List Nat) (c : Chain) (n : Nat), c.n ≤ 4 → scan c ws = .ok i n → n ≤ 5
  | [], c, n, _, h => by simp [scan] at h
  | w :: ws, c, n, hc, h => by
    simp only [scan] at h
    split at h
    · split at h
      · cases h
      · rename_i h2
        exact scan_len i ws (c.push w) n (by rw [push_n]; simp at h2; omega) h
    · have := finish_ok h; omega

/-- What a bind of translations answers comes from an answer of its first part. -/
theorem Tr.bind_ok {α β : Type} {x : Tr α} {f : α → Tr β} {b : β} (h : x.bind f = .ok b) : ∃ a, x = .ok a ∧ f a = .ok b := by
  cases x with
  | ok a => exact ⟨a, rfl, h⟩
  | fault c => cases h
  | frozen => cases h

/-- A translation enters the TLBs and changes nothing else. -/
theorem translate_tlbAdd {s : State} {c asid va : Nat} {e : TlbEnt} {t : State} (h : s.translate c asid va = .ok (e, t)) :
    t = s.tlbAdd c e := by
  unfold State.translate at h
  split at h
  · cases h
  · split at h
    · cases h; rfl
    · obtain ⟨l, -, h⟩ := Tr.bind_ok h
      obtain ⟨e', -, h⟩ := Tr.bind_ok h
      cases h; rfl

/-- The page of a fetch: only the TLBs change. -/
theorem fetchPage_tlbAdd {s : State} {c asid va cls : Nat} {e : TlbEnt} {t : State} (h : s.fetchPage c asid va cls = .ok (e, t)) :
    ∃ e', t = s.tlbAdd c e' := by
  unfold State.fetchPage at h
  obtain ⟨a, ha, h⟩ := Tr.bind_ok h
  have ha := translate_tlbAdd ha
  split at h
  · cases h
  · obtain ⟨l, -, h⟩ := Tr.bind_ok h
    cases h; exact ⟨_, ha⟩

theorem fetchPage_slot {s : State} {c asid va cls : Nat} {e : TlbEnt} {t : State} (h : s.fetchPage c asid va cls = .ok (e, t))
    (k : Nat) : t.slot k = s.slot k := by
  obtain ⟨e', rfl⟩ := fetchPage_tlbAdd h; rfl

/-- The words of a chain read one by one give its instruction. -/
theorem fetch_words (k : Nat) (e : TlbEnt) (i : Instr) : ∀ (ws done : List Nat) (s v : State) (fuel : Nat), ws ≠ [] → ws.length ≤ fuel →
    Fetches k e done ws s v → decodeWords (done ++ ws) = .ok i (done ++ ws).length → i.cls ≤ (s.slot k).cls.toNat →
    s.fetchWords k e done fuel = .instr i (done ++ ws).length v
  | [], _, _, _, _, h, _, _, _, _ => absurd rfl h
  | w :: ws, done, s, v, 0, _, h, _, _, _ => by simp at h
  | w :: ws, done, s, v, fuel + 1, _, hl, hf, hd, hc => by
    obtain ⟨e', s', hp, h1, h2, h3, h4, hr⟩ := hf
    have hs := fetchPage_slot hp k
    simp only [State.fetchWords, hp, h1, h2, h3, h4, bne_self_eq_false, Bool.or_self, Bool.not_true]
    cases ws with
    | nil =>
      have : decideWords (s.slot k) (done ++ [w]) s' = some (.instr i (done ++ [w]).length s') := by
        simp only [decideWords, hd]
        rw [if_neg (by omega)]
      simp only [this, Bool.false_eq_true, if_false]
      cases hr; rfl
    | cons x ws =>
      have hm : decodeWords (done ++ [w]) = .more :=
        scan_more i ws x (done ++ [w]) Chain.start (done ++ w :: x :: ws).length (by simp [Chain.start]) (by simpa [decodeWords] using hd)
      have : decideWords (s.slot k) (done ++ [w]) s' = none := by simp only [decideWords, hm]
      simp only [this, Bool.false_eq_true, if_false]
      have hd' : decodeWords ((done ++ [w]) ++ x :: ws) = .ok i ((done ++ [w]) ++ x :: ws).length := by
        simpa only [List.append_assoc, List.singleton_append] using hd
      have := fetch_words k e i (x :: ws) (done ++ [w]) s' v fuel (by simp) (by simp at hl ⊢; omega) hr hd' (by rw [hs]; exact hc)
      simpa only [List.append_assoc, List.singleton_append] using this
theorem slot_mod (s : State) (k : Nat) (f : Slot → Slot) : (s.modSlot k f).slot k = f (s.slot k) := by
  simp [State.modSlot, State.setSlot, State.slot]

end Sys2Proof.Machine
end

