-- ==== Sys2Proof/Laws/Access.lean ====
section
/-! SUPPORT. What the checks of an access change, whether they pass, trap or park: the TLBs, a slot's row, a core's copies of grants
and a router's count of drops, and nothing else. -/

namespace Sys2Proof.Machine

/-- `t` differs from `s` in TLBs, rows, copies of grants and firewall words at most. -/
structure State.Light (s t : State) : Prop where
  rest : t = { s with slots := t.slots, cores := t.cores, clusters := t.clusters, dies := t.dies }
  slot : ∀ k, t.slot k = { s.slot k with row := (t.slot k).row }
  core : ∀ c, t.core c = { s.core c with grants := (t.core c).grants }
  cluster : ∀ ck, t.cluster ck = { s.cluster ck with tlb := (t.cluster ck).tlb, fwall := (t.cluster ck).fwall }
  die : ∀ d, t.die d = { s.die d with tlb := (t.die d).tlb }

theorem State.Light.refl (s : State) : s.Light s := ⟨rfl, fun _ => rfl, fun _ => rfl, fun _ => rfl, fun _ => rfl⟩

theorem State.Light.trans {s t u : State} (h : s.Light t) (g : t.Light u) : s.Light u := by
  refine ⟨?_, fun k => ?_, fun k => ?_, fun k => ?_, fun k => ?_⟩
  · have a := g.rest; rw [h.rest] at a; exact a
  · have a := g.slot k; rw [h.slot k] at a; exact a
  · have a := g.core k; rw [h.core k] at a; exact a
  · have a := g.cluster k; rw [h.cluster k] at a; exact a
  · have a := g.die k; rw [h.die k] at a; exact a

/-- Memory reads as before. -/
theorem State.Light.mem {s t : State} (h : s.Light t) : t.mem = s.mem := by rw [h.rest]
theorem State.Light.cur {s t : State} (h : s.Light t) : t.cur = s.cur := by rw [h.rest]
theorem State.Light.clock {s t : State} (h : s.Light t) : t.clock = s.clock := by rw [h.rest]
/-- The running slot changes in its row at most. -/
theorem State.Light.me {s t : State} (h : s.Light t) : t.me = { s.me with row := t.me.row } := by
  have := h.slot s.cur
  simpa only [State.me, h.cur] using this

theorem State.tlbAdd_light (s : State) (c : Nat) (e : TlbEnt) : s.Light (s.tlbAdd c e) := by
  refine ⟨rfl, fun _ => rfl, fun _ => rfl, fun ck => ?_, fun d => ?_⟩
  · simp only [State.tlbAdd, State.modCluster, State.modDie, State.cluster]
    by_cases h : ck = clusterOfCore c
    · subst h; simp
    · simp [FMap.get_set_ne _ _ _ h]
  · simp only [State.tlbAdd, State.modCluster, State.modDie, State.die]
    by_cases h : d = dieOf (clusterOfCore c)
    · subst h; simp
    · simp [FMap.get_set_ne _ _ _ h]

theorem State.takeCopy_light (s : State) (c pa raw : Nat) : s.Light (s.takeCopy c pa raw) := by
  refine ⟨rfl, fun _ => rfl, fun c' => ?_, fun _ => rfl, fun _ => rfl⟩
  simp only [State.takeCopy, State.modCore, State.core]
  by_cases h : c' = c
  · subst h; simp
  · simp [FMap.get_set_ne _ _ _ h]

theorem State.countDrop_light (s : State) (ck : Nat) : s.Light (s.countDrop ck) := by
  refine ⟨rfl, fun _ => rfl, fun _ => rfl, fun ck' => ?_, fun _ => rfl⟩
  simp only [State.countDrop, State.modCluster, State.cluster]
  by_cases h : ck' = ck
  · subst h
    rw [FMap.get_set_same]
    by_cases hb : bits (FMap.get Cluster.reset s.clusters ck').fwall.toNat 47 32 = 65535 <;> simp [hb]
  · simp [FMap.get_set_ne _ _ _ h]

theorem State.row_light (s : State) (k : Nat) (r : Option Row) : s.Light (s.modSlot k fun x => { x with row := r }) := by
  refine ⟨rfl, fun k' => ?_, fun _ => rfl, fun _ => rfl, fun _ => rfl⟩
  simp only [State.modSlot, State.setSlot, State.slot]
  by_cases h : k' = k
  · subst h; simp
  · simp [FMap.get_set_ne _ _ _ h]

theorem State.translate_light {s : State} {c asid va : Nat} {e : TlbEnt} {t : State} (h : s.translate c asid va = .ok (e, t)) :
    s.Light t := translate_tlbAdd h ▸ s.tlbAdd_light c e

theorem State.fetchPage_light {s : State} {c asid va cls : Nat} {e : TlbEnt} {t : State}
    (h : s.fetchPage c asid va cls = .ok (e, t)) : s.Light t := by
  obtain ⟨e', rfl⟩ := fetchPage_tlbAdd h; exact s.tlbAdd_light c e'

theorem State.rowOf_light {s : State} {k : Nat} {r : Row} {t : State} (h : s.rowOf k = .ok (r, t)) : s.Light t := by
  unfold State.rowOf at h
  dsimp only at h
  split at h
  · split at h
    · cases h; exact .refl s
    · obtain ⟨r', -, h⟩ := Tr.bind_ok h; cases h; exact s.row_light k _
  · obtain ⟨r', -, h⟩ := Tr.bind_ok h; cases h; exact s.row_light k _

theorem State.step5_light {s : State} {dom : BitVec 8} {need : Nat} {tagged : Bool} {t : State}
    (h : s.step5 dom need tagged = .ok t) : s.Light t := by
  unfold State.step5 at h
  split at h
  · cases h; exact .refl s
  · obtain ⟨⟨r, t'⟩, hr, h⟩ := Tr.bind_ok h
    split at h <;> cases h
    exact State.rowOf_light hr

/-- The state that a check answers, whichever way it goes. -/
def Chk.state : Chk → State
  | .ok a => a.s
  | .trap _ s => s
  | .park _ s => s

theorem State.pastWall_light (s : State) (a : Acc) (h : a.s = s) : s.Light (s.pastWall a).state := by
  unfold State.pastWall
  split
  · exact s.countDrop_light _
  · rw [← h]; exact .refl _
theorem State.remoteCheck_light (s : State) (e : TlbEnt) (va : Nat) (posted : Bool) : s.Light (s.remoteCheck e va posted).state := by
  unfold State.remoteCheck
  repeat' split
  all_goals first | exact .refl s | exact s.pastWall_light _ rfl

theorem State.step6_light (s : State) (e : TlbEnt) (va : Nat) (posted : Bool) : s.Light (s.step6 e va posted).state := by
  unfold State.step6
  split
  · exact s.remoteCheck_light e va posted
  · split
    · exact .refl s
    · split
      · exact .refl s
      · dsimp only
        split
        · exact .refl s
        · exact s.pastWall_light _ rfl

theorem State.steps456_light (s : State) (va need : Nat) (tagged posted : Bool) :
    s.Light (s.steps456 va need tagged posted).state := by
  unfold State.steps456
  dsimp only
  split
  · split
    · exact .refl s
    · exact .refl s
    · rename_i t h5
      have ht := State.step5_light h5
      split
      · split
        · exact ht
        · exact ht
        · rename_i htr; exact ht.trans ((State.translate_light htr).trans (State.remoteCheck_light ..))
      · split
        · exact ht
        · exact ht
  · split
    · exact .refl s
    · exact .refl s
    · split
      · exact .refl s
      · exact .refl s
      · rename_i t h5
        have ht := State.step5_light h5
        split
        · exact ht
        · exact ht
        · rename_i htr; exact ht.trans ((State.translate_light htr).trans (State.step6_light ..))

theorem State.step3_light (s : State) (tag : BitVec 32) (va n : Nat) (write : Bool) : s.Light (s.step3 tag va n write).state := by
  unfold State.step3
  split
  · exact .refl s
  · exact .refl s
  · split
    · exact s.takeCopy_light ..
    · dsimp only
      repeat' split
      all_goals exact s.takeCopy_light ..

theorem State.stepsAll_light (s : State) (va n need : Nat) (tagged posted : Bool) :
    s.Light (s.stepsAll va n need tagged posted).state := by
  unfold State.stepsAll
  have h0 := s.steps456_light va need tagged posted
  generalize s.steps456 va need tagged posted = r at h0 ⊢
  generalize List.range (lineCount va n - 1) = l
  induction l generalizing r with
  | nil => exact h0
  | cons i l ih =>
    refine ih _ ?_
    cases r with
    | ok a =>
      have h1 := a.s.steps456_light (va / 64 * 64 + 64 * (i + 1)) need tagged posted
      dsimp only
      generalize a.s.steps456 (va / 64 * 64 + 64 * (i + 1)) need tagged posted = q at h1 ⊢
      cases q <;> exact h0.trans h1
    | trap c s' => exact h0
    | park w s' => exact h0

/-- The checks of R105 before the steps that a caller gives change no more than those steps do. -/
theorem State.checkBy_light (s : State) (tag : Option (BitVec 32)) (va n need : Nat) (steps : State → Bool → Chk)
    (hs : ∀ (t : State) (b : Bool), t.Light (steps t b).state) : s.Light (s.checkBy tag va n need steps).state := by
  unfold State.checkBy
  split
  · exact .refl s
  · split
    · exact hs ..
    · rename_i t
      have h3 := s.step3_light t va n (decide (2 ≤ need))
      split
      · rename_i a ha
        rw [ha] at h3
        exact h3.trans (hs ..)
      · exact h3

/-- The checks of R105 change TLBs, rows, copies of grants and firewall words at most. -/
theorem State.check_light (s : State) (tag : Option (BitVec 32)) (va n need : Nat) (posted : Bool) :
    s.Light (s.check tag va n need posted).state :=
  s.checkBy_light tag va n need _ fun t b => t.stepsAll_light va n need b posted

theorem State.check_ok_light {s : State} {tag : Option (BitVec 32)} {va n need : Nat} {posted : Bool} {a : Acc}
    (h : s.check tag va n need posted = .ok a) : s.Light a.s := by
  have := s.check_light tag va n need posted
  rwa [h] at this

end Sys2Proof.Machine
end

