-- ==== Sys2Proof/Laws/Dispatch.lean ====
section
/-! SUPPORT. For each constructor of `Instr`: the meaning that `exec` calls, and, where it has an encoding, its prefixes and its
number of words. -/

namespace Sys2Proof.Machine

@[simp] theorem exec_add (p : Pfx) (d a b : Fin 32) (s : State) :
    exec (.add p d a b) s = execAdd p d a b s := rfl
@[simp] theorem exec_sub (p : Pfx) (d a b : Fin 32) (s : State) :
    exec (.sub p d a b) s = execSub p d a b s := rfl
@[simp] theorem exec_and (p : Pfx) (d a b : Fin 32) (s : State) :
    exec (.and p d a b) s = execAnd p d a b s := rfl
@[simp] theorem exec_or (p : Pfx) (d a b : Fin 32) (s : State) :
    exec (.or p d a b) s = execOr p d a b s := rfl
@[simp] theorem exec_xor (p : Pfx) (d a b : Fin 32) (s : State) :
    exec (.xor p d a b) s = execXor p d a b s := rfl
@[simp] theorem exec_mul (p : Pfx) (d a b : Fin 32) (s : State) :
    exec (.mul p d a b) s = execMul p d a b s := rfl
@[simp] theorem exec_shl (p : Pfx) (d a b : Fin 32) (s : State) :
    exec (.shl p d a b) s = execShl p d a b s := rfl
@[simp] theorem exec_shr (p : Pfx) (d a b : Fin 32) (s : State) :
    exec (.shr p d a b) s = execShr p d a b s := rfl
@[simp] theorem exec_shra (p : Pfx) (d a b : Fin 32) (s : State) :
    exec (.shra p d a b) s = execShra p d a b s := rfl
@[simp] theorem exec_andn (p : Pfx) (d a b : Fin 32) (s : State) :
    exec (.andn p d a b) s = execAndn p d a b s := rfl
@[simp] theorem exec_gate (p : Pfx) (s : State) :
    exec (.gate p) s = execGate p s := rfl
@[simp] theorem exec_retx (p : Pfx) (s : State) :
    exec (.retx p) s = execRetx p s := rfl
@[simp] theorem exec_exit (p : Pfx) (s : State) :
    exec (.exit p) s = execExit p s := rfl
@[simp] theorem exec_brk (p : Pfx) (s : State) :
    exec (.brk p) s = execBrk p s := rfl
@[simp] theorem exec_trap (p : Pfx) (code : Fin 64) (s : State) :
    exec (.trap p code) s = execTrap p code s := rfl
@[simp] theorem exec_addi (p : Pfx) (d a : Fin 32) (imm : Int) (s : State) :
    exec (.addi p d a imm) s = execAddi p d a imm s := rfl
@[simp] theorem exec_shli (p : Pfx) (d a : Fin 32) (imm : Int) (s : State) :
    exec (.shli p d a imm) s = execShli p d a imm s := rfl
@[simp] theorem exec_shri (p : Pfx) (d a : Fin 32) (imm : Int) (s : State) :
    exec (.shri p d a imm) s = execShri p d a imm s := rfl
@[simp] theorem exec_shrai (p : Pfx) (d a : Fin 32) (imm : Int) (s : State) :
    exec (.shrai p d a imm) s = execShrai p d a imm s := rfl
@[simp] theorem exec_ldS8 (p : Pfx) (d a : Fin 32) (off : Int) (s : State) :
    exec (.ldS8 p d a off) s = execLdS8 p d a off s := rfl
@[simp] theorem exec_ldS16 (p : Pfx) (d a : Fin 32) (off : Int) (s : State) :
    exec (.ldS16 p d a off) s = execLdS16 p d a off s := rfl
@[simp] theorem exec_ldS32 (p : Pfx) (d a : Fin 32) (off : Int) (s : State) :
    exec (.ldS32 p d a off) s = execLdS32 p d a off s := rfl
@[simp] theorem exec_ld64 (p : Pfx) (d a : Fin 32) (off : Int) (s : State) :
    exec (.ld64 p d a off) s = execLd64 p d a off s := rfl
@[simp] theorem exec_ldZ8 (p : Pfx) (d a : Fin 32) (off : Int) (s : State) :
    exec (.ldZ8 p d a off) s = execLdZ8 p d a off s := rfl
@[simp] theorem exec_ldZ16 (p : Pfx) (d a : Fin 32) (off : Int) (s : State) :
    exec (.ldZ16 p d a off) s = execLdZ16 p d a off s := rfl
@[simp] theorem exec_ldZ32 (p : Pfx) (d a : Fin 32) (off : Int) (s : State) :
    exec (.ldZ32 p d a off) s = execLdZ32 p d a off s := rfl
@[simp] theorem exec_st8 (p : Pfx) (d a : Fin 32) (off : Int) (s : State) :
    exec (.st8 p d a off) s = execSt8 p d a off s := rfl
@[simp] theorem exec_st16 (p : Pfx) (d a : Fin 32) (off : Int) (s : State) :
    exec (.st16 p d a off) s = execSt16 p d a off s := rfl
@[simp] theorem exec_st32 (p : Pfx) (d a : Fin 32) (off : Int) (s : State) :
    exec (.st32 p d a off) s = execSt32 p d a off s := rfl
@[simp] theorem exec_st64 (p : Pfx) (d a : Fin 32) (off : Int) (s : State) :
    exec (.st64 p d a off) s = execSt64 p d a off s := rfl
@[simp] theorem exec_ldl (p : Pfx) (mode : LMode) (d a : Fin 32) (off : Fin 8) (s : State) :
    exec (.ldl p mode d a off) s = execLdl p mode d a off s := rfl
@[simp] theorem exec_stl (p : Pfx) (mode : LMode) (d a : Fin 32) (off : Fin 8) (s : State) :
    exec (.stl p mode d a off) s = execStl p mode d a off s := rfl
@[simp] theorem exec_ldc (p : Pfx) (d a : Fin 32) (off : Int) (s : State) :
    exec (.ldc p d a off) s = execLdc p d a off s := rfl
@[simp] theorem exec_cmpEq (p : Pfx) (d : Fin 8) (a b : Fin 32) (s : State) :
    exec (.cmpEq p d a b) s = execCmpEq p d a b s := rfl
@[simp] theorem exec_cmpNe (p : Pfx) (d : Fin 8) (a b : Fin 32) (s : State) :
    exec (.cmpNe p d a b) s = execCmpNe p d a b s := rfl
@[simp] theorem exec_cmpLt (p : Pfx) (d : Fin 8) (a b : Fin 32) (s : State) :
    exec (.cmpLt p d a b) s = execCmpLt p d a b s := rfl
@[simp] theorem exec_cmpGe (p : Pfx) (d : Fin 8) (a b : Fin 32) (s : State) :
    exec (.cmpGe p d a b) s = execCmpGe p d a b s := rfl
@[simp] theorem exec_cmpuLtu (p : Pfx) (d : Fin 8) (a b : Fin 32) (s : State) :
    exec (.cmpuLtu p d a b) s = execCmpuLtu p d a b s := rfl
@[simp] theorem exec_cmpuGeu (p : Pfx) (d : Fin 8) (a b : Fin 32) (s : State) :
    exec (.cmpuGeu p d a b) s = execCmpuGeu p d a b s := rfl
@[simp] theorem exec_cmpuTst (p : Pfx) (d : Fin 8) (a b : Fin 32) (s : State) :
    exec (.cmpuTst p d a b) s = execCmpuTst p d a b s := rfl
@[simp] theorem exec_cmpuNtst (p : Pfx) (d : Fin 8) (a b : Fin 32) (s : State) :
    exec (.cmpuNtst p d a b) s = execCmpuNtst p d a b s := rfl
@[simp] theorem exec_pand (p : Pfx) (d a b : Fin 8) (s : State) :
    exec (.pand p d a b) s = execPand p d a b s := rfl
@[simp] theorem exec_por (p : Pfx) (d a b : Fin 8) (s : State) :
    exec (.por p d a b) s = execPor p d a b s := rfl
@[simp] theorem exec_pxor (p : Pfx) (d a b : Fin 8) (s : State) :
    exec (.pxor p d a b) s = execPxor p d a b s := rfl
@[simp] theorem exec_pandn (p : Pfx) (d a b : Fin 8) (s : State) :
    exec (.pandn p d a b) s = execPandn p d a b s := rfl
@[simp] theorem exec_br (p : Pfx) (imm : Int) (s : State) :
    exec (.br p imm) s = execBr p imm s := rfl
@[simp] theorem exec_call (p : Pfx) (imm : Int) (s : State) :
    exec (.call p imm) s = execCall p imm s := rfl
@[simp] theorem exec_callx (p : Pfx) (imm : Int) (s : State) :
    exec (.callx p imm) s = execCallx p imm s := rfl
@[simp] theorem exec_jmp (p : Pfx) (a : Fin 32) (s : State) :
    exec (.jmp p a) s = execJmp p a s := rfl
@[simp] theorem exec_callReg (p : Pfx) (a : Fin 32) (s : State) :
    exec (.callReg p a) s = execCallReg p a s := rfl
@[simp] theorem exec_ret (p : Pfx) (s : State) :
    exec (.ret p) s = execRet p s := rfl
@[simp] theorem exec_callxReg (p : Pfx) (a : Fin 32) (s : State) :
    exec (.callxReg p a) s = execCallxReg p a s := rfl
@[simp] theorem exec_vadd (p : Pfx) (t : VTy) (r : Rnd) (d a b : VOpd) (m : Fin 4) (s : State) :
    exec (.vadd p t r d a b m) s = execVadd p t r d a b m s := rfl
@[simp] theorem exec_vsub (p : Pfx) (t : VTy) (r : Rnd) (d a b : VOpd) (m : Fin 4) (s : State) :
    exec (.vsub p t r d a b m) s = execVsub p t r d a b m s := rfl
@[simp] theorem exec_vmul (p : Pfx) (t : VTy) (r : Rnd) (d a b : VOpd) (m : Fin 4) (s : State) :
    exec (.vmul p t r d a b m) s = execVmul p t r d a b m s := rfl
@[simp] theorem exec_vfma (p : Pfx) (t : VTy) (r : Rnd) (d : Fin 16) (a b : VOpd) (m : Fin 4) (s : State) :
    exec (.vfma p t r d a b m) s = execVfma p t r d a b m s := rfl
@[simp] theorem exec_vfms (p : Pfx) (t : VTy) (r : Rnd) (d : Fin 16) (a b : VOpd) (m : Fin 4) (s : State) :
    exec (.vfms p t r d a b m) s = execVfms p t r d a b m s := rfl
@[simp] theorem exec_vfnma (p : Pfx) (t : VTy) (r : Rnd) (d : Fin 16) (a b : VOpd) (m : Fin 4) (s : State) :
    exec (.vfnma p t r d a b m) s = execVfnma p t r d a b m s := rfl
@[simp] theorem exec_vfnms (p : Pfx) (t : VTy) (r : Rnd) (d : Fin 16) (a b : VOpd) (m : Fin 4) (s : State) :
    exec (.vfnms p t r d a b m) s = execVfnms p t r d a b m s := rfl
@[simp] theorem exec_vmax (p : Pfx) (t : VTy) (d a b : VOpd) (m : Fin 4) (s : State) :
    exec (.vmax p t d a b m) s = execVmax p t d a b m s := rfl
@[simp] theorem exec_vmin (p : Pfx) (t : VTy) (d a b : VOpd) (m : Fin 4) (s : State) :
    exec (.vmin p t d a b m) s = execVmin p t d a b m s := rfl
@[simp] theorem exec_vmaxa (p : Pfx) (t : VTy) (d a b : VOpd) (m : Fin 4) (s : State) :
    exec (.vmaxa p t d a b m) s = execVmaxa p t d a b m s := rfl
@[simp] theorem exec_vmina (p : Pfx) (t : VTy) (d a b : VOpd) (m : Fin 4) (s : State) :
    exec (.vmina p t d a b m) s = execVmina p t d a b m s := rfl
@[simp] theorem exec_vcmpEq (p : Pfx) (neg : Bool) (t : VTy) (d : Fin 8) (a b : VOpd) (m : Fin 4) (s : State) :
    exec (.vcmpEq p neg t d a b m) s = execVcmpEq p neg t d a b m s := rfl
@[simp] theorem exec_vcmpLt (p : Pfx) (neg : Bool) (t : VTy) (d : Fin 8) (a b : VOpd) (m : Fin 4) (s : State) :
    exec (.vcmpLt p neg t d a b m) s = execVcmpLt p neg t d a b m s := rfl
@[simp] theorem exec_vcmpLe (p : Pfx) (neg : Bool) (t : VTy) (d : Fin 8) (a b : VOpd) (m : Fin 4) (s : State) :
    exec (.vcmpLe p neg t d a b m) s = execVcmpLe p neg t d a b m s := rfl
@[simp] theorem exec_vcmpUn (p : Pfx) (neg : Bool) (t : VTy) (d : Fin 8) (a b : VOpd) (m : Fin 4) (s : State) :
    exec (.vcmpUn p neg t d a b m) s = execVcmpUn p neg t d a b m s := rfl
@[simp] theorem exec_vsel (p : Pfx) (t : VTy) (d : Fin 16) (a b : VOpd) (m : Fin 4) (s : State) :
    exec (.vsel p t d a b m) s = execVsel p t d a b m s := rfl
@[simp] theorem exec_vand (p : Pfx) (d a b : VOpd) (m : Fin 4) (s : State) :
    exec (.vand p d a b m) s = execVand p d a b m s := rfl
@[simp] theorem exec_vor (p : Pfx) (d a b : VOpd) (m : Fin 4) (s : State) :
    exec (.vor p d a b m) s = execVor p d a b m s := rfl
@[simp] theorem exec_vxor (p : Pfx) (d a b : VOpd) (m : Fin 4) (s : State) :
    exec (.vxor p d a b m) s = execVxor p d a b m s := rfl
@[simp] theorem exec_vandn (p : Pfx) (d a b : VOpd) (m : Fin 4) (s : State) :
    exec (.vandn p d a b m) s = execVandn p d a b m s := rfl
@[simp] theorem exec_vshl (p : Pfx) (t : VTy) (d : Fin 16) (a : VOpd) (imm : Int) (m : Fin 4) (s : State) :
    exec (.vshl p t d a imm m) s = execVshl p t d a imm m s := rfl
@[simp] theorem exec_vshr (p : Pfx) (t : VTy) (d : Fin 16) (a : VOpd) (imm : Int) (m : Fin 4) (s : State) :
    exec (.vshr p t d a imm m) s = execVshr p t d a imm m s := rfl
@[simp] theorem exec_vshra (p : Pfx) (t : VTy) (d : Fin 16) (a : VOpd) (imm : Int) (m : Fin 4) (s : State) :
    exec (.vshra p t d a imm m) s = execVshra p t d a imm m s := rfl
@[simp] theorem exec_vredSum (p : Pfx) (t : VTy) (r : Rnd) (d : Fin 32) (a : VOpd) (m : Fin 4) (s : State) :
    exec (.vredSum p t r d a m) s = execVredSum p t r d a m s := rfl
@[simp] theorem exec_vredMax (p : Pfx) (t : VTy) (r : Rnd) (d : Fin 32) (a : VOpd) (m : Fin 4) (s : State) :
    exec (.vredMax p t r d a m) s = execVredMax p t r d a m s := rfl
@[simp] theorem exec_vredMin (p : Pfx) (t : VTy) (r : Rnd) (d : Fin 32) (a : VOpd) (m : Fin 4) (s : State) :
    exec (.vredMin p t r d a m) s = execVredMin p t r d a m s := rfl
@[simp] theorem exec_vcvt (p : Pfx) (tt st : VTy) (r : Rnd) (ns part : Bool) (d a : Fin 16) (m : Fin 4) (s : State) :
    exec (.vcvt p tt st r ns part d a m) s = execVcvt p tt st r ns part d a m s := rfl
@[simp] theorem exec_vexp2 (p : Pfx) (d a : VOpd) (m : Fin 4) (s : State) :
    exec (.vexp2 p d a m) s = execVexp2 p d a m s := rfl
@[simp] theorem exec_vrcp (p : Pfx) (d a : VOpd) (m : Fin 4) (s : State) :
    exec (.vrcp p d a m) s = execVrcp p d a m s := rfl
@[simp] theorem exec_vrsq (p : Pfx) (d a : VOpd) (m : Fin 4) (s : State) :
    exec (.vrsq p d a m) s = execVrsq p d a m s := rfl
@[simp] theorem exec_vquant (p : Pfx) (d a : VOpd) (b : Fin 32) (m : Fin 4) (s : State) :
    exec (.vquant p d a b m) s = execVquant p d a b m s := rfl
@[simp] theorem exec_vdeq (p : Pfx) (d a : VOpd) (b : Fin 32) (m : Fin 4) (s : State) :
    exec (.vdeq p d a b m) s = execVdeq p d a b m s := rfl
@[simp] theorem exec_vmov (p : Pfx) (d a : VOpd) (m : Fin 4) (s : State) :
    exec (.vmov p d a m) s = execVmov p d a m s := rfl
@[simp] theorem exec_vbcast (p : Pfx) (d : Fin 16) (a : Fin 32) (m : Fin 4) (s : State) :
    exec (.vbcast p d a m) s = execVbcast p d a m s := rfl
@[simp] theorem exec_vgetl (p : Pfx) (d : Fin 32) (a : Fin 16) (b : Fin 32) (s : State) :
    exec (.vgetl p d a b) s = execVgetl p d a b s := rfl
@[simp] theorem exec_vsetl (p : Pfx) (d : Fin 16) (a b : Fin 32) (s : State) :
    exec (.vsetl p d a b) s = execVsetl p d a b s := rfl
@[simp] theorem exec_vld (p : Pfx) (sp : Space) (m : Fin 4) (d : Fin 16) (a : Fin 32) (off : Int) (s : State) :
    exec (.vld p sp m d a off) s = execVld p sp m d a off s := rfl
@[simp] theorem exec_vst (p : Pfx) (sp : Space) (m : Fin 4) (d : Fin 16) (a : Fin 32) (off : Int) (s : State) :
    exec (.vst p sp m d a off) s = execVst p sp m d a off s := rfl
@[simp] theorem exec_vgather (p : Pfx) (t : VTy) (d : Fin 16) (a : Fin 32) (b : Fin 16) (m : Fin 4) (s : State) :
    exec (.vgather p t d a b m) s = execVgather p t d a b m s := rfl
@[simp] theorem exec_mand (p : Pfx) (d a b : Fin 8) (s : State) :
    exec (.mand p d a b) s = execMand p d a b s := rfl
@[simp] theorem exec_mor (p : Pfx) (d a b : Fin 8) (s : State) :
    exec (.mor p d a b) s = execMor p d a b s := rfl
@[simp] theorem exec_mxor (p : Pfx) (d a b : Fin 8) (s : State) :
    exec (.mxor p d a b) s = execMxor p d a b s := rfl
@[simp] theorem exec_mandn (p : Pfx) (d a b : Fin 8) (s : State) :
    exec (.mandn p d a b) s = execMandn p d a b s := rfl
@[simp] theorem exec_mpop (p : Pfx) (d : Fin 32) (a : Fin 8) (s : State) :
    exec (.mpop p d a) s = execMpop p d a s := rfl
@[simp] theorem exec_mset (p : Pfx) (d : Fin 8) (a : Fin 32) (s : State) :
    exec (.mset p d a) s = execMset p d a s := rfl
@[simp] theorem exec_mget (p : Pfx) (d : Fin 32) (a : Fin 8) (s : State) :
    exec (.mget p d a) s = execMget p d a s := rfl
@[simp] theorem exec_mgetVs (p : Pfx) (d : Fin 32) (s : State) :
    exec (.mgetVs p d) s = execMgetVs p d s := rfl
@[simp] theorem exec_mgetVsClr (p : Pfx) (d : Fin 32) (s : State) :
    exec (.mgetVsClr p d) s = execMgetVsClr p d s := rfl
@[simp] theorem exec_vabs (p : Pfx) (t : VTy) (d a : VOpd) (m : Fin 4) (s : State) :
    exec (.vabs p t d a m) s = execVabs p t d a m s := rfl
@[simp] theorem exec_vneg (p : Pfx) (t : VTy) (d a : VOpd) (m : Fin 4) (s : State) :
    exec (.vneg p t d a m) s = execVneg p t d a m s := rfl
@[simp] theorem exec_gangStatic (p : Pfx) (s : State) :
    exec (.gangStatic p) s = execGangStatic p s := rfl
@[simp] theorem exec_gangElastic (p : Pfx) (a : Fin 32) (s : State) :
    exec (.gangElastic p a) s = execGangElastic p a s := rfl
@[simp] theorem exec_gangEnd (p : Pfx) (s : State) :
    exec (.gangEnd p) s = execGangEnd p s := rfl
@[simp] theorem exec_twld (p : Pfx) (buf : Bool) (a b : Fin 32) (s : State) :
    exec (.twld p buf a b) s = execTwld p buf a b s := rfl
@[simp] theorem exec_tmm (p : Pfx) (acc : Fin 4) (buf : Bool) (src : TSrc) (b : Fin 32) (s : State) :
    exec (.tmm p acc buf src b) s = execTmm p acc buf src b s := rfl
@[simp] theorem exec_tdrain (p : Pfx) (acc : Fin 4) (d a b : Fin 32) (s : State) :
    exec (.tdrain p acc d a b) s = execTdrain p acc d a b s := rfl
@[simp] theorem exec_tdrainAdd (p : Pfx) (acc : Fin 4) (d a b : Fin 32) (s : State) :
    exec (.tdrainAdd p acc d a b) s = execTdrainAdd p acc d a b s := rfl
@[simp] theorem exec_tzero (p : Pfx) (acc : Fin 4) (s : State) :
    exec (.tzero p acc) s = execTzero p acc s := rfl
@[simp] theorem exec_trda (p : Pfx) (acc : Fin 4) (a : Fin 32) (s : State) :
    exec (.trda p acc a) s = execTrda p acc a s := rfl
@[simp] theorem exec_twra (p : Pfx) (acc : Fin 4) (a b : Fin 32) (s : State) :
    exec (.twra p acc a b) s = execTwra p acc a b s := rfl
@[simp] theorem exec_tpack (p : Pfx) (d a : Fin 16) (b : Fin 32) (s : State) :
    exec (.tpack p d a b) s = execTpack p d a b s := rfl
@[simp] theorem exec_tunpk (p : Pfx) (d a : Fin 16) (b : Fin 32) (s : State) :
    exec (.tunpk p d a b) s = execTunpk p d a b s := rfl
@[simp] theorem exec_tchk (p : Pfx) (d : Fin 32) (a : Fin 16) (s : State) :
    exec (.tchk p d a) s = execTchk p d a s := rfl
@[simp] theorem exec_tstxSet (p : Pfx) (bit : Fin 64) (a : Fin 32) (imm : Int) (s : State) :
    exec (.tstxSet p bit a imm) s = execTstxSet p bit a imm s := rfl
@[simp] theorem exec_tstxClr (p : Pfx) (bit : Fin 64) (a : Fin 32) (imm : Int) (s : State) :
    exec (.tstxClr p bit a imm) s = execTstxClr p bit a imm s := rfl
@[simp] theorem exec_accMax (p : Pfx) (d a b : Fin 32) (s : State) :
    exec (.accMax p d a b) s = execAccMax p d a b s := rfl
@[simp] theorem exec_accScale (p : Pfx) (d a b : Fin 32) (s : State) :
    exec (.accScale p d a b) s = execAccScale p d a b s := rfl
@[simp] theorem exec_difs (p : Pfx) (a b : Fin 32) (s : State) :
    exec (.difs p a b) s = execDifs p a b s := rfl
@[simp] theorem exec_difgo (p : Pfx) (a : Fin 32) (imm : Int) (s : State) :
    exec (.difgo p a imm) s = execDifgo p a imm s := rfl
@[simp] theorem exec_difwait (p : Pfx) (s : State) :
    exec (.difwait p) s = execDifwait p s := rfl
@[simp] theorem exec_ldlLong (p : Pfx) (mode : LMode) (sg : Bool) (sz : Sz) (d a : Fin 32) (off : Int) (s : State) :
    exec (.ldlLong p mode sg sz d a off) s = execLdlLong p mode sg sz d a off s := rfl
@[simp] theorem exec_stlLong (p : Pfx) (mode : LMode) (sz : Sz) (d a : Fin 32) (off : Int) (s : State) :
    exec (.stlLong p mode sz d a off) s = execStlLong p mode sz d a off s := rfl
@[simp] theorem exec_ldfe (p : Pfx) (mode : LMode) (d a : Fin 32) (off : Int) (s : State) :
    exec (.ldfe p mode d a off) s = execLdfe p mode d a off s := rfl
@[simp] theorem exec_ldff (p : Pfx) (mode : LMode) (d a : Fin 32) (off : Int) (s : State) :
    exec (.ldff p mode d a off) s = execLdff p mode d a off s := rfl
@[simp] theorem exec_stfe (p : Pfx) (mode : LMode) (d a : Fin 32) (off : Int) (s : State) :
    exec (.stfe p mode d a off) s = execStfe p mode d a off s := rfl
@[simp] theorem exec_stff (p : Pfx) (mode : LMode) (d a : Fin 32) (off : Int) (s : State) :
    exec (.stff p mode d a off) s = execStff p mode d a off s := rfl
@[simp] theorem exec_seteE (p : Pfx) (mode : LMode) (a : Fin 32) (off : Int) (s : State) :
    exec (.seteE p mode a off) s = execSeteE p mode a off s := rfl
@[simp] theorem exec_seteF (p : Pfx) (mode : LMode) (a : Fin 32) (off : Int) (s : State) :
    exec (.seteF p mode a off) s = execSeteF p mode a off s := rfl
@[simp] theorem exec_rempty (p : Pfx) (d : Fin 32) (s : State) :
    exec (.rempty p d) s = execRempty p d s := rfl
@[simp] theorem exec_fill (p : Pfx) (t d a b : Fin 32) (s : State) :
    exec (.fill p t d a b) s = execFill p t d a b s := rfl
@[simp] theorem exec_amoAdd (p : Pfx) (w64 : Bool) (d a b : Fin 32) (s : State) :
    exec (.amoAdd p w64 d a b) s = execAmoAdd p w64 d a b s := rfl
@[simp] theorem exec_amoAnd (p : Pfx) (w64 : Bool) (d a b : Fin 32) (s : State) :
    exec (.amoAnd p w64 d a b) s = execAmoAnd p w64 d a b s := rfl
@[simp] theorem exec_amoOr (p : Pfx) (w64 : Bool) (d a b : Fin 32) (s : State) :
    exec (.amoOr p w64 d a b) s = execAmoOr p w64 d a b s := rfl
@[simp] theorem exec_amoXor (p : Pfx) (w64 : Bool) (d a b : Fin 32) (s : State) :
    exec (.amoXor p w64 d a b) s = execAmoXor p w64 d a b s := rfl
@[simp] theorem exec_amoMin (p : Pfx) (w64 : Bool) (d a b : Fin 32) (s : State) :
    exec (.amoMin p w64 d a b) s = execAmoMin p w64 d a b s := rfl
@[simp] theorem exec_amoMax (p : Pfx) (w64 : Bool) (d a b : Fin 32) (s : State) :
    exec (.amoMax p w64 d a b) s = execAmoMax p w64 d a b s := rfl
@[simp] theorem exec_amoMinz (p : Pfx) (w64 : Bool) (d a b : Fin 32) (s : State) :
    exec (.amoMinz p w64 d a b) s = execAmoMinz p w64 d a b s := rfl
@[simp] theorem exec_amoMaxz (p : Pfx) (w64 : Bool) (d a b : Fin 32) (s : State) :
    exec (.amoMaxz p w64 d a b) s = execAmoMaxz p w64 d a b s := rfl
@[simp] theorem exec_amoSwap (p : Pfx) (w64 : Bool) (d a b : Fin 32) (s : State) :
    exec (.amoSwap p w64 d a b) s = execAmoSwap p w64 d a b s := rfl
@[simp] theorem exec_amoCas (p : Pfx) (w64 : Bool) (d a b : Fin 32) (s : State) :
    exec (.amoCas p w64 d a b) s = execAmoCas p w64 d a b s := rfl
@[simp] theorem exec_amopAdd (p : Pfx) (w64 : Bool) (a b : Fin 32) (s : State) :
    exec (.amopAdd p w64 a b) s = execAmopAdd p w64 a b s := rfl
@[simp] theorem exec_amopAnd (p : Pfx) (w64 : Bool) (a b : Fin 32) (s : State) :
    exec (.amopAnd p w64 a b) s = execAmopAnd p w64 a b s := rfl
@[simp] theorem exec_amopOr (p : Pfx) (w64 : Bool) (a b : Fin 32) (s : State) :
    exec (.amopOr p w64 a b) s = execAmopOr p w64 a b s := rfl
@[simp] theorem exec_amopXor (p : Pfx) (w64 : Bool) (a b : Fin 32) (s : State) :
    exec (.amopXor p w64 a b) s = execAmopXor p w64 a b s := rfl
@[simp] theorem exec_amopMin (p : Pfx) (w64 : Bool) (a b : Fin 32) (s : State) :
    exec (.amopMin p w64 a b) s = execAmopMin p w64 a b s := rfl
@[simp] theorem exec_amopMax (p : Pfx) (w64 : Bool) (a b : Fin 32) (s : State) :
    exec (.amopMax p w64 a b) s = execAmopMax p w64 a b s := rfl
@[simp] theorem exec_amopMinz (p : Pfx) (w64 : Bool) (a b : Fin 32) (s : State) :
    exec (.amopMinz p w64 a b) s = execAmopMinz p w64 a b s := rfl
@[simp] theorem exec_amopMaxz (p : Pfx) (w64 : Bool) (a b : Fin 32) (s : State) :
    exec (.amopMaxz p w64 a b) s = execAmopMaxz p w64 a b s := rfl
@[simp] theorem exec_famoF32 (p : Pfx) (a b : Fin 32) (s : State) :
    exec (.famoF32 p a b) s = execFamoF32 p a b s := rfl
@[simp] theorem exec_famoBf16 (p : Pfx) (a b : Fin 32) (s : State) :
    exec (.famoBf16 p a b) s = execFamoBf16 p a b s := rfl
@[simp] theorem exec_ldr (p : Pfx) (d a : Fin 32) (off : Int) (s : State) :
    exec (.ldr p d a off) s = execLdr p d a off s := rfl
@[simp] theorem exec_stc (p : Pfx) (d a : Fin 32) (off : Int) (s : State) :
    exec (.stc p d a off) s = execStc p d a off s := rfl
@[simp] theorem exec_waitrs (p : Pfx) (d a : Fin 32) (s : State) :
    exec (.waitrs p d a) s = execWaitrs p d a s := rfl
@[simp] theorem exec_fenceAcq (p : Pfx) (sc : Scope) (s : State) :
    exec (.fenceAcq p sc) s = execFenceAcq p sc s := rfl
@[simp] theorem exec_fenceRel (p : Pfx) (sc : Scope) (s : State) :
    exec (.fenceRel p sc) s = execFenceRel p sc s := rfl
@[simp] theorem exec_fenceAr (p : Pfx) (sc : Scope) (s : State) :
    exec (.fenceAr p sc) s = execFenceAr p sc s := rfl
@[simp] theorem exec_fenceSc (p : Pfx) (sc : Scope) (s : State) :
    exec (.fenceSc p sc) s = execFenceSc p sc s := rfl
@[simp] theorem exec_fencePost (p : Pfx) (s : State) :
    exec (.fencePost p) s = execFencePost p s := rfl
@[simp] theorem exec_scopedef (p : Pfx) (d a : Fin 32) (s : State) :
    exec (.scopedef p d a) s = execScopedef p d a s := rfl
@[simp] theorem exec_csync (p : Pfx) (s : State) :
    exec (.csync p) s = execCsync p s := rfl
@[simp] theorem exec_ebegin (p : Pfx) (d : Fin 32) (imm : Int) (s : State) :
    exec (.ebegin p d imm) s = execEbegin p d imm s := rfl
@[simp] theorem exec_ecommit (p : Pfx) (s : State) :
    exec (.ecommit p) s = execEcommit p s := rfl
@[simp] theorem exec_eabort (p : Pfx) (s : State) :
    exec (.eabort p) s = execEabort p s := rfl
@[simp] theorem exec_ebnd (p : Pfx) (d a : Fin 32) (s : State) :
    exec (.ebnd p d a) s = execEbnd p d a s := rfl
@[simp] theorem exec_epos (p : Pfx) (d : Fin 32) (s : State) :
    exec (.epos p d) s = execEpos p d s := rfl
@[simp] theorem exec_barArrive (p : Pfx) (sc : Scope) (d a : Fin 32) (s : State) :
    exec (.barArrive p sc d a) s = execBarArrive p sc d a s := rfl
@[simp] theorem exec_barWait (p : Pfx) (sc : Scope) (a b : Fin 32) (s : State) :
    exec (.barWait p sc a b) s = execBarWait p sc a b s := rfl
@[simp] theorem exec_barAw (p : Pfx) (sc : Scope) (d a : Fin 32) (s : State) :
    exec (.barAw p sc d a) s = execBarAw p sc d a s := rfl
@[simp] theorem exec_barTest (p : Pfx) (sc : Scope) (d a b : Fin 32) (s : State) :
    exec (.barTest p sc d a b) s = execBarTest p sc d a b s := rfl
@[simp] theorem exec_barInit (p : Pfx) (a b : Fin 32) (s : State) :
    exec (.barInit p a b) s = execBarInit p a b s := rfl
@[simp] theorem exec_ldAcq (p : Pfx) (sc : Scope) (sz : Sz) (d a : Fin 32) (off : Int) (s : State) :
    exec (.ldAcq p sc sz d a off) s = execLdAcq p sc sz d a off s := rfl
@[simp] theorem exec_stRel (p : Pfx) (sc : Scope) (sz : Sz) (d a : Fin 32) (off : Int) (s : State) :
    exec (.stRel p sc sz d a off) s = execStRel p sc sz d a off s := rfl
@[simp] theorem exec_copy (p : Pfx) (d a b : Fin 32) (s : State) :
    exec (.copy p d a b) s = execCopy p d a b s := rfl
@[simp] theorem exec_copyq (p : Pfx) (d : Fin 32) (q : Fin 8) (b : Fin 32) (s : State) :
    exec (.copyq p d q b) s = execCopyq p d q b s := rfl
@[simp] theorem exec_cjwait (p : Pfx) (d a : Fin 32) (s : State) :
    exec (.cjwait p d a) s = execCjwait p d a s := rfl
@[simp] theorem exec_cjtest (p : Pfx) (d a : Fin 32) (s : State) :
    exec (.cjtest p d a) s = execCjtest p d a s := rfl
@[simp] theorem exec_mkgrant (p : Pfx) (rw : Bool) (d a b : Fin 32) (s : State) :
    exec (.mkgrant p rw d a b) s = execMkgrant p rw d a b s := rfl
@[simp] theorem exec_addg (p : Pfx) (d a b : Fin 32) (s : State) :
    exec (.addg p d a b) s = execAddg p d a b s := rfl
@[simp] theorem exec_grantq (p : Pfx) (d a : Fin 32) (s : State) :
    exec (.grantq p d a) s = execGrantq p d a s := rfl
@[simp] theorem exec_revoke (p : Pfx) (d : Fin 32) (s : State) :
    exec (.revoke p d) s = execRevoke p d s := rfl
@[simp] theorem exec_wfw (p : Pfx) (s : State) :
    exec (.wfw p) s = execWfw p s := rfl
@[simp] theorem exec_spawn (p : Pfx) (d a : Fin 32) (s : State) :
    exec (.spawn p d a) s = execSpawn p d a s := rfl
@[simp] theorem exec_launch (p : Pfx) (d a b : Fin 32) (s : State) :
    exec (.launch p d a b) s = execLaunch p d a b s := rfl
@[simp] theorem exec_inrd (p : Pfx) (d a : Fin 32) (s : State) :
    exec (.inrd p d a) s = execInrd p d a s := rfl
@[simp] theorem exec_krd (p : Pfx) (n : Fin 64) (d : Fin 32) (s : State) :
    exec (.krd p n d) s = execKrd p n d s := rfl
@[simp] theorem exec_kwr (p : Pfx) (n : Fin 64) (a : Fin 32) (s : State) :
    exec (.kwr p n a) s = execKwr p n a s := rfl
@[simp] theorem exec_mulh (p : Pfx) (d a b : Fin 32) (s : State) :
    exec (.mulh p d a b) s = execMulh p d a b s := rfl
@[simp] theorem exec_mulhz (p : Pfx) (d a b : Fin 32) (s : State) :
    exec (.mulhz p d a b) s = execMulhz p d a b s := rfl
@[simp] theorem exec_div (p : Pfx) (d a b : Fin 32) (s : State) :
    exec (.div p d a b) s = execDiv p d a b s := rfl
@[simp] theorem exec_divz (p : Pfx) (d a b : Fin 32) (s : State) :
    exec (.divz p d a b) s = execDivz p d a b s := rfl
@[simp] theorem exec_rem (p : Pfx) (d a b : Fin 32) (s : State) :
    exec (.rem p d a b) s = execRem p d a b s := rfl
@[simp] theorem exec_remz (p : Pfx) (d a b : Fin 32) (s : State) :
    exec (.remz p d a b) s = execRemz p d a b s := rfl
@[simp] theorem exec_bfxZ (p : Pfx) (w : Fin 64) (d a : Fin 32) (imm : Int) (s : State) :
    exec (.bfxZ p w d a imm) s = execBfxZ p w d a imm s := rfl
@[simp] theorem exec_bfxS (p : Pfx) (w : Fin 64) (d a : Fin 32) (imm : Int) (s : State) :
    exec (.bfxS p w d a imm) s = execBfxS p w d a imm s := rfl
@[simp] theorem exec_bfi (p : Pfx) (w : Fin 64) (d a : Fin 32) (imm : Int) (s : State) :
    exec (.bfi p w d a imm) s = execBfi p w d a imm s := rfl
@[simp] theorem exec_sel (p : Pfx) (pr : Fin 8) (d a b : Fin 32) (s : State) :
    exec (.sel p pr d a b) s = execSel p pr d a b s := rfl
@[simp] theorem exec_clz (p : Pfx) (d a : Fin 32) (s : State) :
    exec (.clz p d a) s = execClz p d a s := rfl
@[simp] theorem exec_ctz (p : Pfx) (d a : Fin 32) (s : State) :
    exec (.ctz p d a) s = execCtz p d a s := rfl
@[simp] theorem exec_popc (p : Pfx) (d a : Fin 32) (s : State) :
    exec (.popc p d a) s = execPopc p d a s := rfl
@[simp] theorem exec_bswap (p : Pfx) (d a : Fin 32) (s : State) :
    exec (.bswap p d a) s = execBswap p d a s := rfl
@[simp] theorem exec_min (p : Pfx) (d a b : Fin 32) (s : State) :
    exec (.min p d a b) s = execMin p d a b s := rfl
@[simp] theorem exec_max (p : Pfx) (d a b : Fin 32) (s : State) :
    exec (.max p d a b) s = execMax p d a b s := rfl
@[simp] theorem exec_minz (p : Pfx) (d a b : Fin 32) (s : State) :
    exec (.minz p d a b) s = execMinz p d a b s := rfl
@[simp] theorem exec_maxz (p : Pfx) (d a b : Fin 32) (s : State) :
    exec (.maxz p d a b) s = execMaxz p d a b s := rfl
@[simp] theorem exec_andi (p : Pfx) (d a : Fin 32) (imm : Int) (s : State) :
    exec (.andi p d a imm) s = execAndi p d a imm s := rfl
@[simp] theorem exec_ori (p : Pfx) (d a : Fin 32) (imm : Int) (s : State) :
    exec (.ori p d a imm) s = execOri p d a imm s := rfl
@[simp] theorem exec_xori (p : Pfx) (d a : Fin 32) (imm : Int) (s : State) :
    exec (.xori p d a imm) s = execXori p d a imm s := rfl
@[simp] theorem exec_qpop (p : Pfx) (d : Fin 32) (q : Fin 8) (s : State) :
    exec (.qpop p d q) s = execQpop p d q s := rfl
@[simp] theorem exec_qpush (p : Pfx) (q : Fin 8) (a : Fin 32) (s : State) :
    exec (.qpush p q a) s = execQpush p q a s := rfl
@[simp] theorem exec_srd (p : Pfx) (n : Fin 128) (d a : Fin 32) (s : State) :
    exec (.srd p n d a) s = execSrd p n d a s := rfl
@[simp] theorem exec_swr (p : Pfx) (n : Fin 128) (a b : Fin 32) (s : State) :
    exec (.swr p n a b) s = execSwr p n a b s := rfl
@[simp] theorem exec_eret (p : Pfx) (s : State) :
    exec (.eret p) s = execEret p s := rfl
@[simp] theorem exec_eretStart (p : Pfx) (d a : Fin 32) (s : State) :
    exec (.eretStart p d a) s = execEretStart p d a s := rfl
@[simp] theorem exec_tlbinvRange (p : Pfx) (span : Bool) (d a b : Fin 32) (s : State) :
    exec (.tlbinvRange p span d a b) s = execTlbinvRange p span d a b s := rfl
@[simp] theorem exec_tlbinvAsid (p : Pfx) (span : Bool) (d a b : Fin 32) (s : State) :
    exec (.tlbinvAsid p span d a b) s = execTlbinvAsid p span d a b s := rfl
@[simp] theorem exec_tlbinvS2range (p : Pfx) (span : Bool) (d a b : Fin 32) (s : State) :
    exec (.tlbinvS2range p span d a b) s = execTlbinvS2range p span d a b s := rfl
@[simp] theorem exec_tlbinvPartition (p : Pfx) (span : Bool) (d a b : Fin 32) (s : State) :
    exec (.tlbinvPartition p span d a b) s = execTlbinvPartition p span d a b s := rfl
@[simp] theorem exec_tlbprobe (p : Pfx) (d a b : Fin 32) (s : State) :
    exec (.tlbprobe p d a b) s = execTlbprobe p d a b s := rfl
@[simp] theorem exec_cacheopIc (p : Pfx) (span : Bool) (a b : Fin 32) (s : State) :
    exec (.cacheopIc p span a b) s = execCacheopIc p span a b s := rfl
@[simp] theorem exec_cacheopL1 (p : Pfx) (span : Bool) (a b : Fin 32) (s : State) :
    exec (.cacheopL1 p span a b) s = execCacheopL1 p span a b s := rfl
@[simp] theorem exec_cacheopCc (p : Pfx) (span : Bool) (a b : Fin 32) (s : State) :
    exec (.cacheopCc p span a b) s = execCacheopCc p span a b s := rfl
@[simp] theorem exec_cacheopL2v (p : Pfx) (span : Bool) (a b : Fin 32) (s : State) :
    exec (.cacheopL2v p span a b) s = execCacheopL2v p span a b s := rfl
@[simp] theorem exec_cacheopL2p (p : Pfx) (a b : Fin 32) (s : State) :
    exec (.cacheopL2p p a b) s = execCacheopL2p p a b s := rfl
@[simp] theorem exec_domsetRow (p : Pfx) (a b : Fin 32) (s : State) :
    exec (.domsetRow p a b) s = execDomsetRow p a b s := rfl
@[simp] theorem exec_domsetAll (p : Pfx) (b : Fin 32) (s : State) :
    exec (.domsetAll p b) s = execDomsetAll p b s := rfl
@[simp] theorem exec_fwsend (p : Pfx) (d a b : Fin 32) (s : State) :
    exec (.fwsend p d a b) s = execFwsend p d a b s := rfl
@[simp] theorem exec_fwsendReply (p : Pfx) (d a b : Fin 32) (s : State) :
    exec (.fwsendReply p d a b) s = execFwsendReply p d a b s := rfl
@[simp] theorem exec_stoparmCore (p : Pfx) (a : Fin 32) (s : State) :
    exec (.stoparmCore p a) s = execStoparmCore p a s := rfl
@[simp] theorem exec_stoparmStop (p : Pfx) (d a b : Fin 32) (s : State) :
    exec (.stoparmStop p d a b) s = execStoparmStop p d a b s := rfl
@[simp] theorem exec_stoparmResume (p : Pfx) (d a b : Fin 32) (s : State) :
    exec (.stoparmResume p d a b) s = execStoparmResume p d a b s := rfl
@[simp] theorem exec_step (p : Pfx) (a : Fin 32) (s : State) :
    exec (.step p a) s = execStep p a s := rfl
@[simp] theorem exec_slpset (p : Pfx) (d a : Fin 32) (s : State) :
    exec (.slpset p d a) s = execSlpset p d a s := rfl
@[simp] theorem exec_wdsetKick (p : Pfx) (s : State) :
    exec (.wdsetKick p) s = execWdsetKick p s := rfl
@[simp] theorem exec_wdsetArm (p : Pfx) (a b : Fin 32) (s : State) :
    exec (.wdsetArm p a b) s = execWdsetArm p a b s := rfl
@[simp] theorem exec_wdsetRead (p : Pfx) (d b : Fin 32) (s : State) :
    exec (.wdsetRead p d b) s = execWdsetRead p d b s := rfl
@[simp] theorem exec_deviceReset (s : State) : exec .deviceReset s = execDeviceReset s := rfl
@[simp] theorem exec_recoveryRequest (s : State) : exec .recoveryRequest s = execRecoveryRequest s := rfl
@[simp] theorem exec_recoveryDataFrame (s : State) : exec .recoveryDataFrame s = execRecoveryDataFrame s := rfl
@[simp] theorem exec_recoveryEndFrame (s : State) : exec .recoveryEndFrame s = execRecoveryEndFrame s := rfl
@[simp] theorem exec_recoveryTimeout (s : State) : exec .recoveryTimeout s = execRecoveryTimeout s := rfl
@[simp] theorem exec_recoveryRetry (s : State) : exec .recoveryRetry s = execRecoveryRetry s := rfl
@[simp] theorem exec_parkEvent (s : State) : exec .parkEvent s = execParkEvent s := rfl
@[simp] theorem exec_parkedResume (s : State) : exec .parkedResume s = execParkedResume s := rfl
@[simp] theorem exec_parkTimeout (s : State) : exec .parkTimeout s = execParkTimeout s := rfl
@[simp] theorem exec_fillArrival (s : State) : exec .fillArrival s = execFillArrival s := rfl
@[simp] theorem exec_dispense (s : State) : exec .dispense s = execDispense s := rfl
@[simp] theorem exec_taskRecordWrite (s : State) : exec .taskRecordWrite s = execTaskRecordWrite s := rfl
@[simp] theorem exec_gangOpen (s : State) : exec .gangOpen s = execGangOpen s := rfl
@[simp] theorem exec_gangStall (s : State) : exec .gangStall s = execGangStall s := rfl
@[simp] theorem exec_gangStallEnd (s : State) : exec .gangStallEnd s = execGangStallEnd s := rfl
@[simp] theorem exec_sleepEntry (s : State) : exec .sleepEntry s = execSleepEntry s := rfl
@[simp] theorem exec_sleepWake (s : State) : exec .sleepWake s = execSleepWake s := rfl
@[simp] theorem exec_wakeEnd (s : State) : exec .wakeEnd s = execWakeEnd s := rfl
@[simp] theorem exec_streamElementArrival (s : State) : exec .streamElementArrival s = execStreamElementArrival s := rfl
@[simp] theorem exec_streamElementAccept (s : State) : exec .streamElementAccept s = execStreamElementAccept s := rfl
@[simp] theorem exec_storeQueueDepart (s : State) : exec .storeQueueDepart s = execStoreQueueDepart s := rfl
@[simp] theorem exec_storeOrderAtHome (s : State) : exec .storeOrderAtHome s = execStoreOrderAtHome s := rfl
@[simp] theorem exec_invalidationDelivery (s : State) : exec .invalidationDelivery s = execInvalidationDelivery s := rfl
@[simp] theorem exec_remoteStoreAck (s : State) : exec .remoteStoreAck s = execRemoteStoreAck s := rfl
@[simp] theorem exec_leaseExpiry (s : State) : exec .leaseExpiry s = execLeaseExpiry s := rfl
@[simp] theorem exec_postedOpApply (s : State) : exec .postedOpApply s = execPostedOpApply s := rfl
@[simp] theorem exec_postedAck (s : State) : exec .postedAck s = execPostedAck s := rfl
@[simp] theorem exec_remoteFaultRecord (s : State) : exec .remoteFaultRecord s = execRemoteFaultRecord s := rfl
@[simp] theorem exec_remoteRecordResend (s : State) : exec .remoteRecordResend s = execRemoteRecordResend s := rfl
@[simp] theorem exec_atomicAtHome (s : State) : exec .atomicAtHome s = execAtomicAtHome s := rfl
@[simp] theorem exec_movedAnswer (s : State) : exec .movedAnswer s = execMovedAnswer s := rfl
@[simp] theorem exec_barrierAtHome (s : State) : exec .barrierAtHome s = execBarrierAtHome s := rfl
@[simp] theorem exec_feWaiterService (s : State) : exec .feWaiterService s = execFeWaiterService s := rfl
@[simp] theorem exec_regionAccessAtSlice (s : State) : exec .regionAccessAtSlice s = execRegionAccessAtSlice s := rfl
@[simp] theorem exec_narrowingArrival (s : State) : exec .narrowingArrival s = execNarrowingArrival s := rfl
@[simp] theorem exec_broadcastTurnGrant (s : State) : exec .broadcastTurnGrant s = execBroadcastTurnGrant s := rfl
@[simp] theorem exec_finalPositionBroadcast (s : State) : exec .finalPositionBroadcast s = execFinalPositionBroadcast s := rfl
@[simp] theorem exec_serialTokenGrant (s : State) : exec .serialTokenGrant s = execSerialTokenGrant s := rfl
@[simp] theorem exec_scopeMissMessage (s : State) : exec .scopeMissMessage s = execScopeMissMessage s := rfl
@[simp] theorem exec_scopeMissAnswer (s : State) : exec .scopeMissAnswer s = execScopeMissAnswer s := rfl
@[simp] theorem exec_tagEvictionRepair (s : State) : exec .tagEvictionRepair s = execTagEvictionRepair s := rfl
@[simp] theorem exec_jobStart (s : State) : exec .jobStart s = execJobStart s := rfl
@[simp] theorem exec_jobComplete (s : State) : exec .jobComplete s = execJobComplete s := rfl
@[simp] theorem exec_jobEndEarly (s : State) : exec .jobEndEarly s = execJobEndEarly s := rfl
@[simp] theorem exec_arrayInstrStart (s : State) : exec .arrayInstrStart s = execArrayInstrStart s := rfl
@[simp] theorem exec_arrayInstrComplete (s : State) : exec .arrayInstrComplete s = execArrayInstrComplete s := rfl
@[simp] theorem exec_arrayIdleGate (s : State) : exec .arrayIdleGate s = execArrayIdleGate s := rfl
@[simp] theorem exec_accordRelease (s : State) : exec .accordRelease s = execAccordRelease s := rfl
@[simp] theorem exec_diffuserIssue (s : State) : exec .diffuserIssue s = execDiffuserIssue s := rfl
@[simp] theorem exec_grantInvalidation (s : State) : exec .grantInvalidation s = execGrantInvalidation s := rfl
@[simp] theorem exec_coreInterruptTake (s : State) : exec .coreInterruptTake s = execCoreInterruptTake s := rfl
@[simp] theorem exec_graphRegister (s : State) : exec .graphRegister s = execGraphRegister s := rfl
@[simp] theorem exec_graphUnregister (s : State) : exec .graphUnregister s = execGraphUnregister s := rfl
@[simp] theorem exec_launchWordAccept (s : State) : exec .launchWordAccept s = execLaunchWordAccept s := rfl
@[simp] theorem exec_nodeStart (s : State) : exec .nodeStart s = execNodeStart s := rfl
@[simp] theorem exec_nodeComplete (s : State) : exec .nodeComplete s = execNodeComplete s := rfl
@[simp] theorem exec_instanceComplete (s : State) : exec .instanceComplete s = execInstanceComplete s := rfl
@[simp] theorem exec_recoveryModeSet (s : State) : exec .recoveryModeSet s = execRecoveryModeSet s := rfl
@[simp] theorem exec_correctableError (s : State) : exec .correctableError s = execCorrectableError s := rfl
@[simp] theorem exec_uncorrectableError (s : State) : exec .uncorrectableError s = execUncorrectableError s := rfl
@[simp] theorem exec_ctxSave (s : State) : exec .ctxSave s = execCtxSave s := rfl
@[simp] theorem exec_ctxClear (s : State) : exec .ctxClear s = execCtxClear s := rfl
@[simp] theorem exec_ctxReplace (s : State) : exec .ctxReplace s = execCtxReplace s := rfl
@[simp] theorem exec_syncStop (s : State) : exec .syncStop s = execSyncStop s := rfl
@[simp] theorem exec_syncResume (s : State) : exec .syncResume s = execSyncResume s := rfl
@[simp] theorem exec_jobFreeze (s : State) : exec .jobFreeze s = execJobFreeze s := rfl
@[simp] theorem exec_sillageSweep (s : State) : exec .sillageSweep s = execSillageSweep s := rfl
@[simp] theorem exec_imageWrite (s : State) : exec .imageWrite s = execImageWrite s := rfl
@[simp] theorem exec_imageSeal (s : State) : exec .imageSeal s = execImageSeal s := rfl
@[simp] theorem exec_saveBudgetExpiry (s : State) : exec .saveBudgetExpiry s = execSaveBudgetExpiry s := rfl
@[simp] theorem exec_imageSwapOut (s : State) : exec .imageSwapOut s = execImageSwapOut s := rfl
@[simp] theorem exec_imageReadback (s : State) : exec .imageReadback s = execImageReadback s := rfl
@[simp] theorem exec_watchdogExpiry (s : State) : exec .watchdogExpiry s = execWatchdogExpiry s := rfl
@[simp] theorem exec_frozenLeafReread (s : State) : exec .frozenLeafReread s = execFrozenLeafReread s := rfl
@[simp] theorem exec_linkTrainingEnd (s : State) : exec .linkTrainingEnd s = execLinkTrainingEnd s := rfl
@[simp] theorem exec_flitResend (s : State) : exec .flitResend s = execFlitResend s := rfl
@[simp] theorem exec_linkDown (s : State) : exec .linkDown s = execLinkDown s := rfl
@[simp] theorem exec_clockSyncExchange (s : State) : exec .clockSyncExchange s = execClockSyncExchange s := rfl
@[simp] theorem exec_clockSyncLoss (s : State) : exec .clockSyncLoss s = execClockSyncLoss s := rfl
@[simp] theorem exec_ethernetFrameRx (s : State) : exec .ethernetFrameRx s = execEthernetFrameRx s := rfl
@[simp] theorem exec_getDigests (s : State) : exec .getDigests s = execGetDigests s := rfl
@[simp] theorem exec_getCertificate (s : State) : exec .getCertificate s = execGetCertificate s := rfl
@[simp] theorem exec_challenge (s : State) : exec .challenge s = execChallenge s := rfl
@[simp] theorem exec_getMeasurements (s : State) : exec .getMeasurements s = execGetMeasurements s := rfl
@[simp] theorem exec_keyExchange (s : State) : exec .keyExchange s = execKeyExchange s := rfl
@[simp] theorem exec_finish (s : State) : exec .finish s = execFinish s := rfl
@[simp] theorem exec_keyUpdate (s : State) : exec .keyUpdate s = execKeyUpdate s := rfl
@[simp] theorem exec_heartbeat (s : State) : exec .heartbeat s = execHeartbeat s := rfl
@[simp] theorem exec_endSession (s : State) : exec .endSession s = execEndSession s := rfl
@[simp] theorem exec_tenantAppData (s : State) : exec .tenantAppData s = execTenantAppData s := rfl
@[simp] theorem exec_clusterHold (s : State) : exec .clusterHold s = execClusterHold s := rfl
@[simp] theorem exec_clusterRelease (s : State) : exec .clusterRelease s = execClusterRelease s := rfl
@[simp] theorem exec_firewallWrite (s : State) : exec .firewallWrite s = execFirewallWrite s := rfl
@[simp] theorem exec_movedFrameEnter (s : State) : exec .movedFrameEnter s = execMovedFrameEnter s := rfl
@[simp] theorem exec_movedFrameRemove (s : State) : exec .movedFrameRemove s = execMovedFrameRemove s := rfl
@[simp] theorem exec_interleaveCommit (s : State) : exec .interleaveCommit s = execInterleaveCommit s := rfl
@[simp] theorem exec_keyGenerate (s : State) : exec .keyGenerate s = execKeyGenerate s := rfl
@[simp] theorem exec_keyRetire (s : State) : exec .keyRetire s = execKeyRetire s := rfl
@[simp] theorem exec_measurementExtend (s : State) : exec .measurementExtend s = execMeasurementExtend s := rfl
@[simp] theorem exec_linkEnable (s : State) : exec .linkEnable s = execLinkEnable s := rfl
@[simp] theorem exec_linkDisable (s : State) : exec .linkDisable s = execLinkDisable s := rfl
@[simp] theorem exec_intcntClear (s : State) : exec .intcntClear s = execIntcntClear s := rfl
@[simp] theorem exec_unallocatedEncoding (s : State) : exec .unallocatedEncoding s = execUnallocatedEncoding s := rfl
@[simp] theorem exec_fetchFault (s : State) : exec .fetchFault s = execFetchFault s := rfl
@[simp] theorem exec_mailRecordDelivery (s : State) : exec .mailRecordDelivery s = execMailRecordDelivery s := rfl

@[simp] theorem nwords_add (p : Pfx) (d a b : Fin 32) : (Instr.add p d a b).nwords = nw0 p :=
  nwords_of_page0 p rfl rfl rfl
@[simp] theorem nwords_sub (p : Pfx) (d a b : Fin 32) : (Instr.sub p d a b).nwords = nw0 p :=
  nwords_of_page0 p rfl rfl rfl
@[simp] theorem nwords_and (p : Pfx) (d a b : Fin 32) : (Instr.and p d a b).nwords = nw0 p :=
  nwords_of_page0 p rfl rfl rfl
@[simp] theorem nwords_or (p : Pfx) (d a b : Fin 32) : (Instr.or p d a b).nwords = nw0 p :=
  nwords_of_page0 p rfl rfl rfl
@[simp] theorem nwords_xor (p : Pfx) (d a b : Fin 32) : (Instr.xor p d a b).nwords = nw0 p :=
  nwords_of_page0 p rfl rfl rfl
@[simp] theorem nwords_mul (p : Pfx) (d a b : Fin 32) : (Instr.mul p d a b).nwords = nw0 p :=
  nwords_of_page0 p rfl rfl rfl
@[simp] theorem nwords_shl (p : Pfx) (d a b : Fin 32) : (Instr.shl p d a b).nwords = nw0 p :=
  nwords_of_page0 p rfl rfl rfl
@[simp] theorem nwords_shr (p : Pfx) (d a b : Fin 32) : (Instr.shr p d a b).nwords = nw0 p :=
  nwords_of_page0 p rfl rfl rfl
@[simp] theorem nwords_shra (p : Pfx) (d a b : Fin 32) : (Instr.shra p d a b).nwords = nw0 p :=
  nwords_of_page0 p rfl rfl rfl
@[simp] theorem nwords_andn (p : Pfx) (d a b : Fin 32) : (Instr.andn p d a b).nwords = nw0 p :=
  nwords_of_page0 p rfl rfl rfl
@[simp] theorem nwords_gate (p : Pfx) : (Instr.gate p).nwords = nw0 p :=
  nwords_of_page0 p rfl rfl rfl
@[simp] theorem nwords_retx (p : Pfx) : (Instr.retx p).nwords = nw0 p :=
  nwords_of_page0 p rfl rfl rfl
@[simp] theorem nwords_exit (p : Pfx) : (Instr.exit p).nwords = nw0 p :=
  nwords_of_page0 p rfl rfl rfl
@[simp] theorem nwords_brk (p : Pfx) : (Instr.brk p).nwords = nw0 p :=
  nwords_of_page0 p rfl rfl rfl
@[simp] theorem nwords_trap (p : Pfx) (code : Fin 64) : (Instr.trap p code).nwords = nw0 p :=
  nwords_of_page0 p rfl rfl rfl
@[simp] theorem nwords_addi (p : Pfx) (d a : Fin 32) (imm : Int) : (Instr.addi p d a imm).nwords = nw0 p :=
  nwords_of_page0 p rfl rfl rfl
@[simp] theorem nwords_shli (p : Pfx) (d a : Fin 32) (imm : Int) : (Instr.shli p d a imm).nwords = nw0 p :=
  nwords_of_page0 p rfl rfl rfl
@[simp] theorem nwords_shri (p : Pfx) (d a : Fin 32) (imm : Int) : (Instr.shri p d a imm).nwords = nw0 p :=
  nwords_of_page0 p rfl rfl rfl
@[simp] theorem nwords_shrai (p : Pfx) (d a : Fin 32) (imm : Int) : (Instr.shrai p d a imm).nwords = nw0 p :=
  nwords_of_page0 p rfl rfl rfl
@[simp] theorem nwords_ldS8 (p : Pfx) (d a : Fin 32) (off : Int) : (Instr.ldS8 p d a off).nwords = nw0 p :=
  nwords_of_page0 p rfl rfl rfl
@[simp] theorem nwords_ldS16 (p : Pfx) (d a : Fin 32) (off : Int) : (Instr.ldS16 p d a off).nwords = nw0 p :=
  nwords_of_page0 p rfl rfl rfl
@[simp] theorem nwords_ldS32 (p : Pfx) (d a : Fin 32) (off : Int) : (Instr.ldS32 p d a off).nwords = nw0 p :=
  nwords_of_page0 p rfl rfl rfl
@[simp] theorem nwords_ld64 (p : Pfx) (d a : Fin 32) (off : Int) : (Instr.ld64 p d a off).nwords = nw0 p :=
  nwords_of_page0 p rfl rfl rfl
@[simp] theorem nwords_ldZ8 (p : Pfx) (d a : Fin 32) (off : Int) : (Instr.ldZ8 p d a off).nwords = nw0 p :=
  nwords_of_page0 p rfl rfl rfl
@[simp] theorem nwords_ldZ16 (p : Pfx) (d a : Fin 32) (off : Int) : (Instr.ldZ16 p d a off).nwords = nw0 p :=
  nwords_of_page0 p rfl rfl rfl
@[simp] theorem nwords_ldZ32 (p : Pfx) (d a : Fin 32) (off : Int) : (Instr.ldZ32 p d a off).nwords = nw0 p :=
  nwords_of_page0 p rfl rfl rfl
@[simp] theorem nwords_st8 (p : Pfx) (d a : Fin 32) (off : Int) : (Instr.st8 p d a off).nwords = nw0 p :=
  nwords_of_page0 p rfl rfl rfl
@[simp] theorem nwords_st16 (p : Pfx) (d a : Fin 32) (off : Int) : (Instr.st16 p d a off).nwords = nw0 p :=
  nwords_of_page0 p rfl rfl rfl
@[simp] theorem nwords_st32 (p : Pfx) (d a : Fin 32) (off : Int) : (Instr.st32 p d a off).nwords = nw0 p :=
  nwords_of_page0 p rfl rfl rfl
@[simp] theorem nwords_st64 (p : Pfx) (d a : Fin 32) (off : Int) : (Instr.st64 p d a off).nwords = nw0 p :=
  nwords_of_page0 p rfl rfl rfl
@[simp] theorem nwords_ldl (p : Pfx) (mode : LMode) (d a : Fin 32) (off : Fin 8) : (Instr.ldl p mode d a off).nwords = nw0 p :=
  nwords_of_page0 p rfl rfl rfl
@[simp] theorem nwords_stl (p : Pfx) (mode : LMode) (d a : Fin 32) (off : Fin 8) : (Instr.stl p mode d a off).nwords = nw0 p :=
  nwords_of_page0 p rfl rfl rfl
@[simp] theorem nwords_ldc (p : Pfx) (d a : Fin 32) (off : Int) : (Instr.ldc p d a off).nwords = nw0 p :=
  nwords_of_page0 p rfl rfl rfl
@[simp] theorem nwords_cmpEq (p : Pfx) (d : Fin 8) (a b : Fin 32) : (Instr.cmpEq p d a b).nwords = nw0 p :=
  nwords_of_page0 p rfl rfl rfl
@[simp] theorem nwords_cmpNe (p : Pfx) (d : Fin 8) (a b : Fin 32) : (Instr.cmpNe p d a b).nwords = nw0 p :=
  nwords_of_page0 p rfl rfl rfl
@[simp] theorem nwords_cmpLt (p : Pfx) (d : Fin 8) (a b : Fin 32) : (Instr.cmpLt p d a b).nwords = nw0 p :=
  nwords_of_page0 p rfl rfl rfl
@[simp] theorem nwords_cmpGe (p : Pfx) (d : Fin 8) (a b : Fin 32) : (Instr.cmpGe p d a b).nwords = nw0 p :=
  nwords_of_page0 p rfl rfl rfl
@[simp] theorem nwords_cmpuLtu (p : Pfx) (d : Fin 8) (a b : Fin 32) : (Instr.cmpuLtu p d a b).nwords = nw0 p :=
  nwords_of_page0 p rfl rfl rfl
@[simp] theorem nwords_cmpuGeu (p : Pfx) (d : Fin 8) (a b : Fin 32) : (Instr.cmpuGeu p d a b).nwords = nw0 p :=
  nwords_of_page0 p rfl rfl rfl
@[simp] theorem nwords_cmpuTst (p : Pfx) (d : Fin 8) (a b : Fin 32) : (Instr.cmpuTst p d a b).nwords = nw0 p :=
  nwords_of_page0 p rfl rfl rfl
@[simp] theorem nwords_cmpuNtst (p : Pfx) (d : Fin 8) (a b : Fin 32) : (Instr.cmpuNtst p d a b).nwords = nw0 p :=
  nwords_of_page0 p rfl rfl rfl
@[simp] theorem nwords_pand (p : Pfx) (d a b : Fin 8) : (Instr.pand p d a b).nwords = nw0 p :=
  nwords_of_page0 p rfl rfl rfl
@[simp] theorem nwords_por (p : Pfx) (d a b : Fin 8) : (Instr.por p d a b).nwords = nw0 p :=
  nwords_of_page0 p rfl rfl rfl
@[simp] theorem nwords_pxor (p : Pfx) (d a b : Fin 8) : (Instr.pxor p d a b).nwords = nw0 p :=
  nwords_of_page0 p rfl rfl rfl
@[simp] theorem nwords_pandn (p : Pfx) (d a b : Fin 8) : (Instr.pandn p d a b).nwords = nw0 p :=
  nwords_of_page0 p rfl rfl rfl
@[simp] theorem nwords_br (p : Pfx) (imm : Int) : (Instr.br p imm).nwords = nw0 p :=
  nwords_of_page0 p rfl rfl rfl
@[simp] theorem nwords_call (p : Pfx) (imm : Int) : (Instr.call p imm).nwords = nw0 p :=
  nwords_of_page0 p rfl rfl rfl
@[simp] theorem nwords_callx (p : Pfx) (imm : Int) : (Instr.callx p imm).nwords = nw0 p :=
  nwords_of_page0 p rfl rfl rfl
@[simp] theorem nwords_jmp (p : Pfx) (a : Fin 32) : (Instr.jmp p a).nwords = nw0 p :=
  nwords_of_page0 p rfl rfl rfl
@[simp] theorem nwords_callReg (p : Pfx) (a : Fin 32) : (Instr.callReg p a).nwords = nw0 p :=
  nwords_of_page0 p rfl rfl rfl
@[simp] theorem nwords_ret (p : Pfx) : (Instr.ret p).nwords = nw0 p :=
  nwords_of_page0 p rfl rfl rfl
@[simp] theorem nwords_callxReg (p : Pfx) (a : Fin 32) : (Instr.callxReg p a).nwords = nw0 p :=
  nwords_of_page0 p rfl rfl rfl
@[simp] theorem nwords_vadd (p : Pfx) (t : VTy) (r : Rnd) (d a b : VOpd) (m : Fin 4) : (Instr.vadd p t r d a b m).nwords = nwX p :=
  nwords_of_page p rfl rfl (Nat.succ_ne_zero 0)
@[simp] theorem nwords_vsub (p : Pfx) (t : VTy) (r : Rnd) (d a b : VOpd) (m : Fin 4) : (Instr.vsub p t r d a b m).nwords = nwX p :=
  nwords_of_page p rfl rfl (Nat.succ_ne_zero 0)
@[simp] theorem nwords_vmul (p : Pfx) (t : VTy) (r : Rnd) (d a b : VOpd) (m : Fin 4) : (Instr.vmul p t r d a b m).nwords = nwX p :=
  nwords_of_page p rfl rfl (Nat.succ_ne_zero 0)
@[simp] theorem nwords_vfma (p : Pfx) (t : VTy) (r : Rnd) (d : Fin 16) (a b : VOpd) (m : Fin 4) : (Instr.vfma p t r d a b m).nwords = nwX p :=
  nwords_of_page p rfl rfl (Nat.succ_ne_zero 0)
@[simp] theorem nwords_vfms (p : Pfx) (t : VTy) (r : Rnd) (d : Fin 16) (a b : VOpd) (m : Fin 4) : (Instr.vfms p t r d a b m).nwords = nwX p :=
  nwords_of_page p rfl rfl (Nat.succ_ne_zero 0)
@[simp] theorem nwords_vfnma (p : Pfx) (t : VTy) (r : Rnd) (d : Fin 16) (a b : VOpd) (m : Fin 4) : (Instr.vfnma p t r d a b m).nwords = nwX p :=
  nwords_of_page p rfl rfl (Nat.succ_ne_zero 0)
@[simp] theorem nwords_vfnms (p : Pfx) (t : VTy) (r : Rnd) (d : Fin 16) (a b : VOpd) (m : Fin 4) : (Instr.vfnms p t r d a b m).nwords = nwX p :=
  nwords_of_page p rfl rfl (Nat.succ_ne_zero 0)
@[simp] theorem nwords_vmax (p : Pfx) (t : VTy) (d a b : VOpd) (m : Fin 4) : (Instr.vmax p t d a b m).nwords = nwX p :=
  nwords_of_page p rfl rfl (Nat.succ_ne_zero 0)
@[simp] theorem nwords_vmin (p : Pfx) (t : VTy) (d a b : VOpd) (m : Fin 4) : (Instr.vmin p t d a b m).nwords = nwX p :=
  nwords_of_page p rfl rfl (Nat.succ_ne_zero 0)
@[simp] theorem nwords_vmaxa (p : Pfx) (t : VTy) (d a b : VOpd) (m : Fin 4) : (Instr.vmaxa p t d a b m).nwords = nwX p :=
  nwords_of_page p rfl rfl (Nat.succ_ne_zero 0)
@[simp] theorem nwords_vmina (p : Pfx) (t : VTy) (d a b : VOpd) (m : Fin 4) : (Instr.vmina p t d a b m).nwords = nwX p :=
  nwords_of_page p rfl rfl (Nat.succ_ne_zero 0)
@[simp] theorem nwords_vcmpEq (p : Pfx) (neg : Bool) (t : VTy) (d : Fin 8) (a b : VOpd) (m : Fin 4) : (Instr.vcmpEq p neg t d a b m).nwords = nwX p :=
  nwords_of_page p rfl rfl (Nat.succ_ne_zero 0)
@[simp] theorem nwords_vcmpLt (p : Pfx) (neg : Bool) (t : VTy) (d : Fin 8) (a b : VOpd) (m : Fin 4) : (Instr.vcmpLt p neg t d a b m).nwords = nwX p :=
  nwords_of_page p rfl rfl (Nat.succ_ne_zero 0)
@[simp] theorem nwords_vcmpLe (p : Pfx) (neg : Bool) (t : VTy) (d : Fin 8) (a b : VOpd) (m : Fin 4) : (Instr.vcmpLe p neg t d a b m).nwords = nwX p :=
  nwords_of_page p rfl rfl (Nat.succ_ne_zero 0)
@[simp] theorem nwords_vcmpUn (p : Pfx) (neg : Bool) (t : VTy) (d : Fin 8) (a b : VOpd) (m : Fin 4) : (Instr.vcmpUn p neg t d a b m).nwords = nwX p :=
  nwords_of_page p rfl rfl (Nat.succ_ne_zero 0)
@[simp] theorem nwords_vsel (p : Pfx) (t : VTy) (d : Fin 16) (a b : VOpd) (m : Fin 4) : (Instr.vsel p t d a b m).nwords = nwX p :=
  nwords_of_page p rfl rfl (Nat.succ_ne_zero 0)
@[simp] theorem nwords_vand (p : Pfx) (d a b : VOpd) (m : Fin 4) : (Instr.vand p d a b m).nwords = nwX p :=
  nwords_of_page p rfl rfl (Nat.succ_ne_zero 0)
@[simp] theorem nwords_vor (p : Pfx) (d a b : VOpd) (m : Fin 4) : (Instr.vor p d a b m).nwords = nwX p :=
  nwords_of_page p rfl rfl (Nat.succ_ne_zero 0)
@[simp] theorem nwords_vxor (p : Pfx) (d a b : VOpd) (m : Fin 4) : (Instr.vxor p d a b m).nwords = nwX p :=
  nwords_of_page p rfl rfl (Nat.succ_ne_zero 0)
@[simp] theorem nwords_vandn (p : Pfx) (d a b : VOpd) (m : Fin 4) : (Instr.vandn p d a b m).nwords = nwX p :=
  nwords_of_page p rfl rfl (Nat.succ_ne_zero 0)
@[simp] theorem nwords_vshl (p : Pfx) (t : VTy) (d : Fin 16) (a : VOpd) (imm : Int) (m : Fin 4) : (Instr.vshl p t d a imm m).nwords = nwX p :=
  nwords_of_page p rfl rfl (Nat.succ_ne_zero 0)
@[simp] theorem nwords_vshr (p : Pfx) (t : VTy) (d : Fin 16) (a : VOpd) (imm : Int) (m : Fin 4) : (Instr.vshr p t d a imm m).nwords = nwX p :=
  nwords_of_page p rfl rfl (Nat.succ_ne_zero 0)
@[simp] theorem nwords_vshra (p : Pfx) (t : VTy) (d : Fin 16) (a : VOpd) (imm : Int) (m : Fin 4) : (Instr.vshra p t d a imm m).nwords = nwX p :=
  nwords_of_page p rfl rfl (Nat.succ_ne_zero 0)
@[simp] theorem nwords_vredSum (p : Pfx) (t : VTy) (r : Rnd) (d : Fin 32) (a : VOpd) (m : Fin 4) : (Instr.vredSum p t r d a m).nwords = nwX p :=
  nwords_of_page p rfl rfl (Nat.succ_ne_zero 0)
@[simp] theorem nwords_vredMax (p : Pfx) (t : VTy) (r : Rnd) (d : Fin 32) (a : VOpd) (m : Fin 4) : (Instr.vredMax p t r d a m).nwords = nwX p :=
  nwords_of_page p rfl rfl (Nat.succ_ne_zero 0)
@[simp] theorem nwords_vredMin (p : Pfx) (t : VTy) (r : Rnd) (d : Fin 32) (a : VOpd) (m : Fin 4) : (Instr.vredMin p t r d a m).nwords = nwX p :=
  nwords_of_page p rfl rfl (Nat.succ_ne_zero 0)
@[simp] theorem nwords_vcvt (p : Pfx) (tt st : VTy) (r : Rnd) (ns part : Bool) (d a : Fin 16) (m : Fin 4) : (Instr.vcvt p tt st r ns part d a m).nwords = nwX p :=
  nwords_of_page p rfl rfl (Nat.succ_ne_zero 0)
@[simp] theorem nwords_vexp2 (p : Pfx) (d a : VOpd) (m : Fin 4) : (Instr.vexp2 p d a m).nwords = nwX p :=
  nwords_of_page p rfl rfl (Nat.succ_ne_zero 0)
@[simp] theorem nwords_vrcp (p : Pfx) (d a : VOpd) (m : Fin 4) : (Instr.vrcp p d a m).nwords = nwX p :=
  nwords_of_page p rfl rfl (Nat.succ_ne_zero 0)
@[simp] theorem nwords_vrsq (p : Pfx) (d a : VOpd) (m : Fin 4) : (Instr.vrsq p d a m).nwords = nwX p :=
  nwords_of_page p rfl rfl (Nat.succ_ne_zero 0)
@[simp] theorem nwords_vquant (p : Pfx) (d a : VOpd) (b : Fin 32) (m : Fin 4) : (Instr.vquant p d a b m).nwords = nwX p :=
  nwords_of_page p rfl rfl (Nat.succ_ne_zero 0)
@[simp] theorem nwords_vdeq (p : Pfx) (d a : VOpd) (b : Fin 32) (m : Fin 4) : (Instr.vdeq p d a b m).nwords = nwX p :=
  nwords_of_page p rfl rfl (Nat.succ_ne_zero 0)
@[simp] theorem nwords_vmov (p : Pfx) (d a : VOpd) (m : Fin 4) : (Instr.vmov p d a m).nwords = nwX p :=
  nwords_of_page p rfl rfl (Nat.succ_ne_zero 0)
@[simp] theorem nwords_vbcast (p : Pfx) (d : Fin 16) (a : Fin 32) (m : Fin 4) : (Instr.vbcast p d a m).nwords = nwX p :=
  nwords_of_page p rfl rfl (Nat.succ_ne_zero 0)
@[simp] theorem nwords_vgetl (p : Pfx) (d : Fin 32) (a : Fin 16) (b : Fin 32) : (Instr.vgetl p d a b).nwords = nwX p :=
  nwords_of_page p rfl rfl (Nat.succ_ne_zero 0)
@[simp] theorem nwords_vsetl (p : Pfx) (d : Fin 16) (a b : Fin 32) : (Instr.vsetl p d a b).nwords = nwX p :=
  nwords_of_page p rfl rfl (Nat.succ_ne_zero 0)
@[simp] theorem nwords_vld (p : Pfx) (sp : Space) (m : Fin 4) (d : Fin 16) (a : Fin 32) (off : Int) : (Instr.vld p sp m d a off).nwords = nwX p :=
  nwords_of_page p rfl rfl (Nat.succ_ne_zero 0)
@[simp] theorem nwords_vst (p : Pfx) (sp : Space) (m : Fin 4) (d : Fin 16) (a : Fin 32) (off : Int) : (Instr.vst p sp m d a off).nwords = nwX p :=
  nwords_of_page p rfl rfl (Nat.succ_ne_zero 0)
@[simp] theorem nwords_vgather (p : Pfx) (t : VTy) (d : Fin 16) (a : Fin 32) (b : Fin 16) (m : Fin 4) : (Instr.vgather p t d a b m).nwords = nwX p :=
  nwords_of_page p rfl rfl (Nat.succ_ne_zero 0)
@[simp] theorem nwords_mand (p : Pfx) (d a b : Fin 8) : (Instr.mand p d a b).nwords = nwX p :=
  nwords_of_page p rfl rfl (Nat.succ_ne_zero 0)
@[simp] theorem nwords_mor (p : Pfx) (d a b : Fin 8) : (Instr.mor p d a b).nwords = nwX p :=
  nwords_of_page p rfl rfl (Nat.succ_ne_zero 0)
@[simp] theorem nwords_mxor (p : Pfx) (d a b : Fin 8) : (Instr.mxor p d a b).nwords = nwX p :=
  nwords_of_page p rfl rfl (Nat.succ_ne_zero 0)
@[simp] theorem nwords_mandn (p : Pfx) (d a b : Fin 8) : (Instr.mandn p d a b).nwords = nwX p :=
  nwords_of_page p rfl rfl (Nat.succ_ne_zero 0)
@[simp] theorem nwords_mpop (p : Pfx) (d : Fin 32) (a : Fin 8) : (Instr.mpop p d a).nwords = nwX p :=
  nwords_of_page p rfl rfl (Nat.succ_ne_zero 0)
@[simp] theorem nwords_mset (p : Pfx) (d : Fin 8) (a : Fin 32) : (Instr.mset p d a).nwords = nwX p :=
  nwords_of_page p rfl rfl (Nat.succ_ne_zero 0)
@[simp] theorem nwords_mget (p : Pfx) (d : Fin 32) (a : Fin 8) : (Instr.mget p d a).nwords = nwX p :=
  nwords_of_page p rfl rfl (Nat.succ_ne_zero 0)
@[simp] theorem nwords_mgetVs (p : Pfx) (d : Fin 32) : (Instr.mgetVs p d).nwords = nwX p :=
  nwords_of_page p rfl rfl (Nat.succ_ne_zero 0)
@[simp] theorem nwords_mgetVsClr (p : Pfx) (d : Fin 32) : (Instr.mgetVsClr p d).nwords = nwX p :=
  nwords_of_page p rfl rfl (Nat.succ_ne_zero 0)
@[simp] theorem nwords_vabs (p : Pfx) (t : VTy) (d a : VOpd) (m : Fin 4) : (Instr.vabs p t d a m).nwords = nwX p :=
  nwords_of_page p rfl rfl (Nat.succ_ne_zero 0)
@[simp] theorem nwords_vneg (p : Pfx) (t : VTy) (d a : VOpd) (m : Fin 4) : (Instr.vneg p t d a m).nwords = nwX p :=
  nwords_of_page p rfl rfl (Nat.succ_ne_zero 0)
@[simp] theorem nwords_gangStatic (p : Pfx) : (Instr.gangStatic p).nwords = nwX p :=
  nwords_of_page p rfl rfl (Nat.succ_ne_zero 1)
@[simp] theorem nwords_gangElastic (p : Pfx) (a : Fin 32) : (Instr.gangElastic p a).nwords = nwX p :=
  nwords_of_page p rfl rfl (Nat.succ_ne_zero 1)
@[simp] theorem nwords_gangEnd (p : Pfx) : (Instr.gangEnd p).nwords = nwX p :=
  nwords_of_page p rfl rfl (Nat.succ_ne_zero 1)
@[simp] theorem nwords_twld (p : Pfx) (buf : Bool) (a b : Fin 32) : (Instr.twld p buf a b).nwords = nwX p :=
  nwords_of_page p rfl rfl (Nat.succ_ne_zero 1)
@[simp] theorem nwords_tmm (p : Pfx) (acc : Fin 4) (buf : Bool) (src : TSrc) (b : Fin 32) : (Instr.tmm p acc buf src b).nwords = nwX p :=
  nwords_of_page p rfl rfl (Nat.succ_ne_zero 1)
@[simp] theorem nwords_tdrain (p : Pfx) (acc : Fin 4) (d a b : Fin 32) : (Instr.tdrain p acc d a b).nwords = nwX p :=
  nwords_of_page p rfl rfl (Nat.succ_ne_zero 1)
@[simp] theorem nwords_tdrainAdd (p : Pfx) (acc : Fin 4) (d a b : Fin 32) : (Instr.tdrainAdd p acc d a b).nwords = nwX p :=
  nwords_of_page p rfl rfl (Nat.succ_ne_zero 1)
@[simp] theorem nwords_tzero (p : Pfx) (acc : Fin 4) : (Instr.tzero p acc).nwords = nwX p :=
  nwords_of_page p rfl rfl (Nat.succ_ne_zero 1)
@[simp] theorem nwords_trda (p : Pfx) (acc : Fin 4) (a : Fin 32) : (Instr.trda p acc a).nwords = nwX p :=
  nwords_of_page p rfl rfl (Nat.succ_ne_zero 1)
@[simp] theorem nwords_twra (p : Pfx) (acc : Fin 4) (a b : Fin 32) : (Instr.twra p acc a b).nwords = nwX p :=
  nwords_of_page p rfl rfl (Nat.succ_ne_zero 1)
@[simp] theorem nwords_tpack (p : Pfx) (d a : Fin 16) (b : Fin 32) : (Instr.tpack p d a b).nwords = nwX p :=
  nwords_of_page p rfl rfl (Nat.succ_ne_zero 1)
@[simp] theorem nwords_tunpk (p : Pfx) (d a : Fin 16) (b : Fin 32) : (Instr.tunpk p d a b).nwords = nwX p :=
  nwords_of_page p rfl rfl (Nat.succ_ne_zero 1)
@[simp] theorem nwords_tchk (p : Pfx) (d : Fin 32) (a : Fin 16) : (Instr.tchk p d a).nwords = nwX p :=
  nwords_of_page p rfl rfl (Nat.succ_ne_zero 1)
@[simp] theorem nwords_tstxSet (p : Pfx) (bit : Fin 64) (a : Fin 32) (imm : Int) : (Instr.tstxSet p bit a imm).nwords = nwX p :=
  nwords_of_page p rfl rfl (Nat.succ_ne_zero 1)
@[simp] theorem nwords_tstxClr (p : Pfx) (bit : Fin 64) (a : Fin 32) (imm : Int) : (Instr.tstxClr p bit a imm).nwords = nwX p :=
  nwords_of_page p rfl rfl (Nat.succ_ne_zero 1)
@[simp] theorem nwords_accMax (p : Pfx) (d a b : Fin 32) : (Instr.accMax p d a b).nwords = nwX p :=
  nwords_of_page p rfl rfl (Nat.succ_ne_zero 1)
@[simp] theorem nwords_accScale (p : Pfx) (d a b : Fin 32) : (Instr.accScale p d a b).nwords = nwX p :=
  nwords_of_page p rfl rfl (Nat.succ_ne_zero 1)
@[simp] theorem nwords_difs (p : Pfx) (a b : Fin 32) : (Instr.difs p a b).nwords = nwX p :=
  nwords_of_page p rfl rfl (Nat.succ_ne_zero 1)
@[simp] theorem nwords_difgo (p : Pfx) (a : Fin 32) (imm : Int) : (Instr.difgo p a imm).nwords = nwX p :=
  nwords_of_page p rfl rfl (Nat.succ_ne_zero 1)
@[simp] theorem nwords_difwait (p : Pfx) : (Instr.difwait p).nwords = nwX p :=
  nwords_of_page p rfl rfl (Nat.succ_ne_zero 1)
@[simp] theorem nwords_ldlLong (p : Pfx) (mode : LMode) (sg : Bool) (sz : Sz) (d a : Fin 32) (off : Int) : (Instr.ldlLong p mode sg sz d a off).nwords = nwX p :=
  nwords_of_page p rfl rfl (Nat.succ_ne_zero 2)
@[simp] theorem nwords_stlLong (p : Pfx) (mode : LMode) (sz : Sz) (d a : Fin 32) (off : Int) : (Instr.stlLong p mode sz d a off).nwords = nwX p :=
  nwords_of_page p rfl rfl (Nat.succ_ne_zero 2)
@[simp] theorem nwords_ldfe (p : Pfx) (mode : LMode) (d a : Fin 32) (off : Int) : (Instr.ldfe p mode d a off).nwords = nwX p :=
  nwords_of_page p rfl rfl (Nat.succ_ne_zero 2)
@[simp] theorem nwords_ldff (p : Pfx) (mode : LMode) (d a : Fin 32) (off : Int) : (Instr.ldff p mode d a off).nwords = nwX p :=
  nwords_of_page p rfl rfl (Nat.succ_ne_zero 2)
@[simp] theorem nwords_stfe (p : Pfx) (mode : LMode) (d a : Fin 32) (off : Int) : (Instr.stfe p mode d a off).nwords = nwX p :=
  nwords_of_page p rfl rfl (Nat.succ_ne_zero 2)
@[simp] theorem nwords_stff (p : Pfx) (mode : LMode) (d a : Fin 32) (off : Int) : (Instr.stff p mode d a off).nwords = nwX p :=
  nwords_of_page p rfl rfl (Nat.succ_ne_zero 2)
@[simp] theorem nwords_seteE (p : Pfx) (mode : LMode) (a : Fin 32) (off : Int) : (Instr.seteE p mode a off).nwords = nwX p :=
  nwords_of_page p rfl rfl (Nat.succ_ne_zero 2)
@[simp] theorem nwords_seteF (p : Pfx) (mode : LMode) (a : Fin 32) (off : Int) : (Instr.seteF p mode a off).nwords = nwX p :=
  nwords_of_page p rfl rfl (Nat.succ_ne_zero 2)
@[simp] theorem nwords_rempty (p : Pfx) (d : Fin 32) : (Instr.rempty p d).nwords = nwX p :=
  nwords_of_page p rfl rfl (Nat.succ_ne_zero 2)
@[simp] theorem nwords_fill (p : Pfx) (t d a b : Fin 32) : (Instr.fill p t d a b).nwords = nwX p :=
  nwords_of_page p rfl rfl (Nat.succ_ne_zero 2)
@[simp] theorem nwords_amoAdd (p : Pfx) (w64 : Bool) (d a b : Fin 32) : (Instr.amoAdd p w64 d a b).nwords = nwX p :=
  nwords_of_page p rfl rfl (Nat.succ_ne_zero 2)
@[simp] theorem nwords_amoAnd (p : Pfx) (w64 : Bool) (d a b : Fin 32) : (Instr.amoAnd p w64 d a b).nwords = nwX p :=
  nwords_of_page p rfl rfl (Nat.succ_ne_zero 2)
@[simp] theorem nwords_amoOr (p : Pfx) (w64 : Bool) (d a b : Fin 32) : (Instr.amoOr p w64 d a b).nwords = nwX p :=
  nwords_of_page p rfl rfl (Nat.succ_ne_zero 2)
@[simp] theorem nwords_amoXor (p : Pfx) (w64 : Bool) (d a b : Fin 32) : (Instr.amoXor p w64 d a b).nwords = nwX p :=
  nwords_of_page p rfl rfl (Nat.succ_ne_zero 2)
@[simp] theorem nwords_amoMin (p : Pfx) (w64 : Bool) (d a b : Fin 32) : (Instr.amoMin p w64 d a b).nwords = nwX p :=
  nwords_of_page p rfl rfl (Nat.succ_ne_zero 2)
@[simp] theorem nwords_amoMax (p : Pfx) (w64 : Bool) (d a b : Fin 32) : (Instr.amoMax p w64 d a b).nwords = nwX p :=
  nwords_of_page p rfl rfl (Nat.succ_ne_zero 2)
@[simp] theorem nwords_amoMinz (p : Pfx) (w64 : Bool) (d a b : Fin 32) : (Instr.amoMinz p w64 d a b).nwords = nwX p :=
  nwords_of_page p rfl rfl (Nat.succ_ne_zero 2)
@[simp] theorem nwords_amoMaxz (p : Pfx) (w64 : Bool) (d a b : Fin 32) : (Instr.amoMaxz p w64 d a b).nwords = nwX p :=
  nwords_of_page p rfl rfl (Nat.succ_ne_zero 2)
@[simp] theorem nwords_amoSwap (p : Pfx) (w64 : Bool) (d a b : Fin 32) : (Instr.amoSwap p w64 d a b).nwords = nwX p :=
  nwords_of_page p rfl rfl (Nat.succ_ne_zero 2)
@[simp] theorem nwords_amoCas (p : Pfx) (w64 : Bool) (d a b : Fin 32) : (Instr.amoCas p w64 d a b).nwords = nwX p :=
  nwords_of_page p rfl rfl (Nat.succ_ne_zero 2)
@[simp] theorem nwords_amopAdd (p : Pfx) (w64 : Bool) (a b : Fin 32) : (Instr.amopAdd p w64 a b).nwords = nwX p :=
  nwords_of_page p rfl rfl (Nat.succ_ne_zero 2)
@[simp] theorem nwords_amopAnd (p : Pfx) (w64 : Bool) (a b : Fin 32) : (Instr.amopAnd p w64 a b).nwords = nwX p :=
  nwords_of_page p rfl rfl (Nat.succ_ne_zero 2)
@[simp] theorem nwords_amopOr (p : Pfx) (w64 : Bool) (a b : Fin 32) : (Instr.amopOr p w64 a b).nwords = nwX p :=
  nwords_of_page p rfl rfl (Nat.succ_ne_zero 2)
@[simp] theorem nwords_amopXor (p : Pfx) (w64 : Bool) (a b : Fin 32) : (Instr.amopXor p w64 a b).nwords = nwX p :=
  nwords_of_page p rfl rfl (Nat.succ_ne_zero 2)
@[simp] theorem nwords_amopMin (p : Pfx) (w64 : Bool) (a b : Fin 32) : (Instr.amopMin p w64 a b).nwords = nwX p :=
  nwords_of_page p rfl rfl (Nat.succ_ne_zero 2)
@[simp] theorem nwords_amopMax (p : Pfx) (w64 : Bool) (a b : Fin 32) : (Instr.amopMax p w64 a b).nwords = nwX p :=
  nwords_of_page p rfl rfl (Nat.succ_ne_zero 2)
@[simp] theorem nwords_amopMinz (p : Pfx) (w64 : Bool) (a b : Fin 32) : (Instr.amopMinz p w64 a b).nwords = nwX p :=
  nwords_of_page p rfl rfl (Nat.succ_ne_zero 2)
@[simp] theorem nwords_amopMaxz (p : Pfx) (w64 : Bool) (a b : Fin 32) : (Instr.amopMaxz p w64 a b).nwords = nwX p :=
  nwords_of_page p rfl rfl (Nat.succ_ne_zero 2)
@[simp] theorem nwords_famoF32 (p : Pfx) (a b : Fin 32) : (Instr.famoF32 p a b).nwords = nwX p :=
  nwords_of_page p rfl rfl (Nat.succ_ne_zero 2)
@[simp] theorem nwords_famoBf16 (p : Pfx) (a b : Fin 32) : (Instr.famoBf16 p a b).nwords = nwX p :=
  nwords_of_page p rfl rfl (Nat.succ_ne_zero 2)
@[simp] theorem nwords_ldr (p : Pfx) (d a : Fin 32) (off : Int) : (Instr.ldr p d a off).nwords = nwX p :=
  nwords_of_page p rfl rfl (Nat.succ_ne_zero 2)
@[simp] theorem nwords_stc (p : Pfx) (d a : Fin 32) (off : Int) : (Instr.stc p d a off).nwords = nwX p :=
  nwords_of_page p rfl rfl (Nat.succ_ne_zero 2)
@[simp] theorem nwords_waitrs (p : Pfx) (d a : Fin 32) : (Instr.waitrs p d a).nwords = nwX p :=
  nwords_of_page p rfl rfl (Nat.succ_ne_zero 2)
@[simp] theorem nwords_fenceAcq (p : Pfx) (sc : Scope) : (Instr.fenceAcq p sc).nwords = nwX p :=
  nwords_of_page p rfl rfl (Nat.succ_ne_zero 2)
@[simp] theorem nwords_fenceRel (p : Pfx) (sc : Scope) : (Instr.fenceRel p sc).nwords = nwX p :=
  nwords_of_page p rfl rfl (Nat.succ_ne_zero 2)
@[simp] theorem nwords_fenceAr (p : Pfx) (sc : Scope) : (Instr.fenceAr p sc).nwords = nwX p :=
  nwords_of_page p rfl rfl (Nat.succ_ne_zero 2)
@[simp] theorem nwords_fenceSc (p : Pfx) (sc : Scope) : (Instr.fenceSc p sc).nwords = nwX p :=
  nwords_of_page p rfl rfl (Nat.succ_ne_zero 2)
@[simp] theorem nwords_fencePost (p : Pfx) : (Instr.fencePost p).nwords = nwX p :=
  nwords_of_page p rfl rfl (Nat.succ_ne_zero 2)
@[simp] theorem nwords_scopedef (p : Pfx) (d a : Fin 32) : (Instr.scopedef p d a).nwords = nwX p :=
  nwords_of_page p rfl rfl (Nat.succ_ne_zero 2)
@[simp] theorem nwords_csync (p : Pfx) : (Instr.csync p).nwords = nwX p :=
  nwords_of_page p rfl rfl (Nat.succ_ne_zero 2)
@[simp] theorem nwords_ebegin (p : Pfx) (d : Fin 32) (imm : Int) : (Instr.ebegin p d imm).nwords = nwX p :=
  nwords_of_page p rfl rfl (Nat.succ_ne_zero 2)
@[simp] theorem nwords_ecommit (p : Pfx) : (Instr.ecommit p).nwords = nwX p :=
  nwords_of_page p rfl rfl (Nat.succ_ne_zero 2)
@[simp] theorem nwords_eabort (p : Pfx) : (Instr.eabort p).nwords = nwX p :=
  nwords_of_page p rfl rfl (Nat.succ_ne_zero 2)
@[simp] theorem nwords_ebnd (p : Pfx) (d a : Fin 32) : (Instr.ebnd p d a).nwords = nwX p :=
  nwords_of_page p rfl rfl (Nat.succ_ne_zero 2)
@[simp] theorem nwords_epos (p : Pfx) (d : Fin 32) : (Instr.epos p d).nwords = nwX p :=
  nwords_of_page p rfl rfl (Nat.succ_ne_zero 2)
@[simp] theorem nwords_barArrive (p : Pfx) (sc : Scope) (d a : Fin 32) : (Instr.barArrive p sc d a).nwords = nwX p :=
  nwords_of_page p rfl rfl (Nat.succ_ne_zero 2)
@[simp] theorem nwords_barWait (p : Pfx) (sc : Scope) (a b : Fin 32) : (Instr.barWait p sc a b).nwords = nwX p :=
  nwords_of_page p rfl rfl (Nat.succ_ne_zero 2)
@[simp] theorem nwords_barAw (p : Pfx) (sc : Scope) (d a : Fin 32) : (Instr.barAw p sc d a).nwords = nwX p :=
  nwords_of_page p rfl rfl (Nat.succ_ne_zero 2)
@[simp] theorem nwords_barTest (p : Pfx) (sc : Scope) (d a b : Fin 32) : (Instr.barTest p sc d a b).nwords = nwX p :=
  nwords_of_page p rfl rfl (Nat.succ_ne_zero 2)
@[simp] theorem nwords_barInit (p : Pfx) (a b : Fin 32) : (Instr.barInit p a b).nwords = nwX p :=
  nwords_of_page p rfl rfl (Nat.succ_ne_zero 2)
@[simp] theorem nwords_ldAcq (p : Pfx) (sc : Scope) (sz : Sz) (d a : Fin 32) (off : Int) : (Instr.ldAcq p sc sz d a off).nwords = nwX p :=
  nwords_of_page p rfl rfl (Nat.succ_ne_zero 2)
@[simp] theorem nwords_stRel (p : Pfx) (sc : Scope) (sz : Sz) (d a : Fin 32) (off : Int) : (Instr.stRel p sc sz d a off).nwords = nwX p :=
  nwords_of_page p rfl rfl (Nat.succ_ne_zero 2)
@[simp] theorem nwords_copy (p : Pfx) (d a b : Fin 32) : (Instr.copy p d a b).nwords = nwX p :=
  nwords_of_page p rfl rfl (Nat.succ_ne_zero 3)
@[simp] theorem nwords_copyq (p : Pfx) (d : Fin 32) (q : Fin 8) (b : Fin 32) : (Instr.copyq p d q b).nwords = nwX p :=
  nwords_of_page p rfl rfl (Nat.succ_ne_zero 3)
@[simp] theorem nwords_cjwait (p : Pfx) (d a : Fin 32) : (Instr.cjwait p d a).nwords = nwX p :=
  nwords_of_page p rfl rfl (Nat.succ_ne_zero 3)
@[simp] theorem nwords_cjtest (p : Pfx) (d a : Fin 32) : (Instr.cjtest p d a).nwords = nwX p :=
  nwords_of_page p rfl rfl (Nat.succ_ne_zero 3)
@[simp] theorem nwords_mkgrant (p : Pfx) (rw : Bool) (d a b : Fin 32) : (Instr.mkgrant p rw d a b).nwords = nwX p :=
  nwords_of_page p rfl rfl (Nat.succ_ne_zero 3)
@[simp] theorem nwords_addg (p : Pfx) (d a b : Fin 32) : (Instr.addg p d a b).nwords = nwX p :=
  nwords_of_page p rfl rfl (Nat.succ_ne_zero 3)
@[simp] theorem nwords_grantq (p : Pfx) (d a : Fin 32) : (Instr.grantq p d a).nwords = nwX p :=
  nwords_of_page p rfl rfl (Nat.succ_ne_zero 3)
@[simp] theorem nwords_revoke (p : Pfx) (d : Fin 32) : (Instr.revoke p d).nwords = nwX p :=
  nwords_of_page p rfl rfl (Nat.succ_ne_zero 3)
@[simp] theorem nwords_wfw (p : Pfx) : (Instr.wfw p).nwords = nwX p :=
  nwords_of_page p rfl rfl (Nat.succ_ne_zero 3)
@[simp] theorem nwords_spawn (p : Pfx) (d a : Fin 32) : (Instr.spawn p d a).nwords = nwX p :=
  nwords_of_page p rfl rfl (Nat.succ_ne_zero 3)
@[simp] theorem nwords_launch (p : Pfx) (d a b : Fin 32) : (Instr.launch p d a b).nwords = nwX p :=
  nwords_of_page p rfl rfl (Nat.succ_ne_zero 3)
@[simp] theorem nwords_inrd (p : Pfx) (d a : Fin 32) : (Instr.inrd p d a).nwords = nwX p :=
  nwords_of_page p rfl rfl (Nat.succ_ne_zero 3)
@[simp] theorem nwords_krd (p : Pfx) (n : Fin 64) (d : Fin 32) : (Instr.krd p n d).nwords = nwX p :=
  nwords_of_page p rfl rfl (Nat.succ_ne_zero 3)
@[simp] theorem nwords_kwr (p : Pfx) (n : Fin 64) (a : Fin 32) : (Instr.kwr p n a).nwords = nwX p :=
  nwords_of_page p rfl rfl (Nat.succ_ne_zero 3)
@[simp] theorem nwords_mulh (p : Pfx) (d a b : Fin 32) : (Instr.mulh p d a b).nwords = nwX p :=
  nwords_of_page p rfl rfl (Nat.succ_ne_zero 4)
@[simp] theorem nwords_mulhz (p : Pfx) (d a b : Fin 32) : (Instr.mulhz p d a b).nwords = nwX p :=
  nwords_of_page p rfl rfl (Nat.succ_ne_zero 4)
@[simp] theorem nwords_div (p : Pfx) (d a b : Fin 32) : (Instr.div p d a b).nwords = nwX p :=
  nwords_of_page p rfl rfl (Nat.succ_ne_zero 4)
@[simp] theorem nwords_divz (p : Pfx) (d a b : Fin 32) : (Instr.divz p d a b).nwords = nwX p :=
  nwords_of_page p rfl rfl (Nat.succ_ne_zero 4)
@[simp] theorem nwords_rem (p : Pfx) (d a b : Fin 32) : (Instr.rem p d a b).nwords = nwX p :=
  nwords_of_page p rfl rfl (Nat.succ_ne_zero 4)
@[simp] theorem nwords_remz (p : Pfx) (d a b : Fin 32) : (Instr.remz p d a b).nwords = nwX p :=
  nwords_of_page p rfl rfl (Nat.succ_ne_zero 4)
@[simp] theorem nwords_bfxZ (p : Pfx) (w : Fin 64) (d a : Fin 32) (imm : Int) : (Instr.bfxZ p w d a imm).nwords = nwX p :=
  nwords_of_page p rfl rfl (Nat.succ_ne_zero 4)
@[simp] theorem nwords_bfxS (p : Pfx) (w : Fin 64) (d a : Fin 32) (imm : Int) : (Instr.bfxS p w d a imm).nwords = nwX p :=
  nwords_of_page p rfl rfl (Nat.succ_ne_zero 4)
@[simp] theorem nwords_bfi (p : Pfx) (w : Fin 64) (d a : Fin 32) (imm : Int) : (Instr.bfi p w d a imm).nwords = nwX p :=
  nwords_of_page p rfl rfl (Nat.succ_ne_zero 4)
@[simp] theorem nwords_sel (p : Pfx) (pr : Fin 8) (d a b : Fin 32) : (Instr.sel p pr d a b).nwords = nwX p :=
  nwords_of_page p rfl rfl (Nat.succ_ne_zero 4)
@[simp] theorem nwords_clz (p : Pfx) (d a : Fin 32) : (Instr.clz p d a).nwords = nwX p :=
  nwords_of_page p rfl rfl (Nat.succ_ne_zero 4)
@[simp] theorem nwords_ctz (p : Pfx) (d a : Fin 32) : (Instr.ctz p d a).nwords = nwX p :=
  nwords_of_page p rfl rfl (Nat.succ_ne_zero 4)
@[simp] theorem nwords_popc (p : Pfx) (d a : Fin 32) : (Instr.popc p d a).nwords = nwX p :=
  nwords_of_page p rfl rfl (Nat.succ_ne_zero 4)
@[simp] theorem nwords_bswap (p : Pfx) (d a : Fin 32) : (Instr.bswap p d a).nwords = nwX p :=
  nwords_of_page p rfl rfl (Nat.succ_ne_zero 4)
@[simp] theorem nwords_min (p : Pfx) (d a b : Fin 32) : (Instr.min p d a b).nwords = nwX p :=
  nwords_of_page p rfl rfl (Nat.succ_ne_zero 4)
@[simp] theorem nwords_max (p : Pfx) (d a b : Fin 32) : (Instr.max p d a b).nwords = nwX p :=
  nwords_of_page p rfl rfl (Nat.succ_ne_zero 4)
@[simp] theorem nwords_minz (p : Pfx) (d a b : Fin 32) : (Instr.minz p d a b).nwords = nwX p :=
  nwords_of_page p rfl rfl (Nat.succ_ne_zero 4)
@[simp] theorem nwords_maxz (p : Pfx) (d a b : Fin 32) : (Instr.maxz p d a b).nwords = nwX p :=
  nwords_of_page p rfl rfl (Nat.succ_ne_zero 4)
@[simp] theorem nwords_andi (p : Pfx) (d a : Fin 32) (imm : Int) : (Instr.andi p d a imm).nwords = nwX p :=
  nwords_of_page p rfl rfl (Nat.succ_ne_zero 4)
@[simp] theorem nwords_ori (p : Pfx) (d a : Fin 32) (imm : Int) : (Instr.ori p d a imm).nwords = nwX p :=
  nwords_of_page p rfl rfl (Nat.succ_ne_zero 4)
@[simp] theorem nwords_xori (p : Pfx) (d a : Fin 32) (imm : Int) : (Instr.xori p d a imm).nwords = nwX p :=
  nwords_of_page p rfl rfl (Nat.succ_ne_zero 4)
@[simp] theorem nwords_qpop (p : Pfx) (d : Fin 32) (q : Fin 8) : (Instr.qpop p d q).nwords = nwX p :=
  nwords_of_page p rfl rfl (Nat.succ_ne_zero 4)
@[simp] theorem nwords_qpush (p : Pfx) (q : Fin 8) (a : Fin 32) : (Instr.qpush p q a).nwords = nwX p :=
  nwords_of_page p rfl rfl (Nat.succ_ne_zero 4)
@[simp] theorem nwords_srd (p : Pfx) (n : Fin 128) (d a : Fin 32) : (Instr.srd p n d a).nwords = nwX p :=
  nwords_of_page p rfl rfl (Nat.succ_ne_zero 6)
@[simp] theorem nwords_swr (p : Pfx) (n : Fin 128) (a b : Fin 32) : (Instr.swr p n a b).nwords = nwX p :=
  nwords_of_page p rfl rfl (Nat.succ_ne_zero 6)
@[simp] theorem nwords_eret (p : Pfx) : (Instr.eret p).nwords = nwX p :=
  nwords_of_page p rfl rfl (Nat.succ_ne_zero 6)
@[simp] theorem nwords_eretStart (p : Pfx) (d a : Fin 32) : (Instr.eretStart p d a).nwords = nwX p :=
  nwords_of_page p rfl rfl (Nat.succ_ne_zero 6)
@[simp] theorem nwords_tlbinvRange (p : Pfx) (span : Bool) (d a b : Fin 32) : (Instr.tlbinvRange p span d a b).nwords = nwX p :=
  nwords_of_page p rfl rfl (Nat.succ_ne_zero 6)
@[simp] theorem nwords_tlbinvAsid (p : Pfx) (span : Bool) (d a b : Fin 32) : (Instr.tlbinvAsid p span d a b).nwords = nwX p :=
  nwords_of_page p rfl rfl (Nat.succ_ne_zero 6)
@[simp] theorem nwords_tlbinvS2range (p : Pfx) (span : Bool) (d a b : Fin 32) : (Instr.tlbinvS2range p span d a b).nwords = nwX p :=
  nwords_of_page p rfl rfl (Nat.succ_ne_zero 6)
@[simp] theorem nwords_tlbinvPartition (p : Pfx) (span : Bool) (d a b : Fin 32) : (Instr.tlbinvPartition p span d a b).nwords = nwX p :=
  nwords_of_page p rfl rfl (Nat.succ_ne_zero 6)
@[simp] theorem nwords_tlbprobe (p : Pfx) (d a b : Fin 32) : (Instr.tlbprobe p d a b).nwords = nwX p :=
  nwords_of_page p rfl rfl (Nat.succ_ne_zero 6)
@[simp] theorem nwords_cacheopIc (p : Pfx) (span : Bool) (a b : Fin 32) : (Instr.cacheopIc p span a b).nwords = nwX p :=
  nwords_of_page p rfl rfl (Nat.succ_ne_zero 6)
@[simp] theorem nwords_cacheopL1 (p : Pfx) (span : Bool) (a b : Fin 32) : (Instr.cacheopL1 p span a b).nwords = nwX p :=
  nwords_of_page p rfl rfl (Nat.succ_ne_zero 6)
@[simp] theorem nwords_cacheopCc (p : Pfx) (span : Bool) (a b : Fin 32) : (Instr.cacheopCc p span a b).nwords = nwX p :=
  nwords_of_page p rfl rfl (Nat.succ_ne_zero 6)
@[simp] theorem nwords_cacheopL2v (p : Pfx) (span : Bool) (a b : Fin 32) : (Instr.cacheopL2v p span a b).nwords = nwX p :=
  nwords_of_page p rfl rfl (Nat.succ_ne_zero 6)
@[simp] theorem nwords_cacheopL2p (p : Pfx) (a b : Fin 32) : (Instr.cacheopL2p p a b).nwords = nwX p :=
  nwords_of_page p rfl rfl (Nat.succ_ne_zero 6)
@[simp] theorem nwords_domsetRow (p : Pfx) (a b : Fin 32) : (Instr.domsetRow p a b).nwords = nwX p :=
  nwords_of_page p rfl rfl (Nat.succ_ne_zero 6)
@[simp] theorem nwords_domsetAll (p : Pfx) (b : Fin 32) : (Instr.domsetAll p b).nwords = nwX p :=
  nwords_of_page p rfl rfl (Nat.succ_ne_zero 6)
@[simp] theorem nwords_fwsend (p : Pfx) (d a b : Fin 32) : (Instr.fwsend p d a b).nwords = nwX p :=
  nwords_of_page p rfl rfl (Nat.succ_ne_zero 6)
@[simp] theorem nwords_fwsendReply (p : Pfx) (d a b : Fin 32) : (Instr.fwsendReply p d a b).nwords = nwX p :=
  nwords_of_page p rfl rfl (Nat.succ_ne_zero 6)
@[simp] theorem nwords_stoparmCore (p : Pfx) (a : Fin 32) : (Instr.stoparmCore p a).nwords = nwX p :=
  nwords_of_page p rfl rfl (Nat.succ_ne_zero 6)
@[simp] theorem nwords_stoparmStop (p : Pfx) (d a b : Fin 32) : (Instr.stoparmStop p d a b).nwords = nwX p :=
  nwords_of_page p rfl rfl (Nat.succ_ne_zero 6)
@[simp] theorem nwords_stoparmResume (p : Pfx) (d a b : Fin 32) : (Instr.stoparmResume p d a b).nwords = nwX p :=
  nwords_of_page p rfl rfl (Nat.succ_ne_zero 6)
@[simp] theorem nwords_step (p : Pfx) (a : Fin 32) : (Instr.step p a).nwords = nwX p :=
  nwords_of_page p rfl rfl (Nat.succ_ne_zero 6)
@[simp] theorem nwords_slpset (p : Pfx) (d a : Fin 32) : (Instr.slpset p d a).nwords = nwX p :=
  nwords_of_page p rfl rfl (Nat.succ_ne_zero 6)
@[simp] theorem nwords_wdsetKick (p : Pfx) : (Instr.wdsetKick p).nwords = nwX p :=
  nwords_of_page p rfl rfl (Nat.succ_ne_zero 6)
@[simp] theorem nwords_wdsetArm (p : Pfx) (a b : Fin 32) : (Instr.wdsetArm p a b).nwords = nwX p :=
  nwords_of_page p rfl rfl (Nat.succ_ne_zero 6)
@[simp] theorem nwords_wdsetRead (p : Pfx) (d b : Fin 32) : (Instr.wdsetRead p d b).nwords = nwX p :=
  nwords_of_page p rfl rfl (Nat.succ_ne_zero 6)

@[simp] theorem pfxOf_add (p : Pfx) (d a b : Fin 32) : Claims.pfxOf (.add p d a b) = some p := rfl
@[simp] theorem pfxOf_sub (p : Pfx) (d a b : Fin 32) : Claims.pfxOf (.sub p d a b) = some p := rfl
@[simp] theorem pfxOf_and (p : Pfx) (d a b : Fin 32) : Claims.pfxOf (.and p d a b) = some p := rfl
@[simp] theorem pfxOf_or (p : Pfx) (d a b : Fin 32) : Claims.pfxOf (.or p d a b) = some p := rfl
@[simp] theorem pfxOf_xor (p : Pfx) (d a b : Fin 32) : Claims.pfxOf (.xor p d a b) = some p := rfl
@[simp] theorem pfxOf_mul (p : Pfx) (d a b : Fin 32) : Claims.pfxOf (.mul p d a b) = some p := rfl
@[simp] theorem pfxOf_shl (p : Pfx) (d a b : Fin 32) : Claims.pfxOf (.shl p d a b) = some p := rfl
@[simp] theorem pfxOf_shr (p : Pfx) (d a b : Fin 32) : Claims.pfxOf (.shr p d a b) = some p := rfl
@[simp] theorem pfxOf_shra (p : Pfx) (d a b : Fin 32) : Claims.pfxOf (.shra p d a b) = some p := rfl
@[simp] theorem pfxOf_andn (p : Pfx) (d a b : Fin 32) : Claims.pfxOf (.andn p d a b) = some p := rfl
@[simp] theorem pfxOf_gate (p : Pfx) : Claims.pfxOf (.gate p) = some p := rfl
@[simp] theorem pfxOf_retx (p : Pfx) : Claims.pfxOf (.retx p) = some p := rfl
@[simp] theorem pfxOf_exit (p : Pfx) : Claims.pfxOf (.exit p) = some p := rfl
@[simp] theorem pfxOf_brk (p : Pfx) : Claims.pfxOf (.brk p) = some p := rfl
@[simp] theorem pfxOf_trap (p : Pfx) (code : Fin 64) : Claims.pfxOf (.trap p code) = some p := rfl
@[simp] theorem pfxOf_addi (p : Pfx) (d a : Fin 32) (imm : Int) : Claims.pfxOf (.addi p d a imm) = some p := rfl
@[simp] theorem pfxOf_shli (p : Pfx) (d a : Fin 32) (imm : Int) : Claims.pfxOf (.shli p d a imm) = some p := rfl
@[simp] theorem pfxOf_shri (p : Pfx) (d a : Fin 32) (imm : Int) : Claims.pfxOf (.shri p d a imm) = some p := rfl
@[simp] theorem pfxOf_shrai (p : Pfx) (d a : Fin 32) (imm : Int) : Claims.pfxOf (.shrai p d a imm) = some p := rfl
@[simp] theorem pfxOf_ldS8 (p : Pfx) (d a : Fin 32) (off : Int) : Claims.pfxOf (.ldS8 p d a off) = some p := rfl
@[simp] theorem pfxOf_ldS16 (p : Pfx) (d a : Fin 32) (off : Int) : Claims.pfxOf (.ldS16 p d a off) = some p := rfl
@[simp] theorem pfxOf_ldS32 (p : Pfx) (d a : Fin 32) (off : Int) : Claims.pfxOf (.ldS32 p d a off) = some p := rfl
@[simp] theorem pfxOf_ld64 (p : Pfx) (d a : Fin 32) (off : Int) : Claims.pfxOf (.ld64 p d a off) = some p := rfl
@[simp] theorem pfxOf_ldZ8 (p : Pfx) (d a : Fin 32) (off : Int) : Claims.pfxOf (.ldZ8 p d a off) = some p := rfl
@[simp] theorem pfxOf_ldZ16 (p : Pfx) (d a : Fin 32) (off : Int) : Claims.pfxOf (.ldZ16 p d a off) = some p := rfl
@[simp] theorem pfxOf_ldZ32 (p : Pfx) (d a : Fin 32) (off : Int) : Claims.pfxOf (.ldZ32 p d a off) = some p := rfl
@[simp] theorem pfxOf_st8 (p : Pfx) (d a : Fin 32) (off : Int) : Claims.pfxOf (.st8 p d a off) = some p := rfl
@[simp] theorem pfxOf_st16 (p : Pfx) (d a : Fin 32) (off : Int) : Claims.pfxOf (.st16 p d a off) = some p := rfl
@[simp] theorem pfxOf_st32 (p : Pfx) (d a : Fin 32) (off : Int) : Claims.pfxOf (.st32 p d a off) = some p := rfl
@[simp] theorem pfxOf_st64 (p : Pfx) (d a : Fin 32) (off : Int) : Claims.pfxOf (.st64 p d a off) = some p := rfl
@[simp] theorem pfxOf_ldl (p : Pfx) (mode : LMode) (d a : Fin 32) (off : Fin 8) : Claims.pfxOf (.ldl p mode d a off) = some p := rfl
@[simp] theorem pfxOf_stl (p : Pfx) (mode : LMode) (d a : Fin 32) (off : Fin 8) : Claims.pfxOf (.stl p mode d a off) = some p := rfl
@[simp] theorem pfxOf_ldc (p : Pfx) (d a : Fin 32) (off : Int) : Claims.pfxOf (.ldc p d a off) = some p := rfl
@[simp] theorem pfxOf_cmpEq (p : Pfx) (d : Fin 8) (a b : Fin 32) : Claims.pfxOf (.cmpEq p d a b) = some p := rfl
@[simp] theorem pfxOf_cmpNe (p : Pfx) (d : Fin 8) (a b : Fin 32) : Claims.pfxOf (.cmpNe p d a b) = some p := rfl
@[simp] theorem pfxOf_cmpLt (p : Pfx) (d : Fin 8) (a b : Fin 32) : Claims.pfxOf (.cmpLt p d a b) = some p := rfl
@[simp] theorem pfxOf_cmpGe (p : Pfx) (d : Fin 8) (a b : Fin 32) : Claims.pfxOf (.cmpGe p d a b) = some p := rfl
@[simp] theorem pfxOf_cmpuLtu (p : Pfx) (d : Fin 8) (a b : Fin 32) : Claims.pfxOf (.cmpuLtu p d a b) = some p := rfl
@[simp] theorem pfxOf_cmpuGeu (p : Pfx) (d : Fin 8) (a b : Fin 32) : Claims.pfxOf (.cmpuGeu p d a b) = some p := rfl
@[simp] theorem pfxOf_cmpuTst (p : Pfx) (d : Fin 8) (a b : Fin 32) : Claims.pfxOf (.cmpuTst p d a b) = some p := rfl
@[simp] theorem pfxOf_cmpuNtst (p : Pfx) (d : Fin 8) (a b : Fin 32) : Claims.pfxOf (.cmpuNtst p d a b) = some p := rfl
@[simp] theorem pfxOf_pand (p : Pfx) (d a b : Fin 8) : Claims.pfxOf (.pand p d a b) = some p := rfl
@[simp] theorem pfxOf_por (p : Pfx) (d a b : Fin 8) : Claims.pfxOf (.por p d a b) = some p := rfl
@[simp] theorem pfxOf_pxor (p : Pfx) (d a b : Fin 8) : Claims.pfxOf (.pxor p d a b) = some p := rfl
@[simp] theorem pfxOf_pandn (p : Pfx) (d a b : Fin 8) : Claims.pfxOf (.pandn p d a b) = some p := rfl
@[simp] theorem pfxOf_br (p : Pfx) (imm : Int) : Claims.pfxOf (.br p imm) = some p := rfl
@[simp] theorem pfxOf_call (p : Pfx) (imm : Int) : Claims.pfxOf (.call p imm) = some p := rfl
@[simp] theorem pfxOf_callx (p : Pfx) (imm : Int) : Claims.pfxOf (.callx p imm) = some p := rfl
@[simp] theorem pfxOf_jmp (p : Pfx) (a : Fin 32) : Claims.pfxOf (.jmp p a) = some p := rfl
@[simp] theorem pfxOf_callReg (p : Pfx) (a : Fin 32) : Claims.pfxOf (.callReg p a) = some p := rfl
@[simp] theorem pfxOf_ret (p : Pfx) : Claims.pfxOf (.ret p) = some p := rfl
@[simp] theorem pfxOf_callxReg (p : Pfx) (a : Fin 32) : Claims.pfxOf (.callxReg p a) = some p := rfl
@[simp] theorem pfxOf_vadd (p : Pfx) (t : VTy) (r : Rnd) (d a b : VOpd) (m : Fin 4) : Claims.pfxOf (.vadd p t r d a b m) = some p := rfl
@[simp] theorem pfxOf_vsub (p : Pfx) (t : VTy) (r : Rnd) (d a b : VOpd) (m : Fin 4) : Claims.pfxOf (.vsub p t r d a b m) = some p := rfl
@[simp] theorem pfxOf_vmul (p : Pfx) (t : VTy) (r : Rnd) (d a b : VOpd) (m : Fin 4) : Claims.pfxOf (.vmul p t r d a b m) = some p := rfl
@[simp] theorem pfxOf_vfma (p : Pfx) (t : VTy) (r : Rnd) (d : Fin 16) (a b : VOpd) (m : Fin 4) : Claims.pfxOf (.vfma p t r d a b m) = some p := rfl
@[simp] theorem pfxOf_vfms (p : Pfx) (t : VTy) (r : Rnd) (d : Fin 16) (a b : VOpd) (m : Fin 4) : Claims.pfxOf (.vfms p t r d a b m) = some p := rfl
@[simp] theorem pfxOf_vfnma (p : Pfx) (t : VTy) (r : Rnd) (d : Fin 16) (a b : VOpd) (m : Fin 4) : Claims.pfxOf (.vfnma p t r d a b m) = some p := rfl
@[simp] theorem pfxOf_vfnms (p : Pfx) (t : VTy) (r : Rnd) (d : Fin 16) (a b : VOpd) (m : Fin 4) : Claims.pfxOf (.vfnms p t r d a b m) = some p := rfl
@[simp] theorem pfxOf_vmax (p : Pfx) (t : VTy) (d a b : VOpd) (m : Fin 4) : Claims.pfxOf (.vmax p t d a b m) = some p := rfl
@[simp] theorem pfxOf_vmin (p : Pfx) (t : VTy) (d a b : VOpd) (m : Fin 4) : Claims.pfxOf (.vmin p t d a b m) = some p := rfl
@[simp] theorem pfxOf_vmaxa (p : Pfx) (t : VTy) (d a b : VOpd) (m : Fin 4) : Claims.pfxOf (.vmaxa p t d a b m) = some p := rfl
@[simp] theorem pfxOf_vmina (p : Pfx) (t : VTy) (d a b : VOpd) (m : Fin 4) : Claims.pfxOf (.vmina p t d a b m) = some p := rfl
@[simp] theorem pfxOf_vcmpEq (p : Pfx) (neg : Bool) (t : VTy) (d : Fin 8) (a b : VOpd) (m : Fin 4) : Claims.pfxOf (.vcmpEq p neg t d a b m) = some p := rfl
@[simp] theorem pfxOf_vcmpLt (p : Pfx) (neg : Bool) (t : VTy) (d : Fin 8) (a b : VOpd) (m : Fin 4) : Claims.pfxOf (.vcmpLt p neg t d a b m) = some p := rfl
@[simp] theorem pfxOf_vcmpLe (p : Pfx) (neg : Bool) (t : VTy) (d : Fin 8) (a b : VOpd) (m : Fin 4) : Claims.pfxOf (.vcmpLe p neg t d a b m) = some p := rfl
@[simp] theorem pfxOf_vcmpUn (p : Pfx) (neg : Bool) (t : VTy) (d : Fin 8) (a b : VOpd) (m : Fin 4) : Claims.pfxOf (.vcmpUn p neg t d a b m) = some p := rfl
@[simp] theorem pfxOf_vsel (p : Pfx) (t : VTy) (d : Fin 16) (a b : VOpd) (m : Fin 4) : Claims.pfxOf (.vsel p t d a b m) = some p := rfl
@[simp] theorem pfxOf_vand (p : Pfx) (d a b : VOpd) (m : Fin 4) : Claims.pfxOf (.vand p d a b m) = some p := rfl
@[simp] theorem pfxOf_vor (p : Pfx) (d a b : VOpd) (m : Fin 4) : Claims.pfxOf (.vor p d a b m) = some p := rfl
@[simp] theorem pfxOf_vxor (p : Pfx) (d a b : VOpd) (m : Fin 4) : Claims.pfxOf (.vxor p d a b m) = some p := rfl
@[simp] theorem pfxOf_vandn (p : Pfx) (d a b : VOpd) (m : Fin 4) : Claims.pfxOf (.vandn p d a b m) = some p := rfl
@[simp] theorem pfxOf_vshl (p : Pfx) (t : VTy) (d : Fin 16) (a : VOpd) (imm : Int) (m : Fin 4) : Claims.pfxOf (.vshl p t d a imm m) = some p := rfl
@[simp] theorem pfxOf_vshr (p : Pfx) (t : VTy) (d : Fin 16) (a : VOpd) (imm : Int) (m : Fin 4) : Claims.pfxOf (.vshr p t d a imm m) = some p := rfl
@[simp] theorem pfxOf_vshra (p : Pfx) (t : VTy) (d : Fin 16) (a : VOpd) (imm : Int) (m : Fin 4) : Claims.pfxOf (.vshra p t d a imm m) = some p := rfl
@[simp] theorem pfxOf_vredSum (p : Pfx) (t : VTy) (r : Rnd) (d : Fin 32) (a : VOpd) (m : Fin 4) : Claims.pfxOf (.vredSum p t r d a m) = some p := rfl
@[simp] theorem pfxOf_vredMax (p : Pfx) (t : VTy) (r : Rnd) (d : Fin 32) (a : VOpd) (m : Fin 4) : Claims.pfxOf (.vredMax p t r d a m) = some p := rfl
@[simp] theorem pfxOf_vredMin (p : Pfx) (t : VTy) (r : Rnd) (d : Fin 32) (a : VOpd) (m : Fin 4) : Claims.pfxOf (.vredMin p t r d a m) = some p := rfl
@[simp] theorem pfxOf_vcvt (p : Pfx) (tt st : VTy) (r : Rnd) (ns part : Bool) (d a : Fin 16) (m : Fin 4) : Claims.pfxOf (.vcvt p tt st r ns part d a m) = some p := rfl
@[simp] theorem pfxOf_vexp2 (p : Pfx) (d a : VOpd) (m : Fin 4) : Claims.pfxOf (.vexp2 p d a m) = some p := rfl
@[simp] theorem pfxOf_vrcp (p : Pfx) (d a : VOpd) (m : Fin 4) : Claims.pfxOf (.vrcp p d a m) = some p := rfl
@[simp] theorem pfxOf_vrsq (p : Pfx) (d a : VOpd) (m : Fin 4) : Claims.pfxOf (.vrsq p d a m) = some p := rfl
@[simp] theorem pfxOf_vquant (p : Pfx) (d a : VOpd) (b : Fin 32) (m : Fin 4) : Claims.pfxOf (.vquant p d a b m) = some p := rfl
@[simp] theorem pfxOf_vdeq (p : Pfx) (d a : VOpd) (b : Fin 32) (m : Fin 4) : Claims.pfxOf (.vdeq p d a b m) = some p := rfl
@[simp] theorem pfxOf_vmov (p : Pfx) (d a : VOpd) (m : Fin 4) : Claims.pfxOf (.vmov p d a m) = some p := rfl
@[simp] theorem pfxOf_vbcast (p : Pfx) (d : Fin 16) (a : Fin 32) (m : Fin 4) : Claims.pfxOf (.vbcast p d a m) = some p := rfl
@[simp] theorem pfxOf_vgetl (p : Pfx) (d : Fin 32) (a : Fin 16) (b : Fin 32) : Claims.pfxOf (.vgetl p d a b) = some p := rfl
@[simp] theorem pfxOf_vsetl (p : Pfx) (d : Fin 16) (a b : Fin 32) : Claims.pfxOf (.vsetl p d a b) = some p := rfl
@[simp] theorem pfxOf_vld (p : Pfx) (sp : Space) (m : Fin 4) (d : Fin 16) (a : Fin 32) (off : Int) : Claims.pfxOf (.vld p sp m d a off) = some p := rfl
@[simp] theorem pfxOf_vst (p : Pfx) (sp : Space) (m : Fin 4) (d : Fin 16) (a : Fin 32) (off : Int) : Claims.pfxOf (.vst p sp m d a off) = some p := rfl
@[simp] theorem pfxOf_vgather (p : Pfx) (t : VTy) (d : Fin 16) (a : Fin 32) (b : Fin 16) (m : Fin 4) : Claims.pfxOf (.vgather p t d a b m) = some p := rfl
@[simp] theorem pfxOf_mand (p : Pfx) (d a b : Fin 8) : Claims.pfxOf (.mand p d a b) = some p := rfl
@[simp] theorem pfxOf_mor (p : Pfx) (d a b : Fin 8) : Claims.pfxOf (.mor p d a b) = some p := rfl
@[simp] theorem pfxOf_mxor (p : Pfx) (d a b : Fin 8) : Claims.pfxOf (.mxor p d a b) = some p := rfl
@[simp] theorem pfxOf_mandn (p : Pfx) (d a b : Fin 8) : Claims.pfxOf (.mandn p d a b) = some p := rfl
@[simp] theorem pfxOf_mpop (p : Pfx) (d : Fin 32) (a : Fin 8) : Claims.pfxOf (.mpop p d a) = some p := rfl
@[simp] theorem pfxOf_mset (p : Pfx) (d : Fin 8) (a : Fin 32) : Claims.pfxOf (.mset p d a) = some p := rfl
@[simp] theorem pfxOf_mget (p : Pfx) (d : Fin 32) (a : Fin 8) : Claims.pfxOf (.mget p d a) = some p := rfl
@[simp] theorem pfxOf_mgetVs (p : Pfx) (d : Fin 32) : Claims.pfxOf (.mgetVs p d) = some p := rfl
@[simp] theorem pfxOf_mgetVsClr (p : Pfx) (d : Fin 32) : Claims.pfxOf (.mgetVsClr p d) = some p := rfl
@[simp] theorem pfxOf_vabs (p : Pfx) (t : VTy) (d a : VOpd) (m : Fin 4) : Claims.pfxOf (.vabs p t d a m) = some p := rfl
@[simp] theorem pfxOf_vneg (p : Pfx) (t : VTy) (d a : VOpd) (m : Fin 4) : Claims.pfxOf (.vneg p t d a m) = some p := rfl
@[simp] theorem pfxOf_gangStatic (p : Pfx) : Claims.pfxOf (.gangStatic p) = some p := rfl
@[simp] theorem pfxOf_gangElastic (p : Pfx) (a : Fin 32) : Claims.pfxOf (.gangElastic p a) = some p := rfl
@[simp] theorem pfxOf_gangEnd (p : Pfx) : Claims.pfxOf (.gangEnd p) = some p := rfl
@[simp] theorem pfxOf_twld (p : Pfx) (buf : Bool) (a b : Fin 32) : Claims.pfxOf (.twld p buf a b) = some p := rfl
@[simp] theorem pfxOf_tmm (p : Pfx) (acc : Fin 4) (buf : Bool) (src : TSrc) (b : Fin 32) : Claims.pfxOf (.tmm p acc buf src b) = some p := rfl
@[simp] theorem pfxOf_tdrain (p : Pfx) (acc : Fin 4) (d a b : Fin 32) : Claims.pfxOf (.tdrain p acc d a b) = some p := rfl
@[simp] theorem pfxOf_tdrainAdd (p : Pfx) (acc : Fin 4) (d a b : Fin 32) : Claims.pfxOf (.tdrainAdd p acc d a b) = some p := rfl
@[simp] theorem pfxOf_tzero (p : Pfx) (acc : Fin 4) : Claims.pfxOf (.tzero p acc) = some p := rfl
@[simp] theorem pfxOf_trda (p : Pfx) (acc : Fin 4) (a : Fin 32) : Claims.pfxOf (.trda p acc a) = some p := rfl
@[simp] theorem pfxOf_twra (p : Pfx) (acc : Fin 4) (a b : Fin 32) : Claims.pfxOf (.twra p acc a b) = some p := rfl
@[simp] theorem pfxOf_tpack (p : Pfx) (d a : Fin 16) (b : Fin 32) : Claims.pfxOf (.tpack p d a b) = some p := rfl
@[simp] theorem pfxOf_tunpk (p : Pfx) (d a : Fin 16) (b : Fin 32) : Claims.pfxOf (.tunpk p d a b) = some p := rfl
@[simp] theorem pfxOf_tchk (p : Pfx) (d : Fin 32) (a : Fin 16) : Claims.pfxOf (.tchk p d a) = some p := rfl
@[simp] theorem pfxOf_tstxSet (p : Pfx) (bit : Fin 64) (a : Fin 32) (imm : Int) : Claims.pfxOf (.tstxSet p bit a imm) = some p := rfl
@[simp] theorem pfxOf_tstxClr (p : Pfx) (bit : Fin 64) (a : Fin 32) (imm : Int) : Claims.pfxOf (.tstxClr p bit a imm) = some p := rfl
@[simp] theorem pfxOf_accMax (p : Pfx) (d a b : Fin 32) : Claims.pfxOf (.accMax p d a b) = some p := rfl
@[simp] theorem pfxOf_accScale (p : Pfx) (d a b : Fin 32) : Claims.pfxOf (.accScale p d a b) = some p := rfl
@[simp] theorem pfxOf_difs (p : Pfx) (a b : Fin 32) : Claims.pfxOf (.difs p a b) = some p := rfl
@[simp] theorem pfxOf_difgo (p : Pfx) (a : Fin 32) (imm : Int) : Claims.pfxOf (.difgo p a imm) = some p := rfl
@[simp] theorem pfxOf_difwait (p : Pfx) : Claims.pfxOf (.difwait p) = some p := rfl
@[simp] theorem pfxOf_ldlLong (p : Pfx) (mode : LMode) (sg : Bool) (sz : Sz) (d a : Fin 32) (off : Int) : Claims.pfxOf (.ldlLong p mode sg sz d a off) = some p := rfl
@[simp] theorem pfxOf_stlLong (p : Pfx) (mode : LMode) (sz : Sz) (d a : Fin 32) (off : Int) : Claims.pfxOf (.stlLong p mode sz d a off) = some p := rfl
@[simp] theorem pfxOf_ldfe (p : Pfx) (mode : LMode) (d a : Fin 32) (off : Int) : Claims.pfxOf (.ldfe p mode d a off) = some p := rfl
@[simp] theorem pfxOf_ldff (p : Pfx) (mode : LMode) (d a : Fin 32) (off : Int) : Claims.pfxOf (.ldff p mode d a off) = some p := rfl
@[simp] theorem pfxOf_stfe (p : Pfx) (mode : LMode) (d a : Fin 32) (off : Int) : Claims.pfxOf (.stfe p mode d a off) = some p := rfl
@[simp] theorem pfxOf_stff (p : Pfx) (mode : LMode) (d a : Fin 32) (off : Int) : Claims.pfxOf (.stff p mode d a off) = some p := rfl
@[simp] theorem pfxOf_seteE (p : Pfx) (mode : LMode) (a : Fin 32) (off : Int) : Claims.pfxOf (.seteE p mode a off) = some p := rfl
@[simp] theorem pfxOf_seteF (p : Pfx) (mode : LMode) (a : Fin 32) (off : Int) : Claims.pfxOf (.seteF p mode a off) = some p := rfl
@[simp] theorem pfxOf_rempty (p : Pfx) (d : Fin 32) : Claims.pfxOf (.rempty p d) = some p := rfl
@[simp] theorem pfxOf_fill (p : Pfx) (t d a b : Fin 32) : Claims.pfxOf (.fill p t d a b) = some p := rfl
@[simp] theorem pfxOf_amoAdd (p : Pfx) (w64 : Bool) (d a b : Fin 32) : Claims.pfxOf (.amoAdd p w64 d a b) = some p := rfl
@[simp] theorem pfxOf_amoAnd (p : Pfx) (w64 : Bool) (d a b : Fin 32) : Claims.pfxOf (.amoAnd p w64 d a b) = some p := rfl
@[simp] theorem pfxOf_amoOr (p : Pfx) (w64 : Bool) (d a b : Fin 32) : Claims.pfxOf (.amoOr p w64 d a b) = some p := rfl
@[simp] theorem pfxOf_amoXor (p : Pfx) (w64 : Bool) (d a b : Fin 32) : Claims.pfxOf (.amoXor p w64 d a b) = some p := rfl
@[simp] theorem pfxOf_amoMin (p : Pfx) (w64 : Bool) (d a b : Fin 32) : Claims.pfxOf (.amoMin p w64 d a b) = some p := rfl
@[simp] theorem pfxOf_amoMax (p : Pfx) (w64 : Bool) (d a b : Fin 32) : Claims.pfxOf (.amoMax p w64 d a b) = some p := rfl
@[simp] theorem pfxOf_amoMinz (p : Pfx) (w64 : Bool) (d a b : Fin 32) : Claims.pfxOf (.amoMinz p w64 d a b) = some p := rfl
@[simp] theorem pfxOf_amoMaxz (p : Pfx) (w64 : Bool) (d a b : Fin 32) : Claims.pfxOf (.amoMaxz p w64 d a b) = some p := rfl
@[simp] theorem pfxOf_amoSwap (p : Pfx) (w64 : Bool) (d a b : Fin 32) : Claims.pfxOf (.amoSwap p w64 d a b) = some p := rfl
@[simp] theorem pfxOf_amoCas (p : Pfx) (w64 : Bool) (d a b : Fin 32) : Claims.pfxOf (.amoCas p w64 d a b) = some p := rfl
@[simp] theorem pfxOf_amopAdd (p : Pfx) (w64 : Bool) (a b : Fin 32) : Claims.pfxOf (.amopAdd p w64 a b) = some p := rfl
@[simp] theorem pfxOf_amopAnd (p : Pfx) (w64 : Bool) (a b : Fin 32) : Claims.pfxOf (.amopAnd p w64 a b) = some p := rfl
@[simp] theorem pfxOf_amopOr (p : Pfx) (w64 : Bool) (a b : Fin 32) : Claims.pfxOf (.amopOr p w64 a b) = some p := rfl
@[simp] theorem pfxOf_amopXor (p : Pfx) (w64 : Bool) (a b : Fin 32) : Claims.pfxOf (.amopXor p w64 a b) = some p := rfl
@[simp] theorem pfxOf_amopMin (p : Pfx) (w64 : Bool) (a b : Fin 32) : Claims.pfxOf (.amopMin p w64 a b) = some p := rfl
@[simp] theorem pfxOf_amopMax (p : Pfx) (w64 : Bool) (a b : Fin 32) : Claims.pfxOf (.amopMax p w64 a b) = some p := rfl
@[simp] theorem pfxOf_amopMinz (p : Pfx) (w64 : Bool) (a b : Fin 32) : Claims.pfxOf (.amopMinz p w64 a b) = some p := rfl
@[simp] theorem pfxOf_amopMaxz (p : Pfx) (w64 : Bool) (a b : Fin 32) : Claims.pfxOf (.amopMaxz p w64 a b) = some p := rfl
@[simp] theorem pfxOf_famoF32 (p : Pfx) (a b : Fin 32) : Claims.pfxOf (.famoF32 p a b) = some p := rfl
@[simp] theorem pfxOf_famoBf16 (p : Pfx) (a b : Fin 32) : Claims.pfxOf (.famoBf16 p a b) = some p := rfl
@[simp] theorem pfxOf_ldr (p : Pfx) (d a : Fin 32) (off : Int) : Claims.pfxOf (.ldr p d a off) = some p := rfl
@[simp] theorem pfxOf_stc (p : Pfx) (d a : Fin 32) (off : Int) : Claims.pfxOf (.stc p d a off) = some p := rfl
@[simp] theorem pfxOf_waitrs (p : Pfx) (d a : Fin 32) : Claims.pfxOf (.waitrs p d a) = some p := rfl
@[simp] theorem pfxOf_fenceAcq (p : Pfx) (sc : Scope) : Claims.pfxOf (.fenceAcq p sc) = some p := rfl
@[simp] theorem pfxOf_fenceRel (p : Pfx) (sc : Scope) : Claims.pfxOf (.fenceRel p sc) = some p := rfl
@[simp] theorem pfxOf_fenceAr (p : Pfx) (sc : Scope) : Claims.pfxOf (.fenceAr p sc) = some p := rfl
@[simp] theorem pfxOf_fenceSc (p : Pfx) (sc : Scope) : Claims.pfxOf (.fenceSc p sc) = some p := rfl
@[simp] theorem pfxOf_fencePost (p : Pfx) : Claims.pfxOf (.fencePost p) = some p := rfl
@[simp] theorem pfxOf_scopedef (p : Pfx) (d a : Fin 32) : Claims.pfxOf (.scopedef p d a) = some p := rfl
@[simp] theorem pfxOf_csync (p : Pfx) : Claims.pfxOf (.csync p) = some p := rfl
@[simp] theorem pfxOf_ebegin (p : Pfx) (d : Fin 32) (imm : Int) : Claims.pfxOf (.ebegin p d imm) = some p := rfl
@[simp] theorem pfxOf_ecommit (p : Pfx) : Claims.pfxOf (.ecommit p) = some p := rfl
@[simp] theorem pfxOf_eabort (p : Pfx) : Claims.pfxOf (.eabort p) = some p := rfl
@[simp] theorem pfxOf_ebnd (p : Pfx) (d a : Fin 32) : Claims.pfxOf (.ebnd p d a) = some p := rfl
@[simp] theorem pfxOf_epos (p : Pfx) (d : Fin 32) : Claims.pfxOf (.epos p d) = some p := rfl
@[simp] theorem pfxOf_barArrive (p : Pfx) (sc : Scope) (d a : Fin 32) : Claims.pfxOf (.barArrive p sc d a) = some p := rfl
@[simp] theorem pfxOf_barWait (p : Pfx) (sc : Scope) (a b : Fin 32) : Claims.pfxOf (.barWait p sc a b) = some p := rfl
@[simp] theorem pfxOf_barAw (p : Pfx) (sc : Scope) (d a : Fin 32) : Claims.pfxOf (.barAw p sc d a) = some p := rfl
@[simp] theorem pfxOf_barTest (p : Pfx) (sc : Scope) (d a b : Fin 32) : Claims.pfxOf (.barTest p sc d a b) = some p := rfl
@[simp] theorem pfxOf_barInit (p : Pfx) (a b : Fin 32) : Claims.pfxOf (.barInit p a b) = some p := rfl
@[simp] theorem pfxOf_ldAcq (p : Pfx) (sc : Scope) (sz : Sz) (d a : Fin 32) (off : Int) : Claims.pfxOf (.ldAcq p sc sz d a off) = some p := rfl
@[simp] theorem pfxOf_stRel (p : Pfx) (sc : Scope) (sz : Sz) (d a : Fin 32) (off : Int) : Claims.pfxOf (.stRel p sc sz d a off) = some p := rfl
@[simp] theorem pfxOf_copy (p : Pfx) (d a b : Fin 32) : Claims.pfxOf (.copy p d a b) = some p := rfl
@[simp] theorem pfxOf_copyq (p : Pfx) (d : Fin 32) (q : Fin 8) (b : Fin 32) : Claims.pfxOf (.copyq p d q b) = some p := rfl
@[simp] theorem pfxOf_cjwait (p : Pfx) (d a : Fin 32) : Claims.pfxOf (.cjwait p d a) = some p := rfl
@[simp] theorem pfxOf_cjtest (p : Pfx) (d a : Fin 32) : Claims.pfxOf (.cjtest p d a) = some p := rfl
@[simp] theorem pfxOf_mkgrant (p : Pfx) (rw : Bool) (d a b : Fin 32) : Claims.pfxOf (.mkgrant p rw d a b) = some p := rfl
@[simp] theorem pfxOf_addg (p : Pfx) (d a b : Fin 32) : Claims.pfxOf (.addg p d a b) = some p := rfl
@[simp] theorem pfxOf_grantq (p : Pfx) (d a : Fin 32) : Claims.pfxOf (.grantq p d a) = some p := rfl
@[simp] theorem pfxOf_revoke (p : Pfx) (d : Fin 32) : Claims.pfxOf (.revoke p d) = some p := rfl
@[simp] theorem pfxOf_wfw (p : Pfx) : Claims.pfxOf (.wfw p) = some p := rfl
@[simp] theorem pfxOf_spawn (p : Pfx) (d a : Fin 32) : Claims.pfxOf (.spawn p d a) = some p := rfl
@[simp] theorem pfxOf_launch (p : Pfx) (d a b : Fin 32) : Claims.pfxOf (.launch p d a b) = some p := rfl
@[simp] theorem pfxOf_inrd (p : Pfx) (d a : Fin 32) : Claims.pfxOf (.inrd p d a) = some p := rfl
@[simp] theorem pfxOf_krd (p : Pfx) (n : Fin 64) (d : Fin 32) : Claims.pfxOf (.krd p n d) = some p := rfl
@[simp] theorem pfxOf_kwr (p : Pfx) (n : Fin 64) (a : Fin 32) : Claims.pfxOf (.kwr p n a) = some p := rfl
@[simp] theorem pfxOf_mulh (p : Pfx) (d a b : Fin 32) : Claims.pfxOf (.mulh p d a b) = some p := rfl
@[simp] theorem pfxOf_mulhz (p : Pfx) (d a b : Fin 32) : Claims.pfxOf (.mulhz p d a b) = some p := rfl
@[simp] theorem pfxOf_div (p : Pfx) (d a b : Fin 32) : Claims.pfxOf (.div p d a b) = some p := rfl
@[simp] theorem pfxOf_divz (p : Pfx) (d a b : Fin 32) : Claims.pfxOf (.divz p d a b) = some p := rfl
@[simp] theorem pfxOf_rem (p : Pfx) (d a b : Fin 32) : Claims.pfxOf (.rem p d a b) = some p := rfl
@[simp] theorem pfxOf_remz (p : Pfx) (d a b : Fin 32) : Claims.pfxOf (.remz p d a b) = some p := rfl
@[simp] theorem pfxOf_bfxZ (p : Pfx) (w : Fin 64) (d a : Fin 32) (imm : Int) : Claims.pfxOf (.bfxZ p w d a imm) = some p := rfl
@[simp] theorem pfxOf_bfxS (p : Pfx) (w : Fin 64) (d a : Fin 32) (imm : Int) : Claims.pfxOf (.bfxS p w d a imm) = some p := rfl
@[simp] theorem pfxOf_bfi (p : Pfx) (w : Fin 64) (d a : Fin 32) (imm : Int) : Claims.pfxOf (.bfi p w d a imm) = some p := rfl
@[simp] theorem pfxOf_sel (p : Pfx) (pr : Fin 8) (d a b : Fin 32) : Claims.pfxOf (.sel p pr d a b) = some p := rfl
@[simp] theorem pfxOf_clz (p : Pfx) (d a : Fin 32) : Claims.pfxOf (.clz p d a) = some p := rfl
@[simp] theorem pfxOf_ctz (p : Pfx) (d a : Fin 32) : Claims.pfxOf (.ctz p d a) = some p := rfl
@[simp] theorem pfxOf_popc (p : Pfx) (d a : Fin 32) : Claims.pfxOf (.popc p d a) = some p := rfl
@[simp] theorem pfxOf_bswap (p : Pfx) (d a : Fin 32) : Claims.pfxOf (.bswap p d a) = some p := rfl
@[simp] theorem pfxOf_min (p : Pfx) (d a b : Fin 32) : Claims.pfxOf (.min p d a b) = some p := rfl
@[simp] theorem pfxOf_max (p : Pfx) (d a b : Fin 32) : Claims.pfxOf (.max p d a b) = some p := rfl
@[simp] theorem pfxOf_minz (p : Pfx) (d a b : Fin 32) : Claims.pfxOf (.minz p d a b) = some p := rfl
@[simp] theorem pfxOf_maxz (p : Pfx) (d a b : Fin 32) : Claims.pfxOf (.maxz p d a b) = some p := rfl
@[simp] theorem pfxOf_andi (p : Pfx) (d a : Fin 32) (imm : Int) : Claims.pfxOf (.andi p d a imm) = some p := rfl
@[simp] theorem pfxOf_ori (p : Pfx) (d a : Fin 32) (imm : Int) : Claims.pfxOf (.ori p d a imm) = some p := rfl
@[simp] theorem pfxOf_xori (p : Pfx) (d a : Fin 32) (imm : Int) : Claims.pfxOf (.xori p d a imm) = some p := rfl
@[simp] theorem pfxOf_qpop (p : Pfx) (d : Fin 32) (q : Fin 8) : Claims.pfxOf (.qpop p d q) = some p := rfl
@[simp] theorem pfxOf_qpush (p : Pfx) (q : Fin 8) (a : Fin 32) : Claims.pfxOf (.qpush p q a) = some p := rfl
@[simp] theorem pfxOf_srd (p : Pfx) (n : Fin 128) (d a : Fin 32) : Claims.pfxOf (.srd p n d a) = some p := rfl
@[simp] theorem pfxOf_swr (p : Pfx) (n : Fin 128) (a b : Fin 32) : Claims.pfxOf (.swr p n a b) = some p := rfl
@[simp] theorem pfxOf_eret (p : Pfx) : Claims.pfxOf (.eret p) = some p := rfl
@[simp] theorem pfxOf_eretStart (p : Pfx) (d a : Fin 32) : Claims.pfxOf (.eretStart p d a) = some p := rfl
@[simp] theorem pfxOf_tlbinvRange (p : Pfx) (span : Bool) (d a b : Fin 32) : Claims.pfxOf (.tlbinvRange p span d a b) = some p := rfl
@[simp] theorem pfxOf_tlbinvAsid (p : Pfx) (span : Bool) (d a b : Fin 32) : Claims.pfxOf (.tlbinvAsid p span d a b) = some p := rfl
@[simp] theorem pfxOf_tlbinvS2range (p : Pfx) (span : Bool) (d a b : Fin 32) : Claims.pfxOf (.tlbinvS2range p span d a b) = some p := rfl
@[simp] theorem pfxOf_tlbinvPartition (p : Pfx) (span : Bool) (d a b : Fin 32) : Claims.pfxOf (.tlbinvPartition p span d a b) = some p := rfl
@[simp] theorem pfxOf_tlbprobe (p : Pfx) (d a b : Fin 32) : Claims.pfxOf (.tlbprobe p d a b) = some p := rfl
@[simp] theorem pfxOf_cacheopIc (p : Pfx) (span : Bool) (a b : Fin 32) : Claims.pfxOf (.cacheopIc p span a b) = some p := rfl
@[simp] theorem pfxOf_cacheopL1 (p : Pfx) (span : Bool) (a b : Fin 32) : Claims.pfxOf (.cacheopL1 p span a b) = some p := rfl
@[simp] theorem pfxOf_cacheopCc (p : Pfx) (span : Bool) (a b : Fin 32) : Claims.pfxOf (.cacheopCc p span a b) = some p := rfl
@[simp] theorem pfxOf_cacheopL2v (p : Pfx) (span : Bool) (a b : Fin 32) : Claims.pfxOf (.cacheopL2v p span a b) = some p := rfl
@[simp] theorem pfxOf_cacheopL2p (p : Pfx) (a b : Fin 32) : Claims.pfxOf (.cacheopL2p p a b) = some p := rfl
@[simp] theorem pfxOf_domsetRow (p : Pfx) (a b : Fin 32) : Claims.pfxOf (.domsetRow p a b) = some p := rfl
@[simp] theorem pfxOf_domsetAll (p : Pfx) (b : Fin 32) : Claims.pfxOf (.domsetAll p b) = some p := rfl
@[simp] theorem pfxOf_fwsend (p : Pfx) (d a b : Fin 32) : Claims.pfxOf (.fwsend p d a b) = some p := rfl
@[simp] theorem pfxOf_fwsendReply (p : Pfx) (d a b : Fin 32) : Claims.pfxOf (.fwsendReply p d a b) = some p := rfl
@[simp] theorem pfxOf_stoparmCore (p : Pfx) (a : Fin 32) : Claims.pfxOf (.stoparmCore p a) = some p := rfl
@[simp] theorem pfxOf_stoparmStop (p : Pfx) (d a b : Fin 32) : Claims.pfxOf (.stoparmStop p d a b) = some p := rfl
@[simp] theorem pfxOf_stoparmResume (p : Pfx) (d a b : Fin 32) : Claims.pfxOf (.stoparmResume p d a b) = some p := rfl
@[simp] theorem pfxOf_step (p : Pfx) (a : Fin 32) : Claims.pfxOf (.step p a) = some p := rfl
@[simp] theorem pfxOf_slpset (p : Pfx) (d a : Fin 32) : Claims.pfxOf (.slpset p d a) = some p := rfl
@[simp] theorem pfxOf_wdsetKick (p : Pfx) : Claims.pfxOf (.wdsetKick p) = some p := rfl
@[simp] theorem pfxOf_wdsetArm (p : Pfx) (a b : Fin 32) : Claims.pfxOf (.wdsetArm p a b) = some p := rfl
@[simp] theorem pfxOf_wdsetRead (p : Pfx) (d b : Fin 32) : Claims.pfxOf (.wdsetRead p d b) = some p := rfl

end Sys2Proof.Machine
end

