-- ==== Sys2Proof/Laws/Memory.lean ====
section
/-! SUPPORT. Memory: reading after writing, and the canonical form, which every memory operation keeps and which makes equal
memories equal data. -/

namespace Sys2Proof.Machine

/-! ### Reads after writes -/

theorem Memory.read_insert (m : Memory) (a x : Nat) (b : Byte) :
    (m.insert a b).read x = if a = x then b else m.read x := by
  induction m with
  | nil => simp [Memory.insert, Memory.read]
  | cons c m ih =>
    obtain ⟨a', b'⟩ := c
    simp only [Memory.insert]
    split
    · simp [Memory.read]
    · split
      · rename_i h; subst h; by_cases h : a = x <;> simp [Memory.read, h]
      · rename_i h1 h2
        simp only [Memory.read, ih]
        by_cases h : a' = x
        · have : a ≠ x := by rintro rfl; exact h2 h.symm
          simp [h, this]
        · simp [h]

theorem Memory.read_erase_ne (m : Memory) {a x : Nat} (h : x ≠ a) : (m.erase a).read x = m.read x := by
  induction m with
  | nil => rfl
  | cons c m ih =>
    obtain ⟨a', b'⟩ := c
    simp only [Memory.erase]
    split
    · rename_i e; subst e; simp [Memory.read, Ne.symm h]
    · simp [Memory.read, ih]

/-- A write leaves every other byte as it reads. -/
theorem Memory.read_write_ne (m : Memory) {a x : Nat} (b : Byte) (h : x ≠ a) : (m.write a b).read x = m.read x := by
  unfold Memory.write; split
  · exact m.read_erase_ne h
  · simp [Memory.read_insert, Ne.symm h]

/-! ### The canonical form -/

theorem Memory.wfFrom_cons {lo a : Nat} {b : Byte} {m : Memory} :
    Memory.wfFrom lo ((a, b) :: m) = true ↔ lo ≤ a ∧ b ≠ Memory.unlisted ∧ Memory.wfFrom (a + 1) m = true := by
  simp [Memory.wfFrom, and_assoc]

theorem Memory.wfFrom_mono {lo lo' : Nat} {m : Memory} (h : lo' ≤ lo) (hm : Memory.wfFrom lo m = true) :
    Memory.wfFrom lo' m = true := by
  cases m with
  | nil => rfl
  | cons c m => rw [Memory.wfFrom_cons] at hm ⊢; exact ⟨Nat.le_trans h hm.1, hm.2⟩

/-- Below its first address, a memory in its form reads as the unlisted byte. -/
theorem Memory.read_below {m : Memory} : ∀ {lo x : Nat}, Memory.wfFrom lo m = true → x < lo → m.read x = Memory.unlisted := by
  induction m with
  | nil => intros; rfl
  | cons c m ih =>
    intro lo x hm hx
    obtain ⟨h1, -, h3⟩ := Memory.wfFrom_cons.1 hm
    simp only [Memory.read]
    rw [if_neg (by omega)]
    exact ih h3 (by omega)

theorem Memory.insert_wfFrom {m : Memory} {a : Nat} {b : Byte} (hb : b ≠ Memory.unlisted) :
    ∀ {lo : Nat}, Memory.wfFrom lo m = true → lo ≤ a → Memory.wfFrom lo (m.insert a b) = true := by
  induction m with
  | nil => intro lo _ h; simp [Memory.insert, Memory.wfFrom, h, hb]
  | cons c m ih =>
    intro lo hm h
    obtain ⟨a', b'⟩ := c
    obtain ⟨h1, h2, h3⟩ := Memory.wfFrom_cons.1 hm
    simp only [Memory.insert]
    split
    · exact Memory.wfFrom_cons.2 ⟨h, hb, Memory.wfFrom_cons.2 ⟨by omega, h2, h3⟩⟩
    · split
      · rename_i e; subst e; exact Memory.wfFrom_cons.2 ⟨h, hb, h3⟩
      · exact Memory.wfFrom_cons.2 ⟨h1, h2, ih h3 (by omega)⟩

theorem Memory.erase_wfFrom {m : Memory} {a : Nat} :
    ∀ {lo : Nat}, Memory.wfFrom lo m = true → Memory.wfFrom lo (m.erase a) = true := by
  induction m with
  | nil => intros; rfl
  | cons c m ih =>
    intro lo hm
    obtain ⟨a', b'⟩ := c
    obtain ⟨h1, h2, h3⟩ := Memory.wfFrom_cons.1 hm
    simp only [Memory.erase]
    split
    · exact Memory.wfFrom_mono (by omega) h3
    · exact Memory.wfFrom_cons.2 ⟨h1, h2, ih h3⟩

theorem Memory.filter_wfFrom {m : Memory} (p : Host.Cell → Bool) :
    ∀ {lo : Nat}, Memory.wfFrom lo m = true → Memory.wfFrom lo (m.filter p) = true := by
  induction m with
  | nil => intros; rfl
  | cons c m ih =>
    intro lo hm
    obtain ⟨a', b'⟩ := c
    obtain ⟨h1, h2, h3⟩ := Memory.wfFrom_cons.1 hm
    simp only [List.filter]
    split
    · exact Memory.wfFrom_cons.2 ⟨h1, h2, ih h3⟩
    · exact Memory.wfFrom_mono (by omega) (ih h3)

/-- A write keeps the form. -/
theorem Memory.write_wf {m : Memory} (a : Nat) (b : Byte) (h : m.wf = true) : (m.write a b).wf = true := by
  unfold Memory.write; split
  · exact Memory.erase_wfFrom h
  · rename_i hb; exact Memory.insert_wfFrom hb h (Nat.zero_le a)
/-- A list of writes keeps the form. -/
theorem Memory.writeCells_wf {m : Memory} (cs : List Host.Cell) (h : m.wf = true) : (m.writeCells cs).wf = true := by
  induction cs generalizing m with
  | nil => exact h
  | cons c cs ih => exact ih (Memory.write_wf c.1 c.2 h)
/-- Clearing a part of memory keeps the form. -/
theorem Memory.filter_wf {m : Memory} (p : Host.Cell → Bool) (h : m.wf = true) : Memory.wf (m.filter p) = true :=
  Memory.filter_wfFrom p h

theorem Memory.read_erase_same {m : Memory} {a : Nat} :
    ∀ {lo : Nat}, Memory.wfFrom lo m = true → (m.erase a).read a = Memory.unlisted := by
  induction m with
  | nil => intros; rfl
  | cons c m ih =>
    intro lo hm
    obtain ⟨a', b'⟩ := c
    obtain ⟨h1, h2, h3⟩ := Memory.wfFrom_cons.1 hm
    simp only [Memory.erase]
    split
    · rename_i e; subst e; exact Memory.read_below h3 (by omega)
    · rename_i e; simp only [Memory.read]; rw [if_neg e]; exact ih h3

/-- A byte written reads as written. -/
theorem Memory.read_write_same {m : Memory} (a : Nat) (b : Byte) (h : m.wf = true) : (m.write a b).read a = b := by
  unfold Memory.write; split
  · rename_i e; rw [e]; exact Memory.read_erase_same h
  · simp [Memory.read_insert]

theorem Memory.ext_wfFrom {m m' : Memory} : ∀ {lo : Nat}, Memory.wfFrom lo m = true → Memory.wfFrom lo m' = true →
    (∀ a, m.read a = m'.read a) → m = m' := by
  induction m generalizing m' with
  | nil =>
    intro lo _ hm' h
    cases m' with
    | nil => rfl
    | cons c m' =>
      obtain ⟨a, b⟩ := c
      obtain ⟨-, h2, -⟩ := Memory.wfFrom_cons.1 hm'
      have := h a; simp [Memory.read] at this; exact absurd this.symm h2
  | cons c m ih =>
    intro lo hm hm' h
    obtain ⟨a, b⟩ := c
    obtain ⟨h1, h2, h3⟩ := Memory.wfFrom_cons.1 hm
    cases m' with
    | nil => have := h a; simp [Memory.read] at this; exact absurd this h2
    | cons c' m' =>
      obtain ⟨a', b'⟩ := c'
      obtain ⟨h1', h2', h3'⟩ := Memory.wfFrom_cons.1 hm'
      have ha : a = a' := by
        rcases Nat.lt_trichotomy a a' with hl | he | hl
        · have := h a
          simp only [Memory.read, if_pos] at this
          rw [if_neg (by omega), Memory.read_below h3' (by omega)] at this
          exact absurd this h2
        · exact he
        · have := h a'
          simp only [Memory.read, if_pos] at this
          rw [if_neg (by omega), Memory.read_below h3 (by omega)] at this
          exact absurd this.symm h2'
      subst ha
      have hb : b = b' := by have := h a; simpa [Memory.read] using this
      subst hb
      congr 1
      refine ih h3 h3' fun x => ?_
      by_cases hx : x < a + 1
      · rw [Memory.read_below h3 hx, Memory.read_below h3' hx]
      · have := h x; simp only [Memory.read] at this
        rw [if_neg (by omega), if_neg (by omega)] at this; exact this

/-- Memories in their form that read alike are the same data. -/
theorem Memory.ext_wf {m m' : Memory} (h : m.wf = true) (h' : m'.wf = true) (hr : ∀ a, m.read a = m'.read a) : m = m' :=
  Memory.ext_wfFrom h h' hr

/-! ### The operations of a state that write memory -/

/-- A fold of changes that leave memory alone leaves it alone. -/
theorem foldl_mem {α : Type} (f : State → α → State) (h : ∀ s x, (f s x).mem = s.mem) (l : List α) (s : State) :
    (l.foldl f s).mem = s.mem := by
  induction l generalizing s with
  | nil => rfl
  | cons x l ih => rw [List.foldl_cons, ih, h]
@[simp] theorem State.rouse_mem (s : State) (c : Nat) : (s.rouse c).mem = s.mem := by unfold State.rouse; split <;> rfl
@[simp] theorem State.markResv_mem (s : State) (line : Nat) : (s.markResv line).mem = s.mem :=
  foldl_mem _ (fun s e => by split <;> simp) s.slots s
@[simp] theorem State.narrowTo_mem (s : State) (rid lo hi causer : Nat) : (s.narrowTo rid lo hi causer).mem = s.mem := by
  unfold State.narrowTo; split <;> rfl
@[simp] theorem State.hitReaders_mem (s : State) (line : Nat) : (s.hitReaders line).mem = s.mem := by
  unfold State.hitReaders; split
  · rfl
  · exact foldl_mem _ (fun s x => State.narrowTo_mem s x 1 0 x) _ s
@[simp] theorem State.notify_mem (s : State) (die line writer : Nat) : (s.notify die line writer).mem = s.mem := rfl
@[simp] theorem State.lineWritten_mem (s : State) (cells : List Host.Cell) (writer : Nat) (tag : Option RelTag) (line : Nat) :
    (s.lineWritten cells writer tag line).mem = s.mem := by
  unfold State.lineWritten; dsimp only
  generalize isLocalWin (localOfAddr (line * 64)) = x
  cases x <;> simp

@[simp] theorem State.verify_mem (s : State) (key line : Nat) : (s.verify key line).mem = s.mem := by
  unfold State.verify; split <;> rfl
@[simp] theorem State.merge_mem (s : State) (key : Nat) (cells : List Host.Cell) (line : Nat) : (s.merge key cells line).mem = s.mem := by
  unfold State.merge; split <;> simp
@[simp] theorem State.setWord_mem (s : State) (a : Nat) (full : Bool) : (s.setWord a full).mem = s.mem := by
  unfold State.setWord; split
  · rfl
  · split <;> rfl
@[simp] theorem State.setFull_mem (cs : List Host.Cell) : ∀ s : State, (s.setFull cs).mem = s.mem := by
  induction cs with
  | nil => exact fun _ => rfl
  | cons c cs ih => intro s; exact (ih _).trans (State.setWord_mem s c.1 true)

/-- A write of the cells of one line keeps the form of memory. -/
theorem State.writeLine_memWf (key : Nat) (cells : List Host.Cell) (line : Nat) {s : State} (h : s.MemWf) :
    (s.writeLine key cells line).MemWf := by
  unfold State.writeLine
  dsimp only
  split
  · exact Memory.writeCells_wf _ h
  · split
    · exact h
    · exact Memory.writeCells_wf _ h
/-- A write of cells under a key keeps the form of memory. -/
theorem State.writeUnder_memWf (key : Nat) (cells : List Host.Cell) {s : State} (h : s.MemWf) :
    (s.writeUnder key cells).MemWf := by
  unfold State.writeUnder
  generalize linesOf cells = l
  induction l generalizing s with
  | nil => exact h
  | cons y l ih => exact ih (State.writeLine_memWf key cells y h)
/-- A write at a home keeps the form of memory. -/
theorem State.homeWrite_memWf (key : Nat) (cells : List Host.Cell) (writer : Nat) (tag : Option RelTag) (full : Bool) {s : State}
    (h : s.MemWf) : (s.homeWrite key cells writer tag full).MemWf := by
  unfold State.homeWrite
  dsimp only
  unfold State.MemWf
  rw [foldl_mem _ fun s l => State.lineWritten_mem s cells writer tag l]
  have hm : (((linesOf cells).foldl (fun s l => s.merge key cells l) s).writeUnder key cells).MemWf :=
    State.writeUnder_memWf key cells (by
      unfold State.MemWf
      rw [foldl_mem _ fun s l => State.merge_mem s key cells l]
      exact h)
  split
  · rw [State.setFull_mem]; exact hm
  · exact hm

/-- Memory at reset is in its form. -/
theorem reset_memWf : State.reset.MemWf := rfl

end Sys2Proof.Machine
end

