-- ==== Sys2Proof/Laws/PerInstr.lean ====
section
/-! SUPPORT. What holds of every instruction as syntax, one lemma for each constructor: the fields it is encoded from fit their
places in the words (R11, R112, R118). -/


namespace Sys2Proof

/-! ### The codes of operand values are below the widths of their fields -/

theorem VTy.code_lt (t : VTy) : t.code < 8 := by cases t <;> decide
theorem Rnd.code_lt (r : Rnd) : r.code < 4 := by cases r <;> decide
theorem VOpd.code_lt (v : VOpd) : v.code < 24 := by cases v <;> simp only [VOpd.code] <;> omega
theorem LMode.code_lt (m : LMode) : m.code < 3 := by cases m <;> decide
theorem Space.code_lt (m : Space) : m.code < 4 := by
  rcases m with _ | m
  · decide
  · cases m <;> decide
theorem Sz.code_lt (z : Sz) : z.code < 4 := by cases z <;> decide
theorem Scope.code_lt (c : Scope) : c.code < 16 := by cases c <;> simp only [Scope.code] <;> omega
theorem TSrc.code_lt (c : TSrc) : c.code < 32 := by cases c <;> simp only [TSrc.code] <;> omega
theorem TSrc.sel_lt (c : TSrc) : c.sel < 2 := by cases c <;> simp [TSrc.sel]
theorem ldszCode_lt (sg : Bool) (z : Sz) : ldszCode sg z < 7 := by cases sg <;> cases z <;> decide

end Sys2Proof

namespace Sys2Proof.Laws.Fields

/-- The fields fit their places. -/
def Fit (f : Fld) : Prop :=
  f.page < 8 ∧ f.page ≠ 6 ∧ f.fn < 128 ∧ f.maj < 28 ∧ f.d < 32 ∧ f.a < 32 ∧ f.b < 32 ∧ f.f2 < 4

/-- An encoded instruction has fields that fit. -/
def Statement (i : Instr) : Prop := ∀ f, i.fields = some f → Fit f

theorem add (p : Pfx) (d a b : Fin 32) :
    Statement (.add p d a b) := by
  intro f h; cases h; simp only [Fit, fld]
  omega
theorem sub (p : Pfx) (d a b : Fin 32) :
    Statement (.sub p d a b) := by
  intro f h; cases h; simp only [Fit, fld]
  omega
theorem and (p : Pfx) (d a b : Fin 32) :
    Statement (.and p d a b) := by
  intro f h; cases h; simp only [Fit, fld]
  omega
theorem or (p : Pfx) (d a b : Fin 32) :
    Statement (.or p d a b) := by
  intro f h; cases h; simp only [Fit, fld]
  omega
theorem xor (p : Pfx) (d a b : Fin 32) :
    Statement (.xor p d a b) := by
  intro f h; cases h; simp only [Fit, fld]
  omega
theorem mul (p : Pfx) (d a b : Fin 32) :
    Statement (.mul p d a b) := by
  intro f h; cases h; simp only [Fit, fld]
  omega
theorem shl (p : Pfx) (d a b : Fin 32) :
    Statement (.shl p d a b) := by
  intro f h; cases h; simp only [Fit, fld]
  omega
theorem shr (p : Pfx) (d a b : Fin 32) :
    Statement (.shr p d a b) := by
  intro f h; cases h; simp only [Fit, fld]
  omega
theorem shra (p : Pfx) (d a b : Fin 32) :
    Statement (.shra p d a b) := by
  intro f h; cases h; simp only [Fit, fld]
  omega
theorem andn (p : Pfx) (d a b : Fin 32) :
    Statement (.andn p d a b) := by
  intro f h; cases h; simp only [Fit, fld]
  omega
theorem gate (p : Pfx) :
    Statement (.gate p) := by
  intro f h; cases h; simp only [Fit, fld]
  omega
theorem retx (p : Pfx) :
    Statement (.retx p) := by
  intro f h; cases h; simp only [Fit, fld]
  omega
theorem exit (p : Pfx) :
    Statement (.exit p) := by
  intro f h; cases h; simp only [Fit, fld]
  omega
theorem brk (p : Pfx) :
    Statement (.brk p) := by
  intro f h; cases h; simp only [Fit, fld]
  omega
theorem trap (p : Pfx) (code : Fin 64) :
    Statement (.trap p code) := by
  intro f h; cases h; simp only [Fit, fld]
  omega
theorem addi (p : Pfx) (d a : Fin 32) (imm : Int) :
    Statement (.addi p d a imm) := by
  intro f h; cases h; simp only [Fit, fld]
  omega
theorem shli (p : Pfx) (d a : Fin 32) (imm : Int) :
    Statement (.shli p d a imm) := by
  intro f h; cases h; simp only [Fit, fld]
  omega
theorem shri (p : Pfx) (d a : Fin 32) (imm : Int) :
    Statement (.shri p d a imm) := by
  intro f h; cases h; simp only [Fit, fld]
  omega
theorem shrai (p : Pfx) (d a : Fin 32) (imm : Int) :
    Statement (.shrai p d a imm) := by
  intro f h; cases h; simp only [Fit, fld]
  omega
theorem ldS8 (p : Pfx) (d a : Fin 32) (off : Int) :
    Statement (.ldS8 p d a off) := by
  intro f h; cases h; simp only [Fit, fld]
  omega
theorem ldS16 (p : Pfx) (d a : Fin 32) (off : Int) :
    Statement (.ldS16 p d a off) := by
  intro f h; cases h; simp only [Fit, fld]
  omega
theorem ldS32 (p : Pfx) (d a : Fin 32) (off : Int) :
    Statement (.ldS32 p d a off) := by
  intro f h; cases h; simp only [Fit, fld]
  omega
theorem ld64 (p : Pfx) (d a : Fin 32) (off : Int) :
    Statement (.ld64 p d a off) := by
  intro f h; cases h; simp only [Fit, fld]
  omega
theorem ldZ8 (p : Pfx) (d a : Fin 32) (off : Int) :
    Statement (.ldZ8 p d a off) := by
  intro f h; cases h; simp only [Fit, fld]
  omega
theorem ldZ16 (p : Pfx) (d a : Fin 32) (off : Int) :
    Statement (.ldZ16 p d a off) := by
  intro f h; cases h; simp only [Fit, fld]
  omega
theorem ldZ32 (p : Pfx) (d a : Fin 32) (off : Int) :
    Statement (.ldZ32 p d a off) := by
  intro f h; cases h; simp only [Fit, fld]
  omega
theorem st8 (p : Pfx) (d a : Fin 32) (off : Int) :
    Statement (.st8 p d a off) := by
  intro f h; cases h; simp only [Fit, fld]
  omega
theorem st16 (p : Pfx) (d a : Fin 32) (off : Int) :
    Statement (.st16 p d a off) := by
  intro f h; cases h; simp only [Fit, fld]
  omega
theorem st32 (p : Pfx) (d a : Fin 32) (off : Int) :
    Statement (.st32 p d a off) := by
  intro f h; cases h; simp only [Fit, fld]
  omega
theorem st64 (p : Pfx) (d a : Fin 32) (off : Int) :
    Statement (.st64 p d a off) := by
  intro f h; cases h; simp only [Fit, fld]
  omega
theorem ldl (p : Pfx) (mode : LMode) (d a : Fin 32) (off : Fin 8) :
    Statement (.ldl p mode d a off) := by
  intro f h; cases h; simp only [Fit, fld]
  have h0 := mode.code_lt
  omega
theorem stl (p : Pfx) (mode : LMode) (d a : Fin 32) (off : Fin 8) :
    Statement (.stl p mode d a off) := by
  intro f h; cases h; simp only [Fit, fld]
  have h0 := mode.code_lt
  omega
theorem ldc (p : Pfx) (d a : Fin 32) (off : Int) :
    Statement (.ldc p d a off) := by
  intro f h; cases h; simp only [Fit, fld]
  omega
theorem cmpEq (p : Pfx) (d : Fin 8) (a b : Fin 32) :
    Statement (.cmpEq p d a b) := by
  intro f h; cases h; simp only [Fit, fld]
  omega
theorem cmpNe (p : Pfx) (d : Fin 8) (a b : Fin 32) :
    Statement (.cmpNe p d a b) := by
  intro f h; cases h; simp only [Fit, fld]
  omega
theorem cmpLt (p : Pfx) (d : Fin 8) (a b : Fin 32) :
    Statement (.cmpLt p d a b) := by
  intro f h; cases h; simp only [Fit, fld]
  omega
theorem cmpGe (p : Pfx) (d : Fin 8) (a b : Fin 32) :
    Statement (.cmpGe p d a b) := by
  intro f h; cases h; simp only [Fit, fld]
  omega
theorem cmpuLtu (p : Pfx) (d : Fin 8) (a b : Fin 32) :
    Statement (.cmpuLtu p d a b) := by
  intro f h; cases h; simp only [Fit, fld]
  omega
theorem cmpuGeu (p : Pfx) (d : Fin 8) (a b : Fin 32) :
    Statement (.cmpuGeu p d a b) := by
  intro f h; cases h; simp only [Fit, fld]
  omega
theorem cmpuTst (p : Pfx) (d : Fin 8) (a b : Fin 32) :
    Statement (.cmpuTst p d a b) := by
  intro f h; cases h; simp only [Fit, fld]
  omega
theorem cmpuNtst (p : Pfx) (d : Fin 8) (a b : Fin 32) :
    Statement (.cmpuNtst p d a b) := by
  intro f h; cases h; simp only [Fit, fld]
  omega
theorem pand (p : Pfx) (d a b : Fin 8) :
    Statement (.pand p d a b) := by
  intro f h; cases h; simp only [Fit, fld]
  omega
theorem por (p : Pfx) (d a b : Fin 8) :
    Statement (.por p d a b) := by
  intro f h; cases h; simp only [Fit, fld]
  omega
theorem pxor (p : Pfx) (d a b : Fin 8) :
    Statement (.pxor p d a b) := by
  intro f h; cases h; simp only [Fit, fld]
  omega
theorem pandn (p : Pfx) (d a b : Fin 8) :
    Statement (.pandn p d a b) := by
  intro f h; cases h; simp only [Fit, fld]
  omega
theorem br (p : Pfx) (imm : Int) :
    Statement (.br p imm) := by
  intro f h; cases h; simp only [Fit, fld]
  omega
theorem call (p : Pfx) (imm : Int) :
    Statement (.call p imm) := by
  intro f h; cases h; simp only [Fit, fld]
  omega
theorem callx (p : Pfx) (imm : Int) :
    Statement (.callx p imm) := by
  intro f h; cases h; simp only [Fit, fld]
  omega
theorem jmp (p : Pfx) (a : Fin 32) :
    Statement (.jmp p a) := by
  intro f h; cases h; simp only [Fit, fld]
  omega
theorem callReg (p : Pfx) (a : Fin 32) :
    Statement (.callReg p a) := by
  intro f h; cases h; simp only [Fit, fld]
  omega
theorem ret (p : Pfx) :
    Statement (.ret p) := by
  intro f h; cases h; simp only [Fit, fld]
  omega
theorem callxReg (p : Pfx) (a : Fin 32) :
    Statement (.callxReg p a) := by
  intro f h; cases h; simp only [Fit, fld]
  omega
theorem vadd (p : Pfx) (t : VTy) (r : Rnd) (d a b : VOpd) (m : Fin 4) :
    Statement (.vadd p t r d a b m) := by
  intro f h; cases h; simp only [Fit, fld]
  have h0 := t.code_lt
  have h1 := r.code_lt
  have h2 := d.code_lt
  have h3 := a.code_lt
  have h4 := b.code_lt
  omega
theorem vsub (p : Pfx) (t : VTy) (r : Rnd) (d a b : VOpd) (m : Fin 4) :
    Statement (.vsub p t r d a b m) := by
  intro f h; cases h; simp only [Fit, fld]
  have h0 := t.code_lt
  have h1 := r.code_lt
  have h2 := d.code_lt
  have h3 := a.code_lt
  have h4 := b.code_lt
  omega
theorem vmul (p : Pfx) (t : VTy) (r : Rnd) (d a b : VOpd) (m : Fin 4) :
    Statement (.vmul p t r d a b m) := by
  intro f h; cases h; simp only [Fit, fld]
  have h0 := t.code_lt
  have h1 := r.code_lt
  have h2 := d.code_lt
  have h3 := a.code_lt
  have h4 := b.code_lt
  omega
theorem vfma (p : Pfx) (t : VTy) (r : Rnd) (d : Fin 16) (a b : VOpd) (m : Fin 4) :
    Statement (.vfma p t r d a b m) := by
  intro f h; cases h; simp only [Fit, fld]
  have h0 := t.code_lt
  have h1 := r.code_lt
  have h2 := a.code_lt
  have h3 := b.code_lt
  omega
theorem vfms (p : Pfx) (t : VTy) (r : Rnd) (d : Fin 16) (a b : VOpd) (m : Fin 4) :
    Statement (.vfms p t r d a b m) := by
  intro f h; cases h; simp only [Fit, fld]
  have h0 := t.code_lt
  have h1 := r.code_lt
  have h2 := a.code_lt
  have h3 := b.code_lt
  omega
theorem vfnma (p : Pfx) (t : VTy) (r : Rnd) (d : Fin 16) (a b : VOpd) (m : Fin 4) :
    Statement (.vfnma p t r d a b m) := by
  intro f h; cases h; simp only [Fit, fld]
  have h0 := t.code_lt
  have h1 := r.code_lt
  have h2 := a.code_lt
  have h3 := b.code_lt
  omega
theorem vfnms (p : Pfx) (t : VTy) (r : Rnd) (d : Fin 16) (a b : VOpd) (m : Fin 4) :
    Statement (.vfnms p t r d a b m) := by
  intro f h; cases h; simp only [Fit, fld]
  have h0 := t.code_lt
  have h1 := r.code_lt
  have h2 := a.code_lt
  have h3 := b.code_lt
  omega
theorem vmax (p : Pfx) (t : VTy) (d a b : VOpd) (m : Fin 4) :
    Statement (.vmax p t d a b m) := by
  intro f h; cases h; simp only [Fit, fld]
  have h0 := t.code_lt
  have h1 := d.code_lt
  have h2 := a.code_lt
  have h3 := b.code_lt
  omega
theorem vmin (p : Pfx) (t : VTy) (d a b : VOpd) (m : Fin 4) :
    Statement (.vmin p t d a b m) := by
  intro f h; cases h; simp only [Fit, fld]
  have h0 := t.code_lt
  have h1 := d.code_lt
  have h2 := a.code_lt
  have h3 := b.code_lt
  omega
theorem vmaxa (p : Pfx) (t : VTy) (d a b : VOpd) (m : Fin 4) :
    Statement (.vmaxa p t d a b m) := by
  intro f h; cases h; simp only [Fit, fld]
  have h0 := t.code_lt
  have h1 := d.code_lt
  have h2 := a.code_lt
  have h3 := b.code_lt
  omega
theorem vmina (p : Pfx) (t : VTy) (d a b : VOpd) (m : Fin 4) :
    Statement (.vmina p t d a b m) := by
  intro f h; cases h; simp only [Fit, fld]
  have h0 := t.code_lt
  have h1 := d.code_lt
  have h2 := a.code_lt
  have h3 := b.code_lt
  omega
theorem vcmpEq (p : Pfx) (neg : Bool) (t : VTy) (d : Fin 8) (a b : VOpd) (m : Fin 4) :
    Statement (.vcmpEq p neg t d a b m) := by
  intro f h; cases h; simp only [Fit, fld]
  have h0 := neg.toNat_lt
  have h1 := t.code_lt
  have h2 := a.code_lt
  have h3 := b.code_lt
  omega
theorem vcmpLt (p : Pfx) (neg : Bool) (t : VTy) (d : Fin 8) (a b : VOpd) (m : Fin 4) :
    Statement (.vcmpLt p neg t d a b m) := by
  intro f h; cases h; simp only [Fit, fld]
  have h0 := neg.toNat_lt
  have h1 := t.code_lt
  have h2 := a.code_lt
  have h3 := b.code_lt
  omega
theorem vcmpLe (p : Pfx) (neg : Bool) (t : VTy) (d : Fin 8) (a b : VOpd) (m : Fin 4) :
    Statement (.vcmpLe p neg t d a b m) := by
  intro f h; cases h; simp only [Fit, fld]
  have h0 := neg.toNat_lt
  have h1 := t.code_lt
  have h2 := a.code_lt
  have h3 := b.code_lt
  omega
theorem vcmpUn (p : Pfx) (neg : Bool) (t : VTy) (d : Fin 8) (a b : VOpd) (m : Fin 4) :
    Statement (.vcmpUn p neg t d a b m) := by
  intro f h; cases h; simp only [Fit, fld]
  have h0 := neg.toNat_lt
  have h1 := t.code_lt
  have h2 := a.code_lt
  have h3 := b.code_lt
  omega
theorem vsel (p : Pfx) (t : VTy) (d : Fin 16) (a b : VOpd) (m : Fin 4) :
    Statement (.vsel p t d a b m) := by
  intro f h; cases h; simp only [Fit, fld]
  have h0 := t.code_lt
  have h1 := a.code_lt
  have h2 := b.code_lt
  omega
theorem vand (p : Pfx) (d a b : VOpd) (m : Fin 4) :
    Statement (.vand p d a b m) := by
  intro f h; cases h; simp only [Fit, fld]
  have h0 := d.code_lt
  have h1 := a.code_lt
  have h2 := b.code_lt
  omega
theorem vor (p : Pfx) (d a b : VOpd) (m : Fin 4) :
    Statement (.vor p d a b m) := by
  intro f h; cases h; simp only [Fit, fld]
  have h0 := d.code_lt
  have h1 := a.code_lt
  have h2 := b.code_lt
  omega
theorem vxor (p : Pfx) (d a b : VOpd) (m : Fin 4) :
    Statement (.vxor p d a b m) := by
  intro f h; cases h; simp only [Fit, fld]
  have h0 := d.code_lt
  have h1 := a.code_lt
  have h2 := b.code_lt
  omega
theorem vandn (p : Pfx) (d a b : VOpd) (m : Fin 4) :
    Statement (.vandn p d a b m) := by
  intro f h; cases h; simp only [Fit, fld]
  have h0 := d.code_lt
  have h1 := a.code_lt
  have h2 := b.code_lt
  omega
theorem vshl (p : Pfx) (t : VTy) (d : Fin 16) (a : VOpd) (imm : Int) (m : Fin 4) :
    Statement (.vshl p t d a imm m) := by
  intro f h; cases h; simp only [Fit, fld]
  have h0 := t.code_lt
  have h1 := a.code_lt
  omega
theorem vshr (p : Pfx) (t : VTy) (d : Fin 16) (a : VOpd) (imm : Int) (m : Fin 4) :
    Statement (.vshr p t d a imm m) := by
  intro f h; cases h; simp only [Fit, fld]
  have h0 := t.code_lt
  have h1 := a.code_lt
  omega
theorem vshra (p : Pfx) (t : VTy) (d : Fin 16) (a : VOpd) (imm : Int) (m : Fin 4) :
    Statement (.vshra p t d a imm m) := by
  intro f h; cases h; simp only [Fit, fld]
  have h0 := t.code_lt
  have h1 := a.code_lt
  omega
theorem vredSum (p : Pfx) (t : VTy) (r : Rnd) (d : Fin 32) (a : VOpd) (m : Fin 4) :
    Statement (.vredSum p t r d a m) := by
  intro f h; cases h; simp only [Fit, fld]
  have h0 := t.code_lt
  have h1 := r.code_lt
  have h2 := a.code_lt
  omega
theorem vredMax (p : Pfx) (t : VTy) (r : Rnd) (d : Fin 32) (a : VOpd) (m : Fin 4) :
    Statement (.vredMax p t r d a m) := by
  intro f h; cases h; simp only [Fit, fld]
  have h0 := t.code_lt
  have h1 := r.code_lt
  have h2 := a.code_lt
  omega
theorem vredMin (p : Pfx) (t : VTy) (r : Rnd) (d : Fin 32) (a : VOpd) (m : Fin 4) :
    Statement (.vredMin p t r d a m) := by
  intro f h; cases h; simp only [Fit, fld]
  have h0 := t.code_lt
  have h1 := r.code_lt
  have h2 := a.code_lt
  omega
theorem vcvt (p : Pfx) (tt st : VTy) (r : Rnd) (ns part : Bool) (d a : Fin 16) (m : Fin 4) :
    Statement (.vcvt p tt st r ns part d a m) := by
  intro f h; cases h; simp only [Fit, fld]
  have h0 := tt.code_lt
  have h1 := st.code_lt
  have h2 := r.code_lt
  have h3 := ns.toNat_lt
  have h4 := part.toNat_lt
  omega
theorem vexp2 (p : Pfx) (d a : VOpd) (m : Fin 4) :
    Statement (.vexp2 p d a m) := by
  intro f h; cases h; simp only [Fit, fld]
  have h0 := d.code_lt
  have h1 := a.code_lt
  omega
theorem vrcp (p : Pfx) (d a : VOpd) (m : Fin 4) :
    Statement (.vrcp p d a m) := by
  intro f h; cases h; simp only [Fit, fld]
  have h0 := d.code_lt
  have h1 := a.code_lt
  omega
theorem vrsq (p : Pfx) (d a : VOpd) (m : Fin 4) :
    Statement (.vrsq p d a m) := by
  intro f h; cases h; simp only [Fit, fld]
  have h0 := d.code_lt
  have h1 := a.code_lt
  omega
theorem vquant (p : Pfx) (d a : VOpd) (b : Fin 32) (m : Fin 4) :
    Statement (.vquant p d a b m) := by
  intro f h; cases h; simp only [Fit, fld]
  have h0 := d.code_lt
  have h1 := a.code_lt
  omega
theorem vdeq (p : Pfx) (d a : VOpd) (b : Fin 32) (m : Fin 4) :
    Statement (.vdeq p d a b m) := by
  intro f h; cases h; simp only [Fit, fld]
  have h0 := d.code_lt
  have h1 := a.code_lt
  omega
theorem vmov (p : Pfx) (d a : VOpd) (m : Fin 4) :
    Statement (.vmov p d a m) := by
  intro f h; cases h; simp only [Fit, fld]
  have h0 := d.code_lt
  have h1 := a.code_lt
  omega
theorem vbcast (p : Pfx) (d : Fin 16) (a : Fin 32) (m : Fin 4) :
    Statement (.vbcast p d a m) := by
  intro f h; cases h; simp only [Fit, fld]
  omega
theorem vgetl (p : Pfx) (d : Fin 32) (a : Fin 16) (b : Fin 32) :
    Statement (.vgetl p d a b) := by
  intro f h; cases h; simp only [Fit, fld]
  omega
theorem vsetl (p : Pfx) (d : Fin 16) (a b : Fin 32) :
    Statement (.vsetl p d a b) := by
  intro f h; cases h; simp only [Fit, fld]
  omega
theorem vld (p : Pfx) (sp : Space) (m : Fin 4) (d : Fin 16) (a : Fin 32) (off : Int) :
    Statement (.vld p sp m d a off) := by
  intro f h; cases h; simp only [Fit, fld]
  have h0 := sp.code_lt
  omega
theorem vst (p : Pfx) (sp : Space) (m : Fin 4) (d : Fin 16) (a : Fin 32) (off : Int) :
    Statement (.vst p sp m d a off) := by
  intro f h; cases h; simp only [Fit, fld]
  have h0 := sp.code_lt
  omega
theorem vgather (p : Pfx) (t : VTy) (d : Fin 16) (a : Fin 32) (b : Fin 16) (m : Fin 4) :
    Statement (.vgather p t d a b m) := by
  intro f h; cases h; simp only [Fit, fld]
  have h0 := t.code_lt
  omega
theorem mand (p : Pfx) (d a b : Fin 8) :
    Statement (.mand p d a b) := by
  intro f h; cases h; simp only [Fit, fld]
  omega
theorem mor (p : Pfx) (d a b : Fin 8) :
    Statement (.mor p d a b) := by
  intro f h; cases h; simp only [Fit, fld]
  omega
theorem mxor (p : Pfx) (d a b : Fin 8) :
    Statement (.mxor p d a b) := by
  intro f h; cases h; simp only [Fit, fld]
  omega
theorem mandn (p : Pfx) (d a b : Fin 8) :
    Statement (.mandn p d a b) := by
  intro f h; cases h; simp only [Fit, fld]
  omega
theorem mpop (p : Pfx) (d : Fin 32) (a : Fin 8) :
    Statement (.mpop p d a) := by
  intro f h; cases h; simp only [Fit, fld]
  omega
theorem mset (p : Pfx) (d : Fin 8) (a : Fin 32) :
    Statement (.mset p d a) := by
  intro f h; cases h; simp only [Fit, fld]
  omega
theorem mget (p : Pfx) (d : Fin 32) (a : Fin 8) :
    Statement (.mget p d a) := by
  intro f h; cases h; simp only [Fit, fld]
  omega
theorem mgetVs (p : Pfx) (d : Fin 32) :
    Statement (.mgetVs p d) := by
  intro f h; cases h; simp only [Fit, fld]
  omega
theorem mgetVsClr (p : Pfx) (d : Fin 32) :
    Statement (.mgetVsClr p d) := by
  intro f h; cases h; simp only [Fit, fld]
  omega
theorem vabs (p : Pfx) (t : VTy) (d a : VOpd) (m : Fin 4) :
    Statement (.vabs p t d a m) := by
  intro f h; cases h; simp only [Fit, fld]
  have h0 := t.code_lt
  have h1 := d.code_lt
  have h2 := a.code_lt
  omega
theorem vneg (p : Pfx) (t : VTy) (d a : VOpd) (m : Fin 4) :
    Statement (.vneg p t d a m) := by
  intro f h; cases h; simp only [Fit, fld]
  have h0 := t.code_lt
  have h1 := d.code_lt
  have h2 := a.code_lt
  omega
theorem gangStatic (p : Pfx) :
    Statement (.gangStatic p) := by
  intro f h; cases h; simp only [Fit, fld]
  omega
theorem gangElastic (p : Pfx) (a : Fin 32) :
    Statement (.gangElastic p a) := by
  intro f h; cases h; simp only [Fit, fld]
  omega
theorem gangEnd (p : Pfx) :
    Statement (.gangEnd p) := by
  intro f h; cases h; simp only [Fit, fld]
  omega
theorem twld (p : Pfx) (buf : Bool) (a b : Fin 32) :
    Statement (.twld p buf a b) := by
  intro f h; cases h; simp only [Fit, fld]
  have h0 := buf.toNat_lt
  omega
theorem tmm (p : Pfx) (acc : Fin 4) (buf : Bool) (src : TSrc) (b : Fin 32) :
    Statement (.tmm p acc buf src b) := by
  intro f h; cases h; simp only [Fit, fld]
  have h0 := buf.toNat_lt
  have h1 := src.code_lt
  have h2 := src.sel_lt
  omega
theorem tdrain (p : Pfx) (acc : Fin 4) (d a b : Fin 32) :
    Statement (.tdrain p acc d a b) := by
  intro f h; cases h; simp only [Fit, fld]
  omega
theorem tdrainAdd (p : Pfx) (acc : Fin 4) (d a b : Fin 32) :
    Statement (.tdrainAdd p acc d a b) := by
  intro f h; cases h; simp only [Fit, fld]
  omega
theorem tzero (p : Pfx) (acc : Fin 4) :
    Statement (.tzero p acc) := by
  intro f h; cases h; simp only [Fit, fld]
  omega
theorem trda (p : Pfx) (acc : Fin 4) (a : Fin 32) :
    Statement (.trda p acc a) := by
  intro f h; cases h; simp only [Fit, fld]
  omega
theorem twra (p : Pfx) (acc : Fin 4) (a b : Fin 32) :
    Statement (.twra p acc a b) := by
  intro f h; cases h; simp only [Fit, fld]
  omega
theorem tpack (p : Pfx) (d a : Fin 16) (b : Fin 32) :
    Statement (.tpack p d a b) := by
  intro f h; cases h; simp only [Fit, fld]
  omega
theorem tunpk (p : Pfx) (d a : Fin 16) (b : Fin 32) :
    Statement (.tunpk p d a b) := by
  intro f h; cases h; simp only [Fit, fld]
  omega
theorem tchk (p : Pfx) (d : Fin 32) (a : Fin 16) :
    Statement (.tchk p d a) := by
  intro f h; cases h; simp only [Fit, fld]
  omega
theorem tstxSet (p : Pfx) (bit : Fin 64) (a : Fin 32) (imm : Int) :
    Statement (.tstxSet p bit a imm) := by
  intro f h; cases h; simp only [Fit, fld]
  omega
theorem tstxClr (p : Pfx) (bit : Fin 64) (a : Fin 32) (imm : Int) :
    Statement (.tstxClr p bit a imm) := by
  intro f h; cases h; simp only [Fit, fld]
  omega
theorem accMax (p : Pfx) (d a b : Fin 32) :
    Statement (.accMax p d a b) := by
  intro f h; cases h; simp only [Fit, fld]
  omega
theorem accScale (p : Pfx) (d a b : Fin 32) :
    Statement (.accScale p d a b) := by
  intro f h; cases h; simp only [Fit, fld]
  omega
theorem difs (p : Pfx) (a b : Fin 32) :
    Statement (.difs p a b) := by
  intro f h; cases h; simp only [Fit, fld]
  omega
theorem difgo (p : Pfx) (a : Fin 32) (imm : Int) :
    Statement (.difgo p a imm) := by
  intro f h; cases h; simp only [Fit, fld]
  omega
theorem difwait (p : Pfx) :
    Statement (.difwait p) := by
  intro f h; cases h; simp only [Fit, fld]
  omega
theorem ldlLong (p : Pfx) (mode : LMode) (sg : Bool) (sz : Sz) (d a : Fin 32) (off : Int) :
    Statement (.ldlLong p mode sg sz d a off) := by
  intro f h; cases h; simp only [Fit, fld]
  have h0 := mode.code_lt
  have h1 := sg.toNat_lt
  have h2 := sz.code_lt
  have h3 := ldszCode_lt sg sz
  omega
theorem stlLong (p : Pfx) (mode : LMode) (sz : Sz) (d a : Fin 32) (off : Int) :
    Statement (.stlLong p mode sz d a off) := by
  intro f h; cases h; simp only [Fit, fld]
  have h0 := mode.code_lt
  have h1 := sz.code_lt
  omega
theorem ldfe (p : Pfx) (mode : LMode) (d a : Fin 32) (off : Int) :
    Statement (.ldfe p mode d a off) := by
  intro f h; cases h; simp only [Fit, fld]
  have h0 := mode.code_lt
  omega
theorem ldff (p : Pfx) (mode : LMode) (d a : Fin 32) (off : Int) :
    Statement (.ldff p mode d a off) := by
  intro f h; cases h; simp only [Fit, fld]
  have h0 := mode.code_lt
  omega
theorem stfe (p : Pfx) (mode : LMode) (d a : Fin 32) (off : Int) :
    Statement (.stfe p mode d a off) := by
  intro f h; cases h; simp only [Fit, fld]
  have h0 := mode.code_lt
  omega
theorem stff (p : Pfx) (mode : LMode) (d a : Fin 32) (off : Int) :
    Statement (.stff p mode d a off) := by
  intro f h; cases h; simp only [Fit, fld]
  have h0 := mode.code_lt
  omega
theorem seteE (p : Pfx) (mode : LMode) (a : Fin 32) (off : Int) :
    Statement (.seteE p mode a off) := by
  intro f h; cases h; simp only [Fit, fld]
  have h0 := mode.code_lt
  omega
theorem seteF (p : Pfx) (mode : LMode) (a : Fin 32) (off : Int) :
    Statement (.seteF p mode a off) := by
  intro f h; cases h; simp only [Fit, fld]
  have h0 := mode.code_lt
  omega
theorem rempty (p : Pfx) (d : Fin 32) :
    Statement (.rempty p d) := by
  intro f h; cases h; simp only [Fit, fld]
  omega
theorem fill (p : Pfx) (t d a b : Fin 32) :
    Statement (.fill p t d a b) := by
  intro f h; cases h; simp only [Fit, fld]
  omega
theorem amoAdd (p : Pfx) (w64 : Bool) (d a b : Fin 32) :
    Statement (.amoAdd p w64 d a b) := by
  intro f h; cases h; simp only [Fit, fld]
  have h0 := w64.toNat_lt
  omega
theorem amoAnd (p : Pfx) (w64 : Bool) (d a b : Fin 32) :
    Statement (.amoAnd p w64 d a b) := by
  intro f h; cases h; simp only [Fit, fld]
  have h0 := w64.toNat_lt
  omega
theorem amoOr (p : Pfx) (w64 : Bool) (d a b : Fin 32) :
    Statement (.amoOr p w64 d a b) := by
  intro f h; cases h; simp only [Fit, fld]
  have h0 := w64.toNat_lt
  omega
theorem amoXor (p : Pfx) (w64 : Bool) (d a b : Fin 32) :
    Statement (.amoXor p w64 d a b) := by
  intro f h; cases h; simp only [Fit, fld]
  have h0 := w64.toNat_lt
  omega
theorem amoMin (p : Pfx) (w64 : Bool) (d a b : Fin 32) :
    Statement (.amoMin p w64 d a b) := by
  intro f h; cases h; simp only [Fit, fld]
  have h0 := w64.toNat_lt
  omega
theorem amoMax (p : Pfx) (w64 : Bool) (d a b : Fin 32) :
    Statement (.amoMax p w64 d a b) := by
  intro f h; cases h; simp only [Fit, fld]
  have h0 := w64.toNat_lt
  omega
theorem amoMinz (p : Pfx) (w64 : Bool) (d a b : Fin 32) :
    Statement (.amoMinz p w64 d a b) := by
  intro f h; cases h; simp only [Fit, fld]
  have h0 := w64.toNat_lt
  omega
theorem amoMaxz (p : Pfx) (w64 : Bool) (d a b : Fin 32) :
    Statement (.amoMaxz p w64 d a b) := by
  intro f h; cases h; simp only [Fit, fld]
  have h0 := w64.toNat_lt
  omega
theorem amoSwap (p : Pfx) (w64 : Bool) (d a b : Fin 32) :
    Statement (.amoSwap p w64 d a b) := by
  intro f h; cases h; simp only [Fit, fld]
  have h0 := w64.toNat_lt
  omega
theorem amoCas (p : Pfx) (w64 : Bool) (d a b : Fin 32) :
    Statement (.amoCas p w64 d a b) := by
  intro f h; cases h; simp only [Fit, fld]
  have h0 := w64.toNat_lt
  omega
theorem amopAdd (p : Pfx) (w64 : Bool) (a b : Fin 32) :
    Statement (.amopAdd p w64 a b) := by
  intro f h; cases h; simp only [Fit, fld]
  have h0 := w64.toNat_lt
  omega
theorem amopAnd (p : Pfx) (w64 : Bool) (a b : Fin 32) :
    Statement (.amopAnd p w64 a b) := by
  intro f h; cases h; simp only [Fit, fld]
  have h0 := w64.toNat_lt
  omega
theorem amopOr (p : Pfx) (w64 : Bool) (a b : Fin 32) :
    Statement (.amopOr p w64 a b) := by
  intro f h; cases h; simp only [Fit, fld]
  have h0 := w64.toNat_lt
  omega
theorem amopXor (p : Pfx) (w64 : Bool) (a b : Fin 32) :
    Statement (.amopXor p w64 a b) := by
  intro f h; cases h; simp only [Fit, fld]
  have h0 := w64.toNat_lt
  omega
theorem amopMin (p : Pfx) (w64 : Bool) (a b : Fin 32) :
    Statement (.amopMin p w64 a b) := by
  intro f h; cases h; simp only [Fit, fld]
  have h0 := w64.toNat_lt
  omega
theorem amopMax (p : Pfx) (w64 : Bool) (a b : Fin 32) :
    Statement (.amopMax p w64 a b) := by
  intro f h; cases h; simp only [Fit, fld]
  have h0 := w64.toNat_lt
  omega
theorem amopMinz (p : Pfx) (w64 : Bool) (a b : Fin 32) :
    Statement (.amopMinz p w64 a b) := by
  intro f h; cases h; simp only [Fit, fld]
  have h0 := w64.toNat_lt
  omega
theorem amopMaxz (p : Pfx) (w64 : Bool) (a b : Fin 32) :
    Statement (.amopMaxz p w64 a b) := by
  intro f h; cases h; simp only [Fit, fld]
  have h0 := w64.toNat_lt
  omega
theorem famoF32 (p : Pfx) (a b : Fin 32) :
    Statement (.famoF32 p a b) := by
  intro f h; cases h; simp only [Fit, fld]
  omega
theorem famoBf16 (p : Pfx) (a b : Fin 32) :
    Statement (.famoBf16 p a b) := by
  intro f h; cases h; simp only [Fit, fld]
  omega
theorem ldr (p : Pfx) (d a : Fin 32) (off : Int) :
    Statement (.ldr p d a off) := by
  intro f h; cases h; simp only [Fit, fld]
  omega
theorem stc (p : Pfx) (d a : Fin 32) (off : Int) :
    Statement (.stc p d a off) := by
  intro f h; cases h; simp only [Fit, fld]
  omega
theorem waitrs (p : Pfx) (d a : Fin 32) :
    Statement (.waitrs p d a) := by
  intro f h; cases h; simp only [Fit, fld]
  omega
theorem fenceAcq (p : Pfx) (sc : Scope) :
    Statement (.fenceAcq p sc) := by
  intro f h; cases h; simp only [Fit, fld]
  have h0 := sc.code_lt
  omega
theorem fenceRel (p : Pfx) (sc : Scope) :
    Statement (.fenceRel p sc) := by
  intro f h; cases h; simp only [Fit, fld]
  have h0 := sc.code_lt
  omega
theorem fenceAr (p : Pfx) (sc : Scope) :
    Statement (.fenceAr p sc) := by
  intro f h; cases h; simp only [Fit, fld]
  have h0 := sc.code_lt
  omega
theorem fenceSc (p : Pfx) (sc : Scope) :
    Statement (.fenceSc p sc) := by
  intro f h; cases h; simp only [Fit, fld]
  have h0 := sc.code_lt
  omega
theorem fencePost (p : Pfx) :
    Statement (.fencePost p) := by
  intro f h; cases h; simp only [Fit, fld]
  omega
theorem scopedef (p : Pfx) (d a : Fin 32) :
    Statement (.scopedef p d a) := by
  intro f h; cases h; simp only [Fit, fld]
  omega
theorem csync (p : Pfx) :
    Statement (.csync p) := by
  intro f h; cases h; simp only [Fit, fld]
  omega
theorem ebegin (p : Pfx) (d : Fin 32) (imm : Int) :
    Statement (.ebegin p d imm) := by
  intro f h; cases h; simp only [Fit, fld]
  omega
theorem ecommit (p : Pfx) :
    Statement (.ecommit p) := by
  intro f h; cases h; simp only [Fit, fld]
  omega
theorem eabort (p : Pfx) :
    Statement (.eabort p) := by
  intro f h; cases h; simp only [Fit, fld]
  omega
theorem ebnd (p : Pfx) (d a : Fin 32) :
    Statement (.ebnd p d a) := by
  intro f h; cases h; simp only [Fit, fld]
  omega
theorem epos (p : Pfx) (d : Fin 32) :
    Statement (.epos p d) := by
  intro f h; cases h; simp only [Fit, fld]
  omega
theorem barArrive (p : Pfx) (sc : Scope) (d a : Fin 32) :
    Statement (.barArrive p sc d a) := by
  intro f h; cases h; simp only [Fit, fld]
  have h0 := sc.code_lt
  omega
theorem barWait (p : Pfx) (sc : Scope) (a b : Fin 32) :
    Statement (.barWait p sc a b) := by
  intro f h; cases h; simp only [Fit, fld]
  have h0 := sc.code_lt
  omega
theorem barAw (p : Pfx) (sc : Scope) (d a : Fin 32) :
    Statement (.barAw p sc d a) := by
  intro f h; cases h; simp only [Fit, fld]
  have h0 := sc.code_lt
  omega
theorem barTest (p : Pfx) (sc : Scope) (d a b : Fin 32) :
    Statement (.barTest p sc d a b) := by
  intro f h; cases h; simp only [Fit, fld]
  have h0 := sc.code_lt
  omega
theorem barInit (p : Pfx) (a b : Fin 32) :
    Statement (.barInit p a b) := by
  intro f h; cases h; simp only [Fit, fld]
  omega
theorem ldAcq (p : Pfx) (sc : Scope) (sz : Sz) (d a : Fin 32) (off : Int) :
    Statement (.ldAcq p sc sz d a off) := by
  intro f h; cases h; simp only [Fit, fld]
  have h0 := sc.code_lt
  have h1 := sz.code_lt
  omega
theorem stRel (p : Pfx) (sc : Scope) (sz : Sz) (d a : Fin 32) (off : Int) :
    Statement (.stRel p sc sz d a off) := by
  intro f h; cases h; simp only [Fit, fld]
  have h0 := sc.code_lt
  have h1 := sz.code_lt
  omega
theorem copy (p : Pfx) (d a b : Fin 32) :
    Statement (.copy p d a b) := by
  intro f h; cases h; simp only [Fit, fld]
  omega
theorem copyq (p : Pfx) (d : Fin 32) (q : Fin 8) (b : Fin 32) :
    Statement (.copyq p d q b) := by
  intro f h; cases h; simp only [Fit, fld]
  omega
theorem cjwait (p : Pfx) (d a : Fin 32) :
    Statement (.cjwait p d a) := by
  intro f h; cases h; simp only [Fit, fld]
  omega
theorem cjtest (p : Pfx) (d a : Fin 32) :
    Statement (.cjtest p d a) := by
  intro f h; cases h; simp only [Fit, fld]
  omega
theorem mkgrant (p : Pfx) (rw : Bool) (d a b : Fin 32) :
    Statement (.mkgrant p rw d a b) := by
  intro f h; cases h; simp only [Fit, fld]
  have h0 := rw.toNat_lt
  omega
theorem addg (p : Pfx) (d a b : Fin 32) :
    Statement (.addg p d a b) := by
  intro f h; cases h; simp only [Fit, fld]
  omega
theorem grantq (p : Pfx) (d a : Fin 32) :
    Statement (.grantq p d a) := by
  intro f h; cases h; simp only [Fit, fld]
  omega
theorem revoke (p : Pfx) (d : Fin 32) :
    Statement (.revoke p d) := by
  intro f h; cases h; simp only [Fit, fld]
  omega
theorem wfw (p : Pfx) :
    Statement (.wfw p) := by
  intro f h; cases h; simp only [Fit, fld]
  omega
theorem spawn (p : Pfx) (d a : Fin 32) :
    Statement (.spawn p d a) := by
  intro f h; cases h; simp only [Fit, fld]
  omega
theorem launch (p : Pfx) (d a b : Fin 32) :
    Statement (.launch p d a b) := by
  intro f h; cases h; simp only [Fit, fld]
  omega
theorem inrd (p : Pfx) (d a : Fin 32) :
    Statement (.inrd p d a) := by
  intro f h; cases h; simp only [Fit, fld]
  omega
theorem krd (p : Pfx) (n : Fin 64) (d : Fin 32) :
    Statement (.krd p n d) := by
  intro f h; cases h; simp only [Fit, fld]
  omega
theorem kwr (p : Pfx) (n : Fin 64) (a : Fin 32) :
    Statement (.kwr p n a) := by
  intro f h; cases h; simp only [Fit, fld]
  omega
theorem mulh (p : Pfx) (d a b : Fin 32) :
    Statement (.mulh p d a b) := by
  intro f h; cases h; simp only [Fit, fld]
  omega
theorem mulhz (p : Pfx) (d a b : Fin 32) :
    Statement (.mulhz p d a b) := by
  intro f h; cases h; simp only [Fit, fld]
  omega
theorem div (p : Pfx) (d a b : Fin 32) :
    Statement (.div p d a b) := by
  intro f h; cases h; simp only [Fit, fld]
  omega
theorem divz (p : Pfx) (d a b : Fin 32) :
    Statement (.divz p d a b) := by
  intro f h; cases h; simp only [Fit, fld]
  omega
theorem rem (p : Pfx) (d a b : Fin 32) :
    Statement (.rem p d a b) := by
  intro f h; cases h; simp only [Fit, fld]
  omega
theorem remz (p : Pfx) (d a b : Fin 32) :
    Statement (.remz p d a b) := by
  intro f h; cases h; simp only [Fit, fld]
  omega
theorem bfxZ (p : Pfx) (w : Fin 64) (d a : Fin 32) (imm : Int) :
    Statement (.bfxZ p w d a imm) := by
  intro f h; cases h; simp only [Fit, fld]
  omega
theorem bfxS (p : Pfx) (w : Fin 64) (d a : Fin 32) (imm : Int) :
    Statement (.bfxS p w d a imm) := by
  intro f h; cases h; simp only [Fit, fld]
  omega
theorem bfi (p : Pfx) (w : Fin 64) (d a : Fin 32) (imm : Int) :
    Statement (.bfi p w d a imm) := by
  intro f h; cases h; simp only [Fit, fld]
  omega
theorem sel (p : Pfx) (pr : Fin 8) (d a b : Fin 32) :
    Statement (.sel p pr d a b) := by
  intro f h; cases h; simp only [Fit, fld]
  omega
theorem clz (p : Pfx) (d a : Fin 32) :
    Statement (.clz p d a) := by
  intro f h; cases h; simp only [Fit, fld]
  omega
theorem ctz (p : Pfx) (d a : Fin 32) :
    Statement (.ctz p d a) := by
  intro f h; cases h; simp only [Fit, fld]
  omega
theorem popc (p : Pfx) (d a : Fin 32) :
    Statement (.popc p d a) := by
  intro f h; cases h; simp only [Fit, fld]
  omega
theorem bswap (p : Pfx) (d a : Fin 32) :
    Statement (.bswap p d a) := by
  intro f h; cases h; simp only [Fit, fld]
  omega
theorem min (p : Pfx) (d a b : Fin 32) :
    Statement (.min p d a b) := by
  intro f h; cases h; simp only [Fit, fld]
  omega
theorem max (p : Pfx) (d a b : Fin 32) :
    Statement (.max p d a b) := by
  intro f h; cases h; simp only [Fit, fld]
  omega
theorem minz (p : Pfx) (d a b : Fin 32) :
    Statement (.minz p d a b) := by
  intro f h; cases h; simp only [Fit, fld]
  omega
theorem maxz (p : Pfx) (d a b : Fin 32) :
    Statement (.maxz p d a b) := by
  intro f h; cases h; simp only [Fit, fld]
  omega
theorem andi (p : Pfx) (d a : Fin 32) (imm : Int) :
    Statement (.andi p d a imm) := by
  intro f h; cases h; simp only [Fit, fld]
  omega
theorem ori (p : Pfx) (d a : Fin 32) (imm : Int) :
    Statement (.ori p d a imm) := by
  intro f h; cases h; simp only [Fit, fld]
  omega
theorem xori (p : Pfx) (d a : Fin 32) (imm : Int) :
    Statement (.xori p d a imm) := by
  intro f h; cases h; simp only [Fit, fld]
  omega
theorem qpop (p : Pfx) (d : Fin 32) (q : Fin 8) :
    Statement (.qpop p d q) := by
  intro f h; cases h; simp only [Fit, fld]
  omega
theorem qpush (p : Pfx) (q : Fin 8) (a : Fin 32) :
    Statement (.qpush p q a) := by
  intro f h; cases h; simp only [Fit, fld]
  omega
theorem srd (p : Pfx) (n : Fin 128) (d a : Fin 32) :
    Statement (.srd p n d a) := by
  intro f h; cases h; simp only [Fit, fld]
  omega
theorem swr (p : Pfx) (n : Fin 128) (a b : Fin 32) :
    Statement (.swr p n a b) := by
  intro f h; cases h; simp only [Fit, fld]
  omega
theorem eret (p : Pfx) :
    Statement (.eret p) := by
  intro f h; cases h; simp only [Fit, fld]
  omega
theorem eretStart (p : Pfx) (d a : Fin 32) :
    Statement (.eretStart p d a) := by
  intro f h; cases h; simp only [Fit, fld]
  omega
theorem tlbinvRange (p : Pfx) (span : Bool) (d a b : Fin 32) :
    Statement (.tlbinvRange p span d a b) := by
  intro f h; cases h; simp only [Fit, fld]
  have h0 := span.toNat_lt
  omega
theorem tlbinvAsid (p : Pfx) (span : Bool) (d a b : Fin 32) :
    Statement (.tlbinvAsid p span d a b) := by
  intro f h; cases h; simp only [Fit, fld]
  have h0 := span.toNat_lt
  omega
theorem tlbinvS2range (p : Pfx) (span : Bool) (d a b : Fin 32) :
    Statement (.tlbinvS2range p span d a b) := by
  intro f h; cases h; simp only [Fit, fld]
  have h0 := span.toNat_lt
  omega
theorem tlbinvPartition (p : Pfx) (span : Bool) (d a b : Fin 32) :
    Statement (.tlbinvPartition p span d a b) := by
  intro f h; cases h; simp only [Fit, fld]
  have h0 := span.toNat_lt
  omega
theorem tlbprobe (p : Pfx) (d a b : Fin 32) :
    Statement (.tlbprobe p d a b) := by
  intro f h; cases h; simp only [Fit, fld]
  omega
theorem cacheopIc (p : Pfx) (span : Bool) (a b : Fin 32) :
    Statement (.cacheopIc p span a b) := by
  intro f h; cases h; simp only [Fit, fld]
  have h0 := span.toNat_lt
  omega
theorem cacheopL1 (p : Pfx) (span : Bool) (a b : Fin 32) :
    Statement (.cacheopL1 p span a b) := by
  intro f h; cases h; simp only [Fit, fld]
  have h0 := span.toNat_lt
  omega
theorem cacheopCc (p : Pfx) (span : Bool) (a b : Fin 32) :
    Statement (.cacheopCc p span a b) := by
  intro f h; cases h; simp only [Fit, fld]
  have h0 := span.toNat_lt
  omega
theorem cacheopL2v (p : Pfx) (span : Bool) (a b : Fin 32) :
    Statement (.cacheopL2v p span a b) := by
  intro f h; cases h; simp only [Fit, fld]
  have h0 := span.toNat_lt
  omega
theorem cacheopL2p (p : Pfx) (a b : Fin 32) :
    Statement (.cacheopL2p p a b) := by
  intro f h; cases h; simp only [Fit, fld]
  omega
theorem domsetRow (p : Pfx) (a b : Fin 32) :
    Statement (.domsetRow p a b) := by
  intro f h; cases h; simp only [Fit, fld]
  omega
theorem domsetAll (p : Pfx) (b : Fin 32) :
    Statement (.domsetAll p b) := by
  intro f h; cases h; simp only [Fit, fld]
  omega
theorem fwsend (p : Pfx) (d a b : Fin 32) :
    Statement (.fwsend p d a b) := by
  intro f h; cases h; simp only [Fit, fld]
  omega
theorem fwsendReply (p : Pfx) (d a b : Fin 32) :
    Statement (.fwsendReply p d a b) := by
  intro f h; cases h; simp only [Fit, fld]
  omega
theorem stoparmCore (p : Pfx) (a : Fin 32) :
    Statement (.stoparmCore p a) := by
  intro f h; cases h; simp only [Fit, fld]
  omega
theorem stoparmStop (p : Pfx) (d a b : Fin 32) :
    Statement (.stoparmStop p d a b) := by
  intro f h; cases h; simp only [Fit, fld]
  omega
theorem stoparmResume (p : Pfx) (d a b : Fin 32) :
    Statement (.stoparmResume p d a b) := by
  intro f h; cases h; simp only [Fit, fld]
  omega
theorem step (p : Pfx) (a : Fin 32) :
    Statement (.step p a) := by
  intro f h; cases h; simp only [Fit, fld]
  omega
theorem slpset (p : Pfx) (d a : Fin 32) :
    Statement (.slpset p d a) := by
  intro f h; cases h; simp only [Fit, fld]
  omega
theorem wdsetKick (p : Pfx) :
    Statement (.wdsetKick p) := by
  intro f h; cases h; simp only [Fit, fld]
  omega
theorem wdsetArm (p : Pfx) (a b : Fin 32) :
    Statement (.wdsetArm p a b) := by
  intro f h; cases h; simp only [Fit, fld]
  omega
theorem wdsetRead (p : Pfx) (d b : Fin 32) :
    Statement (.wdsetRead p d b) := by
  intro f h; cases h; simp only [Fit, fld]
  omega
theorem deviceReset : Statement .deviceReset := fun _ h => nomatch h
theorem recoveryRequest : Statement .recoveryRequest := fun _ h => nomatch h
theorem recoveryDataFrame : Statement .recoveryDataFrame := fun _ h => nomatch h
theorem recoveryEndFrame : Statement .recoveryEndFrame := fun _ h => nomatch h
theorem recoveryTimeout : Statement .recoveryTimeout := fun _ h => nomatch h
theorem recoveryRetry : Statement .recoveryRetry := fun _ h => nomatch h
theorem parkEvent : Statement .parkEvent := fun _ h => nomatch h
theorem parkedResume : Statement .parkedResume := fun _ h => nomatch h
theorem parkTimeout : Statement .parkTimeout := fun _ h => nomatch h
theorem fillArrival : Statement .fillArrival := fun _ h => nomatch h
theorem dispense : Statement .dispense := fun _ h => nomatch h
theorem taskRecordWrite : Statement .taskRecordWrite := fun _ h => nomatch h
theorem gangOpen : Statement .gangOpen := fun _ h => nomatch h
theorem gangStall : Statement .gangStall := fun _ h => nomatch h
theorem gangStallEnd : Statement .gangStallEnd := fun _ h => nomatch h
theorem sleepEntry : Statement .sleepEntry := fun _ h => nomatch h
theorem sleepWake : Statement .sleepWake := fun _ h => nomatch h
theorem wakeEnd : Statement .wakeEnd := fun _ h => nomatch h
theorem streamElementArrival : Statement .streamElementArrival := fun _ h => nomatch h
theorem streamElementAccept : Statement .streamElementAccept := fun _ h => nomatch h
theorem storeQueueDepart : Statement .storeQueueDepart := fun _ h => nomatch h
theorem storeOrderAtHome : Statement .storeOrderAtHome := fun _ h => nomatch h
theorem invalidationDelivery : Statement .invalidationDelivery := fun _ h => nomatch h
theorem remoteStoreAck : Statement .remoteStoreAck := fun _ h => nomatch h
theorem leaseExpiry : Statement .leaseExpiry := fun _ h => nomatch h
theorem postedOpApply : Statement .postedOpApply := fun _ h => nomatch h
theorem postedAck : Statement .postedAck := fun _ h => nomatch h
theorem remoteFaultRecord : Statement .remoteFaultRecord := fun _ h => nomatch h
theorem remoteRecordResend : Statement .remoteRecordResend := fun _ h => nomatch h
theorem atomicAtHome : Statement .atomicAtHome := fun _ h => nomatch h
theorem movedAnswer : Statement .movedAnswer := fun _ h => nomatch h
theorem barrierAtHome : Statement .barrierAtHome := fun _ h => nomatch h
theorem feWaiterService : Statement .feWaiterService := fun _ h => nomatch h
theorem regionAccessAtSlice : Statement .regionAccessAtSlice := fun _ h => nomatch h
theorem narrowingArrival : Statement .narrowingArrival := fun _ h => nomatch h
theorem broadcastTurnGrant : Statement .broadcastTurnGrant := fun _ h => nomatch h
theorem finalPositionBroadcast : Statement .finalPositionBroadcast := fun _ h => nomatch h
theorem serialTokenGrant : Statement .serialTokenGrant := fun _ h => nomatch h
theorem scopeMissMessage : Statement .scopeMissMessage := fun _ h => nomatch h
theorem scopeMissAnswer : Statement .scopeMissAnswer := fun _ h => nomatch h
theorem tagEvictionRepair : Statement .tagEvictionRepair := fun _ h => nomatch h
theorem jobStart : Statement .jobStart := fun _ h => nomatch h
theorem jobComplete : Statement .jobComplete := fun _ h => nomatch h
theorem jobEndEarly : Statement .jobEndEarly := fun _ h => nomatch h
theorem arrayInstrStart : Statement .arrayInstrStart := fun _ h => nomatch h
theorem arrayInstrComplete : Statement .arrayInstrComplete := fun _ h => nomatch h
theorem arrayIdleGate : Statement .arrayIdleGate := fun _ h => nomatch h
theorem accordRelease : Statement .accordRelease := fun _ h => nomatch h
theorem diffuserIssue : Statement .diffuserIssue := fun _ h => nomatch h
theorem grantInvalidation : Statement .grantInvalidation := fun _ h => nomatch h
theorem coreInterruptTake : Statement .coreInterruptTake := fun _ h => nomatch h
theorem graphRegister : Statement .graphRegister := fun _ h => nomatch h
theorem graphUnregister : Statement .graphUnregister := fun _ h => nomatch h
theorem launchWordAccept : Statement .launchWordAccept := fun _ h => nomatch h
theorem nodeStart : Statement .nodeStart := fun _ h => nomatch h
theorem nodeComplete : Statement .nodeComplete := fun _ h => nomatch h
theorem instanceComplete : Statement .instanceComplete := fun _ h => nomatch h
theorem recoveryModeSet : Statement .recoveryModeSet := fun _ h => nomatch h
theorem correctableError : Statement .correctableError := fun _ h => nomatch h
theorem uncorrectableError : Statement .uncorrectableError := fun _ h => nomatch h
theorem ctxSave : Statement .ctxSave := fun _ h => nomatch h
theorem ctxClear : Statement .ctxClear := fun _ h => nomatch h
theorem ctxReplace : Statement .ctxReplace := fun _ h => nomatch h
theorem syncStop : Statement .syncStop := fun _ h => nomatch h
theorem syncResume : Statement .syncResume := fun _ h => nomatch h
theorem jobFreeze : Statement .jobFreeze := fun _ h => nomatch h
theorem sillageSweep : Statement .sillageSweep := fun _ h => nomatch h
theorem imageWrite : Statement .imageWrite := fun _ h => nomatch h
theorem imageSeal : Statement .imageSeal := fun _ h => nomatch h
theorem saveBudgetExpiry : Statement .saveBudgetExpiry := fun _ h => nomatch h
theorem imageSwapOut : Statement .imageSwapOut := fun _ h => nomatch h
theorem imageReadback : Statement .imageReadback := fun _ h => nomatch h
theorem watchdogExpiry : Statement .watchdogExpiry := fun _ h => nomatch h
theorem frozenLeafReread : Statement .frozenLeafReread := fun _ h => nomatch h
theorem linkTrainingEnd : Statement .linkTrainingEnd := fun _ h => nomatch h
theorem flitResend : Statement .flitResend := fun _ h => nomatch h
theorem linkDown : Statement .linkDown := fun _ h => nomatch h
theorem clockSyncExchange : Statement .clockSyncExchange := fun _ h => nomatch h
theorem clockSyncLoss : Statement .clockSyncLoss := fun _ h => nomatch h
theorem ethernetFrameRx : Statement .ethernetFrameRx := fun _ h => nomatch h
theorem getDigests : Statement .getDigests := fun _ h => nomatch h
theorem getCertificate : Statement .getCertificate := fun _ h => nomatch h
theorem challenge : Statement .challenge := fun _ h => nomatch h
theorem getMeasurements : Statement .getMeasurements := fun _ h => nomatch h
theorem keyExchange : Statement .keyExchange := fun _ h => nomatch h
theorem finish : Statement .finish := fun _ h => nomatch h
theorem keyUpdate : Statement .keyUpdate := fun _ h => nomatch h
theorem heartbeat : Statement .heartbeat := fun _ h => nomatch h
theorem endSession : Statement .endSession := fun _ h => nomatch h
theorem tenantAppData : Statement .tenantAppData := fun _ h => nomatch h
theorem clusterHold : Statement .clusterHold := fun _ h => nomatch h
theorem clusterRelease : Statement .clusterRelease := fun _ h => nomatch h
theorem firewallWrite : Statement .firewallWrite := fun _ h => nomatch h
theorem movedFrameEnter : Statement .movedFrameEnter := fun _ h => nomatch h
theorem movedFrameRemove : Statement .movedFrameRemove := fun _ h => nomatch h
theorem interleaveCommit : Statement .interleaveCommit := fun _ h => nomatch h
theorem keyGenerate : Statement .keyGenerate := fun _ h => nomatch h
theorem keyRetire : Statement .keyRetire := fun _ h => nomatch h
theorem measurementExtend : Statement .measurementExtend := fun _ h => nomatch h
theorem linkEnable : Statement .linkEnable := fun _ h => nomatch h
theorem linkDisable : Statement .linkDisable := fun _ h => nomatch h
theorem intcntClear : Statement .intcntClear := fun _ h => nomatch h
theorem unallocatedEncoding : Statement .unallocatedEncoding := fun _ h => nomatch h
theorem fetchFault : Statement .fetchFault := fun _ h => nomatch h
theorem mailRecordDelivery : Statement .mailRecordDelivery := fun _ h => nomatch h

end Sys2Proof.Laws.Fields
end

