-- ==== Sys2Proof/Laws/Vector.lean ====
section
/-! SUPPORT. What the shared operations of the scalar and vector meanings do where nothing stops them, said once. -/

namespace Sys2Proof.Machine

open Claims

/-! ### Scalar shapes -/

theorem alu_spec {p : Pfx} {nw : Nat} {d a b : Fin 32} {op : Word → Word → Word} {s : State} (h : Plain s p)
    (hf : Full s [a, b]) : alu p nw d a b op s = .next (retired s nw fun t => t.wr d (op (t.rd a) (t.rd b))) := by
  simp only [alu]
  rw [run_begins h.1 (by simp), withFull_full _ _ hf, State.finishMe_plain] <;> simp [h.2]

theorem alu1_spec {p : Pfx} {nw : Nat} {d a : Fin 32} {op : Word → Word} {s : State} (h : Plain s p) (hf : Full s [a]) :
    alu1 p nw d a op s = .next (retired s nw fun t => t.wr d (op (t.rd a))) := by
  simp only [alu1]
  rw [run_begins h.1 (by simp), withFull_full _ _ hf, State.finishMe_plain] <;> simp [h.2]

theorem cmp_spec {p : Pfx} {d : Fin 8} {a b : Fin 32} {op : Word → Word → Bool} {s : State} (h : Plain s p)
    (hf : Full s [a, b]) : cmp p d a b op s = .next (retired s (nw0 p) fun t => t.wrP d (op (t.rd a) (t.rd b))) := by
  simp only [cmp]
  rw [run_begins h.1 (by simp), withFull_full _ _ hf, State.finishMe_plain] <;> simp [h.2]

theorem plogic_spec {p : Pfx} {d a b : Fin 8} {op : Bool → Bool → Bool} {s : State} (h : Plain s p) :
    plogic p d a b op s = .next (retired s (nw0 p) fun t => t.wrP d (op (t.rdP a) (t.rdP b))) := by
  simp only [plogic]
  rw [run_begins h.1 (by simp), State.finishMe_plain] <;> simp [h.2]

/-! ### Vector effects -/

theorem runEff_spec {p : Pfx} {forbidden : Bool} {eff : State → Eff} {s : State} (h : Begins s p)
    (hr : forbidden = true → s.me.region = none) (hs : s.seqRuns = false) :
    runEff p forbidden eff s = .next ((eff (onUnit s)).toState (nwX p)) := by
  simp only [runEff]
  rw [run_begins h hr]
  simp [hs, onUnit]

@[simp] theorem onUnit_me (s : State) : (onUnit s).me = s.me := rfl
@[simp] theorem onUnit_cur (s : State) : (onUnit s).cur = s.cur := rfl

theorem onUnit_queueOf (s : State) (k : Nat) (r : Fin 8) : (onUnit s).queueOf k r = s.queueOf k r := by
  unfold onUnit State.queueOf
  by_cases h : coreOf k = s.myCore
  · rw [h, State.core_modCore]; rfl
  · rw [State.core_modCore_ne _ _ h]; rfl

theorem withVec_spec {srcs : List VOpd} {gs : List (Fin 32)} {dst : List VOpd} {s : State}
    {f : List (BitVec 1024) → State → Eff} (h : VecReady s srcs gs dst) :
    withVec srcs gs dst (onUnit s) f = f ((onUnit s).popOpds srcs).1 ((onUnit s).popOpds srcs).2 := by
  obtain ⟨-, h1, h2, h3, h4, h5⟩ := h
  unfold withVec
  have e1 : ((qRegs srcs).any fun r => (onUnit s).me.qBad r false true) = false := by
    rw [List.any_eq_false]; intro r hr; simp [h1 r hr]
  have e2 : ((qRegs dst).any fun r => (onUnit s).me.qBad r true true) = false := by
    rw [List.any_eq_false]; intro r hr; simp [h2 r hr]
  have e3 : (gs.find? fun r => !(onUnit s).me.full r) = none := by
    rw [List.find?_eq_none]; intro r hr; simp [h3 r hr]
  have e4 : ((qRegs dst).find? fun r => decide (Config.qdepth ≤ ((onUnit s).queueOf (onUnit s).cur r).length)) = none := by
    rw [List.find?_eq_none]; intro r hr; simp only [onUnit_queueOf, onUnit_cur]; simpa using h4 r hr
  have e5 : ((qRegs srcs).find? fun r => decide (((onUnit s).queueOf (onUnit s).cur r).length <
      ((qRegs srcs).filter fun r' => (onUnit s).me.q[r'].queue == (onUnit s).me.q[r].queue).length)) = none := by
    rw [List.find?_eq_none]; intro r hr; simp only [onUnit_queueOf, onUnit_cur, decide_eq_true_eq, not_lt]; exact h5 r hr
  simp only [e1, e2, e3, e4, e5]
  simp

theorem withVec_regs {gs : List (Fin 32)} {s : State} {f : List (BitVec 1024) → State → Eff} (h : Full s gs) :
    withVec [] gs [] s f = f [] s := by
  have e3 : (gs.find? fun r => !s.me.full r) = none := by
    rw [List.find?_eq_none]; intro r hr; simp [h r hr]
  simp [withVec, qRegs, e3, State.popOpds]

end Sys2Proof.Machine
end

