-- ==== Sys2Proof/Tests/Slice0.lean ====
section
/-! SUPPORT. Small tests, and for every statement with hypotheses a state and operands that meet them together. -/

namespace Sys2Proof.Tests

/- The tests are checked one after another: each waits for the kernel's check of the one before. -/
set_option Elab.async false

open Sys2Proof.Machine Sys2Proof.Claims

/-! ### A small state

Core 0 of device 0 with one thread in slot 1, whose cluster's translation buffer holds six pages: plain DRAM at 0, the own
cluster's local memory at 2^34, a gate of class 1 at 2^35, a page of class 1 for the save area at 2^36, a gate into domain 1 at
2^37, and DRAM of another die at 2^38. -/

def np : Pfx := Pfx.none
def page (va lg base : Nat) (dom : BitVec 8) (gate : Bool) (cls : BitVec 2) : TlbEnt :=
  { pid := 0, asid := 0, vbase := va, szlog := lg, dev := 0, remote := false, base := base, part := 0, dom := dom, x := true,
    gate := gate, cls := cls, key := 0 }
def pages : List TlbEnt :=
  [page 0 33 0 0 false 0, page (2 ^ 34) 16 (2 ^ 42) 0 false 0, page (2 ^ 35) 16 65536 0 true 1,
   page (2 ^ 36) 16 131072 0 false 1, page (2 ^ 37) 16 65536 1 true 0, page (2 ^ 38) 16 (2 ^ 36) 0 false 0]
def row : Row := { asid := 0, dom := 0, codes := BitVec.allOnes 512 }
def slot1 : Slot :=
  { Slot.vacant with occ := true, g := Vector.replicate 32 (GReg.of 1024), cls := 2, row := some row, tsave := 2 ^ 36 }
def core0 : Core := { Core.reset with tvec := 2 ^ 35 }
def cl0 : Cluster := { Cluster.reset with hold := false, tlb := pages }
def s0 : State :=
  { State.reset with
    cur := 1, agenda := [], slots := [(1, slot1)], cores := [(0, core0)], clusters := [(0, cl0)],
    mem := [(65536, 2), (65537, 16), (65600, 2), (65601, 16)] }
/-- A register of the thread holds a value; its slot is changed; its core is changed; its cluster is changed; an event happens. -/
def put (r : Fin 32) (x : Nat) (s : State) : State := s.modMe fun t => t.wr r (BitVec.ofNat 64 x)
def me (f : Slot → Slot) (s : State) : State := s.modMe f
def co (f : Core → Core) (s : State) : State := s.modCore 0 f
def cl (f : Cluster → Cluster) (s : State) : State := s.modCluster 0 f
def on (e : Event) (s : State) : State := { s with ev := some e }
/-- The thread's instruction is parked. -/
def pk (w : Wait) (r : Rest) : Park :=
  { cause := 1, since := 0, wait := w, nw := 1, rest := r, arrived := false, exempt := false, via := [] }

/-! ### Reading an answer back -/

def okB (f : Acc → Bool) : Chk → Bool
  | .ok a => f a
  | _ => false
theorem chk_ok {c : Chk} {P : Acc → Prop} [DecidablePred P] (h : okB (fun a => decide (P a)) c = true) :
    ∃ a, c = .ok a ∧ P a := by
  cases c with
  | ok a => exact ⟨a, rfl, of_decide_eq_true h⟩
  | trap => cases h
  | park => cases h
def trB {α : Type} (f : α → Bool) : Tr α → Bool
  | .ok a => f a
  | _ => false
theorem tr_ok {α : Type} {c : Tr α} {P : α → Prop} [DecidablePred P] (h : trB (fun a => decide (P a)) c = true) :
    ∃ a, c = .ok a ∧ P a := by
  cases c with
  | ok a => exact ⟨a, rfl, of_decide_eq_true h⟩
  | fault => cases h
  | frozen => cases h
def goesB (f : State → Bool) : Host.Outcome State Fault Refusal → Bool
  | .next t => f t
  | _ => false
theorem goes {o : Host.Outcome State Fault Refusal} {P : State → Prop} [DecidablePred P]
    (h : goesB (fun t => decide (P t)) o = true) : ∃ t, o = .next t ∧ P t := by
  cases o with
  | next t => exact ⟨t, rfl, of_decide_eq_true h⟩
  | fault => cases h
  | refused => cases h

def gatherB (f : List Piece × State → Bool) : Eff ⊕ List Piece × State → Bool
  | .inr g => f g
  | .inl _ => false
theorem gathers {c : Eff ⊕ List Piece × State} {P : List Piece × State → Prop} [DecidablePred P]
    (h : gatherB (fun a => decide (P a)) c = true) : ∃ a, c = .inr a ∧ P a := by
  cases c with
  | inr a => exact ⟨a, rfl, of_decide_eq_true h⟩
  | inl => cases h

/-! ### Witnesses -/

def empty1 : State := me (fun t => { t with g := t.g.set 1 GReg.empty }) s0

theorem witness_FalseGuardIsNoop : let p : Pfx := { np with xr := true, guard := some (true, 0) }
    pfxOf (.add p 1 2 3) = some p ∧ s0.me.replied = false ∧ s0.me.guard p = false ∧ s0.me.sstep = false := by decide +kernel

theorem witness_ScalarForms : Plain s0 np ∧ Full s0 [1, 2] ∧ Plain empty1 np ∧ ¬ Full empty1 [1, 2] := by decide +kernel

theorem witness_InsertSelectCompare : Plain s0 np ∧ Full s0 [31, 2] ∧ Full s0 [2, 31] := by decide +kernel

theorem witness_ScalarFrame : (∃ o p a b, Instr.add np 1 2 3 = Alu2.instr p 1 a b o) ∧ s0.me.replied = false ∧
    s0.me.sstep = false ∧ ∃ t, exec (.add np 1 2 3) s0 = .next t ∧ t.me.rd 1 = 2048 :=
  ⟨⟨.add, np, 2, 3, rfl⟩, by decide +kernel, by decide +kernel, goes (by decide +kernel)⟩

theorem witness_RegisterFile : (31 : Fin 32) ≠ 0 ∧ (1 : Fin 32) ≠ 31 ∧ (7 : Fin 8) ≠ 0 ∧ (1 : Fin 8) ≠ 7 := by decide

theorem witness_BitOperations : (0 : Word) = 0 ∧ (1 : Word) ≠ 0 ∧ (63 < 64 ∧ 1 ≤ 64 ∧ 63 < 64) ∧ (0 < 64 ∧ 1 ≤ 1) := by decide

def bound (out wide eng : Bool) (q : Fin 8) : QBind :=
  { bound := true, outbound := out, wide := wide, queue := q, eng := eng, pcore := 1, pq := 0 }
/-- q0 takes doublewords, q1 gives them, q2 takes vectors, q3 gives them. -/
def streams (s : State) : State := me (fun t => { t with
  q := #v[bound false false false 0, bound true false false 1, bound false true false 2, bound true true false 3, QBind.none,
    QBind.none, QBind.none, QBind.none] }) s
def fed : State := co (fun c => { c with queues := (c.queues.set 0 [5, 6]).set 2 [7] }) (streams s0)
def stuffed : State := co (fun c => { c with queues := c.queues.set 1 (List.replicate 16 0) }) (streams s0)

theorem witness_ScalarStreamMoves :
    (Plain fed np ∧ fed.me.qBad 0 false false = false ∧ fed.queueOf fed.cur 0 = 5 :: [6]) ∧
    (Plain (streams s0) np ∧ (streams s0).me.qBad 0 false false = false ∧ (streams s0).queueOf 1 0 = []) ∧
    (Plain fed np ∧ Full fed [1] ∧ fed.me.qBad 1 true false = false ∧ (fed.queueOf fed.cur 1).length < Config.qdepth) ∧
    (Plain stuffed np ∧ Full stuffed [1] ∧ stuffed.me.qBad 1 true false = false ∧
      Config.qdepth ≤ (stuffed.queueOf stuffed.cur 1).length) ∧
    (Begins fed np ∧ fed.me.qBad 4 false false = true ∧ fed.me.qBad 1 false false = true ∧ fed.me.qBad 2 false false = true) ∧
    (Plain empty1 np ∧ empty1.me.full 1 = false) ∧
    (Begins fed np ∧ Full fed [1] ∧ fed.me.qBad 0 true false = true) ∧
    63 < 64 ∧ 7 < 8 ∧ 3 < 4 ∧ 2047 < 2048 ∧ 2047 / 128 % 4 ≠ 0 ∧ 512 / 512 % 4 ≠ 0 := by
  refine ⟨?_, ?_, ?_, ?_, ?_, ?_, ?_, ?_⟩ <;> decide +kernel

theorem witness_VectorElementwise :
    (Outside s0 np ∧ let o := VOp.vadd .f32 .rn (.v 1) (.v 2) (.v 3)
      VecReady s0 o.srcs o.regs [o.dst]) ∧
    (Outside fed np ∧ let o := VOp.vquant (.q 3) (.q 2) 1
      VecReady fed o.srcs o.regs [o.dst]) := by refine ⟨?_, ?_⟩ <;> decide +kernel

theorem witness_VectorLanes : let o := VOp.vsel .i8 15 (.v 0) (.v 15)
    Outside s0 np ∧ o.srcs = [0, 15].map .v ∧ o.dst = .v 15 ∧ VecReady s0 o.srcs o.regs [o.dst] := by decide +kernel

theorem witness_VectorComparesAndReductions :
    (Outside s0 np ∧ VecReady s0 [.v 0, .v 15] [] [] ∧ (7 : Fin 8) ≠ 0 ∧ 31 < 32) ∧
    (Plain fed np ∧ VecReady fed [.q 2] [] []) := by refine ⟨?_, ?_⟩ <;> decide +kernel

theorem witness_MasksConversionsLanes : Outside s0 np ∧ s0.seqRuns = false ∧ Full s0 [31] ∧ Full s0 [0, 31] := by decide +kernel

theorem witness_LoadsComplete :
    (Outside s0 np ∧ Full s0 [1] ∧ (ea s0 1 (-1) 8).toNat % 8 = 0 ∧
      ∃ acc, s0.check (s0.me.tagOf 1) (ea s0 1 (-1) 8).toNat 8 1 false = .ok acc ∧
        LoadReady acc (ea s0 1 (-1) 8).toNat 8) ∧
    ∃ acc, s0.check (s0.me.tagOf 1) 0 8 2 true = .ok acc ∧ 8 ≤ 8 ∧ devOfAddr acc.pa = devOfSlot s0.cur :=
  ⟨⟨by decide +kernel, by decide +kernel, by decide +kernel, chk_ok (by decide +kernel)⟩, chk_ok (by decide +kernel)⟩

/-- g2 holds an address of local memory, g3 an odd address, g4 one of the gate into domain 1. -/
def s1 : State := put 2 (2 ^ 34) (put 3 1025 (put 4 (2 ^ 37) s0))
def entry : SqEntry :=
  { id := 5, k := 1, gen := 0, va := 1024, pa := 1024, op := .store [(1024, 1), (1025, 2)], tag := none, pid := 0, cls := 2, key := 0,
    seq := 0 }
/-- The page at 2^34 is the window of cluster 1, which is another partition's. -/
def walled : State := cl (fun c => { c with
  fwall := 5, perm := c.perm.set 0 2, tlb := c.tlb.map fun e => { e with pid := 5, base := if e.base = 2 ^ 42 then 2 ^ 42 + 2 ^ 21 else e.base } }) s1
def full8 : State := co (fun c => { c with sq := List.replicate 8 entry }) s1

theorem witness_StoresComplete :
    (Outside s1 np ∧ Full s1 [1, 2] ∧ (ea s1 1 7 8).toNat % 8 = 0 ∧
      ∃ acc, s1.check (s1.me.tagOf 1) (ea s1 1 7 8).toNat 8 2 true = .ok acc ∧ HasRoom acc.s ∧ acc.window = false) ∧
    (Outside s1 np ∧ Full s1 [2, 1] ∧ (ea s1 2 0 8).toNat % 8 = 0 ∧
      ∃ acc, s1.check (s1.me.tagOf 2) (ea s1 2 0 8).toNat 8 2 true = .ok acc ∧ HasRoom acc.s ∧ acc.window = true ∧
        WindowReady acc (cellsAt acc.pa (toBytes 8 (s1.me.rd 1).toNat))) ∧
    Outside walled np ∧ Full walled [2, 1] ∧ (ea walled 2 0 8).toNat % 8 = 0 ∧
      ∃ acc, walled.check (walled.me.tagOf 2) (ea walled 2 0 8).toNat 8 2 true = .ok acc ∧ HasRoom acc.s ∧ acc.window = true ∧
        acc.s.walled acc.s.myCluster acc.s.myPid acc.pa = true :=
  ⟨⟨by decide +kernel, by decide +kernel, by decide +kernel, chk_ok (by decide +kernel)⟩,
    ⟨by decide +kernel, by decide +kernel, by decide +kernel, chk_ok (by decide +kernel)⟩, by decide +kernel, by decide +kernel,
    by decide +kernel, chk_ok (by decide +kernel)⟩

theorem witness_PostedAtomicsComplete : Outside s1 np ∧ Full s1 [1, 2] ∧ (s1.me.rd 1).toNat % 4 = 0 ∧
    ∃ acc, s1.check (s1.me.tagOf 1) (s1.me.rd 1).toNat 4 2 true = .ok acc ∧ HasRoom acc.s :=
  ⟨by decide +kernel, by decide +kernel, by decide +kernel, chk_ok (by decide +kernel)⟩

theorem witness_MemoryStops :
    (Outside full8 np ∧ Full full8 [1, 2] ∧ (ea full8 1 0 8).toNat % 8 = 0 ∧
      ∃ acc, full8.check (full8.me.tagOf 1) (ea full8 1 0 8).toNat 8 2 true = .ok acc ∧ ¬ HasRoom acc.s) ∧
    (Begins s1 np ∧ s1.me.region = none ∧ Full s1 [3, 1] ∧ Full s1 [3, 1, 4] ∧ (ea s1 3 0 2).toNat % 2 ≠ 0 ∧
      (s1.me.rd 3).toNat % 8 ≠ 0) :=
  ⟨⟨by decide +kernel, by decide +kernel, by decide +kernel, chk_ok (by decide +kernel)⟩, by decide +kernel⟩

theorem witness_AtomicsIssue : Outside s0 np ∧ Full s0 [1, 2, 3] ∧ Full s0 [1, 2] ∧ (s0.me.rd 1).toNat % 8 = 0 ∧
    (ea s0 1 0 8).toNat % 8 = 0 ∧ (∃ acc, s0.check (s0.me.tagOf 1) (s0.me.rd 1).toNat 8 2 false = .ok acc ∧ acc.pa = 1024) ∧
    ∃ acc, s0.check (s0.me.tagOf 1) (ea s0 1 0 8).toNat 8 2 false = .ok acc ∧ acc.pa = 1024 :=
  ⟨by decide +kernel, by decide +kernel, by decide +kernel, by decide +kernel, by decide +kernel, chk_ok (by decide +kernel),
    chk_ok (by decide +kernel)⟩

/-- Message 5 of the thread is on the network; its park awaits the answer. -/
def sent (kind : MsgKind) : State :=
  me (fun t => { t with park := some (pk (.reply 5) (.finish [])) }) { s0 with net := [{ id := 5, k := 1, gen := 0, pid := 0, kind := kind }] }

theorem witness_AtHome :
    (let s := on (.atomicAtHome 5) (sent (.amo .cas true 1024 1024 0 1 2 3 none))
     ∃ m, s.msg 5 = some m ∧ m.kind = .amo .cas true 1024 1024 0 1 2 3 none ∧ HomeReady s m 1024 ∧ s.poisonOf 0 1024 8 = none) ∧
    (let s := on (.atomicAtHome 5) (me (fun t => { t with resv := [{ i := 0, line := 16, written := false, armed := 0 }] })
       (sent (.stc 1024 1024 0 1 2 none)))
     ∃ m, s.msg 5 = some m ∧ m.kind = .stc 1024 1024 0 1 2 none ∧ HomeReady s m 1024 ∧ s.poisonOf 0 1024 8 = none ∧
       (s.slot m.k).resv.any (fun r => r.line == 16 && !r.written) = true) ∧
    (let s := on (.atomicAtHome 5) (sent (.stc 1024 1024 0 1 2 none))
     ∃ m, s.msg 5 = some m ∧ m.kind = .stc 1024 1024 0 1 2 none ∧ HomeReady s m 1024 ∧ s.poisonOf 0 1024 8 = none ∧
       (s.slot m.k).resv.any (fun r => r.line == 16 && !r.written) = false) ∧
    (let s := co (fun c => { c with sq := [entry] }) s0
     (s.core 0).sq = entry :: [] ∧ devOfAddr entry.pa = devOfCore 0 ∧ entry.op = .store [(1024, 1), (1025, 2)]) ∧
    ({ entry with op := .amop .add true 1024 7 } : SqEntry).op.isAtomic = true ∧
    (let s := sent (.op entry)
     ∃ m, s.msg 5 = some m ∧ m.kind = .op entry ∧ entry.op = .store [(1024, 1), (1025, 2)] ∧
       ([(1024, 1), (1025, 2)] : List Host.Cell).Pairwise (fun c c' => c.1 ≠ c'.1) ∧
       s.mayWrite m = true ∧ s.isMoved entry.pid entry.pa = false) ∧
    (let e := { entry with op := .amop .add true 1024 7 }
     let s := sent (.op e)
     ∃ m, s.msg 5 = some m ∧ m.kind = .op e ∧ s.mayWrite m = true ∧ s.isMoved e.pid e.pa = false ∧
       s.walled (clusterOf e.k) e.pid e.pa = false ∧ s.poisonOf e.key e.pa e.op.size = none) ∧
    (let e := { entry with op := .famo true 1024 7 }
     let s := sent (.op e)
     ∃ m, s.msg 5 = some m ∧ m.kind = .op e ∧ s.mayWrite m = true ∧ s.isMoved e.pid e.pa = false ∧
       s.walled (clusterOf e.k) e.pid e.pa = false ∧ s.poisonOf e.key e.pa e.op.size = none) := by
  refine ⟨⟨_, rfl, rfl, ?_⟩, ⟨_, rfl, rfl, ?_⟩, ⟨_, rfl, rfl, ?_⟩, ?_, rfl, ⟨_, rfl, rfl, ?_⟩, ⟨_, rfl, rfl, ?_⟩, ⟨_, rfl, rfl, ?_⟩⟩ <;>
    decide +kernel

/-- Reads whose bytes lie in one page, from the checks of that page. -/
theorem reads {s : State} {tag : Option (BitVec 32)} {va : Word} {n : Nat} {P : List Byte → State → Prop}
    (h : min n (65536 - va.toNat % 65536) = n)
    (h' : ∃ acc, s.check tag va.toNat n 1 false = .ok acc ∧ acc.s.loadHeld va.toNat acc.pa n = false ∧
      acc.s.isMoved acc.s.myPid acc.pa = false ∧ acc.s.loadBad acc.key va.toNat acc.pa n = none ∧
      P (acc.s.viewBytes va.toNat acc n) acc.s) : ∃ bs s', Reads s tag va n bs s' ∧ P bs s' := by
  obtain ⟨acc, h1, h2, h3, h4, h5⟩ := h'
  refine ⟨_, _, ?_, h5⟩
  unfold Reads
  rw [if_pos h]
  exact ⟨acc, h1, h2, h3, h4, rfl, rfl⟩

def line16 : RoLine := { asid := 0, vline := 16, pline := 16, from_ := 0, data := 7, bad := false }
def cached : State := cl (fun c => { c with konst := [line16] }) s0
/-- A store of the thread waits in the queue. -/
def owing : State := co (fun c => { c with sq := [entry] }) { s0 with nextId := 6 }

theorem witness_OtherLoads :
    (Outside s0 np ∧ Full s0 [1] ∧ (ea s0 1 0 8).toNat % 8 = 0 ∧
      ∃ acc, s0.check (s0.me.tagOf 1) (ea s0 1 0 8).toNat 8 1 false = .ok acc ∧
        LoadReady acc (ea s0 1 0 8).toNat 8 ∧ acc.s.konstFind acc = none ∧ acc.s.poisonOf acc.key acc.pa 8 = none ∧
        acc.s.isMoved acc.s.myPid acc.pa = false ∧ acc.s.mayReach acc.s.myCluster acc.pa = true ∧
        acc.s.opsAhead s0.cur (ea s0 1 0 8).toNat (acc.pa / 64) true = false ∧
        acc.s.tooNarrow s0.cur (acc.pa / 64) (.device 0) = none ∧
        let t := acc.s.modMe fun t => { t with rel := none }
        LoadReady { acc with s := if t.readsHome (.device 0) then t.readPast s0.myCore (acc.pa / 64) else t } (ea s0 1 0 8).toNat 8) ∧
    (let rs : List Resv := [{ i := 0, line := 1, written := false, armed := 0 }, { i := 1, line := 2, written := true, armed := 1 }]
     rs.Pairwise (fun r r' => r.i ≠ r'.i) ∧ ∃ r ∈ rs, r.line ≠ 2) ∧
    s0.scopeInst s0.cur .device = some (.device 0) ∧
    (Outside cached np ∧ Full cached [1] ∧ (ea cached 1 0 8).toNat % 8 = 0 ∧
      ∃ acc, cached.check (cached.me.tagOf 1) (ea cached 1 0 8).toNat 8 1 false = .ok acc ∧ acc.s.konstFind acc = some line16 ∧ line16.bad = false) ∧
    (s0.allHome s0.cur = true ∧ Outside owing np ∧ owing.allHome owing.cur = false) :=
  ⟨⟨by decide +kernel, by decide +kernel, by decide +kernel, chk_ok (by decide +kernel)⟩, by decide +kernel, by decide +kernel,
    ⟨by decide +kernel, by decide +kernel, by decide +kernel, chk_ok (by decide +kernel)⟩, by decide +kernel⟩

/-- g5 names the scratchpad of core 1 in the blocked mode, g6 holds 0. -/
def s2 : State := put 5 (2 ^ 18) (put 6 0 s0)

theorem witness_LocalLoadsAndStores : Outside s2 np ∧ Full s2 [1] ∧ Full s2 [5] ∧ Full s2 [5, 1] ∧
    (ea s2 1 7 8).toNat % 8 = 0 ∧ s2.lmOwn .own (ea s2 1 7 8).toNat = true ∧
    (ea s2 5 0 8).toNat % 8 = 0 ∧ s2.lmOwn .blk (ea s2 5 0 8).toNat = false ∧
    s2.poisonOf 0 (s2.lmPa .blk (ea s2 5 0 8).toNat) 8 = none ∧ s2.poisonOf 0 (s2.lmPa .own (ea s2 1 7 8).toNat) 8 = none ∧
    (∃ f : Fin 8, Instr.ldl np .own 1 1 7 = .ldl np .own 1 1 f ∧ (7 : Int) = f.val ∧ 8 = 8 ∧ false = false) ∧
    ∃ sz : Sz, Instr.stlLong np .blk .b8 1 5 0 = .stlLong np .blk sz 1 5 0 ∧ 8 = sz.bytes :=
  ⟨by decide +kernel, by decide +kernel, by decide +kernel, by decide +kernel, by decide +kernel, by decide +kernel,
    by decide +kernel, by decide +kernel, by decide +kernel, by decide +kernel, ⟨7, rfl, rfl, rfl, rfl⟩, ⟨.b8, rfl, rfl⟩⟩

theorem witness_FullEmptyOperations : Outside s2 np ∧ Full s2 [1, 5] ∧ Full s2 [1] ∧ Full s2 [5] ∧
    (ea s2 1 0 8).toNat % 8 = 0 ∧ s2.wordFull (s2.lmPa .own (ea s2 1 0 8).toNat) = Fe.wants .ldfe ∧
    s2.lmOwn .own (ea s2 1 0 8).toNat = true ∧ s2.wordFull (s2.lmPa .own (ea s2 1 0 8).toNat) ≠ Fe.wants .stfe ∧
    s2.poisonOf 0 (s2.lmPa .own (ea s2 1 0 8).toNat) 8 = none ∧
    (ea s2 5 0 8).toNat % 8 = 0 ∧ s2.lmOwn .blk (ea s2 5 0 8).toNat = false := by decide +kernel

/-- The L1 holds line 16; a piece of a vector load is still to be read. -/
def held1 : State := co (fun c => { c with
  l1 := [{ pid := 0, asid := 0, vline := 16, pline := 16, dom := 0, cls := 0, key := 0, lease := none, from_ := 0, data := 7, bad := false }] }) s0
def piece1 : Piece := { va := 1024, pa := 1024, key := 0, len := 64, at_ := 0, lanes := 0xFFFF, nt := false }
def pieced : State := on (.parkEvent 1) (me (fun t => { t with park := some (pk (.pieces [piece1] 2) (.finish [.v 2 0])) }) s0)

theorem witness_VectorMemory :
    (Outside s2 np ∧ s2.seqRuns = false ∧ Full s2 [1] ∧ (ea s2 1 0 128).toNat % 128 = 0 ∧
      ∃ acc, (onUnit s2).check (s2.me.tagOf 1) (ea s2 1 0 128).toNat 128 1 false = .ok acc ∧
        (∀ q ∈ vldPieces (ea s2 1 0 128).toNat acc (s2.me.mask 0) false, acc.s.loadHeld q.va q.pa q.len = false) ∧
        (∀ q ∈ vldPieces (ea s2 1 0 128).toNat acc (s2.me.mask 0) false, acc.s.pieceBad q = none) ∧
        ∃ q ∈ vldPieces (ea s2 1 0 128).toNat acc (s2.me.mask 0) false,
          (acc.s.fillNext (hintsOf np) (ea s2 1 0 128).toNat acc 128).pieceHit q = false) ∧
    (∃ acc, (onUnit s2).check (s2.me.tagOf 1) (ea s2 1 0 128).toNat 128 1 false = .ok acc ∧
      ∀ q ∈ vldPieces (ea s2 1 0 128).toNat acc 0 false, acc.s.loadHeld q.va q.pa q.len = false) ∧
    (pieced.ev = some (.parkEvent 1) ∧ (pieced.slot 1).park = some (pk (.pieces [piece1] 2) (.finish [.v 2 0])) ∧
      [piece1][pieced.choose.1 % 1]? = some piece1 ∧ ({ pieced.choose.2 with cur := 1 } : State).isMoved 0 1024 = false ∧
      ({ pieced.choose.2 with cur := 1 } : State).pieceBad piece1 = none) ∧
    (LMode.own ≠ .ilv ∧ s2.lmOwn .own (ea s2 1 0 128).toNat = true ∧
      ∀ j, j < 32 → s2.poisonOf 0 (s2.lmPa .own ((ea s2 1 0 128).toNat + 4 * j)) 4 = none) ∧
    (Full s2 [5] ∧ (ea s2 5 0 128).toNat % 128 = 0 ∧ s2.lmOwn .blk (ea s2 5 0 128).toNat = false) ∧
    (∃ acc, (onUnit s2).check (s2.me.tagOf 1) (ea s2 1 0 128).toNat 128 2 true = .ok acc ∧ acc.window = false ∧ HasRoom acc.s) ∧
    (Outside s1 np ∧ s1.seqRuns = false ∧ Full s1 [2] ∧ (ea s1 2 0 128).toNat % 128 = 0 ∧
      ∃ acc, (onUnit s1).check (s1.me.tagOf 2) (ea s1 2 0 128).toNat 128 2 true = .ok acc ∧ acc.window = true ∧ HasRoom acc.s ∧
        WindowReady acc (laneCells (s1.me.rdV 1) (s1.me.mask 0) fun j => acc.pa + 4 * j)) ∧
    (let s := on (.parkEvent 1) (me (fun t => { t with
       park := some (pk (.words (some 0) [.lmGetV 1 0 3 [2 ^ 42], .lmPut [(2 ^ 42, 1)] none]) (.finish [])) }) s0)
     s.clock ≤ 0 ∧ ([.lmGetV 1 0 3 [2 ^ 42], .lmPut [(2 ^ 42, 1)] none] : List Wr)[s.choose.1 % 2]? = some (.lmGetV 1 0 3 [2 ^ 42]) ∧
       s.choose.2.wrBad (.lmGetV 1 0 3 [2 ^ 42]) = none ∧ isDram (localOfAddr (2 ^ 42)) = false) ∧
    (∃ g, gather (s2.me.tagOf 1) (s2.me.rd 1) (s2.me.rdV 2) false (lanesOn (s2.me.mask 0)) [] (onUnit s2) = .inr g ∧
      s2.me.mask 0 ≠ 0 ∧ ∃ q ∈ g.1, g.2.pieceHit q = false) ∧
    (∃ g, gather (held1.me.tagOf 1) (held1.me.rd 1) (held1.me.rdV 2) false (lanesOn (held1.me.mask 0)) [] (onUnit held1) = .inr g ∧
      ∀ q ∈ g.1, g.2.pieceHit q = true ∧ g.2.pieceBad q = none) ∧
    (s2.me.mask 1 = 0 ∧
      ∃ g, gather (s2.me.tagOf 1) (s2.me.rd 1) (s2.me.rdV 2) false (lanesOn (s2.me.mask 1)) [] (onUnit s2) = .inr g ∧ g.1 = []) :=
  ⟨⟨by decide +kernel, by decide +kernel, by decide +kernel, by decide +kernel, chk_ok (by decide +kernel)⟩,
    chk_ok (by decide +kernel), by decide +kernel, by decide +kernel, by decide +kernel, chk_ok (by decide +kernel),
    ⟨by decide +kernel, by decide +kernel, by decide +kernel, by decide +kernel, chk_ok (by decide +kernel)⟩, by decide +kernel,
    gathers (by decide +kernel), gathers (by decide +kernel), by decide +kernel, gathers (by decide +kernel)⟩

theorem witness_FencesAndReleases :
    (∀ sc, (Instr.fenceSc np sc, true, true, true, true) ∈ [(Instr.fenceAcq np sc, false, false, true, false),
      (.fenceRel np sc, true, false, false, true), (.fenceAr np sc, true, false, true, true), (.fenceSc np sc, true, true, true, true)]) ∧
    (Outside s0 np ∧ s0.scopeInst s0.cur .thread = some (.thread 1) ∧ s0.scopeInst s0.cur .span = some .span ∧ NoRecords s0 ∧
      s0.fenceMet s0.cur (s0.levelOf s0.myCore .span) true = true) ∧
    (Outside owing np ∧ owing.scopeInst owing.cur .span = some .span ∧ NoRecords owing ∧
      owing.fenceMet owing.cur (owing.levelOf owing.myCore .span) true = false) ∧
    (let s := me (fun t => { t with seen := 9 }) s0
     Outside s np ∧ s.scopeInst s.cur .span = some .span ∧ NoRecords s ∧ s.fenceMet s.cur (s.levelOf s.myCore .span) true = true ∧
      3 ≤ s.levelOf s.myCore .span ∧ s.clock ≤ s.me.seen) ∧
    (s0.postedAnswered s0.cur = true ∧ let s := co (fun c => { c with sq := [{ entry with op := .amop .add true 1024 1 }] }) s0
      Outside s np ∧ s.postedAnswered s.cur = false) ∧
    Full s0 [1, 2] ∧ (ea s0 1 0 8).toNat % 8 = 0 ∧
    (∃ acc, s0.check (s0.me.tagOf 1) (ea s0 1 0 8).toNat 8 2 true = .ok acc ∧
      acc.s.performedAt s0.cur (s0.levelOf s0.myCore .span) = true ∧ HasRoom acc.s ∧ acc.window = false) ∧
    (Full s1 [2, 1] ∧ (ea s1 2 0 8).toNat % 8 = 0 ∧ s1.scopeInst s1.cur .span = some .span ∧
    ∃ acc, s1.check (s1.me.tagOf 2) (ea s1 2 0 8).toNat 8 2 true = .ok acc ∧
      acc.s.performedAt s1.cur (s1.levelOf s1.myCore .span) = true ∧ HasRoom acc.s ∧ acc.window = true ∧
      WindowReady { acc with s := acc.s.modMe fun t => { t with rel := none } } (cellsAt acc.pa (toBytes 8 (s1.me.rd 1).toNat))) :=
  ⟨fun sc => by simp, by decide +kernel, by decide +kernel, by decide +kernel, by decide +kernel, by decide +kernel, by decide +kernel,
    chk_ok (by decide +kernel), by decide +kernel, by decide +kernel, by decide +kernel, chk_ok (by decide +kernel)⟩

def rec0 : RemRec := { va := 8, cause := 7, dev := 1, seq := 1, lastseq := 1, ndisc := 0 }
/-- The thread has a pending fault record; its lane is answered. A record may be on its way. -/
def faulted : State := me (fun t => { t with recs := [rec0] }) s0
def lane1 : Machine.Lane :=
  { k := 1, gen := 0, dst := 1, flight := [], acks := [], path := none, broken := some { rec0 with seq := 2 }, delivered := false,
    refused := false, begun := none }
def coming : State := { s0 with lanes := [lane1] }

theorem witness_FaultFirst : Begins faulted np ∧ faulted.me.region = none ∧ faulted.me.inh = false ∧ faulted.me.recs = rec0 :: [] ∧
    faulted.lanesAnswered faulted.cur = true ∧ faulted.postedAnswered faulted.cur = true ∧ faulted.recComing faulted.cur = false ∧
    faulted.storesHome faulted.cur = true ∧ faulted.scopeInst faulted.cur .span = some .span ∧ Full faulted [1, 2] ∧
    (ea faulted 1 0 8).toNat % 8 = 0 ∧
    (∃ acc, faulted.check (faulted.me.tagOf 1) (ea faulted 1 0 8).toNat 8 2 true = .ok acc ∧ acc.s.lanesAnswered faulted.cur = true) ∧
    Outside coming np ∧ coming.postedAnswered coming.cur = true ∧ coming.recComing coming.cur = true :=
  ⟨by decide +kernel, by decide +kernel, by decide +kernel, by decide +kernel, by decide +kernel, by decide +kernel, by decide +kernel,
    by decide +kernel, by decide +kernel, by decide +kernel, by decide +kernel, chk_ok (by decide +kernel), by decide +kernel⟩

def armed (w : Bool) : State := me (fun t => { t with resv := [{ i := 7, line := 1, written := w, armed := 0 }] }) s0

/-- Device 1 is in the span, and cluster 0 may send to it; there is no route yet. -/
def spanned : State :=
  cl (fun c => { c with permdev := c.permdev.set 0 2 }) { s0 with devs := [(1, { Dev.reset with devno := 1 })] }

theorem witness_RegistersAndScopes :
    (Outside s0 np ∧ Full s0 [1, 2] ∧ s0.fillTarget (s0.me.rd 1) = some 0 ∧ s0.routeUp s0.myDev (devOfSlot 0) = true) ∧
    (let s := put 1 (2 ^ 31) spanned
     Outside s np ∧ Full s [1, 2] ∧ s.fillTarget (s.me.rd 1) = some 20480 ∧ s.routeUp s.myDev (devOfSlot 20480) = false) ∧
    (let s := put 1 (40 * 2 ^ 23) s0
     Outside s np ∧ Full s [1, 2] ∧ s.fillTarget (s.me.rd 1) = none) ∧
    (Full s0 [1] ∧ s0.me.resv = []) ∧ (Outside (armed true) np ∧ Full (armed true) [1] ∧ ∃ r ∈ (armed true).me.resv, r.written = true) ∧
    (Outside (armed false) np ∧ (armed false).me.resv ≠ [] ∧ ∀ r ∈ (armed false).me.resv, r.written = false) ∧
    (s0.me.rd 1).toNat % 64 = 0 ∧ ∃ bs s', Reads s0 (s0.me.tagOf 1) (s0.me.rd 1) 256 bs s' ∧ bs.length = 256 :=
  ⟨by decide +kernel, by decide +kernel, by decide +kernel, by decide +kernel, by decide +kernel, by decide +kernel,
    by decide +kernel, reads (by decide +kernel) (chk_ok (by decide +kernel))⟩

theorem witness_BarriersIssue :
    Outside s2 np ∧ Full s2 [1] ∧ Full s2 [2] ∧ Full s2 [6] ∧ (s2.me.rd 1).toNat % 16 = 0 ∧
    s2.scopeInst s2.cur .die = some (.die 0) ∧ s2.me.arrv = false ∧
    (∃ acc, s2.check (s2.me.tagOf 1) (s2.me.rd 1).toNat 16 2 false = .ok acc ∧ acc.s.isMoved s2.myPid acc.pa = false ∧
      acc.s.poisonOf acc.key acc.pa 16 = none ∧ acc.s.clock ≤ acc.s.quiet s2.myCore ∧ acc.s.performedAt s2.cur (s2.levelOf s2.myCore (.die 0)) = true ∧ acc.s.barPhase acc.key acc.pa ≠ s2.me.rd 2 ∧
      acc.s.opsAhead s2.cur (s2.me.rd 1).toNat (acc.pa / 64) false = false ∧
      acc.s.tooNarrow s2.cur (acc.pa / 64) (.die 0) = none ∧ acc.s.barPhase acc.key acc.pa = s2.me.rd 6) ∧
    let s := me (fun t => { t with arrv := true }) { s2 with clock := 1 }
    Outside s np ∧ s.me.arrv = true ∧ Full s [2] ∧ (s.me.rd 1).toNat % 16 = 0 ∧
    ∃ acc, s.check (s.me.tagOf 1) (s.me.rd 1).toNat 16 2 false = .ok acc ∧ acc.s.isMoved s.myPid acc.pa = false ∧
      acc.s.poisonOf acc.key acc.pa 16 = none ∧ acc.s.quiet s.myCore < acc.s.clock ∧ acc.s.barPhase acc.key acc.pa ≠ s.me.rd 2 ∧
      acc.s.opsAhead s.cur (s.me.rd 1).toNat (acc.pa / 64) false = false ∧ acc.s.tooNarrow s.cur (acc.pa / 64) (.die 0) = none :=
  ⟨by decide +kernel, by decide +kernel, by decide +kernel, by decide +kernel, by decide +kernel, by decide +kernel,
    by decide +kernel, chk_ok (by decide +kernel), by decide +kernel, by decide +kernel, by decide +kernel, by decide +kernel,
    chk_ok (by decide +kernel)⟩

theorem witness_BarriersAtHome : ∀ o ∈ [BarOp.init 3, .arrive 1 false, .arrive 1 true, .test 1 0, .test 1 9],
    ∀ acq ∈ [none, some (ScopeInst.die 0)],
    let s := on (.barrierAtHome 5) (sent (.bar 1024 1024 0 o none acq))
    ∃ m, s.msg 5 = some m ∧ m.kind = .bar 1024 1024 0 o none acq ∧ HomeReady s m 1024 ∧ s.poisonOf 0 1024 16 = none ∧
      (s.slot m.k).park = some (pk (.reply 5) (.finish [])) ∧ (pk (.reply 5) (.finish [])).wait = .reply m.id ∧
      s.numAt 0 (1024 + 8) 8 = 0 ∧ (s.drop m.id).tooNarrow m.k (1024 / 64) (.die 0) = none := by
  intro o ho acq ha
  refine ⟨_, rfl, rfl, ?_⟩
  fin_cases ho <;> fin_cases ha <;> decide +kernel

def region0 : Region :=
  { id := 3, serial := false, h := 64, gd := 1, g := slot1.g, p := slot1.p, drs := [], dom := 0, cls := 0, writes := [], wlines := [], wvas := [],
    rlines := [], out := 0 }
/-- The thread has an open region, which has read and written some lines. -/
def inRegion (r w : List Nat) : State := put 7 (2 ^ 38)
  (me (fun t => { t with region := some { region0 with rlines := r, wlines := w.map fun l => (l, 0), wvas := w.map fun l => (l, l) } }) s0)

theorem witness_RegionAborts : ((inRegion [] []).slot 1).region = some region0 ∧ pfxOf (.exit np) = some np ∧
    permitted (.exit np) = false ∧ Plain (inRegion [] []) np ∧ (inRegion [] []).me.region.isSome = true := by decide +kernel

/-- The thread is of class 0, with a streak of aborts and, or not, the serial token. -/
def begun (n : Nat) (tok : Option Nat) : State :=
  me (fun t => { t with cls := 0, streak := n }) { s0 with dies := [(0, { Die.reset with token := tok })] }

theorem witness_RegionInstructions :
    (∀ x ∈ [(0, none), (4, none), (4, some 1)], Outside (begun x.1 x.2) np ∧
      ∃ es, (begun x.1 x.2).fetchPage (begun x.1 x.2).myCore (begun x.1 x.2).me.asid.toNat
        ((begun x.1 x.2).me.pc + BitVec.ofInt 64 (2 * 2047)).toNat (begun x.1 x.2).me.cls.toNat = .ok es ∧
        es.1.dom = (begun x.1 x.2).me.dom ∧ es.1.cls = (begun x.1 x.2).me.cls) ∧
    (Plain (inRegion [] []) np ∧ (inRegion [] []).me.region = some region0) ∧ Plain s0 np ∧ s0.me.region = none := by
  refine ⟨?_, by decide +kernel, by decide +kernel, by decide +kernel⟩
  intro x hx
  refine ⟨?_, tr_ok ?_⟩ <;> (fin_cases hx <;> decide +kernel)

/-- A region at its capacity: 2,048 lines read, 11 of one L1 set written. -/
def region1 : Region :=
  { region0 with rlines := List.range 2048, wlines := (List.range 11).map fun i => (16 + 1024 * (i + 1), 0),
                 wvas := (List.range 11).map fun i => (16 + 1024 * (i + 1), 16 + 1024 * (i + 1)) }

/-- The lines of a store, by virtual line and line. -/
def vlines (va : Word) (acc : Acc) (cells : List Host.Cell) : List (Nat × Nat) :=
  (linesOf cells).map fun l => (va.toNat / 64 + (l - acc.pa / 64), l)

theorem witness_RegionAccesses :
    let s := inRegion [] []
    let t := inRegion (List.range 2048) ((List.range 11).map fun i => 16 + 1024 * (i + 1))
    (Plain s np ∧ s.me.region = some region0 ∧ Full s [1, 2] ∧ Full s [7] ∧ Full s [7, 2] ∧ (ea s 1 0 8).toNat % 8 = 0 ∧
      (ea s 7 0 8).toNat % 8 = 0) ∧
    (∃ acc, s.check (s.me.tagOf 1) (ea s 1 0 8).toNat 8 1 false = .ok acc ∧ acc.s.onDie acc = true ∧
      (addNew (acc.pa / 64) region0.rlines).length ≤ 2048) ∧
    (∃ acc, s.check (s.me.tagOf 7) (ea s 7 0 8).toNat 8 1 false = .ok acc ∧ acc.s.onDie acc = false) ∧
    (∃ acc, s.check (s.me.tagOf 1) (ea s 1 0 8).toNat 8 2 true = .ok acc ∧ acc.s.onDie acc = true ∧
      region0.fitsAll (acc.s.cluster s.myCluster).fused (vlines (ea s 1 0 8) acc (cellsAt acc.pa (toBytes 8 (s.me.rd 2).toNat))) = true ∧
      acc.s.walled s.myCluster s.myPid acc.pa = false) ∧
    (∃ acc, s.check (s.me.tagOf 7) (ea s 7 0 8).toNat 8 2 true = .ok acc ∧ acc.s.onDie acc = false) ∧
    Plain t np ∧ t.me.region = some region1 ∧ Full t [3, 2] ∧ (ea t 3 0 8).toNat % 8 = 0 ∧
    (∃ acc, t.check (t.me.tagOf 3) (ea t 3 (2 ^ 14) 8).toNat 8 1 false = .ok acc ∧ acc.s.onDie acc = true ∧
      2048 < (addNew (acc.pa / 64) region1.rlines).length) ∧
    (∃ acc, t.check (t.me.tagOf 3) (ea t 3 0 8).toNat 8 2 true = .ok acc ∧ acc.s.onDie acc = true ∧
      acc.s.walled t.myCluster t.myPid acc.pa = false ∧
      region1.fitsAll (acc.s.cluster t.myCluster).fused (vlines (ea t 3 0 8) acc (cellsAt acc.pa (toBytes 8 (t.me.rd 2).toNat))) = false) ∧
    (s.seqRuns = false ∧ (ea s 1 0 128).toNat % 128 = 0 ∧ s.me.mask 0 ≠ 0 ∧ s.me.mask 1 = 0 ∧
      ∃ acc, (onUnit s).check (s.me.tagOf 1) (ea s 1 0 128).toNat 128 2 true = .ok acc ∧ acc.s.onDie acc = true ∧
      region0.fitsAll (acc.s.cluster s.myCluster).fused
        (vlines (ea s 1 0 128) acc (laneCells (s.me.rdV 2) (s.me.mask 0) fun j => acc.pa + 4 * j)) = true) ∧
    (let s := me (fun t => { t with region := some region0 }) walled
     Plain s np ∧ s.me.region = some region0 ∧ Full s [2, 1] ∧ (ea s 2 0 8).toNat % 8 = 0 ∧
     ∃ acc, s.check (s.me.tagOf 2) (ea s 2 0 8).toNat 8 2 true = .ok acc ∧ acc.remote = false ∧
      acc.s.walled s.myCluster s.myPid acc.pa = true) :=
  ⟨by decide +kernel, chk_ok (by decide +kernel), chk_ok (by decide +kernel), chk_ok (by decide +kernel),
    chk_ok (by decide +kernel), by decide +kernel, by decide +kernel, by decide +kernel, by decide +kernel,
    chk_ok (by decide +kernel), chk_ok (by decide +kernel),
    ⟨by decide +kernel, by decide +kernel, by decide +kernel, by decide +kernel, chk_ok (by decide +kernel)⟩, by decide +kernel,
    by decide +kernel, by decide +kernel, by decide +kernel, chk_ok (by decide +kernel)⟩

/-! Transfers, domains and traps. -/

/-- The checks of a transfer's target, in one value. -/
def targetB (s : State) (t : Word) : Option (Bool × TlbEnt × State) :=
  if t.toNat % 2 = 0 ∧ canonical t.toNat = true then
    match s.fetchPage s.myCore s.me.asid.toNat t.toNat s.me.cls.toNat with
    | .ok (e, s0) =>
      if e.dom = s.me.dom ∧ e.cls ≤ s.me.cls then some (false, e, s0)
      else if s0.gateAt s.myCore s.me.asid.toNat e t.toNat = true then
        match s0.rowOf s.cur with
        | .ok (r, s') => if r.code e.dom = 3 then some (true, e, s') else none
        | _ => none
      else none
    | _ => none
  else none
theorem targets {s : State} {t : Word} {P : Bool × TlbEnt × State → Prop} [DecidablePred P]
    (h : (targetB s t).any (fun x => decide (P x)) = true) : ∃ x : Bool × TlbEnt × State, Target s t x.1 x.2.1 x.2.2 ∧ P x := by
  unfold targetB at h
  split at h
  case isTrue h0 =>
    split at h
    next e s0 h1 =>
      split at h
      case isTrue h2 =>
        refine ⟨(false, e, s0), ⟨h0.1, h0.2, s0, h1, ?_⟩, by simpa using h⟩
        rw [if_pos h2]
        exact ⟨rfl, rfl⟩
      case isFalse h2 =>
        split at h
        case isTrue h3 =>
          split at h
          next r s' h4 =>
            split at h
            case isTrue h5 =>
              refine ⟨(true, e, s'), ⟨h0.1, h0.2, s0, h1, ?_⟩, by simpa using h⟩
              rw [if_neg h2]
              exact ⟨rfl, h3, r, h4, h5⟩
            case isFalse => simp at h
          next => simp at h
        case isFalse => simp at h
    next => simp at h
  case isFalse => simp at h

/-- g8 holds an address that is not canonical, g9 an address in the page of domain 1 that is no gate; g4 leads to a gate that the row
permits, or not. -/
def goer (codes : BitVec 512) : State :=
  me (fun t => { t with row := some { row with codes := codes } }) (put 3 1025 (put 4 (2 ^ 37) (put 8 (2 ^ 62) (put 9 (2 ^ 37 + 128) s0))))

/-- A translation answers with a fault. -/
def faultB {α : Type} : Tr α → Bool
  | .fault _ => true
  | _ => false
theorem faults {α : Type} {c : Tr α} (h : faultB c = true) : ∃ n, c = .fault n := by
  cases c with
  | fault n => exact ⟨n, rfl⟩
  | ok => cases h
  | frozen => cases h

/-- The instruction cache holds the lines that the transfers go to. -/
def lined (s : State) : State := co (fun c => { c with
  ic := [line16, { line16 with vline := 0, pline := 0 }, { line16 with vline := 64, pline := 64 }, 
    { line16 with vline := 2 ^ 31, pline := 1024, data := 0x1002 }] }) s

theorem witness_TransfersAndBadTargets :
    (Plain s0 np ∧ Full s0 (Go.srcs (.call (-3))) ∧ Full s0 (Go.srcs .ret) ∧
      (∃ x : Bool × TlbEnt × State, Target s0 (Go.target s0.me .ret) x.1 x.2.1 x.2.2 ∧ x.1 = false ∧
        ¬ Cached x.2.2 (Go.target s0.me .ret) x.2.1) ∧
      (∃ x : Bool × TlbEnt × State, Target (lined s0) (Go.target (lined s0).me .ret) x.1 x.2.1 x.2.2 ∧ x.1 = false ∧
        Cached x.2.2 (Go.target (lined s0).me .ret) x.2.1)) ∧
    (let s := lined (goer (BitVec.allOnes 512))
     Plain s np ∧ Full s (Go.srcs (.jmp 4)) ∧ (∃ x : Bool × TlbEnt × State, Target s (Go.target s.me (.jmp 4)) x.1 x.2.1 x.2.2 ∧ x.1 = true ∧
       Cached x.2.2 (Go.target s.me (.jmp 4)) x.2.1)) ∧
    (Full s0 [1] ∧ (s0.me.rd 1).getLsbD 0 ≠ true ∧ (s0.me.rd 1).getLsbD 10 = true ∧
      (∃ x : Bool × TlbEnt × State, Target s0 (s0.me.pc + BitVec.ofInt 64 (2 * 8)) x.1 x.2.1 x.2.2 ∧ x.1 = false ∧
        ¬ Cached x.2.2 (s0.me.pc + BitVec.ofInt 64 (2 * 8)) x.2.1) ∧
      (∃ x : Bool × TlbEnt × State, Target (lined s0) ((lined s0).me.pc + BitVec.ofInt 64 (2 * 8)) x.1 x.2.1 x.2.2 ∧ x.1 = false ∧
        Cached x.2.2 ((lined s0).me.pc + BitVec.ofInt 64 (2 * 8)) x.2.1)) ∧
    ((∃ i srcs, GoesTo s0 np i srcs (s0.me.pc + BitVec.ofInt 64 (2 * 8)) ∧ i = .tstxSet np 10 1 8 ∧ Full s0 srcs) ∧
      (∃ i srcs, GoesTo s0 np i srcs (s0.me.pc + BitVec.ofInt 64 (2 * 8)) ∧ i = .tstxClr np 0 1 8 ∧ Full s0 srcs) ∧
      (∃ i srcs t, GoesTo s0 np i srcs t ∧ i = .callx np 8 ∧ Full s0 srcs) ∧
      ∃ i srcs t, GoesTo s0 np i srcs t ∧ i = .callxReg np 1 ∧ Full s0 srcs) ∧
    (let s := put 10 (2 ^ 40) s0
     Plain s np ∧ Full s (Go.srcs (.jmp 10)) ∧ (s.me.rd 10).toNat % 2 = 0 ∧ canonical (s.me.rd 10).toNat = true ∧
       faultB (s.fetchPage s.myCore s.me.asid.toNat (s.me.rd 10).toNat s.me.cls.toNat) = true) ∧
    (let s := goer 0
     Plain s np ∧ Full s (Go.srcs (.jmp 3)) ∧ Full s (Go.srcs (.jmp 8)) ∧ Full s (Go.srcs (.jmp 9)) ∧ Full s (Go.srcs (.jmp 4)) ∧
     (Go.target s.me (.jmp 3)).toNat % 2 = 1 ∧
     ((Go.target s.me (.jmp 8)).toNat % 2 = 0 ∧ canonical (Go.target s.me (.jmp 8)).toNat = false) ∧
     (∀ a ∈ [(9 : Fin 32), 4], (Go.target s.me (.jmp a)).toNat % 2 = 0 ∧ canonical (Go.target s.me (.jmp a)).toNat = true) ∧
     (∃ x, s.fetchPage s.myCore s.me.asid.toNat (s.me.rd 9).toNat s.me.cls.toNat = .ok x ∧
       ¬ (x.1.dom = s.me.dom ∧ x.1.cls ≤ s.me.cls) ∧ x.2.gateAt s.myCore s.me.asid.toNat x.1 (s.me.rd 9).toNat = false) ∧
     (∃ x, s.fetchPage s.myCore s.me.asid.toNat (s.me.rd 4).toNat s.me.cls.toNat = .ok x ∧
       ¬ (x.1.dom = s.me.dom ∧ x.1.cls ≤ s.me.cls) ∧ x.2.gateAt s.myCore s.me.asid.toNat x.1 (s.me.rd 4).toNat = true ∧
       x.1.dom = 1) ∧
     ∃ y, s.rowOf s.cur = .ok y ∧ y.1.code 1 ≠ 3) :=
  ⟨⟨by decide +kernel, by decide +kernel, by decide +kernel, targets (by decide +kernel), targets (by decide +kernel)⟩,
    ⟨by decide +kernel, by decide +kernel, targets (by decide +kernel)⟩,
    ⟨by decide +kernel, by decide +kernel, by decide +kernel, targets (by decide +kernel), targets (by decide +kernel)⟩,
    ⟨⟨_, _, .inr (.inr (.inr ⟨10, 1, 8, rfl, rfl, .inl ⟨rfl, by decide +kernel⟩⟩)), rfl, by decide +kernel⟩,
      ⟨_, _, .inr (.inr (.inr ⟨0, 1, 8, rfl, rfl, .inr ⟨rfl, by decide +kernel⟩⟩)), rfl, by decide +kernel⟩,
      ⟨_, _, _, .inr (.inl ⟨8, rfl, rfl, rfl⟩), rfl, by decide +kernel⟩,
      ⟨_, _, _, .inr (.inr (.inl ⟨1, rfl, rfl, rfl⟩)), rfl, by decide +kernel⟩⟩,
    by decide +kernel,
    by decide +kernel, by decide +kernel, by decide +kernel, by decide +kernel, by decide +kernel, by decide +kernel, by decide +kernel,
    by decide +kernel, tr_ok (by decide +kernel), tr_ok (by decide +kernel), tr_ok (by decide +kernel)⟩

/-- A record to return through. -/
def called : State := me (fun t => { t with drs := [{ dom := 0, rpc := 4096 }] }) s0

theorem witness_DomainCalls :
    (let s := goer (BitVec.allOnes 512)
     (∃ a, Instr.callxReg np 4 = .callxReg np a ∧ [4] = [a] ∧ s.me.rd 4 = s.me.rd a) ∧ Plain s np ∧ Full s [4] ∧
     s.me.drs.length < 8 ∧ (∃ x : Bool × TlbEnt × State, Target s (s.me.rd 4) x.1 x.2.1 x.2.2 ∧
       x.2.2.gateAt s.myCore s.me.asid.toNat x.2.1 (s.me.rd 4).toNat = true ∧ ¬ Cached x.2.2 (s.me.rd 4) x.2.1) ∧
     ∃ x : Bool × TlbEnt × State, Target (lined s) ((lined s).me.rd 4) x.1 x.2.1 x.2.2 ∧ Cached x.2.2 ((lined s).me.rd 4) x.2.1) ∧
    (Plain called np ∧ called.me.drs = [] ++ [{ dom := 0, rpc := 4096 }] ∧
     (∃ x, called.fetchPage called.myCore called.me.asid.toNat 4096 called.me.cls.toNat = .ok x ∧ x.1.dom = 0 ∧ ¬ Cached x.2 4096 x.1) ∧
     ∃ x, (lined called).fetchPage called.myCore called.me.asid.toNat 4096 called.me.cls.toNat = .ok x ∧ x.1.dom = 0 ∧ Cached x.2 4096 x.1) ∧
    (let s := goer (BitVec.allOnes 512)
     (∃ x : Bool × TlbEnt × State, Target s (s.me.pc + BitVec.ofInt 64 (2 * 8)) x.1 x.2.1 x.2.2 ∧
       x.2.2.gateAt s.myCore s.me.asid.toNat x.2.1 (s.me.pc + BitVec.ofInt 64 (2 * 8)).toNat = false) ∧
     let s := me (fun t => { t with drs := List.replicate 8 { dom := 0, rpc := 4096 } }) s
     Plain s np ∧ Full s [4] ∧ 8 ≤ s.me.drs.length ∧
     ∃ x : Bool × TlbEnt × State, Target s (s.me.rd 4) x.1 x.2.1 x.2.2 ∧ x.1 = true) ∧
    s0.me.drs = [] ∧
    (let s := me (fun t => { t with drs := [] ++ [{ dom := 0, rpc := 2 ^ 40 }] }) s0
     Plain s np ∧ s.me.drs = [] ++ [{ dom := 0, rpc := 2 ^ 40 }] ∧
       faultB (s.fetchPage s.myCore s.me.asid.toNat (2 ^ 40) s.me.cls.toNat) = true) ∧
    (let s := me (fun t => { t with drs := [] ++ [{ dom := 0, rpc := 2 ^ 37 }] }) s0
     Plain s np ∧ s.me.drs = [] ++ [{ dom := 0, rpc := 2 ^ 37 }] ∧
       ∃ x, s.fetchPage s.myCore s.me.asid.toNat (2 ^ 37) s.me.cls.toNat = .ok x ∧ x.1.dom ≠ 0) ∧
    (4096 : Word).toNat % 2 = 0 ∧ canonical (4096 : Word).toNat = true :=
  ⟨⟨⟨4, rfl, rfl, rfl⟩, by decide +kernel, by decide +kernel, by decide +kernel, targets (by decide +kernel), targets (by decide +kernel)⟩,
    ⟨by decide +kernel, by decide +kernel, tr_ok (by decide +kernel), tr_ok (by decide +kernel)⟩,
    ⟨targets (by decide +kernel), by decide +kernel, by decide +kernel, by decide +kernel, targets (by decide +kernel)⟩,
    by decide +kernel, by decide +kernel, ⟨by decide +kernel, by decide +kernel, tr_ok (by decide +kernel)⟩, by decide +kernel⟩

/-- What a trap's delivery needs, in one value. -/
def deliversB (s : State) (grp : Nat) : Option (TlbEnt × TlbEnt × State) :=
  if s.me.inh = false then
    match s.vectorOk s.cur grp with
    | .ok (ve, s1) => match s1.savePage s.cur with
      | .ok x => some (ve, x)
      | _ => none
    | _ => none
  else none
theorem delivers {s : State} {grp : Nat} (h : (deliversB s grp).isSome = true) : ∃ ve se s', Delivers s grp ve se s' := by
  unfold deliversB at h
  split at h
  case isTrue h0 =>
    split at h
    next ve s1 h1 =>
      split at h
      next x h2 => exact ⟨ve, x.1, x.2, h0, s1, h1, h2⟩
      next => simp at h
    next => simp at h
  case isFalse => simp at h

def info (r : Option RemRec) : TrapInfo := { cause := 0x0E, addr := 0, nw := 1, pc := 0, rpc := 0, rec_ := r }

theorem witness_TrapsAreTaken : Outside s0 np ∧ (∃ ve se s', Delivers s0 1 ve se s') ∧ (∃ ve se s', Delivers s0 0 ve se s') ∧
    (let s := me (fun t => { t with inh := true }) s0
     Outside s np ∧ s.me.inh = true) ∧
    (let s := co (fun c => { c with tvec := 2 ^ 38 }) s0
     Outside s np ∧ faultB (s.vectorOk s.cur 1) = true ∧ faultB (s.vectorOk s.cur 0) = true) ∧
    (info (some rec0)).rec_ = some rec0 ∧ (info none).rec_ = none :=
  ⟨by decide +kernel, delivers (by decide +kernel), delivers (by decide +kernel), by decide +kernel, by decide +kernel, rfl, rfl⟩

theorem witness_ThreadsEnd : Outside s0 np ∧ s0.storesHome s0.cur = true ∧ s0.postedAnswered s0.cur = true ∧
    s0.recComing s0.cur = false ∧ NoRecords s0 ∧
    Outside owing np ∧ owing.storesHome owing.cur = false ∧
    (let s := me (fun t => { t with inh := true }) s0
     s.me.region = none ∧ s.me.inh = true) ∧
    let s := co (fun c => { c with tvec := 2 ^ 38 }) s0
    s.me.region = none ∧ faultB (s.vectorOk s.cur (trapGroup 5)) = true := by decide +kernel

/-! The matrix array, the weights, the Diffuser. -/

def gang0 (tfmt : BitVec 1) : Gang :=
  { elastic := true, tfmt := tfmt, tsca := 0, tscw := 0, tgrp := 80, members := (List.range 8).map fun c => (c, c * 16 + 1), stat := [],
    ended := [], broken := none, wake := none }
def ganged (tfmt : BitVec 1) : State := cl (fun c => { c with gang := some (gang0 tfmt) }) (streams (put 3 128 (put 4 8192 (put 6 0 fed))))
def arrived : State := co (fun c => { c with gangArr := some { k := 2, elastic := false, stat := none } }) s0

/-- Captured ranges, in one value. -/
def captureB : State → List (Option (BitVec 32) × Nat × Nat × Nat) → Option (List (List Chunk) × State)
  | s, [] => some ([], s)
  | s, (tag, need, va, n) :: rs =>
    match s.capture tag need (piecesOf va n) [] with
    | .ok cs s1 => (captureB s1 rs).map fun x => (cs :: x.1, x.2)
    | _ => none
theorem captured {rs : List (Option (BitVec 32) × Nat × Nat × Nat)} {s : State} {x : List (List Chunk) × State}
    (h : captureB s rs = some x) : Captures s rs x.1 x.2 := by
  induction rs generalizing s x with
  | nil => simp [captureB] at h; subst h; exact ⟨rfl, rfl⟩
  | cons r rs ih =>
    unfold captureB at h
    split at h
    next cs s1 h1 =>
      cases h2 : captureB s1 rs with
      | none => simp [h2] at h
      | some y =>
        simp [h2] at h
        subst h
        exact ⟨cs, y.1, s1, rfl, h1, ih h2⟩
    next => simp at h
theorem captures {rs : List (Option (BitVec 32) × Nat × Nat × Nat)} {s : State} {P : List (List Chunk) × State → Prop}
    [DecidablePred P] (h : (captureB s rs).any (fun x => decide (P x)) = true) : ∃ x, Captures s rs x.1 x.2 ∧ P x := by
  cases h1 : captureB s rs with
  | none => simp [h1] at h
  | some x => exact ⟨x, captured h1, by simpa [h1] using h⟩

theorem witness_ArrayInstructions :
    (Outside s0 np ∧ s0.seqRuns = false ∧ ((s0.core s0.myCore).gangArr = none ∧ (s0.cluster s0.myCluster).gang = none)) ∧
    (Outside arrived np ∧ arrived.seqRuns = false ∧ (arrived.core arrived.myCore).gangArr ≠ none) ∧
    (Full s0 [1] ∧ (s0.me.rd 1).toNat % 8 = 0 ∧ ∃ acc, (onUnit s0).check (s0.me.tagOf 1) (s0.me.rd 1).toNat 8 2 false = .ok acc ∧
      acc.pa = 1024) ∧
    (let s := ganged 0
     (Outside s np ∧ s.seqRuns = false ∧ s.isMember s.cur = true ∧ (s.cluster s.myCluster).stall = none) ∧
     (Full s [1, 2] ∧ (s.me.rd 1).toNat % 16 = 0 ∧ (s.me.rd 1).toNat + 512 ≤ 3 * 2 ^ 20 ∧ (s.me.rd 1).toNat % 2 ^ 18 % 128 = 0 ∧
       (s.me.rd 1).toNat % 2 ^ 18 + 2056 ≤ 2 ^ 18) ∧
     (Full s [6] ∧ bits (s.me.rd 6).toNat 7 4 + ((s.me.rd 6).toNat % 8 + 1) ≤ 16 ∧
       (s.slice s.myCore).rowsUsed s.clock + ((s.me.rd 6).toNat % 8 + 1) ≤ Config.afifo ∧ (s.me.rd 1).toNat % 2 ^ 18 + 16 ≤ 2 ^ 18 ∧
       s.me.qBad 2 false true = false ∧ s.queueOf s.cur 2 = 7 :: [])) ∧
    ∀ f ∈ [(0 : BitVec 1), 1],
     let s := ganged f
     Outside s np ∧ s.isMember s.cur = true ∧ Full s [1, 4, 3] ∧ (s.cluster s.myCluster).gang = some (gang0 f) ∧
     (s.me.rd 1).toNat % 4 = 0 ∧ (s.me.rd 3).toNat % 4 = 0 ∧ (s.me.rd 4).toNat % 8 = 0 ∧ 128 ≤ (s.me.rd 3).toNat % 2 ^ 16 ∧
     ∃ x : List (List Chunk) × State, Captures (onUnit s) ((List.range 16).map (fun j => (s.me.tagOf 1, 2, ((s.me.rd 1).toNat + j * 128) % 2 ^ 64, 128)) ++
       [(s.me.tagOf 4, 2, (s.me.rd 4).toNat, 8), (none, 1, 0, 64)] ++ if f = 1 then [] else [(none, 1, 0, 16)]) x.1 x.2 ∧
       ∀ e ∈ (x.2.cluster s.myCluster).tlb, e ∈ (s.cluster s.myCluster).tlb := by
  refine ⟨by decide +kernel, by decide +kernel, ⟨by decide +kernel, by decide +kernel, chk_ok (by decide +kernel)⟩, ?_, ?_⟩
  · refine ⟨?_, ?_, ?_⟩ <;> decide +kernel
  · intro f hf
    refine ⟨?_, ?_, ?_, ?_, ?_, ?_, ?_, ?_, captures ?_⟩ <;> fin_cases hf <;> decide +kernel

theorem witness_WeightsAndAccord :
    (Outside s0 np ∧ s0.seqRuns = false ∧ Full s0 [1] ∧ (∀ k, k < 128 → byteOf (s0.me.rdV 1) k < 243)) ∧
    (let s := me (fun t => t.wrV 1 (BitVec.ofNat 1024 (255 * 2 ^ (8 * 127)))) s0
     243 ≤ byteOf (s.me.rdV 1) 127 ∧ ∀ k', k' < 127 → byteOf (s.me.rdV 1) k' < 243) ∧
    (let s := put 6 1 s0
     Outside s np ∧ Full s [1, 6] ∧ s.myCore ∈ sectorCores s.myCluster (s.me.rd 6).toNat ∧
     (∀ c ∈ sectorCores s.myCluster (s.me.rd 6).toNat, s.pidOf (clusterOfCore c) = s.myPid) ∧ (s.core s.myCore).accArr = none) ∧
    s0.myCore ∉ sectorCores s0.myCluster (s0.me.rd 1).toNat := by decide +kernel

/-- A chain of VADD for the Diffuser stands at 2048, another, which it cannot record, at 4096; the lines are cached. -/
def chain : List Nat := encode (.vadd np .i32 .rn (.v 1) (.v 2) (.v 3) 0)
def diffuser : State :=
  let code := fun (v : Nat) (ws : List Nat) =>
    ({ asid := 0, vline := v, pline := v, from_ := 0, data := BitVec.ofNat 512 (ofBytes (ws.flatMap fun w => toBytes 2 w)),
       bad := false } : RoLine)
  co (fun c => { c with ic := [code 32 chain, code 64 (encode (.exit np))] })
    (me (fun t => { t with cls := 0 }) (put 2 2048 (put 3 4096 (put 4 chain.length (put 5 33 (put 6 0 (put 7 (encode (.exit np)).length s0)))))))
/-- A chain that pushes to a stream. -/
def stager : List Nat := encode (.vadd { np with xr := true } .i32 .rn (.q 1) (.v 2) (.v 3) 0)
def difOf (o : Option Nat) (run : Option DifRun) : State :=
  co (fun c => { c with dif := { owner := o, words := chain, run := run, trap := none } }) s0
def run0 : DifRun := { total := 1, rep := 0, next := 0, snap := slot1.g, stag := 0, wrote := [], blocked := false, nw := 1 }
def difReadB (f : List Nat × State → Bool) : Eff ⊕ (List Nat × State) → Bool
  | .inr x => f x
  | .inl _ => false
theorem difReads {c : Eff ⊕ (List Nat × State)} {P : List Nat × State → Prop} [DecidablePred P]
    (h : difReadB (fun a => decide (P a)) c = true) : ∃ a, c = .inr a ∧ P a := by
  cases c with
  | inr a => exact ⟨a, rfl, of_decide_eq_true h⟩
  | inl => cases h

theorem witness_DiffuserInstructions :
    (let s := difOf (some 2) (some run0)
     Outside s np ∧ Full s [1, 2] ∧ s.seqRuns = false ∧ s.dif.run.isSome = true) ∧
    (let s := put 8 2049 diffuser
     Outside s np ∧ s.seqRuns = false ∧ Full s [8, 4] ∧ s.dif.run = none ∧ s.dif.trap = none ∧ 0 < (s.me.rd 4).toNat % 64 ∧
     (s.me.rd 4).toNat % 64 ≤ 32 ∧ (s.me.rd 8).toNat % 2 = 1) ∧
    (let s := diffuser
     Outside s np ∧ s.seqRuns = false ∧ Full s [2, 3, 4, 5, 6, 7] ∧ s.dif.run = none ∧ s.dif.trap = none ∧
     (s.me.rd 6).toNat % 64 = 0 ∧ 32 < (s.me.rd 5).toNat % 64 ∧
     0 < (s.me.rd 4).toNat % 64 ∧ (s.me.rd 4).toNat % 64 ≤ 32 ∧ (s.me.rd 2).toNat % 2 = 0 ∧ 0 < (s.me.rd 7).toNat % 64 ∧
     (∃ x : List Nat × State, readDif (s.me.rd 2) ((s.me.rd 4).toNat % 64) (onUnit s) [] = .inr x ∧ recordBad 33 0 x.1 = none) ∧
     ∃ x : List Nat × State, readDif (s.me.rd 3) ((s.me.rd 7).toNat % 64) (onUnit s) [] = .inr x ∧ recordBad 33 0 x.1 = some 0) ∧
    (Outside (difOf (some 2) none) np ∧ Full (difOf (some 2) none) [1] ∧ (difOf (some 2) none).seqRuns = false ∧
      (difOf (some 2) none).dif.owner ≠ some 1) ∧
    (let s := difOf (some 1) none
     Outside s np ∧ s.seqRuns = false ∧ Full s [1] ∧ s.dif.owner = some s.cur ∧
     Full s (s.dif.instrs.flatMap fun x => (recG x).1.toList ++ (recG x).2) ∧
     difMisuse s.me s.dif.instrs (s.me.rd 1).toNat 0 = false ∧ difMisuse s.me s.dif.instrs (s.me.rd 1).toNat 65535 = false ∧
     ((0 : Int) % 65536).toNat = 0 ∧ ((65535 : Int) % 65536).toNat ≠ 0) ∧
    (let s := put 1 128 (co (fun c => { c with dif := { owner := some 1, words := stager, run := none, trap := none } }) s0)
     Full s [1] ∧ Full s (s.dif.instrs.flatMap fun x => (recG x).1.toList ++ (recG x).2) ∧
     difMisuse s.me s.dif.instrs (s.me.rd 1).toNat 1 = true) := by
  refine ⟨by decide +kernel, by decide +kernel, ⟨?_, ?_, ?_, ?_, ?_, ?_, ?_, ?_, ?_, ?_, ?_, difReads ?_, difReads ?_⟩, ?_, ⟨?_, ?_, ?_, ?_, ?_, ?_, ?_, ?_, ?_⟩, ?_⟩ <;>
    decide +kernel

theorem witness_DifwaitWaits : (127 < 128 ∧ 2047 < 2048) ∧ (Plain s0 np ∧ (s0.core s0.myCore).dif.owner ≠ some s0.cur) ∧
    let s := difOf (some 1) (some run0)
    Plain s np ∧ (s.core s.myCore).dif.owner = some s.cur ∧ (s.core s.myCore).dif.run.isSome = true := by decide +kernel

/-! The copy engine and the grants. -/

/-- Regions of a card translated, and their rights, in one value. -/
def translateB (a b : Fin 32) : State → List Desc → Option (List (List Chunk) × State)
  | s, [] => some ([], s)
  | s, d :: ds =>
    if d.kind = 0 then
      match s.translateAll (piecesOf (d.va s.me a b).toNat d.len) [] with
      | .ok cs s1 => (translateB a b s1 ds).map fun x => (cs :: x.1, x.2)
      | _ => none
    else (translateB a b s ds).map fun x => ((if d.kind = 3 then [] else [d.store s.myCluster]) :: x.1, x.2)
theorem translated {a b : Fin 32} {ds : List Desc} {s : State} {x : List (List Chunk) × State} (h : translateB a b s ds = some x) :
    Translates a b s ds x.1 x.2 := by
  induction ds generalizing s x with
  | nil => simp [translateB] at h; subst h; exact ⟨rfl, rfl⟩
  | cons d ds ih =>
    unfold translateB at h
    split at h
    case isTrue h0 =>
      split at h
      next cs s1 h1 =>
        cases h2 : translateB a b s1 ds with
        | none => simp [h2] at h
        | some y =>
          simp [h2] at h
          subst h
          exact ⟨cs, y.1, s1, rfl, ih h2, by rw [if_pos h0]; exact h1⟩
      next => simp at h
    case isFalse h0 =>
      cases h2 : translateB a b s ds with
      | none => simp [h2] at h
      | some y =>
        simp [h2] at h
        subst h
        exact ⟨_, y.1, s, rfl, ih h2, by rw [if_neg h0]; exact ⟨rfl, rfl⟩⟩
def rightsB (a b : Fin 32) (need : Nat) : State → List Desc → Option State
  | s, [] => some s
  | s, d :: ds =>
    if d.kind = 0 then
      match s.captureRights (s.me.tagOf (if d.base = 1 then a else b)) need (piecesOf (d.va s.me a b).toNat d.len) with
      | .ok _ s1 => rightsB a b need s1 ds
      | _ => none
    else rightsB a b need s ds
theorem righted {a b : Fin 32} {need : Nat} {ds : List Desc} {s x : State} (h : rightsB a b need s ds = some x) :
    Rights a b need s ds x := by
  induction ds generalizing s x with
  | nil => simp [rightsB] at h; subst h; rfl
  | cons d ds ih =>
    unfold rightsB at h
    unfold Rights
    split at h
    case isTrue h0 =>
      rw [if_pos h0]
      split at h
      next cs s1 h1 => exact ⟨cs, s1, h1, ih h⟩
      next => simp at h
    case isFalse h0 =>
      rw [if_neg h0]
      exact ih h
/-- Everything that a card's regions need. -/
def card (a b : Fin 32) (s : State) (c : Card) : Option (List (List Chunk) × State) :=
  (translateB a b s (c.src ++ c.dst)).bind fun x => (rightsB a b 1 x.2 c.src).bind fun s2 =>
    (rightsB a b 2 s2 c.dst).map fun s3 => (x.1, s3)
theorem cards {a b : Fin 32} {s : State} {c : Card} {P : List (List Chunk) → State → Prop} [∀ x y, Decidable (P x y)]
    (h : (card a b s c).any (fun x => decide (P x.1 x.2)) = true) : ∃ css s1 s2 s3, Translates a b s (c.src ++ c.dst) css s1 ∧
      Rights a b 1 s1 c.src s2 ∧ Rights a b 2 s2 c.dst s3 ∧ P css s3 := by
  unfold card at h
  cases h1 : translateB a b s (c.src ++ c.dst) with
  | none => simp [h1] at h
  | some x =>
    cases h2 : rightsB a b 1 x.2 c.src with
    | none => simp [h1, h2] at h
    | some s2 =>
      cases h3 : rightsB a b 2 s2 c.dst with
      | none => simp [h1, h2, h3] at h
      | some s3 => exact ⟨_, _, s2, s3, translated h1, righted h2, righted h3, by simpa [h1, h2, h3] using h⟩

/-- A card stands in the own scratchpad at 1024: 64 bytes from gB to local memory, or 128 bytes from gB to the stream of q4. -/
def copyCard : Nat := 1 + 8 + (2 ^ 53 + 63) * 2 ^ 64 + (2 ^ 54 + 8192 * 2 ^ 20 + 63) * 2 ^ (64 + 56 * 4)
def streamCard : Nat := 1 + 2 * 2 ^ 6 + (2 ^ 53 + 127) * 2 ^ 64
def carded (c : Nat) : State :=
  me (fun t => { t with q := t.q.set 4 (bound false true true 4) }) { s0 with mem := s0.mem.writeCells (cellsAt (s0.ownPa 1024) (toBytes 64 c)) }
def job0 (done : Bool) : Job :=
  { id := 9, seq := 0, op := 0, src := [{ va := none, pa := 1024, len := 8, key := 0 }],
    dst := [.inl { va := none, pa := 2048, len := 8, key := 0 }], k := 1, gen := 0, pid := 0, asid := 0, cls := 2, placed := none, refs := [],
    q := none, wide := false, started := false, bytes := 0, buf := [], vals := [], filled := false, fillsOut := [], fillsIn := 0, cause := 0, done := done, doneAt := 0,
    frozen := false }
/-- Job 0 of the cluster; g6 holds its handle. -/
def jobbed (j : Job) : State := put 6 0 (cl (fun c => { c with jobs := [(0, j)] }) s0)

theorem witness_CopyJobs :
    (∀ x ∈ [(copyCard, (1 : Fin 32), (none : Option (Fin 8 × Bool × Bool))), (streamCard, 0, some (4, false, true))],
      let s := carded x.1
      let c := cardOf (s.cardAt ((s.me.rd 1).toNat % 2 ^ 18))
      Outside s np ∧ Full s [1] ∧ (s.me.q[4].bound = true ∧ s.me.q[4].eng = true) ∧
      (s.me.rd 1).toNat % 2 ^ 18 % 64 = 0 ∧ s.cardBad (x.2.2.map fun x => (x.2.1, if x.2.2 then 128 else 8)) c = false ∧
      Full s ((c.src ++ c.dst).filterMap fun y => if y.base = 1 then some x.2.1 else if y.base = 2 then some 2 else none).eraseDups ∧
      (s.cluster s.myCluster).jobs = [] ∧ s.mySlot = some 0 ∧
      (∀ y ∈ c.src ++ c.dst, y.kind = 0 → nonCanonical (y.va s.me x.2.1 2) y.len = none) ∧
      ∃ css s1 s2 s3, Translates x.2.1 2 s (c.src ++ c.dst) css s1 ∧ Rights x.2.1 2 1 s1 c.src s2 ∧ Rights x.2.1 2 2 s2 c.dst s3 ∧
        (∀ y ∈ pairs (css.drop c.src.length), meets Chunk.sameByte y.1 y.2 = false) ∧
        (∀ y ∈ css.drop c.src.length, ∀ z ∈ css.take c.src.length, meets Chunk.sameByte y z = false) ∧
        ∀ e ∈ (s3.cluster s.myCluster).tlb, e ∈ (s.cluster s.myCluster).tlb) ∧
    (Plain s0 np ∧ Full s0 [1] ∧ s0.jobOf s0.myCluster (s0.me.rd 1) = none) ∧
    ∀ b, let s := jobbed (job0 b)
      Outside s np ∧ Full s [6] ∧ s.jobOf s.myCluster (s.me.rd 6) = some (job0 b) ∧ (job0 b).done = b := by
  refine ⟨?_, by decide +kernel, ?_⟩
  · intro x hx
    refine ⟨?_, ?_, ?_, ?_, ?_, ?_, ?_, ?_, ?_, cards ?_⟩ <;> fin_cases hx <;> decide +kernel
  · intro b
    cases b <;> decide +kernel

/-- g1 holds a reference of generation 0 to entry 0 of the grant table. -/
def tagged (s : State) : State := me (fun t => t.wrTag 1 1024 (some 0)) s

theorem witness_AddgKeepsTheTag : Plain (tagged s0) np ∧ Full (tagged s0) [1, 31] ∧ (tagged s0).me.tagOf 1 = some 0 ∧
    (let s := tagged s0
     Outside s np ∧ Full s [1, 2] ∧ (ea s 1 0 8).toNat % 8 = 0 ∧
     ∃ c s1, s.check (s.me.tagOf 1) (ea s 1 0 8).toNat 8 2 true = .trap c s1) := by
  refine ⟨by decide +kernel, by decide +kernel, by decide +kernel, by decide +kernel, by decide +kernel, by decide +kernel, ?_⟩
  have h : ∀ c : Chk, (match c with
      | .trap .. => true
      | _ => false) = true → ∃ n t, c = .trap n t := by
    intro c hc
    cases c with
    | trap n t => exact ⟨n, t, rfl⟩
    | ok => cases hc
    | park => cases hc
  exact h _ (by decide +kernel)

/-- Partition 0 has a stage 2, which maps its addresses to themselves, and an address space whose grant table stands at 1179648. -/
def mapped : State :=
  let w := fun (a x : Nat) => cellsAt a (toBytes 8 x)
  { s0 with
    mem := s0.mem.writeCells (w 1048576 1064961 ++ w 1048584 (2 ^ 64 - 1) ++ w 1064960 3 ++ w 1114120 1245184 ++
      w 1114128 1179648 ++ w 1114136 1),
    cores := [(0, { core0 with astab := 1114112 })],
    devs := [(0, { Dev.reset with s2dir := 1048576, keys := [(0, 0)] })] }
def grant0 (rvk : Bool) (gen use : Nat) : Grant :=
  { base := 1024, len := 64, rw := true, val := true, rvk := rvk, ret := false, gen := gen, use := use }
/-- Entry 0 of the table holds a grant, of which the core has a copy. -/
def granted (g : Grant) : State :=
  tagged (co (fun c => { c with grants := [{ pa := 1179648, raw := BitVec.ofNat 256 g.toRaw }] })
    { mapped with mem := mapped.mem.writeCells (cellsAt 1179648 (toBytes 32 g.toRaw)) })
def effB (f : State → Bool) : Eff → Bool
  | .done s => f s
  | _ => false
theorem effs {e : Eff} {P : State → Prop} [DecidablePred P] (h : effB (fun s => decide (P s)) e = true) : ∃ s, e = .done s ∧ P s := by
  cases e with
  | done s => exact ⟨s, rfl, of_decide_eq_true h⟩
  | park => cases h
  | rest => cases h
  | trap => cases h

theorem witness_Grants :
    (let s := mapped
     Outside s np ∧ Full s [1, 2] ∧ 0 < (s.me.rd 2).toNat ∧ (s.me.rd 2).toNat ≤ 2 ^ 40 ∧ canonical (s.me.rd 1).toNat = true ∧
     canonical (((s.me.rd 1).toNat + (s.me.rd 2).toNat - 1) % 2 ^ 64) = true ∧
     ∃ s1, grantPages 2 ((s.me.rd 1).toNat + (s.me.rd 2).toNat) .done ((s.me.rd 2).toNat / 65536 + 2) (s.me.rd 1).toNat s = .done s1 ∧
       (∀ e ∈ (s1.cluster s.myCluster).tlb, e ∈ (s.cluster s.myCluster).tlb) ∧
       match s1.freeGrant 4096 0 with
       | .ok (some _) => True
       | _ => False) ∧
    (Plain s0 np ∧ Full s0 [1] ∧ s0.me.tagOf 1 = none) ∧
    (∀ x ∈ [(grant0 false 0 0, false), (grant0 true 1 0, true), (grant0 false 0 3, false), (grant0 false 1 0, false)],
      let s := granted x.1
      Outside s np ∧ Full s [1] ∧ s.me.tagOf 1 = some 0 ∧ s.grantCopy s.myCore 1179648 = some x.1 ∧
      Grant.ofRaw (s.numAt 0 1179648 32) = x.1 ∧ (x.1.rvk = true ∧ x.1.gen = refGen 0 + 1 ↔ x.2 = true) ∧
      (∃ pk, s.grantAddr s.myCore s.me.asid.toNat (refIndex 0) = .ok pk ∧ pk = (1179648, 0)) ∧
      ∀ b ∈ [true, false], s.revokeOver 1179648 0 = b ↔ b = decide (x.1.use = 0)) := by
  refine ⟨⟨by decide +kernel, by decide +kernel, by decide +kernel, by decide +kernel, by decide +kernel, by decide +kernel, ?_⟩,
    by decide +kernel, ?_⟩
  · obtain ⟨s1, h, h1, h2⟩ := effs (e := grantPages 2 2048 .done 2 1024 mapped)
      (P := fun s => (∀ e ∈ (s.cluster 0).tlb, e ∈ (mapped.cluster 0).tlb) ∧ (match s.freeGrant 4096 0 with
        | .ok (some _) => true
        | _ => false) = true) (by decide +kernel)
    refine ⟨s1, h, h1, ?_⟩
    revert h2
    split <;> simp
  · intro x hx
    refine ⟨?_, ?_, ?_, ?_, ?_, ?_, tr_ok ?_, ?_⟩ <;> fin_cases hx <;> decide +kernel

/-! Threads and firmware. -/

/-- A work item at 2048 of the own scratchpad, another with too many arguments at 4096; g2 and g3 name them. -/
def spawner (n : Nat) : State :=
  cl (fun c => { c with items := List.replicate n { pc := 0, args := [], core := none, asid := 0, placed := none, by_ := none } })
    (put 2 2048 (put 3 4096 { s0 with mem := s0.mem.writeCells (cellsAt (s0.ownPa 2048) (toBytes 8 512) ++
      cellsAt (s0.ownPa 4096) (toBytes 8 (9 * 2 ^ 56))) }))
def graph0 : Machine.Graph := { serial := 1, asid := 0, header := 0, nodes := [], stale := false }
def withPart (p : Machine.Part) (s : State) : State := { s with parts := [(0, p)] }
def port (n : Nat) : Machine.Part :=
  { (State.reset.part 0) with graphs := [(5, graph0)], port := List.replicate n { word := 0, session := none, graph := graph0 } }

theorem witness_ThreadInstructions : Outside s0 np ∧
    (∀ n ∈ [0, 32], let s := spawner n
      Outside s np ∧ Full s [2, 3] ∧ (s.me.rd 2).toNat % 2 ^ 18 % 8 = 0 ∧ (s.me.rd 3).toNat % 2 ^ 18 % 8 = 0 ∧
      bits (s.ownWord 2048).toNat 59 56 ≤ 8 ∧ 8 < bits (s.ownWord 4096).toNat 59 56 ∧
      (∃ x : Bool × TlbEnt × State, Target s (signExtend 8 (bits (s.ownWord 2048).toNat 55 0 * 2)) x.1 x.2.1 x.2.2 ∧ x.1 = false) ∧
      (s.cluster s.myCluster).items.length = n) ∧
    (Full s0 [1, 2] ∧ (s0.me.rd 2).toNat % 64 = 0 ∧ (s0.me.rd 2).toNat < 2 ^ 38 ∧ let s := put 2 (2 ^ 38) (put 3 8 s0)
      Outside s np ∧ Full s [1, 2, 3] ∧ 2 ^ 38 ≤ (s.me.rd 2).toNat ∧ (s.me.rd 3).toNat % 64 ≠ 0) ∧
    ((withPart (port 0) s0).graphOf 0 5 = none ∧ (withPart (port 0) s0).graphOf 0 (4096 + 5) = some graph0 ∧
      ((withPart (port 63) s0).part 0).port.length = 63 ∧ ((withPart (port 64) s0).part 0).port.length = 64) ∧
    (Full s0 [1] ∧ (s0.me.rd 1).toNat % 2 ^ 18 % 64 = 0 ∧ (s0.core s0.myCore).inbox = [] ∧
      let s := co (fun c => { c with inbox := [List.replicate 64 1] }) s0
      Outside s np ∧ (s.core s.myCore).inbox = List.replicate 64 1 :: []) ∧ Plain s0 np := by
  refine ⟨by decide +kernel, ?_, by decide +kernel, by decide +kernel, by decide +kernel, by decide +kernel⟩
  intro n hn
  refine ⟨?_, ?_, ?_, ?_, ?_, ?_, targets ?_, ?_⟩ <;> fin_cases hn <;> decide +kernel

/-- The thread is of a class; g2 holds 1, g3 2047, g4 a write that retires key 5, g5 register 0 of the measurements. -/
def ofClass (c : BitVec 2) (bootst : Word) : State :=
  me (fun t => { t with cls := c }) (put 2 1 (put 3 2047 (put 4 (2 * 2 ^ 62 + 5) (put 5 4096 (put 6 0 (s0.modDev 0 fun d => { d with bootst := bootst }))))))

/-- A final position on its way writes the frame at 2^20, and a store under key 5 is on the network. -/
def busy (s : State) : State :=
  { s with dies := [(0, { Die.reset with notices := [.final 9 3 0 0 false none [] [(2 ^ 14, 0)] []] })],
           net := [{ id := 5, k := 1, gen := 0, pid := 0, kind := .op { entry with key := 5 } }] }

theorem witness_SystemRegisters :
    (∀ c ∈ [(1 : BitVec 2), 2], let s := ofClass c 0
      Outside s np ∧ Full s (instRegs 1 3) ∧ Full s (instRegs 1 2) ∧ Full s (1 :: instRegs 1 2) ∧ Full s (1 :: instRegs 3 6) ∧
      s.sysKey 1 (s.me.rd 3) = none ∧ s.sysKey 1 (s.me.rd 2) = some 1 ∧ s.sysOwn 1 1 = false ∧
      s.sysKey 3 (s.me.rd 6) = some 0 ∧ s.sysOwn 3 0 = true ∧ (s.me.cls.toNat < 2 ↔ c = 1)) ∧
    (let s := ofClass 2 0
     Full s (4 :: instRegs 0x54 6) ∧ s.sysKey 0x54 (s.me.rd 6) = some 0 ∧ s.sysOwn 0x54 0 = true ∧
     ¬ (bits (s.me.rd 4).toNat 63 62 = 2 ∧ s.keyBusy 0 (bits (s.me.rd 4).toNat 13 0) = true)) ∧
    (let s := ofClass 2 2
     Outside s np ∧ Full s (5 :: instRegs 0x1C 6) ∧ s.sysKey 0x1C (s.me.rd 6) = some 0 ∧ s.sysOwn 0x1C 0 = true ∧
     (s.me.rd 5).toNat % 16 < 5 ∧ bits (s.dev s.myDev).bootst.toNat 3 0 = 2) ∧
    (let s := ofClass 2 1
     ¬ ((s.me.rd 5).toNat % 16 < 5 ∧ bits (s.dev s.myDev).bootst.toNat 3 0 = 2) ∧
     ∃ bs s', Reads s none (keep (s.me.rd 5) 63 6) 48 bs s' ∧ bs.length = 48) ∧
    (let s := ofClass 2 0
     Full s (2 :: instRegs 0x08 6) ∧ s.sysKey 0x08 (s.me.rd 6) = some 0 ∧ (s.me.rd 2).toNat.testBit 0 = true) ∧
    (let s := put 4 (2 ^ 63 + 2 ^ 20) (busy (ofClass 2 0))
     Outside s np ∧ Full s (4 :: instRegs 0x21 6) ∧ s.sysKey 0x21 (s.me.rd 6) = some 0 ∧ s.sysOwn 0x21 0 = true ∧
     (s.me.rd 4).toNat.testBit 63 = true ∧ s.finalTo 0 (movedBase (s.me.rd 4).toNat) ((s.me.rd 4).toNat % 4) = true) ∧
    (let s := busy (ofClass 2 0)
     Full s (4 :: instRegs 0x54 6) ∧ s.sysKey 0x54 (s.me.rd 6) = some 0 ∧ bits (s.me.rd 4).toNat 63 62 = 2 ∧
     s.keyBusy 0 (bits (s.me.rd 4).toNat 13 0) = true) ∧
    (let s := { s0 with srds := [{ k := 1, d := 3, n := 2, key := 0 }] }
     let t := { s with swrs := [(2, 0)] }
     s.swrs.contains (2, 0) = false ∧ t.swrs.contains (2, 0) = true ∧ (t.slot 1).park = none) ∧
    (0x52, 0xFFFFFFFF#64) ∈ [(0x51, 0xFFFFFFFF000#64), (0x52, 0xFFFFFFFF#64)] := by
  refine ⟨?_, by decide +kernel, by decide +kernel, ⟨by decide +kernel, reads ?_ (chk_ok ?_)⟩, by decide +kernel, by decide +kernel,
    by decide +kernel, by decide +kernel, by decide⟩
  · intro c hc
    fin_cases hc <;> decide +kernel
  · decide +kernel
  · decide +kernel

/-- Slot 2 of the core is vacant, with a save area of its own; word 4 and word 2 of every frame have given values. -/
def framed (pc tsw : Nat) : State :=
  let at_ := fun (a x : Nat) => cellsAt a (toBytes 8 x)
  put 2 2 (put 3 1 { s0 with
    slots := [(1, slot1), (2, { Slot.vacant with tsave := 2 ^ 36 + 1024 })],
    mem := s0.mem.writeCells (at_ (131072 + 16) pc ++ at_ (131072 + 32) tsw ++ at_ (132096 + 16) pc ++ at_ (132096 + 32) tsw) })

theorem witness_Returns :
    (∀ x ∈ [(64, 8 * 4096), (64, 9 * 4096)], let s := framed x.1 x.2
      Outside s np ∧ Full s (some (1 : Fin 32)).toList ∧ ∃ y, s.dataPage s.myCore s.me.asid.toNat s.me.tsave.toNat = .ok y ∧
        bits (y.2.frameAt y.1 s.me.tsave.toNat 4) 15 12 = x.2 / 4096) ∧
    (∀ x ∈ [(64, 0, true), (64, 9 * 4096, false), (2 ^ 62, 0, false)], let s := framed x.1 x.2.1
      Outside s np ∧ Full s [2] ∧ s.me.occ = true ∧ s.myCore * 16 + (s.me.rd 2).toNat % 16 = 2 ∧ 2 % 16 ≠ 0 ∧ (s.slot 2).occ = false ∧
      ∃ y, s.dataPage s.myCore (s.slot 2).asid.toNat (s.slot 2).tsave.toNat = .ok y ∧
        ((canonical (y.2.frameAt y.1 (s.slot 2).tsave.toNat 2 / 2 * 2) = true ∧
          bits (y.2.frameAt y.1 (s.slot 2).tsave.toNat 4) 15 12 ≤ 8) ↔ x.2.2 = true)) ∧
    (let s := framed 0 0
     (s.slot (s.myCore * 16 + (s.me.rd 3).toNat % 16)).occ = true) ∧ (0 : Nat) % 16 = 0 := by
  refine ⟨?_, ?_, by decide +kernel, rfl⟩
  · intro x hx
    refine ⟨?_, ?_, tr_ok ?_⟩ <;> fin_cases hx <;> decide +kernel
  · intro x hx
    refine ⟨?_, ?_, ?_, ?_, ?_, ?_, tr_ok ?_⟩ <;> fin_cases hx <;> decide +kernel

theorem witness_Maintenance : (Outside s0 np ∧ Full s0 [1] ∧ Full s0 [1, 2] ∧
    min (s0.me.rd 2).toNat (2 ^ 64 - (s0.me.rd 1).toNat) ≠ 0 ∧ devOf 0 ∈ s0.spanDevs s0.myCluster false ∧ clusterOfCore 0 = 0) ∧
    (let s := put 6 0 s0
     Outside s np ∧ Full s [1] ∧ Full s [1, 6] ∧ min (s.me.rd 6).toNat (2 ^ 64 - (s.me.rd 1).toNat) = 0) ∧
    ((s0.probe s0.myCore s0.myPid ((s0.me.rd 6).toNat % 65536) (s0.me.rd 1).toNat).2.2 = false) ∧
    (let s := put 6 0 s0
     (s.probe s.myCore s.myPid ((s.me.rd 6).toNat % 65536) (s.me.rd 1).toNat).2.2 = true) ∧
    (Outside owing np ∧ Full owing [1, 2] ∧ owing.allHome owing.cur = false ∧ s0.allHome s0.cur = true) ∧
    (s0.pidOf (clusterOfCore 0) = s0.myPid ∧ devOfCore 0 ∈ s0.spanDevs s0.myCluster false ∧
      (s0.slot 1).row = some row ∧ (s0.slot 2).row = none) ∧
    (let s := put 6 64 { s0 with devs := [(0, { Dev.reset with keys := [(0, 7)] })], l2 := [{ line := 16, ser := 7, data := 9 }, { line := 4096, ser := 8, data := 9 }] }
     Outside s np ∧ Full s [1, 6] ∧ s.allHome s.cur = true ∧ (s.l2.map (·.line)).Nodup ∧
     (∀ l ∈ s.l2, s.serials.get 0 l.line ≠ l.ser) ∧ devOfAddr (16 * 64) ∈ s.spanDevs s.myCluster false ∧
     min (s.me.rd 6).toNat (2 ^ 64 - (s.me.rd 1).toNat) = 64 ∧ s.l2Named 1024 64 { line := 16, ser := 7, data := 9 } = true ∧
     devOfAddr (16 * 64) = s.myDev ∧ meet (localOfAddr (16 * 64)) 64 1024 64 = true ∧ meet (localOfAddr (4096 * 64)) 64 1024 64 = false) := by
  refine ⟨?_, ?_, ?_, ?_, ?_, ?_, ?_⟩ <;> decide +kernel

/-- Firmware runs, whose image table gives every role cores of the clusters 7, 15, and on, or does not; the own cluster is of a
partition; a thread of class 2 sends. g2 to g6 hold 0, 7, 1279, 1280 and 1, g7 513. -/
def roles (boot : Word) (pid : Nat) (c : BitVec 2) : State :=
  me (fun t => { t with cls := c }) (put 2 0 (put 3 7 (put 4 1279 (put 5 1280 (put 6 1 (put 7 513
    (cl (fun x => { x with fwall := BitVec.ofNat 64 pid, tlb := pages.map fun e => { e with pid := pid } })
      (s0.modDev 0 fun d => { d with bootst := boot, flash := List.replicate 256 1 }))))))))
/-- An order to the clusters that the low byte of a mask names stands at 1024. -/
def order (pid m : Nat) : State :=
  { roles 0 pid 2 with mem := s0.mem.writeCells (cellsAt 1032 [BitVec.ofNat 8 m]) }

/-- The thread belongs to node 0 of instance 2 of partition 0, which is recoverable; the node runs. -/
def node0 : NodeRec := { lrec := none, fence := false, derive_ := false, foot := [], preds := [] }
def noded (s : State) : State :=
  { me (fun t => { t with placed := some ⟨0, 2, 0⟩ }) s with
    parts := [(0, { Part.reset with recoverable := true, insts := [(2, { Inst.blank with nodes := [.running node0 1 [] [(1, 0)]] })] })] }

theorem witness_MessagesStopsWatchdogs :
    (let s := roles 0 0 2
     Outside s np ∧ Full s [1, 2] ∧ Full s [1, 3] ∧ Full s [7, 1, 1] ∧ Full s [2, 1, 1] ∧ 6 ≤ (s.me.rd 3).toNat % 8 ∧
     (s.me.rd 2).toNat % 8 < 6 ∧ (s.me.rd 1).toNat % 16 = 0 ∧ (s.me.rd 2).toNat = 0 ∧ 512 < (s.me.rd 7).toNat) ∧
    (∃ bs s', Reads (roles 0 0 2) none ((roles 0 0 2).me.rd 1) 48 bs s' ∧ (s'.nextRole 0 0).1 = none) ∧
    (let s := noded (roles 0 0 2)
     (s.me.rd 4).toNat % 8 = 7 ∧ ∃ bs s', Reads s (s.me.tagOf 1) (s.me.rd 1) 48 bs s' ∧ s'.uncommitted s.cur = some ⟨0, 2, 0⟩) ∧
    (∃ bs s', Reads (roles 2 0 2) none ((roles 2 0 2).me.rd 1) 48 bs s' ∧ (s'.nextRole 0 0).1 = some 56 ∧
      (roles 2 0 2).admits 0 7 (some 17) = true) ∧
    (∃ bs s', Reads (roles 2 5 2) none ((roles 2 5 2).me.rd 1) 48 bs s' ∧ (s'.nextRole 0 0).1 = some 56 ∧
      (roles 2 5 2).myPid = 5 ∧ (roles 2 5 2).admits 5 7 (some 17) = false) ∧
    (let s := roles 0 5 1
     Outside s np ∧ (∀ r : Fin 32, Full s [r]) ∧ s.slotOfName s.myDev (s.me.rd 2) = some 0 ∧ bits (s.me.rd 2).toNat 63 40 = 0 ∧
     1280 ≤ (s.me.rd 5).toNat % 2048 ∧ (s.me.rd 4).toNat % 2048 < 1280 ∧ s.me.cls.toNat < 2 ∧
     s.pidOf (clusterOfCore (s.myDev * 1280 + (s.me.rd 4).toNat % 2048)) ≠ s.myPid ∧
     s.pidOf (clusterOfCore (s.myDev * 1280 + (s.me.rd 2).toNat % 2048)) = s.myPid) ∧
    (let s := put 2 (40 * 2 ^ 23) s0
     Full s [2] ∧ s.slotOfName s.myDev (s.me.rd 2) = none) ∧
    (∀ x ∈ [(0, 0), (0, 2), (5, 1)], Outside (order x.1 x.2) np ∧ Full (order x.1 x.2) [6, 1, 1] ∧ ((order x.1 x.2).me.rd 6).toNat = 1 ∧
      ((order x.1 x.2).me.rd 1).toNat % 32 = 0 ∧
      ∃ bs s', Reads (order x.1 x.2) none ((order x.1 x.2).me.rd 1) 32 bs s' ∧
        (s'.stopEntries 0 bs 1 = if x.2 = 0 then none else some [(0, x.2)]) ∧
        (s'.stopClusters 0 [(0, x.2)]).2 = true ∧ ∀ ck ∈ (s'.stopClusters 0 [(0, x.2)]).1, (s'.pidOf ck = 0 ↔ x.1 = 0)) := by
  refine ⟨?_, reads ?_ (chk_ok ?_), ⟨?_, reads ?_ (chk_ok ?_)⟩, reads ?_ (chk_ok ?_), reads ?_ (chk_ok ?_), ?_, ?_, ?_⟩
  all_goals try decide +kernel
  intro x hx
  refine ⟨?_, ?_, ?_, ?_, reads ?_ (chk_ok ?_)⟩ <;> fin_cases hx <;> decide +kernel

/-! Parks, fills, the dispenser and sleep. -/

def parkedOn (w : Wait) (r : Rest) : State := me (fun t => { t with park := some (pk w r) }) s0

theorem witness_ParksEnd :
    (∀ r ∈ [Rest.finish [.g 1 5], .reissue, .again, .fault 7 0], let s := on (.parkedResume 1) (parkedOn .latency r)
      (s.slot 1).park = some (pk .latency r) ∧ (s.slot 1).sstep = false ∧ { s with cur := 1 }.wrBad (.g 1 5) = none) ∧
    (∃ ve se s', Delivers { State.modMe { on (.parkedResume 1) (parkedOn .latency (.trap (info none))) with cur := 1 }
        fun t => { t with park := none } with cur := 1 } (trapGroup 0x0E) ve se s') ∧
    (∃ ve se s', Delivers { State.abort (State.modMe { on (.parkedResume 1) (parkedOn .latency (.fault 7 0)) with cur := 1 }
        fun t => { t with park := none }) 1 6 with cur := 1 } (trapGroup 7) ve se s') ∧
    (∀ x ∈ [(Wait.time 9, false), (.latency, true), (.resv none 3, true), (.answers, true), (.gangEnd, true)],
      let s := cl (fun c => { c with gang := some { gang0 0 with ended := List.range 8 } })
        (on (.parkEvent 1) (me (fun t => { t with region := some region0 }) (parkedOn x.1 .reissue)))
      (s.slot 1).park = some (pk x.1 .reissue) ∧ (pk x.1 .reissue).arrived = false ∧
        s.waitOver 1 x.1 = x.2) ∧
    (let s := on (.parkTimeout 1) (me (fun t => { t with k := { KRegs.reset with parkto := 7 } })
      { parkedOn (.reg 3) .reissue with clock := 8 })
     ((s.slot 1).park = some (pk (.reg 3) .reissue) ∧ (pk (.reg 3) .reissue).arrived = false ∧ (pk (.reg 3) .reissue).exempt = false ∧
       (s.slot 1).inh = false ∧ (s.slot 1).stopped = false ∧ (s.cluster (clusterOf 1)).hold = false ∧ (s.slot 1).k.parkto ≠ 0 ∧
       0 + (s.slot 1).k.parkto.toNat < s.clock) ∧
     ∃ ve se s', Delivers { ((s.withdraw 1).rouse (coreOf 1)).abort 1 6 with cur := 1 } (trapGroup 0x11) ve se s') ∧
    ((parkedOn (.reg 3) .reissue).slot 1).k.parkto = 0 ∧
    (let s := on (.coreInterruptTake 1) { s0 with mem := s0.mem.writeCells [(65536 + 128, 2), (65536 + 129, 16)] }
     (s.slot 1).park = none ∧ (s.slot 1).inh = false ∧
     ∃ ve se s', Delivers { (s.halt 1).modSlot 1 fun t => { t with heldInt := false } with cur := 1 } (trapGroup 0x21) ve se s') ∧
    ((me (fun t => { t with inh := true }) s0).slot 1).inh = true ∧
    ((on (.frozenLeafReread 1) (parkedOn (.frozen 256) .reissue)).slot 1).park = some (pk (.frozen 256) .reissue) ∧
    ∃ ve se s', Delivers { s0.abort s0.cur 6 with cur := s0.cur } (trapGroup 1) ve se s' := by
  refine ⟨?_, delivers ?_, delivers ?_, ?_, ⟨?_, delivers ?_⟩, ?_, ⟨?_, ?_, delivers ?_⟩, ?_, ?_, delivers ?_⟩
  all_goals decide +kernel

/-- A fill to the thread: from a slot of its own core, under a generation. -/
def fillOf (gen : Nat) : MsgKind := .fill (BitVec.ofNat 64 (65536 + gen)) 3 9 none none
def heldFill : HeldFill := { reg := 3, val := 9, sender := none }
def item0 : Item := { pc := 64, args := [1], core := some 0, asid := 0, placed := none, by_ := none }
def item1 : Item := { pc := 64, args := [1], core := some 1, asid := 0, placed := none, by_ := none }
def slept (a : Bool) (w : Option Nat) : State := co (fun c => { c with asleep := a, wakeEnd := w, sdepth := 1 }) (sent (fillOf 0))

theorem witness_FillsItemsAndSleep :
    (let s := on (.fillArrival 5) (sent (.fill (40 * 2 ^ 23) 3 9 none none))
     ∃ m, s.msg 5 = some m ∧ m.kind = .fill (40 * 2 ^ 23) 3 9 none none ∧ s.slotOfName (devOfSlot m.k) (40 * 2 ^ 23) = none) ∧
    (∀ x ∈ [(0, false, 0), (1, false, 0), (0, true, 31), (0, true, 32)],
      let s := on (.fillArrival 5) (me (fun t => { t with inh := x.2.1, held := List.replicate x.2.2 heldFill }) (sent (fillOf x.1)))
      ∃ m, s.msg 5 = some m ∧ m.kind = fillOf x.1 ∧
        s.slotOfName (devOfSlot m.k) (BitVec.ofNat 64 (65536 + x.1)) = some 1 ∧ (s.core (coreOf 1)).asleep = false ∧
        (s.core (coreOf 1)).wakeEnd = none ∧ (s.slot 1).occ = true ∧
        ((s.slot 1).gen.toNat = (BitVec.ofNat 64 (65536 + x.1)).toNat % 65536 ↔ x.1 = 0) ∧
        (s.slot 1).inh = x.2.1 ∧ (s.slot 1).held.length = x.2.2 ∧ s.admits m.pid (clusterOf 1) none = true) ∧
    (let s := on (.fillArrival 5) (me (fun t => { t with inh := true }) (sent (fillOf 0)))
     ∃ ve s1, s.savePage 1 = .ok (ve, s1)) ∧
    (∀ job ∈ [none, some (0, 0)], let kind := MsgKind.fill 65536 3 9 none job
     let s := on (.fillArrival 5) { sent kind with net := [{ id := 5, k := 1, gen := 0, pid := 7, kind := kind }] }
     ∃ m, s.msg 5 = some m ∧ m.kind = kind ∧ s.slotOfName (devOfSlot m.k) 65536 = some 1 ∧ (s.slot 1).inh = false ∧
       s.admits m.pid (clusterOf 1) none = false) ∧
    (∀ x ∈ [(true, none), (false, some 9)], let s := on (.fillArrival 5) (slept x.1 x.2)
      ∃ m, s.msg 5 = some m ∧ m.kind = fillOf 0 ∧ s.slotOfName (devOfSlot m.k) 65536 = some 1 ∧ (s.slot 1).inh = false ∧
        s.admits m.pid (clusterOf 1) none = true ∧
        ((s.core (coreOf 1)).asleep = true ∨ (s.core (coreOf 1)).wakeEnd ≠ none)) ∧
    (let s := on (.dispense 0) (cl (fun c => { c with items := [item1, item0] }) (parkedOn .work .reissue))
     (s.cluster 0).items = [item1] ++ item0 :: [] ∧ (∀ i ∈ [item1], s.waiter 0 i = none) ∧ s.waiter 0 item0 = some 1 ∧
     (s.slot 1).sstep = false ∧ (1 : Fin 32).val ≤ item0.args.length ∧ item0.args.length < (8 : Fin 32).val) ∧
    ((on (.sleepWake 0) (slept true none)).core 0).asleep = true ∧
    (let m : Msg := { id := 5, k := 1, gen := 0, pid := 0, kind := fillOf 0 }
     let s := on (.wakeEnd 0) (co (fun c => { c with heldFills := [m] }) (slept false (some 9)))
     (s.core 0).heldFills = [m] ∧ m.kind = fillOf 0 ∧ (s.core 0).asleep = false ∧ s.slotOfName (devOfSlot m.k) 65536 = some 1 ∧
     coreOf 1 = 0 ∧ (s.slot 1).occ = true ∧ (s.slot 1).gen.toNat = (65536 : Word).toNat % 65536 ∧ (s.slot 1).inh = false ∧
     s.admits m.pid (clusterOf 1) none = true) := by
  refine ⟨⟨_, rfl, rfl, ?_⟩, fun x hx => ⟨_, rfl, rfl, ?_⟩, ?_, fun x hx => ⟨_, rfl, rfl, ?_⟩, fun x hx => ⟨_, rfl, rfl, ?_⟩, ?_, ?_, ?_⟩
  all_goals try decide +kernel
  · fin_cases hx <;> decide +kernel
  · obtain ⟨x, h, -⟩ := tr_ok (c := (on (.fillArrival 5) (me (fun t => { t with inh := true }) (sent (fillOf 0)))).savePage 1)
      (P := fun _ => True) (by decide +kernel)
    exact ⟨x.1, x.2, h⟩
  all_goals fin_cases hx <;> decide +kernel

/-! Homes, lanes and regions. -/

def withDie (f : Die → Die) (s : State) : State := { s with dies := [(0, f Die.reset)] }
def lane0 (b : Option RemRec) (del ref : Bool) : Machine.Lane :=
  { k := 1, gen := 0, dst := 0, flight := [entry], acks := [(4, none), (3, some 2)], path := none, broken := b, delivered := del,
    refused := ref, begun := none }
def laned (l : Machine.Lane) (s : State) : State := { s with lanes := [l] }
/-- A serial region's final position, which reads line 16, is on its way. -/
def finale : Notice := .final 30 3 7 0 true none [(1024, 1)] [(16, 0)] [16]
def tag0 : RelTag := { scope := .die 0, core := 0 }
def miss0 : Msg := { id := 5, k := 1, gen := 0, pid := 0, kind := .scopeMiss 16 tag0 0 4 }

/-- A full/empty operation of the thread waits on word 0 of local memory. -/
def waiter0 (st : Option Word) : BankWait := { word := 549755813888, full := true, k := 1, d := 1, la := 0, store := st, leave := false, tag := none }
def banked (st : Option Word) : State :=
  on (.feWaiterService 549755813888) (cl (fun c => { c with bank := [waiter0 st] }) (parkedOn (.bank 549755813888 true) (.finish [])))

def amo0 : MsgKind := .amo .add true 1024 1024 0 1 2 3 none
def stc0 : MsgKind := .stc (2 ^ 62) 1024 0 1 2 none
/-- The new translation of a moved operation. -/
def reissued (s : State) (x : MsgKind) : Tr (TlbEnt × State) :=
  let asid := (s.slot 1).asid.toNat
  ((s.rereadAt 0 asid x.va.toNat).translate 0 asid x.va.toNat).bind fun e =>
    (e.2.resolve e.1 x.va.toNat (some (s.msgCls { id := 5, k := 1, gen := 0, pid := 0, kind := .moved x 0 } x))).bind fun p => .ok (p, e.2)
/-- A walk of two levels stands in memory, whose leaf maps the first 8 GiB; a moved operation waits. -/
def reissue (leaf : Nat) (x : MsgKind) : State :=
  let w := fun (a x : Nat) => cellsAt a (toBytes 8 x)
  { mapped with mem := mapped.mem.writeCells (w 1114112 1310720 ++ w 1310720 1343489 ++ w 1343488 leaf),
                net := [{ id := 5, k := 1, gen := 0, pid := 0, kind := .moved x 0 }] }
theorem witness_HomesAndLanes :
    (((withDie (fun d => { d with notices := [.inval 24 16 1, finale] }) s0).die 0).notices = .inval 24 16 1 :: [finale]) ∧
    (∃ m, (sent (.ack 16 1 0)).msg 5 = some m ∧ m.kind = .ack 16 1 0) ∧
    (let l := lane0 none false false
     let s := on (.postedOpApply 0) (laned l mapped)
     s.lanes[0]? = some l ∧ l.flight = entry :: [] ∧ l.broken = none ∧ (∃ ak, s.postedRest l entry = .ok ak ∧
       (s.opCells ak.2 ak.1 ((entry.op.piece (entry.badAt s ak.2 ak.1) s.choose.1).1.rebase entry.pa ak.1)).Pairwise
         (fun c c' => c.1 ≠ c'.1 ∧ isLocalWin (localOfAddr c.1) = isLocalWin (localOfAddr c'.1))) ∧
     (match (laned l s0).postedRest l entry with
       | .fault 7 => true
       | _ => false) = true ∧
     (match (withDie (fun d => { d with notices := [finale] }) (laned l mapped)).postedRest l entry with
       | .frozen => true
       | _ => false) = true) ∧
    (let l := { lane0 none false false with begun := some (1024, 0) }
     ∃ ak, (laned l s0).postedRest l entry = .ok ak ∧ ak = (1024, 0)) ∧
    (let l := lane0 (some rec0) true false
     (laned l s0).lanes[0]? = some l ∧ l.flight = entry :: [] ∧ l.broken.isSome = true ∧
     l.acks = (4, none) :: [(3, some 2)] ∧ l.delivered = true ∧ ((laned l s0).slot l.k).gen = l.gen ∧
     ((laned { l with acks := [(3, some 2)] } s0).lanes[0]?.map (·.acks)) = some ((3, some 2) :: [])) ∧
    (∀ n ∈ [3, 4], let l := lane0 (some rec0) false false
      let s := laned l (me (fun t => { t with recs := List.replicate n rec0 }) s0)
      s.lanes[0]? = some l ∧ l.broken = some rec0 ∧ l.delivered = false ∧ l.refused = false ∧ (s.slot l.k).gen = l.gen ∧
      (s.slot l.k).recs.length = n) ∧
    (let l : Machine.Lane := { lane0 (some rec0) false false with dst := 1 }
     (laned l s0).lanes[0]? = some l ∧ l.dst ≠ devOfSlot l.k) ∧
    (let s := on (.movedAnswer 5) (reissue 3 amo0)
     (∃ m, s.msg 5 = some m ∧ m.k = 1 ∧ m.kind = .moved amo0 0) ∧
     ∃ e, reissued s amo0 = .ok e ∧ e.2.mayReach (clusterOf 1) (e.1.pa amo0.va.toNat) = true ∧
       e.2.routeUp (devOfSlot 1) e.1.dev = true ∧ e.2.walled (clusterOf 1) (e.2.pidOf (clusterOf 1)) (e.1.pa amo0.va.toNat) = false) ∧
    (let s := on (.movedAnswer 5) (reissue 19 amo0)
     (∃ m, s.msg 5 = some m ∧ m.k = 1 ∧ m.kind = .moved amo0 0) ∧ (match reissued s amo0 with
       | .frozen => true
       | _ => false) = true) ∧
    (let s := on (.movedAnswer 5) (reissue 3 stc0)
     (∃ m, s.msg 5 = some m ∧ m.k = 1 ∧ m.kind = .moved stc0 0) ∧ (match reissued s stc0 with
       | .fault 6 => true
       | _ => false) = true ∧ ∀ e, stc0 ≠ .op e) ∧
    ((banked none).feNext 549755813888 = some (0, waiter0 none) ∧
      (banked (some 9)).feNext 549755813888 = some (0, waiter0 (some 9)) ∧ isLocalWin (localOfAddr (549755813888 * 8)) = true ∧
      (banked none).poisonOf 0 (549755813888 * 8) 8 = none ∧ ((banked none).clusters.map (·.1)).Nodup ∧
      (((banked none).clusters.flatMap fun x => x.2.bank).filter (·.k == 1)).length = 1) ∧
    (∃ m, (sent (.scopeMiss 16 tag0 0 4)).msg 5 = some m ∧ m.kind = .scopeMiss 16 tag0 0 4) ∧
    (let s := on (.scopeMissAnswer 0) (co (fun c => { c with misses := [miss0] }) { parkedOn (.reply 5) .reissue with tags := [(16, tag0)] })
     (s.core 0).misses = miss0 :: [] ∧ miss0.kind = .scopeMiss 16 tag0 0 4 ∧ s.missMet 0 0 4 = true ∧
     (s.slot 1).park = some (pk (.reply 5) .reissue) ∧
     5 ∈ s.missesMet 0 16 tag0 ∧
     s.tags.find? (·.1 == 16) = some (16, tag0) ∧ (co (fun c => { c with sq := [{ entry with id := 3 }] }) s).missMet 0 0 4 = false) := by
  refine ⟨by decide +kernel, ⟨_, rfl, rfl⟩, ⟨by decide +kernel, rfl, rfl, tr_ok ?_, ?_, ?_⟩, tr_ok ?_, by decide +kernel, ?_, by decide +kernel,
    ⟨⟨_, rfl, rfl, rfl⟩, tr_ok ?_⟩, ⟨⟨_, rfl, rfl, rfl⟩, ?_⟩, ⟨⟨_, rfl, rfl, rfl⟩, ?_, fun e h => by cases h⟩, ?_, ⟨_, rfl, rfl⟩,
    by decide +kernel⟩
  all_goals decide +kernel

/-- A region of the thread with one access on its way, its line's record, and a region of slot 2 that has read and written it. -/
def region2 : Region := { region0 with id := 4, serial := false, out := 1 }
def regioned (acc : RegAcc) : State :=
  let s := sent (.region 3 16 0 1 100 acc)
  withDie (fun d => { d with lines := [{ line := 16, wp := 2, rp := 1, readers := [4], writers := [4] }] })
    { s with slots := [(1, { (s.slot 1) with region := some { region0 with out := 1 } }), (2, { slot1 with region := some region2 })] }
def written0 (out : Nat) : Region := { region0 with out := out, wlines := [(16, 0)], wvas := [(16, 0)] }
def closing (r : Region) (lo hi : Nat) (s : State) : State := me (fun t => { t with region := some r, eblo := lo, ebhi := hi }) s

theorem witness_RegionEvents :
    (∀ acc ∈ [RegAcc.read 1 1024 1024 8 false, .write 1024], let s := on (.regionAccessAtSlice 5) (regioned acc)
      ∃ m, s.msg 5 = some m ∧ m.kind = .region 3 16 0 1 100 acc ∧ s.isMoved (s.pidOf (clusterOf m.k)) (16 * 64) = false ∧
        s.lineAhead m = false ∧ s.regionSlot 3 = some 1 ∧
        (s.slot 1).region = some { region0 with out := 1 } ∧ s.isSerial 3 = false ∧ s.poisonOf 0 1024 8 = none ∧
        (s.slot 1).park = some (pk (.reply 5) (.finish [])) ∧ (4 ≠ 3 ∧ 4 ∈ ((s.die (s.homeDie (16 * 64))).lineRec 16).writers) ∧
        s.isSerial 4 = false ∧ s.regionSlot 4 = some 2) ∧
    (let s := on (.narrowingArrival 0) (co (fun c => { c with narrow := [(3, 5, 9, 4)] }) (closing region0 1 100 s0))
     coreOf 1 = 0 ∧ (s.slot 1).region = some region0 ∧ s.regionSlot region0.id = some 1 ∧ ∀ e ∈ s.slots, e.2.sstep = false) ∧
    (∀ x ∈ [(5, 5, true), (6, 5, true), (5, 5, false)],
      let s := on (.broadcastTurnGrant 0) (withDie (fun d => { d with turnQ := [1] })
        (closing (written0 (if x.2.2 then 0 else 1)) x.1 x.2.1 s0))
      (s.die 0).turnOf = none ∧ (s.die 0).turnQ = 1 :: [] ∧ (s.slot 1).region = some (written0 (if x.2.2 then 0 else 1)) ∧
      (s.slot 1).sstep = false ∧ s.isMoved (s.pidOf 0) (16 * 64) = false ∧ s.homeDie (16 * 64) = 0 ∧
      s.commitReady 1 (written0 (if x.2.2 then 0 else 1)) = x.2.2 ∧ (s.slot 1).eblo = x.1 ∧ (s.slot 1).ebhi = x.2.1) ∧
    (s0.slot 1).region = none ∧
    (let s := on (.finalPositionBroadcast 0) { regioned (.write 1024) with dies := [(0, { (regioned (.write 1024)).die 0 with
       notices := [finale], edges := [{ slice := 0, r1 := 3, r2 := 4 }] })] }
     (s.die 0).notices = .final 30 3 7 0 true none [(1024, 1)] [(16, 0)] [16] :: [] ∧ ([(16, 0)].map (·.1) : List Nat).Nodup ∧
     (1024 / 64, 0) ∈ [(16, 0)] ∧ (∃ e ∈ (s.die 0).edges, e.r1 = 3 ∧ s.regionSlot e.r2 = some 2) ∧
     ∃ l ∈ (s.die 0).lines, FMap.has [(16, 0)] l.line = true ∧ ∃ y ∈ l.readers, y ≠ 3 ∧ s.isSerial y = false ∧ s.regionSlot y = some 2) ∧
    (let s := on (.serialTokenGrant 0) (withDie (fun d => { d with tokenQ := [1] }) (parkedOn .token .reissue))
     (s.die 0).token = none ∧ (s.die 0).tokenQ = 1 :: [] ∧ (s.slot 1).park = some (pk .token .reissue)) := by
  refine ⟨?_, by decide +kernel, ?_, by decide +kernel, by decide +kernel, by decide +kernel⟩
  · intro acc h
    refine ⟨_, rfl, rfl, ?_⟩
    fin_cases h <;> decide +kernel
  · intro x hx
    fin_cases hx <;> decide +kernel

/-! Array events, jobs and streams. -/

theorem tr_fault {α : Type} {c : Tr α} {P : Nat → Prop} [DecidablePred P]
    (h : (match c with
      | .fault n => decide (P n)
      | _ => false) = true) : ∃ n, c = .fault n ∧ P n := by
  cases c with
  | ok => cases h
  | fault n => exact ⟨n, rfl, of_decide_eq_true h⟩
  | frozen => cases h

/-- The eight cores of the cluster with a thread each, whose slices and control registers are given. -/
def eight (f : Core → Core) (r : Nat → KRegs) (g : Option Gang) (t0 : Option Nat) : State :=
  cl (fun c => { c with gang := g, stall := t0 }) { s0 with
    cores := (List.range 8).map fun c => (c, f { core0 with gangArr := if g = none then some { k := c * 16 + 1, elastic := false, stat := none } else none }),
    slots := (List.range 8).map fun c => (c * 16 + 1, { slot1 with k := r c, park := some (pk .gangJoin (.finish [])) }) }
def static0 (wake : Option Nat) : Gang := { gang0 0 with elastic := false, wake := wake }
def loadOp : LoadOp := { id := 9, buf := true, pa := 2 ^ 43, kc := 1, placed := none }
def withSlice (f : Slice → Slice) (c : Core) : Core := { c with slice := f c.slice }
def drain0 : Drain :=
  { id := 9, acc := 2, add := true, rows := (List.range 16).map fun j => [{ va := none, pa := 4096 + 128 * j, len := 128, key := 0 }],
    stat := [{ va := none, pa := 8192, len := 8, key := 0 }], scales := [{ va := none, pa := 8256, len := 64, key := 0 }], codes := none,
    gi := 0, tagv := false, refs := [], k := 1, gen := 0, asid := 0, placed := none, elastic := false }
/-- A slice whose accumulate unit has an operation to start, or runs it. -/
def toStart (o : ArrOp) : Slice → Slice := fun x => { x with accQ := [o] }
def running (o : ArrOp) : Slice → Slice := fun x => { x with accRun := some o, accEnd := 0 }
def tmm0 : TmmPend := { k := 1, ready := 0, acc := 1, buf := false, rows := [List.replicate 10 1], row0 := 15, pop := none, dif := false }
def gangRuns (bad : Option Nat) : State :=
  eight (withSlice fun x => { x with
    gated := false, tmm := some tmm0, b0 := { bytes := List.replicate 512 1, kc := 3, loaded := true, illegal := bad, bad := none } })
    (fun _ => KRegs.reset) (some (gang0 0)) none
def accArr0 : AccArr := { k := 1, mask := 1, scale := false, x := 0, at_ := 0, d := 1, release := some (3, 7) }
/-- A sequence of the Diffuser that runs some chains. -/
def difRuns (ws : List Nat) (total rep next : Nat) : State :=
  let s := difOf (some 1) (some { run0 with total := total, rep := rep, next := next })
  { co (fun c => { c with dif := { c.dif with words := ws }, vecAt := 0 }) s with clock := 9 }
def guarded : List Nat := encode (.vadd { np with xr := true, guard := some (true, 0) } .i32 .rn (.v 1) (.v 2) (.v 3) 0)

theorem witness_ArrayEvents :
    (∀ r ∈ [(fun _ => KRegs.reset : Nat → KRegs), (fun _ => { KRegs.reset with tgrp := 81 }),
        fun c => { KRegs.reset with tfmt := if c = 7 then 1 else 0 }],
      ∃ a rest, ((eight id r none none).arrivals 0).bind ((eight id r none none).arrivalsNow 0) = some (a :: rest)) ∧
    (let s := eight id (fun _ => KRegs.reset) none none
     (∀ b ∈ [(s.core 1).gangArr, (s.core 7).gangArr], b.map s.sampled = (s.core 0).gangArr.map s.sampled) ∧
     80 ≤ (s.slot 1).k.tgrp.toNat ∧ (s.slot 1).k.tgrp.toNat % 80 = 0 ∧ (s.slot 1).park = some (pk .gangJoin (.finish []))) ∧
    (let s := eight id (fun c => { KRegs.reset with tfmt := if c = 7 then 1 else 0 }) none none
     (s.core 7).gangArr.map s.sampled ≠ (s.core 0).gangArr.map s.sampled) ∧
    ¬ (80 ≤ (81 : BitVec 16).toNat ∧ (81 : BitVec 16).toNat % 80 = 0) ∧
    (let s := eight id (fun _ => KRegs.reset) (some (static0 none)) none
     s.hasStatic 0 = true ∧ (s.cluster 0).stall = none) ∧
    (let s := eight (withSlice fun x => { x with accEnd := 4, ldEnd := 2 }) (fun _ => KRegs.reset) (some (static0 none)) (some 3)
     (s.cluster 0).stall = some 3 ∧ s.stallOver 0 = true) ∧
    (let s := eight id (fun _ => KRegs.reset) (some (static0 (some 9))) (some 3)
     (s.cluster 0).stall = some 3 ∧ s.stallOver 0 = false) ∧
    (let s := on (.arrayInstrStart 0 true) (co (withSlice fun x => { x with ldQ := [loadOp], accRun := some (.tmm false) }) s0)
     (s.slice 0).ldRun = none ∧ (s.cluster (clusterOfCore 0)).stall = none ∧ (s.slice 0).ldQ = loadOp :: [] ∧
     s.footFree (clusterOfCore 0) loadOp.id = true ∧ (s.slice 0).accRun ≠ some (.tmm loadOp.buf)) ∧
    (∀ o ∈ [ArrOp.tzero 3, .twra 3 1024 65537, .trda 3 1024, .tdrain drain0],
      let s := on (.arrayInstrStart 0 false) (co (withSlice (toStart o)) s0)
      (s.slice 0).accRun = none ∧ (s.cluster (clusterOfCore 0)).stall = none ∧ (s.slice 0).accQ = o :: []) ∧
    (∀ bad ∈ [none, some 77], let s := on (.arrayInstrStart 0 false) (gangRuns bad)
      (s.slice 0).accQ = [] ∧ (s.cluster (clusterOfCore 0)).gang = some (gang0 0) ∧
      s.gangTmm (clusterOfCore 0) = some ((0, tmm0) :: (List.range 7).map fun i => (i + 1, tmm0)) ∧
      (∀ e ∈ (0, tmm0) :: (List.range 7).map (fun i => (i + 1, tmm0)), (s.slice e.1).gated = false) ∧
      s.tmmFault (gang0 0) ((0, tmm0) :: (List.range 7).map fun i => (i + 1, tmm0)) = bad.map fun a => (0x0B, a)) ∧
    (let s := on (.arrayInstrComplete 0 true) (co (withSlice fun x => { x with ldRun := some loadOp }) s0)
     (s.cluster (clusterOfCore 0)).stall = none ∧ s.statHeld 0 = false ∧ (s.slice 0).ldRun = some loadOp ∧ (s.slice 0).ldEnd ≤ s.clock) ∧
    (∀ o ∈ [ArrOp.tmm false, .tzero 3, .twra 3 1024 65537, .trda 3 1024, .tdrain drain0], ∀ st ∈ [[], [(0, 8192, 0)]],
      let s := on (.arrayInstrComplete 0 false) (cl (fun c => { c with gang := some { gang0 0 with stat := st } })
        (co (withSlice (running o)) s0))
      (s.cluster (clusterOfCore 0)).stall = none ∧ s.statHeld 0 = false ∧ (s.slice 0).accRun = some o ∧ (s.slice 0).accEnd ≤ s.clock ∧
      s.statAt 0 = st.head?.map fun _ => (8192, 0)) ∧
    (let s := on (.arrayIdleGate 0) { s0 with clock := 512 }
     (s.core 0).agate ≠ 0 ∧ (s.slice 0).lastTmm + (s.core 0).agate.toNat ≤ s.clock) ∧
    (let s := on (.accordRelease 0) { co (fun c => { c with accArr := some accArr0 }) (parkedOn .accord (.finish [])) with clock := 4 }
     (s.core 0).accArr = some accArr0 ∧ accArr0.release = some (3, 7) ∧ 3 < s.clock ∧
     (s.slot accArr0.k).park = some (pk .accord (.finish []))) ∧
    (∀ x ∈ [(2, 0, 0), (2, 0, 1), (2, 1, 1)], let s := on (.diffuserIssue 0) (difRuns (chain ++ guarded) x.1 x.2.1 x.2.2)
      (s.core 0).dif.run = some { run0 with total := x.1, rep := x.2.1, next := x.2.2 } ∧ (s.core 0).dif.owner = some 1 ∧ coreOf 1 = 0 ∧
      (s.slot 1).stopped = false ∧ (s.cluster (clusterOfCore 0)).hold = false ∧ s.difReady 0 (s.clock - 1) = true ∧
      ((s.core 0).dif.instrs.length = 2) ∧ ((s.core 0).dif.current { run0 with total := x.1, rep := x.2.1, next := x.2.2 }).map
        (fun i => (s.slot 1).guard (recPfx i)) = some (decide (x.2.2 = 0))) ∧
    (let o := VOp.vadd .i32 .rn (.v 1) (.v 2) (.v 3)
     let s := difRuns (chain ++ guarded) 2 0 0
     (s.core 0).dif.current { run0 with total := 2 } = some (o.instr np 0) ∧ recordable (o.instr np 0) = true ∧ (s.slot 1).guard np = true ∧
     StreamsReady ({ s with cur := 1 }.setSlot 1 { s.slot 1 with g := run0.snap }) o.srcs o.regs [o.dst]) := by
  refine ⟨?_, ?_, ?_, ?_, ?_, ?_, ?_, ?_, ?_, ?_, ?_, ?_, ?_, ?_, ?_, ?_⟩
  · intro r h
    fin_cases h <;> exact ⟨_, _, rfl⟩
  all_goals decide +kernel

def jobOn (e : Event) (j : Job) : State := on e (jobbed j)
def started (f : Job → Job) : Job := f { job0 false with started := true }
/-- A copy of 8 bytes, or a fill with zeros. -/
def copier (op : Nat) : Job := started fun j => { j with op := op, src := if op = 1 then [] else j.src }
def dst0 : Chunk := { va := none, pa := 2048, len := 8, key := 0 }
/-- A line failed. -/
def poisonedAt (line : Nat) (s : State) : State := { s with poison := [(line, 0x18)] }
def drainJob : DrainJob := { d := drain0, tile := Tile.zero, stat := none }
/-- Queue 0 of the core is bound, to the engine or to a peer, one way or the other, and holds an element. -/
def piped (out wide eng : Bool) (n : Nat) : State :=
  co (fun c => { c with queues := c.queues.set 0 (List.replicate n 7) })
    (me (fun t => { t with q := t.q.set 0 (bound out wide eng 0) }) (jobbed (streamed out wide)))
where
  streamed (out wide : Bool) : Job :=
    started fun j => { j with op := 2, q := some 0, wide := wide, src := if out then [] else j.src, dst := if out then j.dst else [], buf := if out then [] else List.replicate 8 1 }

/-- A copy that has moved all its bytes; its register was filled, or is to be filled in cluster `ck`. -/
def moved0 (filled : Bool) (ck : Nat) : Job :=
  started fun j => { j with bytes := 8, dst := [.inr { slot := BitVec.ofNat 64 (2 ^ 23 * ck + 65536), reg := 3 }], vals := [6], filled := filled }
/-- A write of the job is not yet acknowledged. -/
def unacked (s : State) : State := { s with net := [{ id := 5, k := 1, gen := 0, pid := 0, kind := .ack 16 (jobMark 9) 0 }] }
def answersOn (n : Nat) (x : JobStep) : Bool := match x with
  | .on m _ => m == n
  | _ => false
def answersWaits (x : JobStep) : Bool := match x with
  | .waits _ => true
  | _ => false
def answersEnds (e : Nat) (x : JobStep) : Bool := match x with
  | .ends c _ => c == e
  | _ => false
theorem places {x : JobAt} {P : Nat → Nat → State → Prop} [∀ a k s, Decidable (P a k s)]
    (h : (match x with
      | .ok a k s => decide (P a k s)
      | _ => false) = true) : ∃ a k s, x = .ok a k s ∧ P a k s := by
  cases x with
  | ok a k s => exact ⟨a, k, s, rfl, of_decide_eq_true h⟩
  | ends => cases h
  | waits => cases h
/-- A region holds the line a job writes. -/
def holding (s : State) : State :=
  withDie (fun d => { d with notices := [.final 30 3 7 0 true none [(2048, 1)] [(32, 0)] [32]] }) s
def ready (op : Nat) (buf : List Byte) : Job := { copier op with buf := buf }

theorem witness_JobsAndStreams :
    (let j := job0 false
     let s := jobOn (.jobStart 0 0) j
     s.job 0 0 = some j ∧ j.started = false ∧ j.done = false ∧ s.footFree 0 j.id = true ∧ s.issuerHome j.k j.id = true ∧
     (s.slots.map (·.1)).Nodup) ∧
    (let s := me (fun t => { t with park := some (pk (.jobDone 0) (.finish [.g 1 0])) }) (jobOn (.jobEndEarly 0 0 7) (job0 false))
     s.job 0 0 = some (job0 false) ∧ (job0 false).done = false ∧ (s.slots.map (·.1)).Nodup ∧ clusterOf 1 = 0 ∧
     (s.slot 1).park = some (pk (.jobDone (Fin.ofNat 16 0)) (.finish [.g 1 0]))) ∧
    (∀ x ∈ [(copier 0, false), (moved0 false 0, true), (moved0 false 0, false), (moved0 false 1, false), (moved0 true 0, true),
        (moved0 true 0, false)],
      let s := if x.2 then unacked (jobOn (.jobComplete 0 0) x.1) else jobOn (.jobComplete 0 0) x.1
      s.job 0 0 = some x.1 ∧ x.1.started = true ∧ x.1.done = false ∧ x.1.frozen = false ∧ x.1.fillsOut = [] ∧
      s.jobAcked x.1.id = !x.2 ∧ s.jobSeen x.1.id = !x.2) ∧
    ((copier 0).bytes < (copier 0).total ∧ (moved0 false 0).total ≤ (moved0 false 0).bytes ∧
      (moved0 true 0).total ≤ (moved0 true 0).bytes ∧
      (jobOn (.jobComplete 0 0) (moved0 false 1)).fillMay (moved0 false 1) { slot := BitVec.ofNat 64 (2 ^ 23 + 65536), reg := 3 } = false ∧
      (jobOn (.jobComplete 0 0) (moved0 false 0)).fillMay (moved0 false 0) { slot := 65536, reg := 3 } = true) ∧
    (answersOn 0 ((jobbed (copier 0)).jobStep 0 0 (copier 0) 8) = true ∧
      answersWaits ((holding (jobbed (ready 0 (List.replicate 8 1)))).jobStep 0 0 (ready 0 (List.replicate 8 1)) 8) = true ∧
      answersEnds 0x18 ((poisonedAt 16 (jobbed (copier 0))).jobStep 0 0 (copier 0) 8) = true) ∧
    (∀ x ∈ [(ready 0 (List.replicate 8 1), true), (ready 0 (List.replicate 8 1), false), (ready 1 [], false)],
      let s := if x.2 then holding (jobbed x.1) else jobbed x.1
      s.job 0 0 = some x.1 ∧ partAt partLen x.1.dst x.1.bytes = some (.inl dst0, 0) ∧
      ∃ a key s1, s.jobPlace x.1 dst0 0 = .ok a key s1 ∧ s1.heldBySerial (a / 64) = x.2 ∧
        (min (8 - a % 8) (dst0.len - 0) ≤ x.1.buf.length ↔ x.1.op = 0)) ∧
    (∀ b ∈ [false, true], let s := if b then poisonedAt 16 (jobbed (copier 0)) else jobbed (copier 0)
      s.job 0 0 = some (copier 0) ∧ (copier 0).op ≠ 1 ∧ (copier 0).buf = [] ∧
      partAt Chunk.len (copier 0).src ((copier 0).bytes + (copier 0).buf.length) = some ({ va := none, pa := 1024, len := 8, key := 0 }, 0) ∧
      ∃ a key s1, s.jobPlace (copier 0) dst0 0 = .ok a key s1 ∧
        ∃ a' key' s2, s1.jobPlace (copier 0) { va := none, pa := 1024, len := 8, key := 0 } 0 = .ok a' key' s2 ∧
          s2.badLine key' (a' / 64) = if b then some 0x18 else none) := by
  refine ⟨?_, ?_, ?_, ?_, ?_, ?_, ?_⟩
  · decide +kernel
  · decide +kernel
  · decide +kernel
  · decide +kernel
  · decide +kernel
  · intro x h
    fin_cases h <;> exact ⟨rfl, rfl, places (by decide +kernel)⟩
  · intro b h
    fin_cases h <;> exact ⟨rfl, by decide, rfl, rfl, 2048, 0, _, rfl, places (by decide +kernel)⟩

theorem witness_JobsAndStreams_drains :
    (let s := on (.jobComplete 0 (16 + 9)) (co (withSlice fun x => { x with drains := [drainJob] }) s0)
     0 ∈ coresIn 0 ∧ (∀ c' ∈ coresIn 0, c' ≠ 0 → (s.slice c').drains.find? (·.d.id == 9) = none) ∧
     (s.slice 0).drains.find? (·.d.id == 9) = some drainJob ∧ s.footFree 0 9 = true ∧ s.issuerHome drainJob.d.k 9 = true ∧
     s.statAt 0 = none ∧ drainJob.d.refs = [] ∧
     s.jobAcked 9 = true ∧ s.statHeld 0 = false ∧ ∃ d, s.drainNow drainJob.d = .ok d ∧ s.chunksHeld (d.rows.flatten ++ d.stat) = false) ∧
    (∀ st ∈ [(7, false), (7, true)],
      ((co (withSlice fun x => { x with drains := [{ drainJob with stat := some st }] }) s0).slice 0).drains.find? (·.d.id == 9) =
        some { drainJob with stat := some st }) := by
  refine ⟨⟨by decide +kernel, by decide +kernel, rfl, by decide +kernel, by decide +kernel, by decide +kernel, rfl, by decide +kernel,
    by decide +kernel, tr_ok (by decide +kernel)⟩, ?_⟩
  intro st h
  fin_cases h <;> rfl

theorem witness_JobsAndStreams_streams :
    (let b := { bound true false false 0 with pcore := 8 }
     let s := on (.streamElementArrival 0 0) (cl (fun c => { c with perm := c.perm.set 0 2 })
       (me (fun t => { t with q := t.q.set 0 b }) { piped true false false 1 with
         clusters := [(0, { cl0 with perm := cl0.perm.set 0 2, fwall := 3 }), (1, { cl0 with fwall := 5 })] }))
     s.binding 0 (0 : Fin 8).val = some (1, b) ∧ (s.queueAt 0 0)[(s.core 0).taken[0]]? = some 7 ∧ (s.queueAt 8 0).length < 16 ∧
     s.mayTo (clusterOfCore 0) (clusterOfCore 8) = true ∧ s.admits (s.pidOf (clusterOfCore 0)) (clusterOfCore 8) none = false) ∧
    (let s := on (.streamElementArrival 0 0) (piped true false false 1)
     s.binding 0 (0 : Fin 8).val = some (1, bound true false false 0) ∧ (s.queueAt 0 0)[(s.core 0).taken[0]]? = some 7 ∧
     ((bound true false false 0).pcore, (bound true false false 0).pq) ≠ (0, 0) ∧ (s.queueAt 1 0).length < 16 ∧
     s.mayTo (clusterOfCore 0) (clusterOfCore 1) = true ∧ s.admits (s.pidOf (clusterOfCore 0)) (clusterOfCore 1) none = true) ∧
    (let s := on (.streamElementAccept 0 0) (co (fun c => { c with taken := c.taken.set 0 1 }) (piped true false false 1))
     s.binding 0 (0 : Fin 8).val = some (1, bound true false false 0) ∧ (s.core 0).taken[0] ≠ 0) ∧
    (let s := on (.streamElementArrival 0 0) (piped false false true 15)
     let j := piped.streamed false false
     s.binding 0 (0 : Fin 8).val = some (1, bound false false true 0) ∧ s.streamJob 0 (0 : Fin 8).val = some (0, j) ∧
     s.job (clusterOfCore 0) 0 = some j ∧ (s.queueAt 0 0).length < 16 ∧ 8 ≤ j.buf.length) ∧
    (let s := on (.streamElementAccept 0 0) (piped true false true 1)
     let j := { piped.streamed true false with buf := [] }
     let s := cl (fun c => { c with jobs := [(0, j)] }) s
     s.binding 0 (0 : Fin 8).val = some (1, bound true false true 0) ∧ s.streamJob 0 (0 : Fin 8).val = some (0, j) ∧
     s.job (clusterOfCore 0) 0 = some j ∧ s.queueAt 0 0 = 7 :: [] ∧ j.buf.length < 8 ∧ j.bytes + j.buf.length < j.total) := by
  refine ⟨?_, ?_, ?_, ?_, ?_⟩
  all_goals decide +kernel

/-! Graphs. -/

def tier0 : Tier := { groups := 1, members := 1, hw := 0, scope := 0 }
def rec1 (ts : List Tier) : LaunchRec := { addr := 0, entry := 64, nargs := 0, fuse := false, asid := 0, sbind := 0, tiers := ts }
def node (fence : Bool) (ts : List Tier) : NodeRec :=
  { lrec := if fence then none else some (rec1 ts), fence := fence, derive_ := false, foot := [], preds := [] }
def inst0 (ns : List NodeRec) (st : List NodeState) : Inst :=
  { Inst.blank with graph := { serial := 1, asid := 0, header := 4096, nodes := ns, stale := false }, nodes := st }
def part0 : Machine.Part := State.reset.part 0
def parted (f : Machine.Part → Machine.Part) (s : State) : State := { s with parts := [(0, f part0)] }
/-- A graph of one fence stands at 4096. -/
def fenced : State := { s0 with mem := s0.mem.writeCells [(4096, 1), (4104, 64), (4105, 16), (4176, 1)] }
def wanting (h : Bool) (fence : Bool) (ts : List Tier) : State :=
  cl (fun c => { c with hold := h }) (parted (fun p => { p with insts := [(2, inst0 [node fence ts] [.waiting])] }) fenced)
def placing (p : Nat) : State :=
  parted (fun q => { q with insts := [(2, { inst0 [node false [tier0]] [.running (node false [tier0]) 1 [] []] with placedRecs := [(0, 0, List.replicate 64 1)] })] })
    (co (fun c => { c with inbox := List.replicate p [] }) s0)
def ending (header : Nat) (st : List NodeState) : State :=
  parted (fun q => { q with insts := [(2, { inst0 [] st with argb := BitVec.ofNat 64 header, session := some 1 })] }) s0

/-- The graph of the instance is to be read again; the node of the instance has placed its one thread, which has exited. -/
def aged (s : State) : State := s.modInst 0 2 fun x => { x with graph := { x.graph with stale := true } }
def gone0 (s : State) : State :=
  parted (fun q => { q with insts := [(2, inst0 [node false [tier0]] [.running (node false [tier0]) 1 [] []])] }) s
/-- The node owes an effect that firmware holds: an atomic, which may fly, or a launch word. -/
def amo1 : Msg := { id := 5, k := 1, gen := 0, pid := 0, kind := amo0 }
def word0 : PortWord := { word := 0, session := none, graph := graph0 }
def fxMsg : Fx := .msg amo1
def fxWord : Fx := .launch word0
def fx0 (fx : Fx) (sent : Bool) : HeldFx := { inst := 2, node := 0, id := 3, fx := fx, sent := sent }
def owes (fx : Fx) (sent : Bool) : State :=
  { parted (fun q => { q with insts := ((gone0 s0).part 0).insts, heldFx := [fx0 fx sent] }) s0 with net := if sent then [amo1] else [] }
theorem witness_GraphEvents_held :
    (∀ x ∈ [(fxMsg, false), (fxMsg, true), (fxWord, false)], let s := owes x.1 x.2
      s.nodeOver 0 2 0 = true ∧ s.flying amo1.id = x.2 ∧ (s.part 0).port.length + 1 ≤ 64 ∧ (∀ e, amo1.kind ≠ .op e) ∧
      ((s.part 0).heldFx.filter fun h => h.inst == 2 && h.node == 0) = fx0 x.1 x.2 :: []) ∧
    (let s := parted (fun q => { q with port := List.replicate 64 word0, heldFx := [fx0 fxWord false], insts := ((gone0 s0).part 0).insts }) s0
     s.nodeOver 0 2 0 = true ∧ 64 ≤ (s.part 0).port.length) := by
  refine ⟨?_, by decide +kernel⟩
  intro x h
  refine ⟨?_, ?_, ?_, (fun e h => by simp [amo1, amo0] at h), ?_⟩ <;> fin_cases h <;> decide +kernel

theorem witness_GraphEvents :
    (let s := on (.graphRegister 0 0 4096 none) fenced
     (s.part 0).graphs.length < 4096 ∧ FMap.has (s.part 0).graphs 0 = false ∧ (∃ ns, s.checkGraph 0 (s.readCore 0 none) 0 4096 = .ok ns ∧
       ns.length = 1)) ∧
    (let s := on (.graphRegister 0 0 8192 none) fenced
     ∃ c, s.checkGraph 0 (s.readCore 0 none) 0 8192 = .fault c ∧ c = 2) ∧
    (let s := parted (fun p => { p with graphs := List.replicate 4096 (0, graph0) }) s0
     4096 ≤ (s.part 0).graphs.length) ∧
    (let s := parted (fun p => { p with port := [{ word := 0, session := none, graph := graph0 }] }) s0
     (s.part 0).port = { word := 0, session := none, graph := graph0 } :: [] ∧ s.frontHeld 0 = false ∧
     s.portTurn = some 0 ∧ (cl (fun c => { c with stopAt := some 1 }) s).frontHeld 0 = true) ∧
    (let s := wanting false true []
     let x := s.inst 0 2
     FMap.has (s.part 0).insts 2 = true ∧ x.graph.nodes[0]? = some (node true []) ∧ x.nodes[0]? = some .waiting ∧
     s.frontHeld 0 = false ∧ x.ready (node true []) = true ∧ x.status = none ∧ x.ended = false ∧ (node true []).fence = true ∧
     x.graph.stale = false ∧
     (∃ ns, s.checkGraph 0 (s.readCore 0 none) x.graph.asid.toNat x.graph.header.toNat = .ok ns ∧ ns.length = 1) ∧
     ∃ c, s0.checkGraph 0 (s0.readCore 0 none) x.graph.asid.toNat x.graph.header.toNat = .fault c ∧ c = 2) ∧
    (let s := aged (wanting false true [])
     let x := s.inst 0 2
     FMap.has (s.part 0).insts 2 = true ∧ x.graph.nodes[0]? = some (node true []) ∧ x.nodes[0]? = some .waiting ∧
     s.frontHeld 0 = false ∧ x.status = none ∧ x.ended = false ∧ x.graph.stale = true ∧
     ∃ ns, s.checkGraph 0 (s.readCore 0 none) x.graph.asid.toNat x.graph.header.toNat = .ok ns ∧ ns.length = 1) ∧
    (let s := parted (fun p => { p with insts := [(1, inst0 [node false [tier0]] [.running (node false [tier0]) 0 [] []]),
                                                 (2, inst0 [node false [tier0]] [.waiting])] }) s0
     s.placingOther 0 2 0 = true ∧ s.placingOther 0 1 0 = false) ∧
    ((wanting true false [tier0]).inst 0 2).ready { node false [tier0] with preds := [0] } = false ∧
    (∀ x ∈ [(false, [tier0], true, true), (true, [tier0], true, false), (false, [], false, false)], ∀ o ∈ [[], [1]],
      let s := { wanting x.1 false x.2.1 with oracle := o }
      let r := rec1 x.2.1
      let y := s.inst 0 2
      FMap.has (s.part 0).insts 2 = true ∧ y.graph.nodes[0]? = some (node false x.2.1) ∧ y.nodes[0]? = some .waiting ∧
      s.frontHeld 0 = false ∧ y.ready (node false x.2.1) = true ∧ y.status = none ∧ y.ended = false ∧
      y.graph.stale = false ∧
      s.placingOther 0 2 0 = false ∧ (r.sbind = 0 ∧ unitSize r = 1) ∧ (s.choose.1 = 0 ↔ o = []) ∧ (node false x.2.1).fence = false ∧ (node false x.2.1).lrec = some r ∧ (s.part 0).recoverable = false ∧
      s.placeable 0 r = x.2.2.1 ∧
      let binds := s.readBinds (s.readCore 0 none) y.graph.asid.toNat r
      let es := s.chooseSlots 0 r (s.placeBy 0 (2, 0) r binds (prodMembers r.tiers)) (unitCount r) 0 []
      (x.2.2.1 = true → (es ≠ [] ↔ x.2.2.2 = true) ∧ (es.map (·.1)).Nodup)) ∧
    (let s := on (.taskRecordWrite 0) (placing 3)
     (s.core 0).inbox.length < 4 ∧ FMap.has (s.part 0).insts 2 = true ∧
     (s.part 0).insts.findSome? (fun e => (e.2.placedRecs.find? fun r => r.2.1 == 0).map fun r => (e.1, r)) =
       some (2, (0, 0, List.replicate 64 1))) ∧
    ((gone0 s0).nodeOver 0 2 0 = true ∧ ((gone0 s0).inst 0 2).ended = false ∧ (wanting false true []).nodeOver 0 2 0 = false ∧
      ((gone0 s0).part 0).heldFx = [] ∧ (wanting false true []).nodeRuns 0 2 0 = false ∧ (placing 0).nodeOver 0 2 0 = false ∧
      (placing 0).nodeRuns 0 2 0 = true) ∧
    (let s := ending 1024 [.done]
     let x := s.inst 0 2
     x.ended = false ∧ x.status = none ∧ (∀ n ∈ x.nodes, n = .done) ∧ x.endStatus = some (0, 0xFFFF) ∧ x.session.isSome = true ∧
     FMap.has (s.part 0).insts 2 = true ∧ ∃ ak, s.vaAddr (s.readCore 0 none) x.graph.asid.toNat (x.argb.toNat + 128) = .ok ak ∧ ak.1 = 1152) ∧
    ((ending 1024 [.waiting]).inst 0 2).endStatus = none ∧
    (let s := ending (2 ^ 62) [.done]
     ∃ c, s.vaAddr (s.readCore 0 none) 0 ((s.inst 0 2).argb.toNat + 128) = .fault c ∧ c = 6) ∧
    (((placing 0).part 0).insts.any (fun e => !e.2.ended) = true ∧ (s0.part 0).insts.any (fun e => !e.2.ended) = false) ∧
    (s0.choose.1 = 0 ∧ { s0 with oracle := [1] }.choose.1 ≠ 0) := by
  refine ⟨⟨?_, ?_, tr_ok ?_⟩, tr_fault ?_, ?_, ?_, ⟨?_, ?_, ?_, ?_, ?_, ?_, ?_, ?_, ?_, tr_ok ?_, tr_fault ?_⟩,
    ⟨?_, ?_, ?_, ?_, ?_, ?_, ?_, tr_ok ?_⟩, ?_, ?_, ?_, ?_, ?_, ⟨?_, ?_, ?_, ?_, ?_, ?_, tr_ok ?_⟩, ?_, tr_fault ?_, ?_, ?_⟩
  all_goals decide +kernel

/-! Stops, saves, the fabric and the boot. -/

def dev0 (f : Dev → Dev) (s : State) : State := s.modDev 0 f
def dog (n : Nat) : Watchdog := { period := 5, left := n, frac := 0 }
def save0 (swept : Bool) : Save := { stop := 1, request := 1, cores := [0], swept := swept, packets := [], replyTo := none }
def image0 (at_ : Option Nat) : Image :=
  { core := 0, pid := 0, key := 0, place := 0, stop := 1, sealAt := at_, res := true, dmap := 0, rsv := 0, lba := 0, slots := [(1, slot1)],
    state := core0, jobs := [], feet := [], gang := none, packets := [], waits := none,
    base := 0, led := false, boxed := false }
def stopped (f : Machine.Part → Machine.Part) : State :=
  cl (fun c => { c with stopAt := some 1 }) (me (fun t => { t with stopped := true }) (parted f s0))
/-- A descriptor of cluster 0 at 1024, for a request of the thread. -/
def named (s : State) : State := { s with mem := s0.mem.writeCells (cellsAt 1032 [1]) }

/-- A stop or a resume is armed for clock 9; a job is to freeze at clock 2049. -/
def lateSlot : Slot := { slot1 with placed := some { pid := 0, inst := 2, node := 0 } }
def late0 : Image := { image0 (some 5) with slots := [(1, lateSlot)], waits := some [0] }
def lateRoom : State :=
  dev0 (fun d => { d with clk := 2 ^ 40 }) (me (fun t => { t with saved := true }) (stopped fun p => { p with
    images := [(0, late0)], insts := [(2, inst0 [] [])] }))
def at9 (n : Nat) : State :=
  dev0 (fun d => { d with clk := n }) (cl (fun c => { c with armStop := some { at_ := 9 }, armResume := some { at_ := 9 }, stopAt := some 1 }) s0)
def freezing (n : Nat) : State :=
  on (.jobFreeze 0 0) (dev0 (fun d => { d with clk := n }) (cl (fun c => { c with jobs := [(0, job0 false)] })
    (stopped fun p => { p with save := some (save0 false) })))

theorem witness_StopsAndSaves :
    (∀ n ∈ [0, 3], let s := on (.watchdogExpiry 0 7) (dev0 (fun d => { d with dogs := [(7, dog n)] }) s0)
      (s.dev 0).dogs.find? (·.1 == 7) = some (7, dog n) ∧ (dog n).period ≠ 0 ∧ (dog n).left = n) ∧
    (∀ n ∈ [8, 9], let s := at9 n
      (s.cluster 0).armStop = some { at_ := 9 } ∧ (s.cluster 0).armResume = some { at_ := 9 } ∧ (s.cluster 0).stopAt = some 1 ∧
      s.clkOf 0 = n ∧ s.resumable 0 = true ∧ (s.part (s.pidOf 0)).mayResume (coreOf 1) = true) ∧
    (∀ n ∈ [2048, 2049], let s := freezing n
      s.freezeAt 0 = some 2049 ∧ s.job 0 0 = some (job0 false) ∧ s.clkOf 0 = n ∧ (job0 false).done = false) ∧
    (let s := on (.sillageSweep 0) (stopped fun p => { p with save := some (save0 false) })
     (s.part 0).save = some (save0 false) ∧ (save0 false).swept = false ∧ ∀ c ∈ (save0 false).cores, s.coreDrained c = true) ∧
    (let s := on (.imageSeal 0 0) (stopped fun p => { p with save := some (save0 true), images := [(0, image0 none)] })
     (s.part 0).save = some (save0 true) ∧ (s.part 0).images.find? (·.1 == 0) = some (0, image0 none) ∧ (image0 none).sealAt = none ∧
     0 ∈ (save0 true).cores ∧ (s.core 0).misses = [] ∧ ((co (fun c => { c with misses := [miss0] }) s).core 0).misses ≠ []) ∧
    (lateRoom.part 0).images = [(0, late0)] ∧ (1, lateSlot) ∈ late0.slots ∧ lateSlot.placed = some { pid := 0, inst := 2, node := 0 } ∧
    (s0.budgetOver 0 = false ∧ (s0.part 0).images.isEmpty = true ∧
     lateRoom.budgetOver 0 = false ∧ lateRoom.roomLate 0 late0 = true ∧
     FMap.has (lateRoom.part 0).insts 2 = true ∧
     (lateRoom.inst 0 2).ended = false ∧ (lateRoom.inst 0 2).status = none ∧
     (dev0 (fun d => { d with clk := 2 ^ 40 }) (stopped fun p => { p with budget := 1 })).budgetOver 0 = true) ∧
    (let s := stopped fun p => { p with images := [(0, image0 (some 5))] }
     (s.part 0).images.find? (·.1 == 0) = some (0, image0 (some 5)) ∧ (image0 (some 5)).sealAt.isSome = true ∧
     driveBlocks < driveBlocks + imageBlocks ∧ 7 + imageBlocks ≤ driveBlocks) ∧
    (∃ c, s0.ctxClusters 1024 none = .fault c ∧ c = 1) ∧
    (let s := { mapped with mem := mapped.mem.writeCells [(1064960, 19)] }
     (match s.ctxClusters (2 ^ 40) (some 1) with
       | .frozen => true
       | _ => false) = true) ∧
    (let s := named s0
     (∃ x, s.ctxClusters 1024 (some 1) = .ok x ∧ x = [0]) ∧ ¬ ((s.cluster 0).stopAt.isSome = true ∨ (s.cluster 0).hold = true)) ∧
    (let s := named (stopped fun p => { p with killed := true, images := [(0, image0 (some 5))] })
     (∃ x, s.ctxClusters 1024 (some 1) = .ok x ∧ x = [0]) ∧ (s.cluster 0).stopAt.isSome = true ∧ s.pidOf 0 = 0 ∧
     (s.part 0).killed = true ∧ s.hasThread 0 = true) ∧
    (∀ b ∈ [true, false], let s := named (stopped fun p => { p with images := if b then [(0, image0 (some 5))] else [] })
      (s.part 0).killed = false ∧ ((((([0].filter fun ck => s.pidOf ck == 0).flatMap coresIn).filter fun c =>
        (slotsOf c).any (fun k => (s.slot k).occ) && !((s.part 0).images.any fun e => e.1 == c && e.2.sealAt.isSome)) = []) ↔ b = true)) ∧
    (let s := named (me (fun t => { t with saved := true }) (stopped fun p => { p with images := [(0, image0 (some 5))] }))
     (s.part 0).saved = [image0 (some 5)] ∧ (s.part 0).images = [(0, image0 (some 5))] ∧
     let saved := (s.part 0).saved
     let ks := savedSlots saved
     let m := s.assign 0 [0].mergeSort ks (s.moveGroups ks) []
     ((saved.flatMap (·.slots)).map (·.1)).Nodup ∧ (m.map (·.2)).Nodup ∧ goneTo m 1 = some 1) ∧
    (let s := named (stopped fun p => { p with images := [(8, { image0 (some 5) with core := 8, slots := [(129, slot1)] })] })
     let ks := savedSlots (s.part 0).saved
     let m := s.assign 0 [] ks (s.moveGroups ks) []
     goneTo m 129 = none) ∧
    (s0.part 0).saved = [] := by
  refine ⟨?_, ?_, ?_, ?_, ⟨?_, rfl, ?_⟩, rfl, List.mem_cons_self, rfl, ?_, ⟨rfl, ?_⟩, tr_fault ?_, ?_, ⟨tr_ok ?_, ?_⟩, ⟨tr_ok ?_, ?_⟩, ?_,
    ⟨rfl, rfl, ?_⟩, ?_, rfl⟩
  all_goals decide +kernel

/-- An image is to be written, where stage 2 maps its pages, or does as `leaf` says, or does not. -/
def imaging (leaf : Option Nat) : State :=
  on (.imageWrite 0 0) (parted (fun p => { p with save := some (save0 true) }) (match leaf with
    | some x => { mapped with mem := mapped.mem.writeCells [(1064960, BitVec.ofNat 8 x)] }
    | none => s0))
def frozenB {α : Type} : Tr α → Bool
  | .frozen => true
  | _ => false
/-- Every page of the reserve of device 0 is taken. -/
theorem reserve_full (n : Nat) (h0 : 0 < n) (hn : n ≤ 4096) :
    (parted (fun p => { p with images := (List.range 4096).map fun i => (i, { image0 none with dmap := 1, rsv := 65536 * i }) }) s0).reserveFor 0 n
      = none := by
  have h1 : (dmapPages 1).length = 1 := by decide +kernel
  have h2 : devOfCore (image0 none).core = 0 := by decide +kernel
  simp only [State.reserveFor, parted, List.find?_eq_none, List.mem_range]
  intro p hp hc
  rw [List.all_eq_true] at hc
  have h3 := hc 0 (List.mem_range.2 h0)
  revert h3
  simp only [Nat.add_zero, Bool.not_eq_true', List.contains_eq_mem, decide_eq_false_iff_not]
  simp only [List.flatMap_cons, List.flatMap_nil, List.append_nil, List.mem_flatMap, List.mem_map, List.mem_range]
  exact fun h => h ⟨_, ⟨p, by omega, rfl⟩, by simp [h1, h2]⟩

theorem witness_StopsAndSaves_images :
    (∀ x ∈ [some 3, some 19, none], let s := imaging x
      (s.part 0).save = some (save0 true) ∧ (save0 true).swept = true ∧ 0 ∈ (save0 true).cores ∧ FMap.has (s.part 0).images 0 = false ∧
      let r := s.imagePlace 0 0
      let i := r.2.flacon 0 0 r.1 (save0 true) 0 0
      ∀ p, p < 2 → frozenB (r.2.imagePage i p) = decide (x = some 19) ∧ faultB (r.2.imagePage i p) = decide (x = none)) ∧
    (let s := imaging (some 3)
     let r := s.imagePlace 0 0
     let i := r.2.flacon 0 0 r.1 (save0 true) 0 0
     r.2.pageAt i 0 = some 0 ∧ r.2.pageAt i 1 = some 65536) ∧
    (let s := imaging none
     let r := s.imagePlace 0 0
     let x := { r.2.flacon 0 0 r.1 (save0 true) 0 0 with dmap := 3 }
     r.2.reserveFor 0 2 = some 0 ∧ ∃ a a', r.2.pageAt x 0 = some a ∧ r.2.pageAt x 1 = some a') ∧
    (let s := named (cl (fun c => { c with hold := true }) s0)
     (∃ x, s.ctxClusters 1024 (some 1) = .ok x ∧ x = [0]) ∧ (s.cluster 0).hold = true ∧ s.pidOf 0 = 0 ∧ (s.part 0).killed = false ∧
     (s.part 0).save = none ∧ (slotsOf 0).any (fun k => (s.slot k).occ && !(s.slot k).saved) = true) ∧
    (let s := named (stopped fun p => { p with save := some (save0 true) })
     (s.part 0).killed = false ∧ (s.part 0).save ≠ none) ∧
    (let s := named (me (fun t => { t with saved := true }) (stopped fun p => p))
     (∀ c ∈ coresIn 0, (slotsOf c).any (fun k => (s.slot k).occ && !(s.slot k).saved) = false)) ∧
    (let s := cl (fun c => { c with hold := true, armResume := some { at_ := 9 } }) (stopped fun p => { p with save := some (save0 true) })
     s.resumable 0 = true ∧ (s.part (s.pidOf 0)).save = some (save0 true) ∧ (∃ c ∈ (save0 true).cores, clusterOfCore c = 0) ∧
       s0.resumable 0 = false) := by
  refine ⟨?_, ?_, ⟨?_, _, _, rfl, rfl⟩, ⟨tr_ok ?_, ?_⟩, ?_, ?_, ?_⟩
  · intro x h
    refine ⟨?_, ?_, ?_, ?_, ?_⟩ <;> fin_cases h <;> decide +kernel
  all_goals decide +kernel

/-- Link 0 of device 0 is up and leads to device 1, the route table names it; a packet of the thread's, a job's fill and a lane are on it. -/
def jobFill : Msg := { id := 6, k := 1, gen := 0, pid := 0, kind := .fill (2 ^ 31) 3 9 none (some (0, 0)) }
def viaPark : Park := { pk (.reply 5) (.finish []) with via := [(0, 0, 1024)] }
def faring : State :=
  laned { lane0 none false false with path := some 0 } { me (fun t => { t with park := some viaPark }) s0 with
    clock := 4096, mem := (4, 1) :: s0.mem, net := [jobFill],
    devs := [(0, { Dev.reset with flink := Dev.reset.flink.set 0 (BitVec.ofNat 64 (2 ^ 39 + 2)), resends := [(0, 64)] }),
             (1, { Dev.reset with devno := 1 })] }
def undo0 : Undo := { node := 0, pa := 1024, key := 0, bytes := [1, 2] }
def charged (rec_ : Bool) (roll : Option (Nat × List Nat)) : State :=
  me (fun t => { t with placed := some { pid := 5, inst := 2, node := 0 } }) (cl (fun c => { c with fwall := 5 })
    { s0 with parts := [(5, { part0 with
      recoverable := rec_, rolling := roll, insts := [(2, { inst0 [] [.running (node false [tier0]) 1 [] []] with undo := [undo0] })] })] })

/-- A device whose partition directory holds no valid entry has no set that is a partition's. -/
theorem no_colourOwner (s : State) (d c : Nat) (hm : s.mem = []) (hs : s.serials = []) : s.colourOwner d c = none := by
  have hb : ∀ key a, s.byteAt key a = 0 := fun key a => by simp [State.byteAt, hm, hs, FMap.has, Memory.read, Memory.unlisted]
  have hn : ∀ a, s.numAt 0 a 8 = 0 := fun a => by simp only [State.numAt, State.bytesAt, hb]; decide
  have he : ∀ pid, s.dirEntry d pid = none := fun pid => by simp [State.dirEntry, hn, tb]
  simp [State.colourOwner, he]

theorem witness_FabricEvents :
    (∀ st ∈ [0, 1, 2, 3], ((dev0 (fun d => { d with flink := d.flink.set 0 (BitVec.ofNat 64 st) }) s0).link 0 0).toNat % 8 = st) ∧
    (let s := faring
     (s.numOf 1 ≠ s.numOf 0 ∧ s.numOf 0 = s.numOf 0) ∧ ¬ (8 < 4 ∨ 8 < 8 ∨ 0 = 4) ∧ (3 < 4 ∨ 8 < 3 ∨ 0 = 4) ∧
     (s.link 0 0).toNat % 8 = 2 ∧ 64 ≤ FMap.get 0 (s.dev 0).resends 0 ∧ FMap.get 0 (s.dev 1).resends 0 < 64 ∧
     (s.slots.map (·.1)).Nodup ∧ (s.slot 1).park = some viaPark ∧ viaPark.lostAt 0 0 = some 1024 ∧ viaPark.wait = .reply 5 ∧
     jobFill ∈ s.net ∧ s.fillOver 0 0 jobFill = true ∧
     (∃ l ∈ s.lanes, devOfSlot l.k = 0 ∧ l.path = some 0 ∧ l.broken = none ∧ l.flight = entry :: []) ∧
     s.syncDue 0 = true ∧ s0.syncDue 0 = false ∧ s.masterOf 0 = 0) ∧
    (let s := on (.clockSyncLoss 0) { s0 with clock := 65536 }
     (s.dev 0).lastSync + 65536 ≤ s.clock) ∧
    (let s := dev0 (fun d => { d with keys := [(0, 1), (7, 9)] }) s0
     FMap.has (s.dev 0).keys 7 = true ∧ FMap.has (s.dev 0).keys 8 = false ∧ 7 ≠ 0) ∧
    (milvOk (s0.dev 0).milvStaged = true ∧ milvOk (Vector.replicate 16 (0 : Word)) = false ∧
      (s0.dev 0).milv[Fin.ofNat 16 (localOfAddr 1024 / 2 ^ 33)] = (s0.dev 0).milvStaged[Fin.ofNat 16 (localOfAddr 1024 / 2 ^ 33)]) ∧
    (∀ b ∈ [true, false], ((cl (fun c => { c with fwall := if b then 2 ^ 63 else 5 }) s0).cluster 0).fwall.getLsbD 63 = b) ∧
    (let e : ScopeDesc := { valid := true, cores := 1, devs := 1 }
     let s := parted (fun p => { p with scopes := [(2, e)] }) s0
     7 ≠ ((s.cluster 0).fwall.toNat % 65536) ∧ (2, e) ∈ (s.part ((s.cluster 0).fwall.toNat % 65536)).scopes ∧
     tb e.devs.toNat (s.numOf (devOf 0)) = true ∧ tb e.cores.toNat (0 % 160 * 8 + 0) = true) ∧
    (let s := parted (fun p => { p with save := some (save0 false) }) s0
     (clusterOf 1 = 0 ∧ (s.slot 1).occ = true ∧ (s.slot 1).stopped = false) ∧ (s.part (s.pidOf 0)).save = some (save0 false) ∧
     (∃ c ∈ (save0 false).cores, clusterOfCore c = 0) ∧ (s0.part (s0.pidOf 0)).save = none) ∧
    (let s := on (.mailRecordDelivery 0) (co (fun c => { c with mail := [[1], [2]], inbox := [[], [], []] }) s0)
     (s.core 0).mail = [1] :: [[2]] ∧ (s.core 0).inbox.length < 4) ∧
    (FMap.has s0.checks 16 = false ∧ FMap.has s0.poison 16 = false ∧
     State.checkOf { s0 with mem := s0.mem.write 1024 1 } 16 ≠ s0.checkOf 16 ∧ s0.unrelated 0 16 = false) ∧
    (s0.underKey0 16 = false ∧ State.underKey0 { s0 with serials := [(16, s0.serialOf 0 1024)] } 16 = true) ∧
    (s0.packetPid 5 = none ∧ (sent (fillOf 0)).packetPid 5 = some (0, 0) ∧
      State.packetPid { s0 with net := [{ id := 5, k := 1, gen := 0, pid := 7, kind := amo0 }] } 5 = some (0, 7)) ∧
    (s0.pidOf 0 = 0 ∧ State.colourOwner { s0 with mem := [] } 0 (bits 64 11 6) = none) ∧
    (∀ x ∈ [(false, none), (true, some (0, [0])), (true, some (9, [0])), (true, none)],
      let s := on (.uncorrectableError (.cluster 0)) { charged x.1 x.2 with clock := 5 }
      s.pidOf 0 = 5 ∧ (s.part 5).killed = false ∧ (s.part 5).rolling = x.2 ∧ (s.part 5).recoverable = x.1) ∧
    (let s := charged true none
     0 ∈ s.clustersOf 5 ∧ (s.cluster 0).stopAt = none ∧ (s.cluster 0).hold = false) ∧
    (charged true none).rolledDown 5 = false ∧
    (let s := cl (fun c => { c with stopAt := some 1 }) (charged true (some (0, [0])))
     s.rolledDown 5 = true ∧
     FMap.has s.slots 1 = true ∧ s.uncommitted 1 = some { pid := 5, inst := 2, node := 0 } ∧
     (s.inst 5 2).nodes[0]? = some (NodeState.running (node false [tier0]) 1 [] []) ∧
     ((s.part 5).insts.flatMap fun e => e.2.undo) = [undo0] ∧
     [undo0].Pairwise (fun u v => ∀ l ∈ linesOf (cellsAt u.pa u.bytes), l ∉ linesOf (cellsAt v.pa v.bytes)) ∧
     undo0.bytes.length ≤ 2 ^ 40 ∧ undo0.bytes[1]? = some 2) ∧
    (let s := { charged false none with
       mem := s0.mem.writeCells (cellsAt 1048656 (toBytes 8 1064961) ++ cellsAt 1048664 (toBytes 8 (2 ^ 64 - 1))),
       devs := [(0, { Dev.reset with s2dir := 1048576 })] }
     s.colourOwner 0 (bits 64 11 6) = some 5) := by
  refine ⟨?_, ?_, ?_, ?_, ?_, ?_, ?_, ?_, ?_, ?_, ?_, ?_, ⟨?_, no_colourOwner _ 0 _ rfl rfl⟩, ?_, ?_, ?_, ?_, ?_⟩
  all_goals decide +kernel

def recovery0 : Recovery := { on := true, server := some 4, data := List.replicate 1024 1, got := [0], first := 0, last := 0, retry := none }
def session0 (o : Bool) : Session := { id := 3, key := 1, cert := 0, open_ := o, pid := some 0 }
def monitor (o : Bool) : State :=
  dev0 (fun d => { d with bootst := 2, sessions := [session0 o] }) (parted (fun p => { p with session := some (0, 3), cert := 5 }) s0)

/-- A flash that boots: the keys are the base point of P-384 and its double, every nonce is 1, the image is one zero byte; the digests and
signatures were worked out by hand from FIPS 180-4 and FIPS 186-5. -/
def bootKey : List Byte := toBytes 48
    0x8d999057ba3d2d969260045c55b97f089025959a6f434d651d207d19fb96e9e4fe0e86ebe0e64f85b96a9c75295df61 ++
  toBytes 48
    0x8e80f1fa5b1b3cedb7bfe8dffd6dba74b275d875bc6cc43e904e505f256ab4255ffd43e94d39e22d61501e700a940e80
/-- A signature: with a nonce of 1, `r` is the base point's x. -/
def signedBy (s : Nat) : List Byte := toBytes 48 ecG.1 ++ toBytes 48 s
def flash1 : List Byte :=
  toBytes 48 ecG.1 ++ toBytes 48 ecG.2 ++ bootKey ++ List.replicate 4 0 ++ signedBy
    0xe17a8bfb3ac954d7a5c49a3adaaa9713ad243a6e93ca31cdab48518b587826fa28a1942f9c07956b15437f3ac682ce7b ++ [0] ++
  toBytes 48
    0x1717a108c2a91768966534412bec33596536663de1860d5f4ee206d2bda9d3837030b4c212e0349106e368f3b421c0be ++
  signedBy
    0x13cfb5fa707eed75ae986e50a8f58b59600e2082e956197f84356f9e59a02f175305b5822e7d697902e8335d5402d99f ++
  [0x56, 0x58, 0x43, 0x46, 0, 0, 0, 0, 1, 0, 1, 0, 0, 0, 0, 0] ++ (List.range 6).flatMap (fun i => toBytes 8 (2 ^ i)) ++
  List.replicate 96 0 ++ signedBy
    0x5a95ff8be1682f6d86389569fa9a413b7b4a8222fd324ebce8c84bcf1868402b398a3d63fd58ee15df5073151edd3496

/-- Where the fuses hold the flash's root key and no version, every check of the boot ROM passes. -/
theorem boots (h1 : Config.fuseRootHash 0 = sha384 (rootKey flash1)) (h2 : Config.fuseMinSvn 0 = 0) : romFailure 0 flash1 = none := by
  have h3 : ecdsaVerify (rootKey flash1) (sha384 (bytesIn (certOf flash1) 0 100)) (bytesIn (certOf flash1) 100 96) = true := by
    decide +kernel
  have h4 : ecdsaVerify (bytesIn (certOf flash1) 0 96) (digestOfBytes (digestOf flash1)) (digestSig flash1) = true := by decide +kernel
  have h5 : digestOfBytes (digestOf flash1) = sha384 (imageOf flash1) := by decide +kernel
  have h6 : ecdsaVerify (bytesIn (certOf flash1) 0 96) (sha384 (bytesIn (tableOf flash1) 0 160)) (bytesIn (tableOf flash1) 160 96) = true := by
    decide +kernel
  have h7 : tableValid (tableOf flash1) = true := by decide +kernel
  rw [h5] at h4
  simp [romFailure, h1, h2, h3, h4, h5, h6, h7]
/-- FIPS 180-4: the digest of the message abc; FIPS 186-5: a changed message is refused. -/
theorem test_sha384 : sha384Bytes [0x61, 0x62, 0x63] = (toBytes 48
    0xcb00753f45a35e8bb5a03d699ac65007272c32ab0eded1631a8b605a43ff5bed8086072ba1e7cc2358baeca134c825a7).reverse := by decide +kernel
theorem test_ecdsa_refuses : ecdsaVerify (rootKey flash1) 1 (bytesIn (certOf flash1) 100 96) = false := by decide +kernel
theorem witness_BootAndSessions :
    (([] : List Byte).length ≤ rootLen + certLen + tailLen ∧ ¬ flash1.length ≤ rootLen + certLen + tailLen) ∧
    (Config.fuseRootHash 0 = sha384 (rootKey flash1) → Config.fuseMinSvn 0 = 0 → romFailure 0 flash1 = none) ∧
    (Config.fuseRootHash 0 ≠ sha384 (rootKey flash1) → romFailure 0 flash1 = some 2) ∧
    (let s := dev0 (fun d => { d with recovery := recovery0, bootst := 1, clk := 64 * 1300000000 }) s0
     (s.dev 0).recovery.on = true ∧ (s.dev 0).recovery.server = some 4 ∧ 0 ∈ (s.dev 0).recovery.got ∧ 1 ∉ (s.dev 0).recovery.got ∧
     (let t := dev0 (fun d => { d with recovery := { d.recovery with server := none, got := [] } }) s
      (t.dev 0).recovery.on = true ∧ (t.dev 0).recovery.server = none ∧ 0 ∉ (t.dev 0).recovery.got) ∧
     (s.dev 0).recovery.first + 64 * 1300000000 ≤ (s.dev 0).clk ∧ bits (s.dev 0).bootst.toNat 3 0 = 1 ∧
     (∀ n ∈ [2, 3, 4], ∀ l ∈ [46, 9198], let bs := BitVec.ofNat 8 n :: List.replicate (l - 1) 0
       fieldAt bs 0 2 = n ∧ 46 ≤ bs.length ∧ bs.length ≤ 9198)) ∧
    (let s := dev0 (fun d => { d with recovery := { recovery0 with on := false, retry := some 9 }, clk := 9 }) s0
     (s.dev 0).recovery.retry = some 9 ∧ 9 ≤ (s.dev 0).clk) ∧
    (bits ((monitor true).dev 0).bootst.toNat 3 0 = 2 ∧ bits (s0.dev 0).bootst.toNat 3 0 ≠ 2) ∧
    (((monitor true).dev 0).sessions.length < 256 ∧
      256 ≤ ((dev0 (fun d => { d with sessions := List.replicate 256 (session0 true) }) s0).dev 0).sessions.length) ∧
    (∀ o ∈ [true, false], ((monitor o).dev 0).sessions.find? (·.id == 3) = some (session0 o) ∧ (session0 o).open_ = o) ∧
    (let s := monitor true
     (s.dev 0).sessions.find? (fun x => x.id == 3 && x.open_) = some (session0 true) ∧ (session0 true).pid = some 0 ∧
     (s.part 0).session = some (0, 3) ∧ (s.part 0).cert ≠ 0 ∧
     (∃ cs, s.tenantPieces 0 0 1024 8 = .ok cs ∧ s.portRefused cs = [] ∧ ∀ c ∈ cs, s.chunkPoison [c] = none) ∧
     ∃ cs, s.tenantPieces 0 0 (2 ^ 34) 8 = .ok cs ∧ s.portRefused cs ≠ []) ∧
    (let s := poisonedAt 16 (monitor true)
     ∃ cs, s.tenantPieces 0 0 1024 8 = .ok cs ∧ s.portRefused cs = [] ∧ ∃ c ∈ cs, s.chunkPoison [c] ≠ none) ∧
    (let s := { mapped with mem := mapped.mem.writeCells [(1064960, 19)] }
     frozenB (s.tenantPieces 0 0 (2 ^ 40) 8) = true) ∧
    (let s := dev0 (fun d => { d with bootst := 2, sessions := [{ session0 true with pid := none, cert := 1 }] }) s0
     (s.dev 0).sessions.find? (fun x => x.id == 3 && x.open_) = some { session0 true with pid := none, cert := 1 } ∧
     0 < 1 ∧ 1 < 65535 ∧ 5 ≠ 0 ∧ (s.part 1).cert = 0 ∧ ((parted (fun p => { p with cert := 5 }) s).part 0).cert ≠ 0) ∧
    (Config.firmwareCert 1 = true ∨ Config.firmwareCert 1 = false) := by
  refine ⟨by decide +kernel, boots, fun h => by simp [romFailure, Ne.symm h], ?_, by decide +kernel, by decide +kernel, by decide +kernel,
    by decide +kernel, ⟨by decide +kernel, by decide +kernel, by decide +kernel, by decide +kernel, tr_ok (by decide +kernel),
      tr_ok (by decide +kernel)⟩, tr_ok (by decide +kernel), by decide +kernel, by decide +kernel, by cases Config.firmwareCert 1 <;> simp⟩
  refine ⟨by decide +kernel, by decide +kernel, by decide +kernel, by decide +kernel, by decide +kernel, by decide +kernel,
    by decide +kernel, ?_⟩
  intro n hn l hl
  simp only [List.mem_cons, List.not_mem_nil, or_false] at hn hl
  refine ⟨?_, ?_, ?_⟩
  · rcases hn with rfl | rfl | rfl <;> rcases hl with rfl | rfl <;> decide +kernel
  · rw [List.length_cons, List.length_replicate]; omega
  · rw [List.length_cons, List.length_replicate]; omega

/-! The step. -/

/-- The thread, of class 0, stands at 1024, where the words of an instruction are, in a line that the instruction cache holds. -/
def coded (r : Option Row) : State :=
  { co (fun c => { c with ic := [{ asid := 0, vline := 16, pline := 16, data := 0x0144, from_ := 0, bad := false }] })
      (me (fun t => { t with pc := 1024, cls := 0, row := r }) s0) with turns := [0] }

theorem fetches1 {k w : Nat} {e0 : TlbEnt} {s : State}
    (h : trB (fun x => decide (x.1.dom = e0.dom ∧ x.1.cls = e0.cls ∧
        x.2.icHit (coreOf k) (s.slot k).asid.toNat x.1 (s.slot k).pc.toNat = true ∧
        x.2.codeWord (coreOf k) (s.slot k).asid.toNat x.1 (s.slot k).pc.toNat = w))
      (s.fetchPage (coreOf k) (s.slot k).asid.toNat (s.slot k).pc.toNat (s.slot k).cls.toNat) = true) :
    ∃ v, Fetches k e0 [] [w] s v := by
  obtain ⟨x, h1, h2, h3, h4, h5⟩ := tr_ok h
  have h6 : ((s.slot k).pc + BitVec.ofNat 64 (2 * [].length (α := Nat))).toNat = (s.slot k).pc.toNat := by simp
  refine ⟨x.2, x.1, x.2, ?_, h2, h3, ?_, ?_, rfl⟩
  · rw [h6]; exact h1
  · rw [h6]; exact h4
  · rw [h6]; exact h5

/-- The state at its issue turn, and after the thread has entered the page of its PC. -/
def turn (r : Option Row) : State :=
  (({ coded r with turns := [], ev := none }).beginIssue 1).modSlot 1 fun t => { t with park := t.park.filter Park.stays }
def enter (r : Option Row) (x : TlbEnt × State) : State :=
  if r = none then (x.2.modSlot 1 fun t => { t with dom := x.1.dom, cls := x.1.cls }).reloadRow 1
  else x.2.modSlot 1 fun t => { t with cls := x.1.cls }
theorem witness_StepRunsDecoded : ∀ r ∈ [none, some row],
    let s := coded r
    let s0 := { s with turns := [], ev := none }
    let t := s.slot 1
    (s.agenda = [] ∧ s.turns = 0 :: [] ∧ s0.pick 0 = some 1 ∧ s.handles 1 = false ∧ t.replied = false ∧ (t.heldInt = false ∨ t.inh = true) ∧
      (s.core (coreOf 1)).dif.trap = none ∧ t.row = r) ∧
    decodeWords [0x0144] = .ok (.add np 1 2 1) [0x0144].length ∧
    ∃ x, (turn r).fetchPage (coreOf 1) t.asid.toNat t.pc.toNat (if t.row.isNone then 2 else t.cls.toNat) = .ok x ∧
      (t.row = none ∨ (x.1.dom = t.dom ∧ x.1.cls ≤ t.cls)) ∧ (Instr.add np 1 2 1).cls ≤ x.1.cls.toNat ∧
      ∃ v, Fetches 1 x.1 [] [0x0144] (enter r x) v := by
  intro r h
  refine ⟨by fin_cases h <;> decide +kernel, by decide +kernel, ?_⟩
  obtain ⟨x, h1, h2, h3, h4⟩ := tr_ok (P := fun x => (((coded r).slot 1).row = none ∨ (x.1.dom = ((coded r).slot 1).dom ∧
      x.1.cls ≤ ((coded r).slot 1).cls)) ∧ (Instr.add np 1 2 1).cls ≤ x.1.cls.toNat ∧
      trB (fun y => decide (y.1.dom = x.1.dom ∧ y.1.cls = x.1.cls ∧
          y.2.icHit (coreOf 1) ((enter r x).slot 1).asid.toNat y.1 ((enter r x).slot 1).pc.toNat = true ∧
          y.2.codeWord (coreOf 1) ((enter r x).slot 1).asid.toNat y.1 ((enter r x).slot 1).pc.toNat = 0x0144))
        ((enter r x).fetchPage (coreOf 1) ((enter r x).slot 1).asid.toNat ((enter r x).slot 1).pc.toNat
          ((enter r x).slot 1).cls.toNat) = true)
    (c := (turn r).fetchPage (coreOf 1) ((coded r).slot 1).asid.toNat ((coded r).slot 1).pc.toNat
      (if ((coded r).slot 1).row.isNone then 2 else ((coded r).slot 1).cls.toNat)) (by fin_cases h <;> decide +kernel)
  exact ⟨x, h1, h2, h3, fetches1 h4⟩

theorem witness_StepKeepsMemoryForm : s0.MemWf ∧ ∃ t, step s0 = .next t ∧ t.clock = 1 :=
  ⟨by unfold State.MemWf; decide +kernel, goes (by decide +kernel)⟩

theorem witness_EncodeDecode : let i : Instr := .st64 { np with hint := some 0x81, xr := true } 31 8 (-16)
    i.wf = true ∧ i.encoded = true := by decide +kernel

/-! ### Words written out from R112-R128, one or more for every entry of the maps: d is 3, a 5, b 6, an immediate -3 (a is 6 for VCVT, whose pair is even). -/

/-- R122: page 0. -/
theorem test_decode_page0_0 :
    decodeWords [0x03B8] = .ok (.add np 3 5 6) 1 ∧
    decodeWords [0x03B9] = .ok (.sub np 3 5 6) 1 ∧
    decodeWords [0x03BA] = .ok (.and np 3 5 6) 1 ∧
    decodeWords [0x03BB] = .ok (.or np 3 5 6) 1 ∧
    decodeWords [0x0BB8] = .ok (.xor np 3 5 6) 1 ∧
    decodeWords [0x0BB9] = .ok (.mul np 3 5 6) 1 ∧
    decodeWords [0x0BBA] = .ok (.shl np 3 5 6) 1 ∧
    decodeWords [0x0BBB] = .ok (.shr np 3 5 6) 1 ∧
    decodeWords [0x13B8] = .ok (.shra np 3 5 6) 1 ∧
    decodeWords [0x13B9] = .ok (.andn np 3 5 6) 1 ∧
    decodeWords [0x1002] = .ok (.gate np) 1 ∧
    decodeWords [0x1102] = .ok (.retx np) 1 ∧
    decodeWords [0x1202] = .ok (.exit np) 1 ∧
    decodeWords [0x1302] = .ok (.brk np) 1 ∧
    decodeWords [0x1496] = .ok (.trap np 37) 1 ∧
    decodeWords [0x1BBD] = .ok (.addi np 3 5 (-3)) 1 := by
  refine ⟨?_, ?_, ?_, ?_, ?_, ?_, ?_, ?_, ?_, ?_, ?_, ?_, ?_, ?_, ?_, ?_⟩ <;> decide

/-- R122: page 0. -/
theorem test_decode_page0_1 :
    decodeWords [0x23BD] = .ok (.shli np 3 5 (-3)) 1 ∧
    decodeWords [0x2BBD] = .ok (.shri np 3 5 (-3)) 1 ∧
    decodeWords [0x33BD] = .ok (.shrai np 3 5 (-3)) 1 ∧
    decodeWords [0x3BBD] = .ok (.ldS8 np 3 5 (-3)) 1 ∧
    decodeWords [0x43BD] = .ok (.ldS16 np 3 5 (-3)) 1 ∧
    decodeWords [0x4BBD] = .ok (.ldS32 np 3 5 (-3)) 1 ∧
    decodeWords [0x53BD] = .ok (.ld64 np 3 5 (-3)) 1 ∧
    decodeWords [0x5BBD] = .ok (.ldZ8 np 3 5 (-3)) 1 ∧
    decodeWords [0x63BD] = .ok (.ldZ16 np 3 5 (-3)) 1 ∧
    decodeWords [0x6BBD] = .ok (.ldZ32 np 3 5 (-3)) 1 ∧
    decodeWords [0x73BD] = .ok (.st8 np 3 5 (-3)) 1 ∧
    decodeWords [0x7BBD] = .ok (.st16 np 3 5 (-3)) 1 ∧
    decodeWords [0x83BD] = .ok (.st32 np 3 5 (-3)) 1 ∧
    decodeWords [0x8BBD] = .ok (.st64 np 3 5 (-3)) 1 ∧
    decodeWords [0x93B9] = .ok (.ldl np .blk 3 5 6) 1 ∧
    decodeWords [0x9BB9] = .ok (.stl np .blk 3 5 6) 1 := by
  refine ⟨?_, ?_, ?_, ?_, ?_, ?_, ?_, ?_, ?_, ?_, ?_, ?_, ?_, ?_, ?_, ?_⟩ <;> decide

/-- R122: page 0. -/
theorem test_decode_page0_2 :
    decodeWords [0xA3BD] = .ok (.ldc np 3 5 (-3)) 1 ∧
    decodeWords [0xABB8] = .ok (.cmpEq np 3 5 6) 1 ∧
    decodeWords [0xABB9] = .ok (.cmpNe np 3 5 6) 1 ∧
    decodeWords [0xABBA] = .ok (.cmpLt np 3 5 6) 1 ∧
    decodeWords [0xABBB] = .ok (.cmpGe np 3 5 6) 1 ∧
    decodeWords [0xB3B8] = .ok (.cmpuLtu np 3 5 6) 1 ∧
    decodeWords [0xB3B9] = .ok (.cmpuGeu np 3 5 6) 1 ∧
    decodeWords [0xB3BA] = .ok (.cmpuTst np 3 5 6) 1 ∧
    decodeWords [0xB3BB] = .ok (.cmpuNtst np 3 5 6) 1 ∧
    decodeWords [0xBBB8] = .ok (.pand np 3 5 6) 1 ∧
    decodeWords [0xBBB9] = .ok (.por np 3 5 6) 1 ∧
    decodeWords [0xBBBA] = .ok (.pxor np 3 5 6) 1 ∧
    decodeWords [0xBBBB] = .ok (.pandn np 3 5 6) 1 ∧
    decodeWords [0xC7FD] = .ok (.br np (-3)) 1 ∧
    decodeWords [0xCFFD] = .ok (.call np (-3)) 1 ∧
    decodeWords [0xD7FD] = .ok (.callx np (-3)) 1 := by
  refine ⟨?_, ?_, ?_, ?_, ?_, ?_, ?_, ?_, ?_, ?_, ?_, ?_, ?_, ?_, ?_, ?_⟩ <;> decide

/-- R122: page 0. -/
theorem test_decode_page0_3 :
    decodeWords [0xD8A0] = .ok (.jmp np 5) 1 ∧
    decodeWords [0xD8A1] = .ok (.callReg np 5) 1 ∧
    decodeWords [0xD802] = .ok (.ret np) 1 ∧
    decodeWords [0xD8A3] = .ok (.callxReg np 5) 1 := by
  refine ⟨?_, ?_, ?_, ?_⟩ <;> decide

/-- R124: page 1. -/
theorem test_decode_page1_0 :
    decodeWords [0xF8A4, 0x03BA] = .ok (.vadd np .bf16 .rz (.v 3) (.v 5) (.v 6) 2) 2 ∧
    decodeWords [0xF8A5, 0x03BA] = .ok (.vsub np .bf16 .rz (.v 3) (.v 5) (.v 6) 2) 2 ∧
    decodeWords [0xF8A6, 0x03BA] = .ok (.vmul np .bf16 .rz (.v 3) (.v 5) (.v 6) 2) 2 ∧
    decodeWords [0xF8A0, 0x0BBA] = .ok (.vfma np .f32 .rz 3 (.v 5) (.v 6) 2) 2 ∧
    decodeWords [0xF8A1, 0x0BBA] = .ok (.vfms np .f32 .rz 3 (.v 5) (.v 6) 2) 2 ∧
    decodeWords [0xF8A2, 0x0BBA] = .ok (.vfnma np .f32 .rz 3 (.v 5) (.v 6) 2) 2 ∧
    decodeWords [0xF8A3, 0x0BBA] = .ok (.vfnms np .f32 .rz 3 (.v 5) (.v 6) 2) 2 ∧
    decodeWords [0xF884, 0x13BA] = .ok (.vmax np .bf16 (.v 3) (.v 5) (.v 6) 2) 2 ∧
    decodeWords [0xF885, 0x13BA] = .ok (.vmin np .bf16 (.v 3) (.v 5) (.v 6) 2) 2 ∧
    decodeWords [0xF886, 0x13BA] = .ok (.vmaxa np .bf16 (.v 3) (.v 5) (.v 6) 2) 2 ∧
    decodeWords [0xF887, 0x13BA] = .ok (.vmina np .bf16 (.v 3) (.v 5) (.v 6) 2) 2 ∧
    decodeWords [0xF8D4, 0x1BBA] = .ok (.vcmpEq np true .i32 3 (.v 5) (.v 6) 2) 2 ∧
    decodeWords [0xF8D5, 0x1BBA] = .ok (.vcmpLt np true .i32 3 (.v 5) (.v 6) 2) 2 ∧
    decodeWords [0xF8D6, 0x1BBA] = .ok (.vcmpLe np true .i32 3 (.v 5) (.v 6) 2) 2 ∧
    decodeWords [0xF8D7, 0x1BBA] = .ok (.vcmpUn np true .i32 3 (.v 5) (.v 6) 2) 2 ∧
    decodeWords [0xF894, 0x23BA] = .ok (.vsel np .i32 3 (.v 5) (.v 6) 2) 2 := by
  refine ⟨?_, ?_, ?_, ?_, ?_, ?_, ?_, ?_, ?_, ?_, ?_, ?_, ?_, ?_, ?_, ?_⟩ <;> decide

/-- R124: page 1. -/
theorem test_decode_page1_1 :
    decodeWords [0xF880, 0x2BBA] = .ok (.vand np (.v 3) (.v 5) (.v 6) 2) 2 ∧
    decodeWords [0xF881, 0x2BBA] = .ok (.vor np (.v 3) (.v 5) (.v 6) 2) 2 ∧
    decodeWords [0xF882, 0x2BBA] = .ok (.vxor np (.v 3) (.v 5) (.v 6) 2) 2 ∧
    decodeWords [0xF883, 0x2BBA] = .ok (.vandn np (.v 3) (.v 5) (.v 6) 2) 2 ∧
    decodeWords [0xF8D8, 0x33BD] = .ok (.vshl np .i16 3 (.v 5) (-3) 2) 2 ∧
    decodeWords [0xF8D9, 0x33BD] = .ok (.vshr np .i16 3 (.v 5) (-3) 2) 2 ∧
    decodeWords [0xF8DA, 0x33BD] = .ok (.vshra np .i16 3 (.v 5) (-3) 2) 2 ∧
    decodeWords [0xF8A0, 0x3BA2] = .ok (.vredSum np .f32 .rz 3 (.v 5) 2) 2 ∧
    decodeWords [0xF895, 0x3BA2] = .ok (.vredMax np .i32 .rn 3 (.v 5) 2) 2 ∧
    decodeWords [0xF896, 0x3BA2] = .ok (.vredMin np .i32 .rn 3 (.v 5) 2) 2 ∧
    decodeWords [0xF8AF, 0x43C2] = .ok (.vcvt np .e4m3 .f32 .rz true true 3 6 2) 2 ∧
    decodeWords [0xF880, 0x4BA2] = .ok (.vexp2 np (.v 3) (.v 5) 2) 2 ∧
    decodeWords [0xF881, 0x4BA2] = .ok (.vrcp np (.v 3) (.v 5) 2) 2 ∧
    decodeWords [0xF882, 0x4BA2] = .ok (.vrsq np (.v 3) (.v 5) 2) 2 ∧
    decodeWords [0xF880, 0x53BA] = .ok (.vquant np (.v 3) (.v 5) 6 2) 2 ∧
    decodeWords [0xF880, 0x5BBA] = .ok (.vdeq np (.v 3) (.v 5) 6 2) 2 := by
  refine ⟨?_, ?_, ?_, ?_, ?_, ?_, ?_, ?_, ?_, ?_, ?_, ?_, ?_, ?_, ?_, ?_⟩ <;> decide

/-- R124: page 1. -/
theorem test_decode_page1_2 :
    decodeWords [0xF880, 0x63A2] = .ok (.vmov np (.v 3) (.v 5) 2) 2 ∧
    decodeWords [0xF881, 0x63A2] = .ok (.vbcast np 3 5 2) 2 ∧
    decodeWords [0xF882, 0x63B8] = .ok (.vgetl np 3 5 6) 2 ∧
    decodeWords [0xF883, 0x63B8] = .ok (.vsetl np 3 5 6) 2 ∧
    decodeWords [0xF88A, 0x6BBD] = .ok (.vld np (.lm .blk) 2 3 5 (-3)) 2 ∧
    decodeWords [0xF88A, 0x73BD] = .ok (.vst np (.lm .blk) 2 3 5 (-3)) 2 ∧
    decodeWords [0xF894, 0x7BBA] = .ok (.vgather np .i32 3 5 6 2) 2 ∧
    decodeWords [0xF880, 0x83B8] = .ok (.mand np 3 5 6) 2 ∧
    decodeWords [0xF881, 0x83B8] = .ok (.mor np 3 5 6) 2 ∧
    decodeWords [0xF882, 0x83B8] = .ok (.mxor np 3 5 6) 2 ∧
    decodeWords [0xF883, 0x83B8] = .ok (.mandn np 3 5 6) 2 ∧
    decodeWords [0xF880, 0x8BA0] = .ok (.mpop np 3 5) 2 ∧
    decodeWords [0xF881, 0x8BA0] = .ok (.mset np 3 5) 2 ∧
    decodeWords [0xF882, 0x8BA0] = .ok (.mget np 3 5) 2 ∧
    decodeWords [0xF886, 0x8B00] = .ok (.mgetVs np 3) 2 ∧
    decodeWords [0xF88E, 0x8B00] = .ok (.mgetVsClr np 3) 2 := by
  refine ⟨?_, ?_, ?_, ?_, ?_, ?_, ?_, ?_, ?_, ?_, ?_, ?_, ?_, ?_, ?_, ?_⟩ <;> decide

/-- R124: page 1. -/
theorem test_decode_page1_3 :
    decodeWords [0xF884, 0x93A2] = .ok (.vabs np .bf16 (.v 3) (.v 5) 2) 2 ∧
    decodeWords [0xF885, 0x93A2] = .ok (.vneg np .bf16 (.v 3) (.v 5) 2) 2 := by
  refine ⟨?_, ?_⟩ <;> decide

/-- R125: page 2. -/
theorem test_decode_page2_0 :
    decodeWords [0xF900, 0x0000] = .ok (.gangStatic np) 2 ∧
    decodeWords [0xF901, 0x00A0] = .ok (.gangElastic np 5) 2 ∧
    decodeWords [0xF902, 0x0000] = .ok (.gangEnd np) 2 ∧
    decodeWords [0xF901, 0x08B8] = .ok (.twld np true 5 6) 2 ∧
    decodeWords [0xF906, 0x10B8] = .ok (.tmm np 2 true (.local 5) 6) 2 ∧
    decodeWords [0xF902, 0x1BB8] = .ok (.tdrain np 2 3 5 6) 2 ∧
    decodeWords [0xF902, 0x1BB9] = .ok (.tdrainAdd np 2 3 5 6) 2 ∧
    decodeWords [0xF902, 0x2000] = .ok (.tzero np 2) 2 ∧
    decodeWords [0xF902, 0x28A0] = .ok (.trda np 2 5) 2 ∧
    decodeWords [0xF902, 0x30B8] = .ok (.twra np 2 5 6) 2 ∧
    decodeWords [0xF900, 0x3BB8] = .ok (.tpack np 3 5 6) 2 ∧
    decodeWords [0xF900, 0x43B8] = .ok (.tunpk np 3 5 6) 2 ∧
    decodeWords [0xF900, 0x4BA0] = .ok (.tchk np 3 5) 2 ∧
    decodeWords [0xF925, 0x50BD] = .ok (.tstxSet np 37 5 (-3)) 2 ∧
    decodeWords [0xF965, 0x50BD] = .ok (.tstxClr np 37 5 (-3)) 2 ∧
    decodeWords [0xF900, 0x5BB8] = .ok (.accMax np 3 5 6) 2 := by
  refine ⟨?_, ?_, ?_, ?_, ?_, ?_, ?_, ?_, ?_, ?_, ?_, ?_, ?_, ?_, ?_, ?_⟩ <;> decide

/-- R125: page 2. -/
theorem test_decode_page2_1 :
    decodeWords [0xF901, 0x5BB8] = .ok (.accScale np 3 5 6) 2 ∧
    decodeWords [0xF900, 0x60B8] = .ok (.difs np 5 6) 2 ∧
    decodeWords [0xF900, 0x68BD] = .ok (.difgo np 5 (-3)) 2 ∧
    decodeWords [0xF900, 0x7000] = .ok (.difwait np) 2 := by
  refine ⟨?_, ?_, ?_, ?_⟩ <;> decide

/-- R126: page 3. -/
theorem test_decode_page3_0 :
    decodeWords [0xF989, 0x03BD] = .ok (.ldlLong np .blk true .b2 3 5 (-3)) 2 ∧
    decodeWords [0xF98A, 0x0BBD] = .ok (.stlLong np .blk .b4 3 5 (-3)) 2 ∧
    decodeWords [0xF988, 0x13BD] = .ok (.ldfe np .blk 3 5 (-3)) 2 ∧
    decodeWords [0xF989, 0x13BD] = .ok (.ldff np .blk 3 5 (-3)) 2 ∧
    decodeWords [0xF988, 0x1BBD] = .ok (.stfe np .blk 3 5 (-3)) 2 ∧
    decodeWords [0xF989, 0x1BBD] = .ok (.stff np .blk 3 5 (-3)) 2 ∧
    decodeWords [0xF988, 0x20BD] = .ok (.seteE np .blk 5 (-3)) 2 ∧
    decodeWords [0xF989, 0x20BD] = .ok (.seteF np .blk 5 (-3)) 2 ∧
    decodeWords [0xF980, 0x2B00] = .ok (.rempty np 3) 2 ∧
    decodeWords [0xF995, 0x33B8] = .ok (.fill np 21 3 5 6) 2 ∧
    decodeWords [0xF990, 0x3BB8] = .ok (.amoAdd np true 3 5 6) 2 ∧
    decodeWords [0xF991, 0x3BB8] = .ok (.amoAnd np true 3 5 6) 2 ∧
    decodeWords [0xF992, 0x3BB8] = .ok (.amoOr np true 3 5 6) 2 ∧
    decodeWords [0xF993, 0x3BB8] = .ok (.amoXor np true 3 5 6) 2 ∧
    decodeWords [0xF994, 0x3BB8] = .ok (.amoMin np true 3 5 6) 2 ∧
    decodeWords [0xF995, 0x3BB8] = .ok (.amoMax np true 3 5 6) 2 := by
  refine ⟨?_, ?_, ?_, ?_, ?_, ?_, ?_, ?_, ?_, ?_, ?_, ?_, ?_, ?_, ?_, ?_⟩ <;> decide

/-- R126: page 3. -/
theorem test_decode_page3_1 :
    decodeWords [0xF996, 0x3BB8] = .ok (.amoMinz np true 3 5 6) 2 ∧
    decodeWords [0xF997, 0x3BB8] = .ok (.amoMaxz np true 3 5 6) 2 ∧
    decodeWords [0xF998, 0x3BB8] = .ok (.amoSwap np true 3 5 6) 2 ∧
    decodeWords [0xF999, 0x3BB8] = .ok (.amoCas np true 3 5 6) 2 ∧
    decodeWords [0xF990, 0x40B8] = .ok (.amopAdd np true 5 6) 2 ∧
    decodeWords [0xF991, 0x40B8] = .ok (.amopAnd np true 5 6) 2 ∧
    decodeWords [0xF992, 0x40B8] = .ok (.amopOr np true 5 6) 2 ∧
    decodeWords [0xF993, 0x40B8] = .ok (.amopXor np true 5 6) 2 ∧
    decodeWords [0xF994, 0x40B8] = .ok (.amopMin np true 5 6) 2 ∧
    decodeWords [0xF995, 0x40B8] = .ok (.amopMax np true 5 6) 2 ∧
    decodeWords [0xF996, 0x40B8] = .ok (.amopMinz np true 5 6) 2 ∧
    decodeWords [0xF997, 0x40B8] = .ok (.amopMaxz np true 5 6) 2 ∧
    decodeWords [0xF980, 0x48B8] = .ok (.famoF32 np 5 6) 2 ∧
    decodeWords [0xF981, 0x48B8] = .ok (.famoBf16 np 5 6) 2 ∧
    decodeWords [0xF980, 0x53BD] = .ok (.ldr np 3 5 (-3)) 2 ∧
    decodeWords [0xF980, 0x5BBD] = .ok (.stc np 3 5 (-3)) 2 := by
  refine ⟨?_, ?_, ?_, ?_, ?_, ?_, ?_, ?_, ?_, ?_, ?_, ?_, ?_, ?_, ?_, ?_⟩ <;> decide

/-- R126: page 3. -/
theorem test_decode_page3_2 :
    decodeWords [0xF980, 0x63A0] = .ok (.waitrs np 3 5) 2 ∧
    decodeWords [0xF9C8, 0x6800] = .ok (.fenceAcq np (.named 1)) 2 ∧
    decodeWords [0xF9C9, 0x6800] = .ok (.fenceRel np (.named 1)) 2 ∧
    decodeWords [0xF9CA, 0x6800] = .ok (.fenceAr np (.named 1)) 2 ∧
    decodeWords [0xF9CB, 0x6800] = .ok (.fenceSc np (.named 1)) 2 ∧
    decodeWords [0xF980, 0x7000] = .ok (.fencePost np) 2 ∧
    decodeWords [0xF980, 0x7BA0] = .ok (.scopedef np 3 5) 2 ∧
    decodeWords [0xF980, 0x8000] = .ok (.csync np) 2 ∧
    decodeWords [0xF980, 0x8B1D] = .ok (.ebegin np 3 (-3)) 2 ∧
    decodeWords [0xF980, 0x9000] = .ok (.ecommit np) 2 ∧
    decodeWords [0xF980, 0x9800] = .ok (.eabort np) 2 ∧
    decodeWords [0xF980, 0xA3A0] = .ok (.ebnd np 3 5) 2 ∧
    decodeWords [0xF980, 0xAB00] = .ok (.epos np 3) 2 ∧
    decodeWords [0xF9C8, 0xB3A0] = .ok (.barArrive np (.named 1) 3 5) 2 ∧
    decodeWords [0xF9C9, 0xB0B8] = .ok (.barWait np (.named 1) 5 6) 2 ∧
    decodeWords [0xF9CA, 0xB3A0] = .ok (.barAw np (.named 1) 3 5) 2 := by
  refine ⟨?_, ?_, ?_, ?_, ?_, ?_, ?_, ?_, ?_, ?_, ?_, ?_, ?_, ?_, ?_, ?_⟩ <;> decide

/-- R126: page 3. -/
theorem test_decode_page3_3 :
    decodeWords [0xF9CB, 0xB3B8] = .ok (.barTest np (.named 1) 3 5 6) 2 ∧
    decodeWords [0xF980, 0xB8B8] = .ok (.barInit np 5 6) 2 ∧
    decodeWords [0xF9CA, 0xC3BD] = .ok (.ldAcq np (.named 1) .b4 3 5 (-3)) 2 ∧
    decodeWords [0xF9CA, 0xCBBD] = .ok (.stRel np (.named 1) .b4 3 5 (-3)) 2 := by
  refine ⟨?_, ?_, ?_, ?_⟩ <;> decide

/-- R127: page 4. -/
theorem test_decode_page4_0 :
    decodeWords [0xFA00, 0x03B8] = .ok (.copy np 3 5 6) 2 ∧
    decodeWords [0xFA00, 0x0B98] = .ok (.copyq np 3 4 6) 2 ∧
    decodeWords [0xFA00, 0x13A0] = .ok (.cjwait np 3 5) 2 ∧
    decodeWords [0xFA00, 0x1BA0] = .ok (.cjtest np 3 5) 2 ∧
    decodeWords [0xFA01, 0x23B8] = .ok (.mkgrant np true 3 5 6) 2 ∧
    decodeWords [0xFA00, 0x2BB8] = .ok (.addg np 3 5 6) 2 ∧
    decodeWords [0xFA00, 0x33A0] = .ok (.grantq np 3 5) 2 ∧
    decodeWords [0xFA00, 0x3B00] = .ok (.revoke np 3) 2 ∧
    decodeWords [0xFA00, 0x4000] = .ok (.wfw np) 2 ∧
    decodeWords [0xFA00, 0x4BA0] = .ok (.spawn np 3 5) 2 ∧
    decodeWords [0xFA00, 0x53B8] = .ok (.launch np 3 5 6) 2 ∧
    decodeWords [0xFA00, 0x5BA0] = .ok (.inrd np 3 5) 2 ∧
    decodeWords [0xFA12, 0x6300] = .ok (.krd np 18 3) 2 ∧
    decodeWords [0xFA12, 0x68A0] = .ok (.kwr np 18 5) 2 := by
  refine ⟨?_, ?_, ?_, ?_, ?_, ?_, ?_, ?_, ?_, ?_, ?_, ?_, ?_, ?_⟩ <;> decide

/-- R127: page 5. -/
theorem test_decode_page5_0 :
    decodeWords [0xFA80, 0x03B8] = .ok (.mulh np 3 5 6) 2 ∧
    decodeWords [0xFA81, 0x03B8] = .ok (.mulhz np 3 5 6) 2 ∧
    decodeWords [0xFA80, 0x0BB8] = .ok (.div np 3 5 6) 2 ∧
    decodeWords [0xFA81, 0x0BB8] = .ok (.divz np 3 5 6) 2 ∧
    decodeWords [0xFA82, 0x0BB8] = .ok (.rem np 3 5 6) 2 ∧
    decodeWords [0xFA83, 0x0BB8] = .ok (.remz np 3 5 6) 2 ∧
    decodeWords [0xFAA5, 0x13BD] = .ok (.bfxZ np 37 3 5 (-3)) 2 ∧
    decodeWords [0xFAE5, 0x13BD] = .ok (.bfxS np 37 3 5 (-3)) 2 ∧
    decodeWords [0xFAA5, 0x1BBD] = .ok (.bfi np 37 3 5 (-3)) 2 ∧
    decodeWords [0xFA85, 0x23B8] = .ok (.sel np 5 3 5 6) 2 ∧
    decodeWords [0xFA80, 0x2BA0] = .ok (.clz np 3 5) 2 ∧
    decodeWords [0xFA81, 0x2BA0] = .ok (.ctz np 3 5) 2 ∧
    decodeWords [0xFA82, 0x2BA0] = .ok (.popc np 3 5) 2 ∧
    decodeWords [0xFA83, 0x2BA0] = .ok (.bswap np 3 5) 2 ∧
    decodeWords [0xFA80, 0x33B8] = .ok (.min np 3 5 6) 2 ∧
    decodeWords [0xFA81, 0x33B8] = .ok (.max np 3 5 6) 2 := by
  refine ⟨?_, ?_, ?_, ?_, ?_, ?_, ?_, ?_, ?_, ?_, ?_, ?_, ?_, ?_, ?_, ?_⟩ <;> decide

/-- R127: page 5. -/
theorem test_decode_page5_1 :
    decodeWords [0xFA82, 0x33B8] = .ok (.minz np 3 5 6) 2 ∧
    decodeWords [0xFA83, 0x33B8] = .ok (.maxz np 3 5 6) 2 ∧
    decodeWords [0xFA80, 0x3BBD] = .ok (.andi np 3 5 (-3)) 2 ∧
    decodeWords [0xFA81, 0x3BBD] = .ok (.ori np 3 5 (-3)) 2 ∧
    decodeWords [0xFA82, 0x3BBD] = .ok (.xori np 3 5 (-3)) 2 ∧
    decodeWords [0xFA80, 0x4380] = .ok (.qpop np 3 4) 2 ∧
    decodeWords [0xFA81, 0x44A0] = .ok (.qpush np 4 5) 2 := by
  refine ⟨?_, ?_, ?_, ?_, ?_, ?_, ?_⟩ <;> decide

/-- R128: page 7. -/
theorem test_decode_page7_0 :
    decodeWords [0xFB82, 0x03A0] = .ok (.srd np 2 3 5) 2 ∧
    decodeWords [0xFB82, 0x08B8] = .ok (.swr np 2 5 6) 2 ∧
    decodeWords [0xFB80, 0x1000] = .ok (.eret np) 2 ∧
    decodeWords [0xFB81, 0x13A0] = .ok (.eretStart np 3 5) 2 ∧
    decodeWords [0xFB84, 0x1BB8] = .ok (.tlbinvRange np true 3 5 6) 2 ∧
    decodeWords [0xFB85, 0x1BB8] = .ok (.tlbinvAsid np true 3 5 6) 2 ∧
    decodeWords [0xFB86, 0x1BB8] = .ok (.tlbinvS2range np true 3 5 6) 2 ∧
    decodeWords [0xFB87, 0x1BB8] = .ok (.tlbinvPartition np true 3 5 6) 2 ∧
    decodeWords [0xFB80, 0x23B8] = .ok (.tlbprobe np 3 5 6) 2 ∧
    decodeWords [0xFB88, 0x28B8] = .ok (.cacheopIc np true 5 6) 2 ∧
    decodeWords [0xFB89, 0x28B8] = .ok (.cacheopL1 np true 5 6) 2 ∧
    decodeWords [0xFB8A, 0x28B8] = .ok (.cacheopCc np true 5 6) 2 ∧
    decodeWords [0xFB8B, 0x28B8] = .ok (.cacheopL2v np true 5 6) 2 ∧
    decodeWords [0xFB84, 0x28B8] = .ok (.cacheopL2p np 5 6) 2 ∧
    decodeWords [0xFB80, 0x30B8] = .ok (.domsetRow np 5 6) 2 ∧
    decodeWords [0xFB81, 0x3018] = .ok (.domsetAll np 6) 2 := by
  refine ⟨?_, ?_, ?_, ?_, ?_, ?_, ?_, ?_, ?_, ?_, ?_, ?_, ?_, ?_, ?_, ?_⟩ <;> decide

/-- R128: page 7. -/
theorem test_decode_page7_1 :
    decodeWords [0xFB80, 0x3BB8] = .ok (.fwsend np 3 5 6) 2 ∧
    decodeWords [0xFB81, 0x3BB8] = .ok (.fwsendReply np 3 5 6) 2 ∧
    decodeWords [0xFB80, 0x40A0] = .ok (.stoparmCore np 5) 2 ∧
    decodeWords [0xFB81, 0x43B8] = .ok (.stoparmStop np 3 5 6) 2 ∧
    decodeWords [0xFB82, 0x43B8] = .ok (.stoparmResume np 3 5 6) 2 ∧
    decodeWords [0xFB80, 0x48A0] = .ok (.step np 5) 2 ∧
    decodeWords [0xFB80, 0x53A0] = .ok (.slpset np 3 5) 2 ∧
    decodeWords [0xFB80, 0x5800] = .ok (.wdsetKick np) 2 ∧
    decodeWords [0xFB81, 0x58B8] = .ok (.wdsetArm np 5 6) 2 ∧
    decodeWords [0xFB82, 0x5B18] = .ok (.wdsetRead np 3 6) 2 := by
  refine ⟨?_, ?_, ?_, ?_, ?_, ?_, ?_, ?_, ?_, ?_⟩ <;> decide
/-! ### Ill-formed terms: one for each check of well-formedness, which refuses it -/

/-- R11: a register above 7 without XR; the same with it. -/
theorem test_wf_xr : (Instr.add np 8 2 1).wf = false ∧ (Instr.add { np with xr := true } 8 2 1).wf = true := by decide
/-- R9, R10: a guard stands in XR. -/
theorem test_wf_guard : (Instr.add { np with guard := some (true, 1) } 3 2 1).wf = false := by decide
/-- R116: XH, XP, XR and two XI are five prefixes; without the hint, four. -/
theorem test_wf_length :
    (Instr.ldlLong { xi := 2, xr := true, guard := none, hint := some 1 } .own false .b8 9 2 131072).wf = false ∧
    (Instr.ldlLong { xi := 2, xr := true, guard := none, hint := none } .own false .b8 9 2 131072).wf = true := by decide
/-- R113: imm5 reaches from -16 to 15; with one XI, 16 bits; a format-A instruction takes no XI. -/
theorem test_wf_imm : (Instr.addi np 1 2 16).wf = false ∧ (Instr.addi np 1 2 (-16)).wf = true ∧
    (Instr.addi { np with xi := 1 } 1 2 32768).wf = false ∧ (Instr.addi { np with xi := 1 } 1 2 (-32768)).wf = true ∧
    (Instr.add { np with xi := 1 } 1 2 3).wf = false := by decide
/-- R122, R189, R57: GATE takes no prefix; VADD has no E4M3 form; a q destination needs m0; k.wid cannot be written. -/
theorem test_wf_operands : (Instr.gate { np with xr := true }).wf = false ∧
    (Instr.vadd { np with xr := true } .e4m3 .rn (.v 1) (.v 2) (.v 3) 0).wf = false ∧
    (Instr.vadd { np with xr := true } .f32 .rn (.q 1) (.v 2) (.v 3) 1).wf = false ∧
    (Instr.kwr np 0x20 1).wf = false := by decide
/-- R117: a required hint is known: l2keep for ST, but not for ADD, and nextline not for ST. -/
theorem test_wf_hint : (Instr.st64 { np with hint := some 0x82 } 1 2 0).wf = true ∧
    (Instr.add { np with hint := some 0x82 } 1 2 3).wf = false ∧
    (Instr.st64 { np with hint := some 0x84 } 1 2 0).wf = false := by decide

/-! ### The words the spec works out (n08, n10, n16, n21, R136, R142, R164, R165, R172, R174, R199, R200, R226) -/

/-- Scalar chains: shl g5, g2, 3; ld.s64 g7, [g6+0] with h=0x01; addi g11, g0, 1000; mkgrant g12, g4, g14, rw; bfx.s g5, g4, 20, 12;
trap 17. -/
theorem test_decode_worked_scalar :
    decodeWords [0x2543] = .ok (.shli np 5 2 3) 1 ∧
    decodeWords [0xE801, 0x57C0] = .ok (.ld64 { np with hint := some 1 } 7 6 0) 2 ∧
    decodeWords [0xF200, 0xE01F, 0x1B08] = .ok (.addi { np with xr := true, xi := 1 } 11 0 1000) 3 ∧
    decodeWords [0x1B08] = .ok (.addi np 3 0 8) 1 ∧
    decodeWords [0xFA01, 0xF220, 0x2498] = .ok (.mkgrant { np with xr := true } true 12 4 14) 3 ∧
    decodeWords [0xFACB, 0xE000, 0x1594] = .ok (.bfxS { np with xi := 1 } 11 5 4 20) 3 ∧
    decodeWords [0x1446] = .ok (.trap np 17) 1 := by
  refine ⟨?_, ?_, ?_, ?_, ?_, ?_, ?_⟩ <;> decide

/-- Memory, vector and array chains: fill g6, g2, g3, g9; amo.add.64 g5, [g4], g6; fence.rel.cluster's XP; ld.acq.64.span
g5, [g4+8]; st.rel.64.span [g4+0], g5; vred.sum.f32 g5, v4, m1 and its .ru form; vcvt.bf16.f32 v4, v0; difgo g4, 64;
tdrain.add.a0 g5, g6, g7; acc.scale g5, g6, g7; tstx.set g9, 11 with a distance of 5. -/
theorem test_decode_worked_memory :
    decodeWords [0xF989, 0x364C] = .ok (.fill np 9 6 2 3) 2 ∧
    decodeWords [0xF990, 0x3D98] = .ok (.amoAdd np true 5 4 6) 2 ∧
    decodeWords [0xF991, 0x6800] = .ok (.fenceRel np .cluster) 2 ∧
    decodeWords [0xF9B3, 0xC581] = .ok (.ldAcq np .span .b8 5 4 1) 2 ∧
    decodeWords [0xF9B3, 0xCD80] = .ok (.stRel np .span .b8 5 4 0) 2 ∧
    decodeWords [0xF880, 0x3D81] = .ok (.vredSum np .f32 .rn 5 (.v 4) 1) 2 ∧
    decodeWords [0xF8C0, 0x3D80] = .ok (.vredSum np .f32 .ru 5 (.v 4) 0) 2 ∧
    decodeWords [0xF884, 0x4400] = .ok (.vcvt np .bf16 .f32 .rn false false 4 0 0) 2 ∧
    decodeWords [0xF900, 0xE002, 0x6880] = .ok (.difgo { np with xi := 1 } 4 64) 3 ∧
    decodeWords [0xF900, 0x1DDD] = .ok (.tdrainAdd np 0 5 6 7) 2 ∧
    decodeWords [0xF901, 0x5DDC] = .ok (.accScale np 5 6 7) 2 ∧
    decodeWords [0xF90B, 0xF080, 0x5025] = .ok (.tstxSet { np with xr := true } 11 9 5) 3 := by
  refine ⟨?_, ?_, ?_, ?_, ?_, ?_, ?_, ?_, ?_, ?_, ?_, ?_⟩ <;> decide

/-- Refused encodings: an unallocated function of the control group, of page 5 and of page 7; a second XR; XI before format A; XR over
an m register; a prefixed GATE. -/
theorem test_decode_refused :
    decodeWords [0x1502] = .trap 1 1 ∧ decodeWords [0xFA82, 0x0144] = .trap 1 2 ∧ decodeWords [0xFB80, 0x6000] = .trap 1 2 ∧
    decodeWords [0xF000, 0xF000, 0x0144] = .trap 1 3 ∧ decodeWords [0xE001, 0x0144] = .trap 1 2 ∧
    decodeWords [0xF200, 0xF880, 0x8144] = .trap 1 3 ∧ decodeWords [0xF000, 0x1002] = .trap 1 2 := by
  refine ⟨?_, ?_, ?_, ?_, ?_, ?_, ?_⟩ <;> decide

/-! ### Worked values of the spec and hand calculation -/

/-- The value of a register, of a predicate after an instruction that goes on. -/
def gOf (i : Instr) (s : State) (r : Fin 32) : Option Nat := match exec i s with
  | .next t => if t.me.park.isNone then some (t.me.rd r).toNat else none
  | _ => none
def pOf (i : Instr) (s : State) (r : Fin 8) : Option Bool := match exec i s with
  | .next t => if t.me.park.isNone then some (t.me.rdP r) else none
  | _ => none
/-- g1 and g2 hold two values. -/
def two (x y : Nat) : State := put 1 x (put 2 y s0)
/-- -7 in 64 bits. -/
def m7 : Nat := 0xFFFFFFFFFFFFFFF9

/-- R133: sums and differences wrap; a shift count is taken modulo 64; a full shift by 64 is none; SHRA keeps the sign. -/
theorem test_alu : gOf (.add np 3 1 2) (two m7 9) 3 = some 2 ∧ gOf (.sub np 3 1 2) (two 2 9) 3 = some m7 ∧
    gOf (.shl np 3 1 2) (two 6 67) 3 = some 48 ∧ gOf (.shr np 3 1 2) (two m7 64) 3 = some m7 ∧
    gOf (.shra np 3 1 2) (two m7 1) 3 = some 0xFFFFFFFFFFFFFFFC ∧ gOf (.andn np 3 1 2) (two 12 10) 3 = some 4 ∧
    gOf (.mul np 3 1 2) (two m7 2) 3 = some 0xFFFFFFFFFFFFFFF2 := by decide +kernel
/-- R48: g0 reads as 0 and discards writes; a source may be the destination. -/
theorem test_g0 : gOf (.add np 0 1 2) (two 1 2) 0 = some 0 ∧ gOf (.add np 1 1 1) (two 5 2) 1 = some 10 := by decide +kernel
/-- R133, n08: shl of 6 by 3 is 48; addi with -1. -/
theorem test_imm : gOf (.shli np 5 2 3) (two 0 6) 5 = some 48 ∧ gOf (.addi np 3 1 (-1)) (two 0 0) 3 = some 0xFFFFFFFFFFFFFFFF ∧
    gOf (.shrai np 3 1 1) (two m7 0) 3 = some 0xFFFFFFFFFFFFFFFC := by decide +kernel
/-- R134. -/
theorem test_bits : gOf (.clz np 3 1) (two 1 0) 3 = some 63 ∧ gOf (.clz np 3 2) (two 1 0) 3 = some 64 ∧
    gOf (.ctz np 3 1) (two 40 0) 3 = some 3 ∧ gOf (.popc np 3 1) (two m7 0) 3 = some 62 ∧
    gOf (.bswap np 3 1) (two 0x0102030405060708 0) 3 = some 0x0807060504030201 := by decide +kernel
/-- R135, the table of examples. -/
theorem test_divide : gOf (.div np 3 1 2) (two m7 2) 3 = some 0xFFFFFFFFFFFFFFFD ∧
    gOf (.rem np 3 1 2) (two m7 2) 3 = some 0xFFFFFFFFFFFFFFFF ∧ gOf (.divz np 3 1 2) (two m7 2) 3 = some 0x7FFFFFFFFFFFFFFC ∧
    gOf (.remz np 3 1 2) (two m7 2) 3 = some 1 ∧ gOf (.rem np 3 1 2) (two 1071 462) 3 = some 147 ∧
    gOf (.div np 3 1 2) (two 7 0) 3 = some 0xFFFFFFFFFFFFFFFF ∧ gOf (.remz np 3 1 2) (two 7 0) 3 = some 7 ∧
    gOf (.div np 3 1 2) (two (2 ^ 63) (2 ^ 64 - 1)) 3 = some (2 ^ 63) ∧
    gOf (.rem np 3 1 2) (two (2 ^ 63) (2 ^ 64 - 1)) 3 = some 0 := by decide +kernel
/-- R135: -7 times 2 has the high word -1; unsigned, 1. -/
theorem test_mulh : gOf (.mulh np 3 1 2) (two m7 2) 3 = some 0xFFFFFFFFFFFFFFFF ∧ gOf (.mulhz np 3 1 2) (two m7 2) 3 = some 1 := by
  decide +kernel
/-- R136: the worked field 0xABC; an insert of 4 bits at 8; truncation at bit 63. -/
theorem test_fields : gOf (.bfxS { np with xi := 1 } 11 5 4 20) (put 4 0xABC00000 s0) 5 = some 0xFFFFFFFFFFFFFABC ∧
    gOf (.bfi np 3 2 1 8) (two 0x35 0xFFFF) 2 = some 0xF5FF ∧
    gOf (.bfxZ { np with xi := 1 } 7 3 1 60) (two (2 ^ 64 - 1) 0) 3 = some 15 := by decide +kernel
/-- R133, R137: min and max, signed and not; SEL by a false predicate. -/
theorem test_minmax_sel : gOf (.min np 3 1 2) (two m7 1) 3 = some m7 ∧ gOf (.minz np 3 1 2) (two m7 1) 3 = some 1 ∧
    gOf (.sel np 1 3 1 2) (two 5 6) 3 = some 6 ∧ gOf (.sel np 0 3 1 2) (two 5 6) 3 = some 5 := by decide +kernel
/-- R139, R140: -7 lies below 1 as a signed number only; tst; p0 reads as 1. -/
theorem test_compare : pOf (.cmpLt np 1 1 2) (two m7 1) 1 = some true ∧ pOf (.cmpuLtu np 1 1 2) (two m7 1) 1 = some false ∧
    pOf (.cmpGe np 1 1 1) (two 3 0) 1 = some true ∧ pOf (.cmpuTst np 1 1 2) (two 4 3) 1 = some false ∧
    pOf (.pandn np 1 0 2) s0 1 = some true := by decide +kernel

/-- R71, R72: 300.0 in four formats; 500.0 in E4M3, saturating and not. -/
theorem test_convert : convertElem .bf16 .f32 .rn false 0x43960000 = (0x4396, 0) ∧
    convertElem .f16 .f32 .rn false 0x43960000 = (0x5CB0, 0) ∧
    convertElem .e5m2 .f32 .rn false 0x43960000 = (0x5D, AFlags.nx) ∧
    convertElem .e4m3 .f32 .rn false 0x43960000 = (0x79, AFlags.nx) ∧
    convertElem .e4m3 .f32 .rn false 0x43FA0000 = (0x7E, AFlags.of ||| AFlags.sat ||| AFlags.nx) ∧
    convertElem .e4m3 .f32 .rn true 0x43FA0000 = (0x7F, AFlags.of ||| AFlags.nx) := by decide +kernel
/-- R75-R77: the worked scale (largest magnitude 3.0) and quantisation. -/
theorem test_quantise : e8Code [0x3F800000, 0xC0400000, 0x3D400000] = 122 ∧ quantise 0xC0400000 122 = (-96, 0) ∧
    quantise 0x3D400000 122 = (2, AFlags.nx) ∧ quantise 0x3C800000 122 = (0, AFlags.nx) ∧
    dequantise (-96) 122 = (0xC0400000, 0) := by decide +kernel
/-- R193: 2 + -2 in the negated form is +0 under .rn; 2^24 + 1 to nearest even and upwards (R199). -/
theorem test_add : (fp32.fused .fnma .rn 0x3F800000 0x40000000 0xC0000000).1 = 0 ∧
    fp32.add .rn 0x4B800000 0x3F800000 = (0x4B800000, AFlags.nx) ∧ fp32.add .ru 0x4B800000 0x3F800000 = (0x4B800001, AFlags.nx) := by
  decide +kernel
/-- R78: 0x9A holds the weights +1, 0, -1, -1, +1. -/
theorem test_ternary : (List.range 5).map (trit 0x9A) = [1, 0, -1, -1, 1] ∧ (List.range 5).map (trit 0xF2) = [-1, -1, -1, -1, -1] := by
  decide
/-- R79-R81: the residues of -1,000, and back; 3,000. -/
theorem test_residues : resOf (-1000) = 0x001C1814 ∧ crt 0x001C1814 = -1000 ∧ resAdd 0 3000 = 0x00ADB8C3 := by decide
/-- R83: the worked drain of one element. -/
theorem test_drain : drainStep (resOf 1000) 122 0x2E66 0 = (0x4047F380, 0) ∧
    drainStep (resOf (-3)) 122 0x4200 0x4047F380 = (0x4035F380, 0) := by decide +kernel
/-- R84, R202: 2^-1 is exact; 1/0 is an infinity with dz; 1/3 rounds to 0x3EAAAAAB; 1/sqrt 4. -/
theorem test_units : fpExp2 0xBF800000 = (0x3F000000, 0) ∧ fpRcp 0x80000000 = (0xFF800000, AFlags.dz) ∧
    fpRcp 0x40400000 = (0x3EAAAAAB, AFlags.nx) ∧ fpRsq 0x40800000 = (0x3F000000, 0) := by decide +kernel
/-- R90: the worked local address in the three modes, from core 5. -/
theorem test_local : lmMap .own 5 0x0C0010 = (5, 0x10) ∧ lmMap .blk 5 0x0C0010 = (3, 0x10) ∧ lmMap .ilv 5 0x0C0010 = (2, 0x18000) := by
  decide
/-- R318: the worked colour and slice. -/
theorem test_slice : colourOf 0x1234567840 = 32 ∧ sliceOf 0x1234567840 = 21 := by decide
/-- R325: the worked interleave: both regions together may be committed, one alone may not, and a line's home after. -/
theorem test_interleave :
    milvOk (((State.reset.dev 0).milvStaged.set 3 0x103).set 4 0x103) = true ∧
    milvOk ((State.reset.dev 0).milvStaged.set 3 0x103) = false ∧
    (State.reset.modDev 0 fun x => { x with milv := x.milv.set 3 0x103 }).homeDie 0x600010040 = 1 := by decide +kernel
/-- R165: a signed minimum in 32 bits; the result of a 32-bit form is sign-extended for min and zero-extended for minz. -/
theorem test_atomic : AmoOp.apply .min false 5 0xFFFFFFFF 0 = 0xFFFFFFFF ∧ AmoOp.apply .minz false 5 0xFFFFFFFF 0 = 5 ∧
    AmoOp.apply .cas true 7 9 7 = 9 ∧ AmoOp.apply .cas true 7 9 6 = 7 := by decide +kernel

/-- v4 of R199's example: 2^24 in lane 0, 1.0 in lanes 8, 16 and 24. -/
def lanes4 : BitVec 1024 := BitVec.ofNat 1024 (packElems 32 ((List.range 32).map fun i =>
  if i = 0 then 0x4B800000 else if i % 8 = 0 then 0x3F800000 else 0))
/-- R199: the reduction order at work, with m0, rounded upwards, and with lane 0 masked off. -/
theorem test_reduce :
    (let s := me (fun t => (t.wrV 4 lanes4).wrM 1 0xFFFFFFFE) s0
     gOf (.vredSum np .f32 .rn 5 (.v 4) 0) s 5 = some 0x4B800001 ∧ gOf (.vredSum np .f32 .ru 5 (.v 4) 0) s 5 = some 0x4B800002 ∧
     gOf (.vredSum np .f32 .rn 5 (.v 4) 1) s 5 = some 0x40400000) := by decide +kernel
/-- R200: 1.0 and 3.0 narrowed into one lane. -/
theorem test_narrow : (cvtLane .bf16 .f32 .rn false false 0x3F800000 0x40400000 0).1 = [0x40403F80] := by decide +kernel
/-- R2, R379: the check value that defines CRC-32C, of the digits 1 to 9. -/
theorem test_crc : crc32c ((List.range 9).map fun i => BitVec.ofNat 8 (0x31 + i)) = 0xE3069283 := by decide +kernel
/-- R198: fn[3:2] = 2 is unallocated in major 17 of page 1. -/
theorem test_decode_masks : decodeWords [0xF888, 0x8BA0] = .trap 1 2 ∧ decodeWords [0xF889, 0x8BA0] = .trap 1 2 := by decide
end Sys2Proof.Tests
end

section
/-! PROOFS. What the frame of every encoded instruction does (R9, R103), and the statements on guards, words, steps and parks. -/

namespace Sys2Proof
open Machine Claims

/-- An instruction's length is that of its page: one word and its prefixes on page 0, one word more elsewhere (R112). -/
theorem Instr.nwords_eq {i : Instr} {f : Fld} (h : i.fields = some f) :
    i.nwords = if f.page = 0 then nw0 f.p else nwX f.p := by
  split
  · exact nwords_of_page0 f.p h rfl ‹_›
  · exact nwords_of_page f.p h rfl ‹_›

/-- Every encoded instruction runs in the frame: a replied thread resumes, a false guard only finishes, and
the rest is its body's. -/
theorem exec_framed {i : Instr} {f : Fld} (h : i.fields = some f) (s : State) :
    ∃ t, exec i s = .next (if s.me.replied then s.resume
      else if !s.me.guard f.p then s.finish (if f.page = 0 then nw0 f.p else nwX f.p) else t) := by
  cases i with
  | vst p sp m d a off =>
    cases h
    rw [exec_vst, execVst]
    split <;> exact ⟨_, rfl⟩
  | _ => cases h <;> exact ⟨_, rfl⟩

/-- Settles O1: the frame finishes an instruction whose guard is false, and without single step that is the plain retirement. -/
theorem falseGuardIsNoop : Obligations.FalseGuardIsNoop := by
  intro i p s hp hr hg hs
  obtain ⟨f, hf, rfl⟩ := Option.map_eq_some_iff.1 hp
  obtain ⟨t, ht⟩ := exec_framed hf s
  rw [ht, ← Instr.nwords_eq hf]
  simp [hr, hg, State.finish_plain s _ hs]

/-- Settles O56: each list of words is scanned and read back by evaluation; five prefixes end the scan whatever word follows. -/
theorem wordsDecode : Obligations.WordsDecode := by
  refine ⟨?_, ?_, ?_, ?_, ?_, ?_, ?_, ?_, ?_, ?_, ?_, ?fivePrefixes⟩
  case fivePrefixes => exact fun w => rfl
  all_goals decide

/-! ### A slot that keeps an event for its instruction -/

/-- A thread whose kept instruction is the dispenser's event, parked to issue it again, with its answer arrived. The statement
speaks of every state, also of this one, whose slot holds what no fetch gives. -/
def eventKept : Slot :=
  { Slot.rom with
    inst := some .dispense
    park := some { cause := 9, since := 0, wait := .latency, nw := 1, rest := .reissue, arrived := true, exempt := false,
                   via := [] } }

/-- The state after reset in which it is the turn of that thread. -/
def eventKeptTurn : State :=
  { State.reset with agenda := [], turns := [coreOf romSlotKey], slots := [(romSlotKey, eventKept)] }

theorem step_eventKeptTurn : step eventKeptTurn = .fault .noEvent := rfl

/-- Refutes O60: a slot that keeps an event for its instruction issues it again with no event at the head of the agenda, and the
step stops the machine. -/
theorem not_everyStepGoes : ¬ Obligations.EveryStepGoes := by
  intro h
  obtain ⟨t, ht⟩ := h eventKeptTurn
  rw [step_eventKeptTurn] at ht
  cases ht

/-! ### A trap frame saved over a byte that memory lists twice -/

/-- A page that maps the first 64 KiB for execution, a gate among them. -/
def vectorPage : TlbEnt :=
  { pid := 0, asid := 0, vbase := 0, szlog := 16, dev := 0, remote := false, base := 0, part := 0, dom := 0, x := true,
    gate := true, cls := 1, key := 0 }

/-- A thread with an unallocated encoding to take, whose save area holds a byte that memory lists twice with the value 1: no step
makes such a memory (`StepKeepsMemoryForm`), but the statement asks nothing of memory. -/
def twiceListed : State :=
  { State.reset with
    cur := 0, agenda := [], ev := some (.unallocatedEncoding 1 0 1)
    slots := [(0, { Slot.rom with tsave := 1024 })]
    clusters := [(0, { Cluster.reset with tlb := [vectorPage] })]
    mem := [(0, 2), (1, 16), (1112, 1), (1112, 1)] }

theorem twiceListed_delivers : DeliversAt (twiceListed.abort 0 6) 0 1 vectorPage vectorPage := ⟨_, rfl, _, rfl, rfl⟩

theorem exec_twiceListed : exec .unallocatedEncoding twiceListed = .next (twiceListed.trap 1 0 1) := rfl

/-- Refutes O45: an unallocated encoding traps, but the frame's byte 88 is 0, and where memory lists that byte of the save area
twice, storing 0 erases one of the two entries: the byte does not read as the frame's. -/
theorem not_parksEnd : ¬ Obligations.ParksEnd := by
  rintro ⟨-, -, -, -, -, traps⟩
  obtain ⟨takes, -⟩ := traps twiceListed 1 1 0 vectorPage vectorPage twiceListed_delivers
  obtain ⟨t, ht, ⟨stored, -⟩, -⟩ := takes rfl
  obtain rfl : twiceListed.trap 1 0 1 = t := Host.Outcome.next.inj (exec_twiceListed.symm.trans ht)
  have byte88 := stored (1112, 0) (by decide +kernel)
  have still1 : State.byteAt { twiceListed.trap 1 0 1 with cur := 0 } vectorPage.key 1112 = 1 := by decide +kernel
  exact absurd (byte88.symm.trans still1) (by decide)
end Sys2Proof
end

section
/-! PROOFS. The encoding (R10, R11, R112-R128): the words of a well-formed instruction are scanned one by one, the fields read
back what they were written from, and the map of the pages answers the instruction. -/

namespace Sys2Proof.Laws.Fields

/-- Every encoding fits its fields: the law of each instruction, in the order of the type. -/
theorem statement_all (i : Instr) : Statement i := by
  cases i
  exacts [add _ _ _ _, sub _ _ _ _, and _ _ _ _, or _ _ _ _, xor _ _ _ _, mul _ _ _ _, shl _ _ _ _, shr _ _ _ _, shra _ _ _ _,
    andn _ _ _ _, gate _, retx _, exit _, brk _, trap _ _, addi _ _ _ _, shli _ _ _ _, shri _ _ _ _, shrai _ _ _ _, ldS8 _ _ _ _,
    ldS16 _ _ _ _, ldS32 _ _ _ _, ld64 _ _ _ _, ldZ8 _ _ _ _, ldZ16 _ _ _ _, ldZ32 _ _ _ _, st8 _ _ _ _, st16 _ _ _ _,
    st32 _ _ _ _, st64 _ _ _ _, ldl _ _ _ _ _, stl _ _ _ _ _, ldc _ _ _ _, cmpEq _ _ _ _, cmpNe _ _ _ _, cmpLt _ _ _ _,
    cmpGe _ _ _ _, cmpuLtu _ _ _ _, cmpuGeu _ _ _ _, cmpuTst _ _ _ _, cmpuNtst _ _ _ _, pand _ _ _ _, por _ _ _ _, pxor _ _ _ _,
    pandn _ _ _ _, br _ _, call _ _, callx _ _, jmp _ _, callReg _ _, ret _, callxReg _ _, vadd _ _ _ _ _ _ _,
    vsub _ _ _ _ _ _ _, vmul _ _ _ _ _ _ _, vfma _ _ _ _ _ _ _, vfms _ _ _ _ _ _ _, vfnma _ _ _ _ _ _ _, vfnms _ _ _ _ _ _ _,
    vmax _ _ _ _ _ _, vmin _ _ _ _ _ _, vmaxa _ _ _ _ _ _, vmina _ _ _ _ _ _, vcmpEq _ _ _ _ _ _ _, vcmpLt _ _ _ _ _ _ _,
    vcmpLe _ _ _ _ _ _ _, vcmpUn _ _ _ _ _ _ _, vsel _ _ _ _ _ _, vand _ _ _ _ _, vor _ _ _ _ _, vxor _ _ _ _ _, vandn _ _ _ _ _,
    vshl _ _ _ _ _ _, vshr _ _ _ _ _ _, vshra _ _ _ _ _ _, vredSum _ _ _ _ _ _, vredMax _ _ _ _ _ _, vredMin _ _ _ _ _ _,
    vcvt _ _ _ _ _ _ _ _ _, vexp2 _ _ _ _, vrcp _ _ _ _, vrsq _ _ _ _, vquant _ _ _ _ _, vdeq _ _ _ _ _, vmov _ _ _ _,
    vbcast _ _ _ _, vgetl _ _ _ _, vsetl _ _ _ _, vld _ _ _ _ _ _, vst _ _ _ _ _ _, vgather _ _ _ _ _ _, mand _ _ _ _,
    mor _ _ _ _, mxor _ _ _ _, mandn _ _ _ _, mpop _ _ _, mset _ _ _, mget _ _ _, mgetVs _ _, mgetVsClr _ _, vabs _ _ _ _ _,
    vneg _ _ _ _ _, gangStatic _, gangElastic _ _, gangEnd _, twld _ _ _ _, tmm _ _ _ _ _, tdrain _ _ _ _ _, tdrainAdd _ _ _ _ _,
    tzero _ _, trda _ _ _, twra _ _ _ _, tpack _ _ _ _, tunpk _ _ _ _, tchk _ _ _, tstxSet _ _ _ _, tstxClr _ _ _ _,
    accMax _ _ _ _, accScale _ _ _ _, difs _ _ _, difgo _ _ _, difwait _, ldlLong _ _ _ _ _ _ _, stlLong _ _ _ _ _ _,
    ldfe _ _ _ _ _, ldff _ _ _ _ _, stfe _ _ _ _ _, stff _ _ _ _ _, seteE _ _ _ _, seteF _ _ _ _, rempty _ _, fill _ _ _ _ _,
    amoAdd _ _ _ _ _, amoAnd _ _ _ _ _, amoOr _ _ _ _ _, amoXor _ _ _ _ _, amoMin _ _ _ _ _, amoMax _ _ _ _ _, amoMinz _ _ _ _ _,
    amoMaxz _ _ _ _ _, amoSwap _ _ _ _ _, amoCas _ _ _ _ _, amopAdd _ _ _ _, amopAnd _ _ _ _, amopOr _ _ _ _, amopXor _ _ _ _,
    amopMin _ _ _ _, amopMax _ _ _ _, amopMinz _ _ _ _, amopMaxz _ _ _ _, famoF32 _ _ _, famoBf16 _ _ _, ldr _ _ _ _,
    stc _ _ _ _, waitrs _ _ _, fenceAcq _ _, fenceRel _ _, fenceAr _ _, fenceSc _ _, fencePost _, scopedef _ _ _, csync _,
    ebegin _ _ _, ecommit _, eabort _, ebnd _ _ _, epos _ _, barArrive _ _ _ _, barWait _ _ _ _, barAw _ _ _ _,
    barTest _ _ _ _ _, barInit _ _ _, ldAcq _ _ _ _ _ _, stRel _ _ _ _ _ _, copy _ _ _ _, copyq _ _ _ _, cjwait _ _ _,
    cjtest _ _ _, mkgrant _ _ _ _ _, addg _ _ _ _, grantq _ _ _, revoke _ _, wfw _, spawn _ _ _, launch _ _ _ _, inrd _ _ _,
    krd _ _ _, kwr _ _ _, mulh _ _ _ _, mulhz _ _ _ _, div _ _ _ _, divz _ _ _ _, rem _ _ _ _, remz _ _ _ _, bfxZ _ _ _ _ _,
    bfxS _ _ _ _ _, bfi _ _ _ _ _, sel _ _ _ _ _, clz _ _ _, ctz _ _ _, popc _ _ _, bswap _ _ _, min _ _ _ _, max _ _ _ _,
    minz _ _ _ _, maxz _ _ _ _, andi _ _ _ _, ori _ _ _ _, xori _ _ _ _, qpop _ _ _, qpush _ _ _, srd _ _ _ _, swr _ _ _ _,
    eret _, eretStart _ _ _, tlbinvRange _ _ _ _ _, tlbinvAsid _ _ _ _ _, tlbinvS2range _ _ _ _ _, tlbinvPartition _ _ _ _ _,
    tlbprobe _ _ _ _, cacheopIc _ _ _ _, cacheopL1 _ _ _ _, cacheopCc _ _ _ _, cacheopL2v _ _ _ _, cacheopL2p _ _ _,
    domsetRow _ _ _, domsetAll _ _, fwsend _ _ _ _, fwsendReply _ _ _ _, stoparmCore _ _, stoparmStop _ _ _ _,
    stoparmResume _ _ _ _, step _ _, slpset _ _ _, wdsetKick _, wdsetArm _ _ _, wdsetRead _ _ _, deviceReset, recoveryRequest,
    recoveryDataFrame, recoveryEndFrame, recoveryTimeout, recoveryRetry, parkEvent, parkedResume, parkTimeout, fillArrival,
    dispense, taskRecordWrite, gangOpen, gangStall, gangStallEnd, sleepEntry, sleepWake, wakeEnd, streamElementArrival,
    streamElementAccept, storeQueueDepart, storeOrderAtHome, invalidationDelivery, remoteStoreAck, leaseExpiry, postedOpApply,
    postedAck, remoteFaultRecord, remoteRecordResend, atomicAtHome, movedAnswer, barrierAtHome, feWaiterService,
    regionAccessAtSlice, narrowingArrival, broadcastTurnGrant, finalPositionBroadcast, serialTokenGrant, scopeMissMessage,
    scopeMissAnswer, tagEvictionRepair, jobStart, jobComplete, jobEndEarly, arrayInstrStart, arrayInstrComplete, arrayIdleGate,
    accordRelease, diffuserIssue, grantInvalidation, coreInterruptTake, graphRegister, graphUnregister, launchWordAccept,
    nodeStart, nodeComplete, instanceComplete, recoveryModeSet, correctableError, uncorrectableError, ctxSave, ctxClear,
    ctxReplace, syncStop, syncResume, jobFreeze, sillageSweep, imageWrite, imageSeal, saveBudgetExpiry, imageSwapOut,
    imageReadback, watchdogExpiry, frozenLeafReread, linkTrainingEnd, flitResend, linkDown, clockSyncExchange, clockSyncLoss,
    ethernetFrameRx, getDigests, getCertificate, challenge, getMeasurements, keyExchange, finish, keyUpdate, heartbeat,
    endSession, tenantAppData, clusterHold, clusterRelease, firewallWrite, movedFrameEnter, movedFrameRemove, interleaveCommit,
    keyGenerate, keyRetire, measurementExtend, linkEnable, linkDisable, intcntClear, unallocatedEncoding, fetchFault,
    mailRecordDelivery]

end Sys2Proof.Laws.Fields

namespace Sys2Proof
open Laws.Fields


/-! ### A chain word by word -/

theorem scan_prefix {c : Chain} {w : Nat} (ws : List Nat) (hw : 28 ≤ w / 2048) (hn : c.n < 4) :
    scan c (w :: ws) = scan (c.push w) ws := by
  have : (c.n == 4) = false := beq_false_of_ne (by omega)
  simp [scan, hw, this]

theorem scan_base {c : Chain} {w : Nat} (ws : List Nat) (hw : w / 2048 < 28) : scan c (w :: ws) = c.finish w := by
  simp [scan, Nat.not_le.2 hw]

theorem push_xi (c : Chain) {x : Nat} (hx : x < 2048) :
    c.push (57344 + x) = { c with n := c.n + 1, xi := c.xi * 2048 + x, xin := c.xin + 1 } := by
  have h1 : (57344 + x) / 2048 % 32 = 28 := by omega
  have h2 : (57344 + x) % 2048 = x := by omega
  simp only [Chain.push, h1, h2]

theorem push_xh (c : Chain) {x : Nat} (hx : x < 2048) :
    c.push (59392 + x) = { c with n := c.n + 1, dup := c.dup || c.xh.isSome, xh := some x } := by
  have h1 : (59392 + x) / 2048 % 32 = 29 := by omega
  have h2 : (59392 + x) % 2048 = x := by omega
  simp only [Chain.push, h1, h2]

theorem push_xr (c : Chain) {x : Nat} (hx : x < 2048) :
    c.push (61440 + x) = { c with n := c.n + 1, dup := c.dup || c.xr.isSome, xr := some x } := by
  have h1 : (61440 + x) / 2048 % 32 = 30 := by omega
  have h2 : (61440 + x) % 2048 = x := by omega
  simp only [Chain.push, h1, h2]

theorem push_xp (c : Chain) {x : Nat} (hx : x < 2048) :
    c.push (63488 + x) = { c with n := c.n + 1, dup := c.dup || c.xp.isSome, xp := some x } := by
  have h1 : (63488 + x) / 2048 % 32 = 31 := by omega
  have h2 : (63488 + x) % 2048 = x := by omega
  simp only [Chain.push, h1, h2]

/-- The XI words of a value put its low bits behind those met before (R113). -/
theorem scan_xiWords (n : Nat) : ∀ (v : Nat) (c : Chain) (ws : List Nat), c.n + n ≤ 4 →
    scan c (xiWords n v ++ ws) =
      scan { c with n := c.n + n, xi := c.xi * 2048 ^ n + v % 2048 ^ n, xin := c.xin + n } ws := by
  induction n with
  | zero => intro v c ws _; simp [xiWords, Nat.mod_one]
  | succ n ih =>
    intro v c ws hn
    have hx : v % 2048 < 2048 := Nat.mod_lt _ (by decide)
    have hv : v % 2048 ^ (n + 1) = v % 2048 + 2048 * (v / 2048 % 2048 ^ n) := by rw [Nat.pow_succ', Nat.mod_mul]
    rw [xiWords, List.append_assoc, ih _ _ _ (by omega), List.singleton_append, scan_prefix _ (by omega) (by simp; omega),
      push_xi _ hx, hv]
    congr 2
    ring

/-! ### The chain of a set of fields -/

/-- The number of words before the base word of an encoding. -/
def Fld.prefixCount (f : Fld) : Nat :=
  (if f.p.hint.isSome then 1 else 0) + (if f.page = 0 then 0 else 1) + (if f.p.xr then 1 else 0) + f.p.xi.val

/-- The payload of the XR word. -/
def Fld.xrBits (f : Fld) : Nat := f.d / 8 * 512 + f.a / 8 * 128 + f.b / 8 * 32 + guardBits f.p.guard

/-- The chain that the decoder has met once it has read the prefixes of `f`. -/
def Fld.chain (f : Fld) : Chain :=
  { n := f.prefixCount, xi := f.xiPart % 2048 ^ f.p.xi.val, xin := f.p.xi.val, xh := f.p.hint.map (·.toNat),
    xr := if f.p.xr then some f.xrBits else none, xp := if f.page = 0 then none else some (f.page * 128 + f.fn), dup := false }

theorem guardBits_lt (g : Option (Bool × Fin 8)) : guardBits g < 32 := by
  rcases g with _ | ⟨b, p⟩
  · decide
  · cases b <;> simp [guardBits] <;> omega

theorem Fld.xrBits_lt {f : Fld} (hf : Fit f) : f.xrBits < 2048 := by
  obtain ⟨-, -, -, -, hd, ha, hb, -⟩ := hf
  have := guardBits_lt f.p.guard
  simp only [xrBits]
  omega

/-- The XP word of a page other than 0. -/
theorem scan_page {c : Chain} {page fn : Nat} (ws : List Nat) (hp : page < 8) (hf : fn < 128) (hn : c.n < 4) (hx : c.xp = none) :
    scan c ((if page = 0 then [] else [63488 + page * 128 + fn]) ++ ws) =
      scan { c with n := c.n + if page = 0 then 0 else 1, xp := if page = 0 then none else some (page * 128 + fn) } ws := by
  split
  · simp [← hx]
  · rw [List.singleton_append, scan_prefix _ (by omega) hn, Nat.add_assoc, push_xp _ (by omega)]
    simp [hx]

/-- The XR word. -/
theorem scan_xr {c : Chain} {xr : Bool} {x : Nat} (ws : List Nat) (hx : x < 2048) (hn : c.n < 4) (hc : c.xr = none) :
    scan c ((if xr then [61440 + x] else []) ++ ws) =
      scan { c with n := c.n + if xr then 1 else 0, xr := if xr then some x else none } ws := by
  cases xr
  · simp [← hc]
  · rw [if_pos rfl, List.singleton_append, scan_prefix _ (by omega) hn, push_xr _ hx]
    simp [hc]

/-- The chain once the XH word of `f` is met, where it has one. -/
def Fld.hinted (f : Fld) : Chain :=
  { Chain.start with n := if f.p.hint.isSome then 1 else 0, xh := f.p.hint.map (·.toNat) }

theorem Fld.hinted_n_le (f : Fld) : f.hinted.n ≤ 1 := by simp only [hinted]; split <;> decide

/-- The words that follow the XH word of `f`, or are all of its chain. -/
def Fld.unhinted (f : Fld) (ws : List Nat) : List Nat :=
  (if f.page = 0 then [] else [63488 + f.page * 128 + f.fn]) ++
    ((if f.p.xr then [61440 + f.xrBits] else []) ++ (xiWords f.p.xi.val f.xiPart ++ ws))

/-- The XH word, which comes first where there is one. -/
theorem scan_hint (f : Fld) (ws : List Nat) :
    scan Chain.start (f.prefixes ++ ws) = scan f.hinted (f.unhinted ws) := by
  have hw : f.prefixes ++ ws = f.p.hint.toList.map (59392 + ·.toNat) ++ f.unhinted ws := by
    simp only [Fld.prefixes, Fld.unhinted, Fld.xrBits, List.append_assoc, Nat.add_assoc]
    cases f.p.hint <;> rfl
  rw [hw]
  cases h : f.p.hint with
  | none => simp [Fld.hinted, h, Chain.start]
  | some x =>
    have hx := x.isLt
    rw [Option.toList_some, List.map_singleton, List.singleton_append, scan_prefix _ (by omega) (by decide), push_xh _ (by omega)]
    simp [Fld.hinted, h, Chain.start]

/-- The prefixes of `f`, in the order in which they are written, are met as `f.chain` (R10, R116). -/
theorem scan_prefixes {f : Fld} (hf : Fit f) (hl : f.prefixCount ≤ 4) (ws : List Nat) :
    scan Chain.start (f.prefixes ++ ws) = scan f.chain ws := by
  have hx := Fld.xrBits_lt hf
  obtain ⟨hpage, -, hfn, -⟩ := hf
  have h1 := f.hinted_n_le
  have h2 : f.hinted.n + (if f.page = 0 then 0 else 1) ≤ 2 := by split <;> omega
  have hn : f.hinted.n + (if f.page = 0 then 0 else 1) + (if f.p.xr then 1 else 0) + f.p.xi.val = f.prefixCount := rfl
  rw [scan_hint, Fld.unhinted, scan_page _ hpage hfn (by omega) rfl, scan_xr _ hx (Nat.lt_of_le_of_lt h2 (by decide)) rfl,
    scan_xiWords _ _ _ _ (hn.trans_le hl)]
  simp only [Fld.chain, Fld.hinted, Chain.start, Fld.prefixCount, Nat.zero_mul, Nat.zero_add]

/-! ### The base word -/

/-- The low part of a base word, below its major. -/
theorem Fld.base_eq {f : Fld} (hf : Fit f) : ∃ low < 2048, f.base = f.maj * 2048 + low := by
  obtain ⟨-, -, -, -, -, -, -, hf2⟩ := hf
  unfold Fld.base
  split
  · exact ⟨f.d % 8 * 256 + f.a % 8 * 32 + f.b % 8 * 4 + f.f2, by omega, by omega⟩
  · exact ⟨f.d % 8 * 256 + f.a % 8 * 32 + f.immNat % 32, by omega, by omega⟩
  · exact ⟨f.immNat % 2048, by omega, rfl⟩

theorem Fld.base_maj {f : Fld} (hf : Fit f) : f.base / 2048 = f.maj := by
  obtain ⟨low, hlow, h⟩ := Fld.base_eq hf; omega

/-- A two's complement number reads back from its unsigned bits (R113). -/
theorem sext_emod {n : Nat} {v : Int} (hn : 0 < n) (h1 : -(2 ^ (n - 1)) ≤ v) (h2 : v < 2 ^ (n - 1)) :
    sext n (v % (2 ^ n : Nat)).toNat = v := by
  obtain ⟨m, rfl⟩ : ∃ m, n = m + 1 := ⟨n - 1, by omega⟩
  rw [Nat.add_sub_cancel] at h1 h2
  have hp : ((2 ^ (m + 1) : Nat) : Int) = 2 * 2 ^ m := by push_cast; ring
  have hq : ((2 ^ m : Nat) : Int) = 2 ^ m := by push_cast; rfl
  have hr : (2 : Int) ^ (m + 1) = 2 * 2 ^ m := by ring
  unfold sext
  rw [hp, hr, Nat.add_sub_cancel]
  rcases lt_or_ge v 0 with hv | hv
  · have : v % (2 * 2 ^ m) = v + 2 * 2 ^ m := by
      rw [← Int.add_emod_right, Int.emod_eq_of_lt (by omega) (by omega)]
    rw [this, if_neg (by omega)]; omega
  · rw [Int.emod_eq_of_lt hv (by omega), if_pos (by omega)]; omega

theorem Fld.immNat_lt (f : Fld) : f.immNat < 2 ^ f.immBits := by
  have hp : (0 : Int) < (2 ^ f.immBits : Nat) := by exact_mod_cast Nat.two_pow_pos _
  have h1 := Int.emod_lt_of_pos f.imm hp
  have h2 := Int.emod_nonneg f.imm hp.ne'
  unfold Fld.immNat; omega

/-- The guard reads back from the XR word (R11). -/
theorem xrGuard_guardBits (n : Nat) (g : Option (Bool × Fin 8)) : xrGuard (n * 32 + guardBits g) = g := by
  rcases g with _ | ⟨b, p⟩
  · have : bit ((n * 32 + 0) / 16) = false := by unfold bit; rw [beq_eq_false_iff_ne]; omega
    simp only [xrGuard, guardBits, this]; rfl
  · have hb : b.toNat < 2 := b.toNat_lt
    have h1 : bit ((n * 32 + (16 + b.toNat * 8 + p.val)) / 16) = true := by unfold bit; rw [beq_iff_eq]; omega
    have h2 : bit ((n * 32 + (16 + b.toNat * 8 + p.val)) / 8) = b := by
      have : (n * 32 + (16 + b.toNat * 8 + p.val)) / 8 % 2 = b.toNat := by omega
      rw [bit, this]; cases b <;> rfl
    have h3 : fin8 (n * 32 + (16 + b.toNat * 8 + p.val)) = p := Fin.ext (by simp only [fin8]; omega)
    simp only [xrGuard, guardBits, h1, h2, h3, if_true]

/-! ### What the decoder reads -/

/-- The fields that the decoder reads from the words of `f`: those that its format has (R112-R114). -/
structure Reads (f : Fld) (r : Raw) : Prop where
  p : r.p = f.p
  bare : f.p = Pfx.none → f.page = 0 → r.bare = true
  page : r.page = f.page
  fn : r.fn = if f.page = 0 then 0 else f.fn
  maj : r.maj = f.maj
  fmtA : f.fmt = .A → r.d = fin32 f.d ∧ r.a = fin32 f.a ∧ r.b = fin32 f.b ∧
    r.d3 = f.d % 8 ∧ r.a3 = f.a % 8 ∧ r.b3 = f.b % 8 ∧ r.f2 = f.f2
  fmtI : f.fmt = .I → r.d = fin32 f.d ∧ r.a = fin32 f.a ∧ r.imm5 = f.imm
  fmtJ : f.fmt = .J → r.imm11 = f.imm

/-- The payload of the XR word, or 0 without one, extends the register fields and holds the guard (R10, R11). -/
theorem Fld.chain_xr {f : Fld} (hf : Fit f) (hx : f.xrOk = true) :
    f.chain.xr.getD 0 / 512 % 4 = f.d / 8 ∧ f.chain.xr.getD 0 / 128 % 4 = f.a / 8 ∧ f.chain.xr.getD 0 / 32 % 4 = f.b / 8 ∧
    xrGuard (f.chain.xr.getD 0) = f.p.guard := by
  obtain ⟨-, -, -, -, hd, ha, hb, -⟩ := hf
  have hg := guardBits_lt f.p.guard
  cases h : f.p.xr with
  | true =>
    have hbits : f.chain.xr.getD 0 = (f.d / 8 * 16 + f.a / 8 * 4 + f.b / 8) * 32 + guardBits f.p.guard := by
      simp only [chain, h, if_true, Option.getD_some, xrBits]; omega
    rw [hbits]
    exact ⟨by omega, by omega, by omega, xrGuard_guardBits ..⟩
  | false =>
    have hbits : f.chain.xr.getD 0 = 0 := by simp [chain, h]
    simp only [xrOk, h, Bool.false_or, Bool.and_eq_true, Option.isNone_iff_eq_none, decide_eq_true_eq] at hx
    obtain ⟨hguard, hd, ha, hb⟩ := hx
    rw [hbits, hguard]
    exact ⟨by omega, by omega, by omega, rfl⟩

/-- The XP word, or page 0 without one (R112). -/
theorem Fld.chain_xp {f : Fld} (hf : Fit f) :
    f.chain.xp.getD 0 / 128 = f.page ∧ (f.chain.xp.getD 0 % 128 = if f.page = 0 then 0 else f.fn) ∧
    f.chain.xp.isSome = (f.page != 0) := by
  obtain ⟨-, -, hfn, -⟩ := hf
  by_cases h : f.page = 0
  · simp [chain, h]
  · simp only [chain, h, if_false, Option.getD_some, Option.isSome_some]
    exact ⟨by omega, by omega, by simp [h]⟩

/-- An immediate with its XI words (R113). -/
theorem Fld.chain_imm {f : Fld} {k : Nat} (hk : f.immBits = 11 * f.p.xi.val + k) (hk0 : 0 < k) (hx : f.xiPart = f.immNat / 2 ^ k)
    (h1 : -(2 ^ (f.immBits - 1)) ≤ f.imm) (h2 : f.imm < 2 ^ (f.immBits - 1)) :
    sext (11 * f.chain.xin + k) (f.chain.xi * 2 ^ k + f.immNat % 2 ^ k) = f.imm := by
  have hpow : 2 ^ f.immBits = 2048 ^ f.p.xi.val * 2 ^ k := by rw [hk, pow_add, pow_mul]; norm_num
  have hlt : f.immNat / 2 ^ k < 2048 ^ f.p.xi.val :=
    Nat.div_lt_of_lt_mul (by rw [Nat.mul_comm, ← hpow]; exact f.immNat_lt)
  simp only [chain, hx, Nat.mod_eq_of_lt hlt]
  rw [Nat.div_add_mod', ← hk]
  exact sext_emod (by omega) h1 h2

/-- The prefixes of a chain read back (R9-R12). -/
theorem Fld.chain_pfx {f : Fld} (hguard : xrGuard (f.chain.xr.getD 0) = f.p.guard) (w : Nat) : (f.chain.raw w).p = f.p := by
  change Pfx.mk _ _ _ _ = Pfx.mk f.p.guard f.p.hint f.p.xr f.p.xi
  congr 1
  · cases h : f.p.hint <;> simp [chain, h]
  · cases h : f.p.xr <;> simp [chain, h]
  · exact Fin.ext (Nat.mod_eq_of_lt f.p.xi.isLt)

/-- The decoder reads from the words of well-formed fields what they were written from. -/
theorem Fld.reads {f : Fld} (hf : Fit f) (hx : f.xrOk = true) (hi : f.immOk = true) : Reads f (f.chain.raw f.base) := by
  obtain ⟨hd, ha, hb, hguard⟩ := f.chain_xr hf hx
  obtain ⟨hpage, hfn, -⟩ := f.chain_xp hf
  have ⟨_, _, _, _, _, _, _, hf2⟩ := hf
  refine ⟨f.chain_pfx hguard _, fun hp h0 => ?_, hpage, hfn, f.base_maj hf, fun h => ?_, fun h => ?_, fun h => ?_⟩
  · simp [Chain.raw, chain, prefixCount, hp, h0, Pfx.none]
  · have hw : f.base = f.maj * 2048 + f.d % 8 * 256 + f.a % 8 * 32 + f.b % 8 * 4 + f.f2 := by simp only [base, h]
    simp only [Chain.raw, hd, ha, hb]
    refine ⟨congrArg fin32 ?_, congrArg fin32 ?_, congrArg fin32 ?_, ?_, ?_, ?_, ?_⟩ <;> omega
  · have hw : f.base = f.maj * 2048 + f.d % 8 * 256 + f.a % 8 * 32 + f.immNat % 32 := by simp only [base, h]
    have hlow : f.base % 32 = f.immNat % 2 ^ 5 := by omega
    simp only [immOk, h, decide_eq_true_eq] at hi
    obtain ⟨hlo, hhi⟩ := hi
    simp only [Chain.raw, hd, ha, hlow]
    refine ⟨congrArg fin32 ?_, congrArg fin32 ?_, f.chain_imm (k := 5) ?_ (by decide) ?_ hlo hhi⟩
    · omega
    · omega
    · simp only [immBits, h]
    · simp only [xiPart, h]; rfl
  · have hw : f.base = f.maj * 2048 + f.immNat % 2048 := by simp only [base, h]
    have hlow : f.base % 2048 = f.immNat % 2 ^ 11 := by omega
    simp only [immOk, h, decide_eq_true_eq] at hi
    obtain ⟨hlo, hhi⟩ := hi
    simp only [Chain.raw, hlow]
    exact f.chain_imm (k := 11) (by simp only [immBits, h]) (by decide) (by simp only [xiPart, h]; rfl) hlo hhi

/-! ### Operands read back from their fields -/

@[simp] theorem fin4_val (d : Fin 4) : fin4 d.val = d := Fin.ext (Nat.mod_eq_of_lt d.isLt)
@[simp] theorem fin8_val (d : Fin 8) : fin8 d.val = d := Fin.ext (Nat.mod_eq_of_lt d.isLt)
@[simp] theorem fin32_val (d : Fin 32) : fin32 d.val = d := Fin.ext (Nat.mod_eq_of_lt d.isLt)
@[simp] theorem fin64_val (d : Fin 64) : fin64 d.val = d := Fin.ext (Nat.mod_eq_of_lt d.isLt)
@[simp] theorem fin128_val (d : Fin 128) : fin128 d.val = d := Fin.ext (Nat.mod_eq_of_lt d.isLt)
@[simp] theorem fin8_val_mod (d : Fin 8) : fin8 (d.val % 8) = d := Fin.ext (by simp [fin8])
theorem fin4_add (a : Fin 4) (n : Nat) : fin4 (a.val + n * 4) = a := Fin.ext (by simp only [fin4]; omega)
theorem fin64_add (a : Fin 64) : fin64 (64 + a.val) = a := Fin.ext (by simp only [fin64]; omega)
theorem val_div64 (a : Fin 64) : a.val / 64 = 0 := by omega
/-- The code of TRAP stands in the d and a fields. -/
@[simp] theorem fin64_trap (c : Fin 64) : fin64 (c.val / 8 % 8 * 8 + c.val % 8) = c := Fin.ext (by simp only [fin64]; omega)

theorem val_fin32 {n : Nat} (h : n < 32) : (fin32 n).val = n := Nat.mod_eq_of_lt h
@[simp] theorem reg8_fin32 (d : Fin 8) : reg8 (fin32 d.val) = some d := by
  simp [reg8, val_fin32 (Nat.lt_trans d.isLt (by decide))]
@[simp] theorem reg16_fin32 (d : Fin 16) : reg16 (fin32 d.val) = some d := by
  simp [reg16, val_fin32 (Nat.lt_trans d.isLt (by decide))]
/-- Values 0 to 15 are vector registers, 16 to 23 streams (R114). -/
@[simp] theorem vopd_fin32 (v : VOpd) : vopd (fin32 v.code) = some v := by
  have h := val_fin32 (Nat.lt_trans v.code_lt (by decide))
  cases v with
  | v r =>
    have hr : r.val < 16 := r.isLt
    simp only [vopd, h]
    simp [VOpd.code, hr]
  | q r =>
    have hr : 16 + r.val < 24 := by omega
    have h8 : fin8 (16 + r.val) = r := Fin.ext (by simp only [fin8]; omega)
    simp only [vopd, h]
    simp [VOpd.code, hr, h8]

/-! ### Modes and types read back from their codes -/

@[simp] theorem bit_toNat (b : Bool) : bit b.toNat = b := by cases b <;> rfl
theorem bit_add_mul_two (n m : Nat) : bit (n + m * 2) = bit n := by simp [bit]
@[simp] theorem rnd_code (r : Rnd) : rnd r.code = r := by cases r <;> rfl
@[simp] theorem lmode_code (m : LMode) : lmode m.code = some m := by cases m <;> rfl
@[simp] theorem vty_code (t : VTy) : vty t.code = t := by cases t <;> rfl
theorem vty_add_eights (n m : Nat) : vty (n + m * 8) = vty n := by rw [vty, vty, Nat.add_mul_mod_self_right]
@[simp] theorem vty_code_add (t : VTy) (m : Nat) : vty (t.code + m * 8) = t := by rw [vty_add_eights, vty_code]
@[simp] theorem vty_code_mod (t : VTy) : vty (t.code % 8) = t := by rw [Nat.mod_eq_of_lt t.code_lt, vty_code]
@[simp] theorem space_code (x : Space) : space x.code = x := by
  rcases x with _ | m
  · rfl
  · cases m <;> rfl
theorem space_add (n m : Nat) : space (n + m * 4) = space n := by rw [space, space, Nat.add_mul_mod_self_right]
@[simp] theorem szOf_code (z : Sz) : szOf z.code = z := by cases z <;> rfl
theorem szOf_add (n m : Nat) : szOf (n * 8 + m) = szOf m := by rw [szOf, szOf, show (n * 8 + m) % 4 = m % 4 by omega]
/-- Every size but a signed 8-byte one has a code (R126). -/
theorem ldsz_code {sg : Bool} {z : Sz} (h : (!(sg && z == .b8)) = true) : ldsz (ldszCode sg z) = some (sg, z) := by
  cases sg with
  | false => cases z <;> rfl
  | true =>
    cases z with
    | b8 => cases h
    | _ => rfl
theorem ldsz_add (n m : Nat) : ldsz (n * 8 + m) = ldsz m := by rw [ldsz, ldsz, show (n * 8 + m) % 8 = m % 8 by omega]
@[simp] theorem scope_code (x : Scope) : scope x.code = some x := by
  cases x with
  | named n => revert n; decide
  | _ => rfl
/-- A rounding mode is dropped only where it is rn (R188). -/
theorem floatRnd_of_rndOk {t : VTy} {r : Rnd} (h : rndOk t r = true) : floatRnd t r = r := by
  unfold rndOk at h; unfold floatRnd
  cases ht : intTy t with
  | true => simp_all
  | false => simp

/-! ### The fields packed into an fn (R123-R128): where each of them lies -/

theorem mod4_add_mul32 (n m : Nat) : (n + m * 32) % 4 = n % 4 := by omega
theorem mod4_add_mul64 (k n : Nat) : (k + n * 64) % 4 = k % 4 := by omega
theorem mul64_mod4 (n : Nat) : n * 64 % 4 = 0 := by omega
theorem mod4_add_mul8 (k n : Nat) : (k + n * 8) % 4 = k % 4 := by omega
theorem mul8_mod4 (n : Nat) : n * 8 % 4 = 0 := by omega
theorem mod2_add_mul8 (k n : Nat) : (k + n * 8) % 2 = k % 2 := by omega
theorem mul8_mod2 (n : Nat) : n * 8 % 2 = 0 := by omega
theorem div4_add {k : Nat} (hk : k < 4) (n : Nat) : (k + n * 4) / 4 = n := by omega
theorem div8_add {k : Nat} (hk : k < 8) (n : Nat) : (k + n * 8) / 8 = n := by omega
theorem div8_mul_add {k : Nat} (hk : k < 8) (n : Nat) : (n * 8 + k) / 8 = n := by omega
theorem div16_add {k : Nat} (hk : k < 16) (n : Nat) : (k + n * 16) / 16 = n := by omega

/-- A type at bit 2 with a rounding mode or a mask at bit 5. -/
theorem typed_div4 (t m : Nat) : (t * 4 + m * 32) / 4 = t + m * 8 := by omega
theorem typed_div4_add {k : Nat} (hk : k < 4) (t m : Nat) : (k + t * 4 + m * 32) / 4 = t + m * 8 := by omega
theorem typed_div32 (t : VTy) (m : Nat) : (t.code * 4 + m * 32) / 32 = m := by have := t.code_lt; omega
theorem typed_div32_add {k : Nat} (hk : k < 4) (t : VTy) (m : Nat) : (k + t.code * 4 + m * 32) / 32 = m := by
  have := t.code_lt; omega

/-- A compare: a type at bit 2 with the negation at bit 6. -/
theorem cmp_div4 (n t : Nat) : (n * 64 + t * 4) / 4 = t + n * 2 * 8 := by omega
theorem cmp_div4_add {k : Nat} (hk : k < 4) (n t : Nat) : (k + n * 64 + t * 4) / 4 = t + n * 2 * 8 := by omega
theorem cmp_div64 (n : Nat) (t : VTy) : (n * 64 + t.code * 4) / 64 = n := by have := t.code_lt; omega
theorem cmp_div64_add {k : Nat} (hk : k < 4) (n : Nat) (t : VTy) : (k + n * 64 + t.code * 4) / 64 = n := by
  have := t.code_lt; omega

/-- A conversion: saturation at bit 0, the part at bit 1, the type at bit 2 and the rounding mode at bit 5. -/
theorem cvt_div4 (t r : Nat) (ns part : Bool) : (t * 4 + r * 32 + ns.toNat + part.toNat * 2) / 4 = t + r * 8 := by
  have := ns.toNat_le; have := part.toNat_le; omega
theorem cvt_div32 (t : VTy) (r : Nat) (ns part : Bool) : (t.code * 4 + r * 32 + ns.toNat + part.toNat * 2) / 32 = r := by
  have := t.code_lt; have := ns.toNat_le; have := part.toNat_le; omega
theorem cvt_part (t r : Nat) (ns part : Bool) : bit ((t * 4 + r * 32 + ns.toNat + part.toNat * 2) / 2) = part := by
  have h : (t * 4 + r * 32 + ns.toNat + part.toNat * 2) / 2 = part.toNat + (t + r * 8) * 2 := by have := ns.toNat_le; omega
  rw [h, bit_add_mul_two, bit_toNat]
theorem cvt_ns (t r : Nat) (ns part : Bool) : bit (t * 4 + r * 32 + ns.toNat + part.toNat * 2) = ns := by
  have h : t * 4 + r * 32 + ns.toNat + part.toNat * 2 = ns.toNat + (t * 2 + r * 16 + part.toNat) * 2 := by omega
  rw [h, bit_add_mul_two, bit_toNat]

/-! ### The map of the pages -/

/-- The map of the pages answers the instruction whose fields it reads: page by page, and on each page format by format
(R122-R128). -/
theorem mapRaw_reads {i : Instr} {f : Fld} {r : Raw} (hi : i.fields = some f) (hok : i.operandsOk = true) (hr : Reads f r) :
    mapRaw r = some i := by
  cases i with
  | gate p =>
    cases hi
    have hp : p = Pfx.none := by simpa [Instr.operandsOk] using hok
    have hb := hr.bare hp rfl
    simp [mapRaw, mapPage0, fld, hb, hr.p, hr.page, hr.maj, hr.fmtA rfl]
  | add | sub | and | or | xor | mul | shl | shr | shra | andn | retx | exit | brk | trap | ldl | stl | cmpEq | cmpNe | cmpLt
  | cmpGe | cmpuLtu | cmpuGeu | cmpuTst | cmpuNtst | pand | por | pxor | pandn | jmp | callReg | ret | callxReg =>
    cases hi
    simp [mapRaw, mapPage0, fld, hr.p, hr.page, hr.maj, hr.fmtA rfl]
  | addi | shli | shri | shrai | ldS8 | ldS16 | ldS32 | ld64 | ldZ8 | ldZ16 | ldZ32 | st8 | st16 | st32 | st64 | ldc =>
    cases hi
    simp [mapRaw, mapPage0, fld, hr.p, hr.page, hr.maj, hr.fmtI rfl]
  | br | call | callx =>
    cases hi
    simp [mapRaw, mapPage0, fld, hr.p, hr.page, hr.maj, hr.fmtJ rfl]
  | vadd | vsub | vmul | vredSum | vredMax | vredMin | vfma | vfms | vfnma | vfnms =>
    cases hi
    simp only [Instr.operandsOk, Bool.and_eq_true] at hok
    simp [mapRaw, mapPage1, fld, hr.p, hr.page, hr.fn, hr.maj, hr.fmtA rfl, mod4_add_mul32, typed_div4, typed_div32,
      typed_div4_add, typed_div32_add, hok, floatRnd_of_rndOk]
  | vmax | vmin | vmaxa | vmina | vsel | vand | vor | vxor | vandn | vexp2 | vrcp | vrsq | vquant | vdeq | vmov | vgather | vabs
  | vneg =>
    cases hi
    simp only [Instr.operandsOk] at hok
    simp [mapRaw, mapPage1, fld, hr.p, hr.page, hr.fn, hr.maj, hr.fmtA rfl, hok, div4_add]
  | vshl | vshr | vshra =>
    cases hi
    simp only [Instr.operandsOk] at hok
    simp [mapRaw, mapPage1, fld, hr.p, hr.page, hr.fn, hr.maj, hr.fmtI rfl, mod4_add_mul32, typed_div4, typed_div32,
      typed_div4_add, typed_div32_add, hok]
  | vbcast | vgetl | vsetl | mand | mor | mxor | mandn | mpop | mset | mget | mgetVs | mgetVsClr =>
    cases hi
    simp [mapRaw, mapPage1, fld, hr.p, hr.page, hr.fn, hr.maj, hr.fmtA rfl]
  | vld | vst =>
    cases hi
    simp [mapRaw, mapPage1, fld, hr.p, hr.page, hr.fn, hr.maj, hr.fmtI rfl, space_add, div4_add, Space.code_lt]
  | vcmpEq p neg t | vcmpLt p neg t | vcmpLe p neg t | vcmpUn p neg t =>
    cases hi
    simp only [Instr.operandsOk] at hok
    simp [mapRaw, mapPage1, fld, hr.p, hr.page, hr.fn, hr.maj, hr.fmtA rfl, hok, mul64_mod4, mod4_add_mul64, cmp_div4,
      cmp_div4_add, cmp_div64, cmp_div64_add]
  | vcvt p tt st r ns =>
    cases hi
    simp only [Instr.operandsOk, Bool.and_eq_true] at hok
    obtain ⟨hform, hns⟩ := hok
    have hsat : (fp8Ty tt && ns) = ns := by cases ns <;> simp_all
    simp [mapRaw, mapPage1, fld, hr.p, hr.page, hr.fn, hr.maj, hr.fmtA rfl, cvt_div4, cvt_div32, cvt_part, cvt_ns, hform, hsat]
  | tmm p acc buf src b =>
    cases hi
    cases src <;> simp [mapRaw, mapPage2, fld, hr.p, hr.page, hr.fn, hr.maj, hr.fmtA rfl, tsrc, TSrc.sel, TSrc.code, fin4_add,
      div4_add]
  | gangStatic | gangElastic | gangEnd | twld | tdrain | tdrainAdd | tzero | trda | twra | tpack | tunpk | tchk | accMax | accScale
  | difs | difwait =>
    cases hi
    simp [mapRaw, mapPage2, fld, hr.p, hr.page, hr.fn, hr.maj, hr.fmtA rfl]
  | tstxSet | tstxClr | difgo =>
    cases hi
    simp [mapRaw, mapPage2, fld, hr.p, hr.page, hr.fn, hr.maj, hr.fmtI rfl, fin64_add, val_div64]
  | ldlLong p mode sg sz =>
    cases hi
    have hz : ldszCode sg sz < 8 := Nat.lt_trans (ldszCode_lt sg sz) (by decide)
    simp only [Instr.operandsOk] at hok
    simp [mapRaw, mapPage3, fld, hr.p, hr.page, hr.fn, hr.maj, hr.fmtI rfl, div8_mul_add, hz, ldsz_add, ldsz_code hok]
  | stlLong p mode sz | ldAcq p sc sz | stRel p sc sz =>
    cases hi
    have hz : sz.code < 8 := Nat.lt_trans sz.code_lt (by decide)
    simp [mapRaw, mapPage3, fld, hr.p, hr.page, hr.fn, hr.maj, hr.fmtI rfl, div8_mul_add, hz, szOf_add]
  | ldfe | ldff | stfe | stff | seteE | seteF | ldr | stc | ebegin =>
    cases hi
    simp [mapRaw, mapPage3, fld, hr.p, hr.page, hr.fn, hr.maj, hr.fmtI rfl, div8_add, mul8_mod2, mod2_add_mul8]
  | rempty | fill | amoAdd | amoAnd | amoOr | amoXor | amoMin | amoMax | amoMinz | amoMaxz | amoSwap | amoCas | amopAdd | amopAnd
  | amopOr | amopXor | amopMin | amopMax | amopMinz | amopMaxz | famoF32 | famoBf16 | waitrs | fenceAcq | fenceRel | fenceAr
  | fenceSc | fencePost | scopedef | csync | ecommit | eabort | ebnd | epos | barArrive | barWait | barAw | barTest | barInit =>
    cases hi
    simp [mapRaw, mapPage3, fld, hr.p, hr.page, hr.fn, hr.maj, hr.fmtA rfl, div8_add, div16_add, mul8_mod4, mod4_add_mul8]
  | copy | copyq | cjwait | cjtest | mkgrant | addg | grantq | revoke | wfw | spawn | launch | inrd =>
    cases hi
    simp [mapRaw, mapPage4, fld, hr.p, hr.page, hr.fn, hr.maj, hr.fmtA rfl]
  | krd | kwr =>
    cases hi
    simp only [Instr.operandsOk] at hok
    simp [mapRaw, mapPage4, fld, hr.p, hr.page, hr.fn, hr.maj, hr.fmtA rfl, hok]
  | mulh | mulhz | div | divz | rem | remz | sel | clz | ctz | popc | bswap | min | max | minz | maxz | qpop | qpush =>
    cases hi
    simp [mapRaw, mapPage5, fld, hr.p, hr.page, hr.fn, hr.maj, hr.fmtA rfl]
  | bfxZ | bfxS | bfi | andi | ori | xori =>
    cases hi
    simp [mapRaw, mapPage5, fld, hr.p, hr.page, hr.fn, hr.maj, hr.fmtI rfl, fin64_add, val_div64]
  | srd | swr =>
    cases hi
    simp only [Instr.operandsOk] at hok
    simp [mapRaw, mapPage7, fld, hr.p, hr.page, hr.fn, hr.maj, hr.fmtA rfl, hok]
  | eret | eretStart | tlbinvRange | tlbinvAsid | tlbinvS2range | tlbinvPartition | tlbprobe | cacheopIc | cacheopL1 | cacheopCc
  | cacheopL2v | cacheopL2p | domsetRow | domsetAll | fwsend | fwsendReply | stoparmCore | stoparmStop | stoparmResume | step
  | slpset | wdsetKick | wdsetArm | wdsetRead =>
    cases hi
    simp [mapRaw, mapPage7, fld, hr.p, hr.page, hr.fn, hr.maj, hr.fmtA rfl, div4_add, div8_add]
  | _ => cases hi

/-! ### Decoding -/

/-- The formats with an immediate belong to the majors that take XI words (R112, R113). -/
theorem immMajor_of_fields {i : Instr} {f : Fld} (h : i.fields = some f) : (f.fmt == .A || immMajor f.page f.maj) = true := by
  cases i with
  | _ => cases h <;> rfl

/-- What well-formedness says of an instruction with an encoding. -/
theorem Instr.wf_fields {i : Instr} {f : Fld} (hf : i.fields = some f) (hw : i.wf = true) :
    f.xrOk = true ∧ f.prefixCount ≤ 4 ∧ f.immOk = true ∧ i.operandsOk = true ∧ i.hintOk f.p = true := by
  simp only [wf, hf, Bool.and_eq_true] at hw
  obtain ⟨⟨⟨⟨hxr, hlen⟩, himm⟩, hops⟩, hhint⟩ := hw
  exact ⟨hxr, of_decide_eq_true hlen, himm, hops, hhint⟩

/-- An instruction's words are its prefixes and its base word. -/
theorem nwords_eq_prefixCount {i : Instr} {f : Fld} (hf : i.fields = some f) : i.nwords = f.prefixCount + 1 := by
  simp only [Instr.nwords, hf, Fld.prefixCount]

/-- XI words stand only before a format that has an immediate (R113). -/
theorem Fld.xi_of_immMajor {f : Fld} (hi : f.immOk = true) (hm : (f.fmt == .A || immMajor f.page f.maj) = true) :
    (f.p.xi.val != 0 && !immMajor f.page f.maj) = false := by
  cases hfmt : f.fmt with
  | A =>
    simp only [immOk, hfmt, beq_iff_eq] at hi
    simp [hi]
  | _ => simp_all

/-- The decoder finishes the chain of a well-formed instruction with that instruction (R119). -/
theorem finish_chain {i : Instr} {f : Fld} (hf : i.fields = some f) (hw : i.wf = true) :
    f.chain.finish f.base = .ok i (f.prefixCount + 1) := by
  obtain ⟨hxr, -, himm, hops, hhint⟩ := i.wf_fields hf hw
  have hfit : Fit f := statement_all i f hf
  have hread := f.reads hfit hxr himm
  obtain ⟨-, -, hxp⟩ := f.chain_xp hfit
  have hpage : (f.chain.xp.isSome && (f.chain.raw f.base).page == 0) = false := by
    rw [hxp, hread.page]; simp
  have hxi : (f.chain.xin != 0 && !immMajor (f.chain.raw f.base).page (f.chain.raw f.base).maj) = false := by
    rw [hread.page, hread.maj]; exact f.xi_of_immMajor himm (immMajor_of_fields hf)
  have hdup : f.chain.dup = false := rfl
  have hn : f.chain.n = f.prefixCount := rfl
  have hxh : f.chain.xh = f.p.hint.map (·.toNat) := rfl
  simp only [Chain.finish, hdup, hpage, hxi, mapRaw_reads hf hops hread, hn, hxh, Bool.false_eq_true, if_false]
  cases h : f.p.hint with
  | none => rfl
  | some x =>
    have hknown : hintUnknown i x = false := by simpa [Instr.hintOk, h] using hhint
    simp [hknown]

/-- Settles O59: the prefixes are met as the chain of the fields, whose base word ends it, and the fields read back as the
instruction. -/
theorem encodeDecode : Obligations.EncodeDecode := by
  intro i hw he
  obtain ⟨f, hf⟩ := Option.isSome_iff_exists.1 he
  obtain ⟨-, hlen, -⟩ := i.wf_fields hf hw
  have hfit : Fit f := statement_all i f hf
  have ⟨_, _, _, maj_lt, _⟩ := hfit
  have hbase : f.base / 2048 < 28 := by rw [f.base_maj hfit]; exact maj_lt
  have hwords : encode i = f.prefixes ++ [f.base] := by simp [encode, hf]
  rw [decodeWords, hwords, scan_prefixes hfit hlen, scan_base _ hbase, finish_chain hf hw, nwords_eq_prefixCount hf]

end Sys2Proof
end

section
/-! PROOFS. The step (R22, R26, R27) and the events of the array (R211): two statements with a state that meets their premises and not
their conclusion. -/

namespace Sys2Proof
open Machine Claims

/-! ### The step keeps the instruction that it has decoded -/

/-- A page that maps the first 8 GiB to DRAM, for execution by every class. -/
def codePage : TlbEnt :=
  { pid := 0, asid := 0, vbase := 0, szlog := 33, dev := 0, remote := false, base := 0, part := 0, dom := 0, x := true,
    gate := false, cls := 0, key := 0 }

/-- A thread at 1024, whose row is loaded. -/
def atCode : Slot := { Slot.rom with pc := 1024, row := some { asid := 0, dom := 0, codes := 0 } }

/-- Its core's turn: the instruction cache holds the line at 1024, which begins with the word of `add`. -/
def codeTurn : State :=
  { State.reset with
    agenda := [], turns := [0], slots := [(0, atCode)]
    cores := [(0, { Core.reset with ic := [{ asid := 0, vline := 16, pline := 16, from_ := 0, data := 0x0144, bad := false }] })]
    clusters := [(0, { Cluster.reset with hold := false, tlb := [codePage] })] }

/-- The instruction of that word. -/
def codeAdd : Instr := .add Pfx.none 1 2 1

/-- The turn has begun, and the page of the PC is translated. -/
def codeFound : State :=
  (({ codeTurn with turns := [] }.beginIssue 0).modSlot 0 fun t => { t with park := t.park.filter Park.stays }).tlbAdd 0 codePage
/-- The word is read: the state on which the statement lets the instruction run. -/
def codeRead : State := (codeFound.modSlot 0 fun t => { t with cls := codePage.cls }).tlbAdd 0 codePage

theorem codeRead_fetches :
    Fetches 0 codePage [] [0x0144] (codeFound.modSlot 0 fun t => { t with cls := codePage.cls }) codeRead :=
  ⟨codePage, codeRead, rfl, rfl, rfl, by decide +kernel, by decide +kernel, rfl⟩

/-- The instruction that slot 0 keeps in the state that an outcome answers. -/
def keptIn : Res → Option Instr
  | .next t => (t.slot 0).inst
  | _ => none

theorem step_keeps_codeAdd : keptIn (step codeTurn) = some codeAdd := by decide +kernel
theorem exec_codeRead_keeps_none : keptIn (exec codeAdd codeRead) = none := by decide +kernel

/-- Refutes O55: a step first forgets what an earlier instruction of the slot has kept, and notes the one that it has decoded in the
slot, for a park to go on with (R22); the statement runs that instruction on a state without the note. After the step of `codeTurn`
the slot keeps the `add`; after the statement's run of it the slot keeps nothing. -/
theorem not_stepRunsDecoded : ¬ Obligations.StepRunsDecoded := by
  intro h
  have runs : step codeTurn = exec codeAdd codeRead :=
    h codeTurn codeFound codeRead 0 0 [] [0x0144] codePage codeAdd rfl rfl (by decide +kernel) rfl rfl (.inl rfl) rfl rfl
      (.inr (by decide)) codeRead_fetches (by decide) (by decide)
  have kept := congrArg keptIn runs
  rw [step_keeps_codeAdd, exec_codeRead_keeps_none] at kept
  cases kept

/-! ### A status word written over a byte that memory lists twice -/

/-- An elastic gang whose core 0 has its status word at address 8192. -/
def statusGang : Gang :=
  { elastic := true, tfmt := 0, tsca := 0, tscw := 0, tgrp := 80, members := [], stat := [(0, 8192, 8192, 0)], ended := [],
    broken := none, wake := none }

/-- A slice whose TZERO is over. Memory lists the last byte of its status word twice with the value 1: no step makes such a memory
(`StepKeepsMemoryForm`), but the statement asks nothing of memory. -/
def statusListedTwice : State :=
  { State.reset with
    ev := some (.arrayInstrComplete 0 false)
    cores := [(0, { Core.reset with slice := { Slice.reset with accRun := some (.tzero 0) } })]
    clusters := [(0, { Cluster.reset with gang := some statusGang })]
    mem := [(8199, 1), (8199, 1)] }

theorem exec_statusListedTwice :
    exec .arrayInstrComplete statusListedTwice = .next (statusListedTwice.accEndAt 0 (.tzero 0)) := rfl

/-- Refutes O49: a TZERO that completes writes its slice's status word, whose last byte is 0, and where memory lists that byte twice,
storing 0 erases one of the two entries: the byte does not read as the word's. -/
theorem not_arrayEvents : ¬ Obligations.ArrayEvents := by
  rintro ⟨-, -, -, -, -, -, completes, -⟩
  obtain ⟨t, ht, -, done, -⟩ := completes statusListedTwice 0 rfl rfl (by decide +kernel) (.tzero 0) rfl (Nat.le_refl 0)
  obtain rfl : statusListedTwice.accEndAt 0 (.tzero 0) = t := Host.Outcome.next.inj (exec_statusListedTwice.symm.trans ht)
  obtain ⟨-, status⟩ := done (by simp)
  obtain ⟨written, -⟩ := status 8192 8192 0 (by simp) rfl
  have byte7 := written (8199, 0) (by decide +kernel)
  have still1 : (statusListedTwice.accEndAt 0 (.tzero 0)).byteAt 0 8199 = 1 := by decide +kernel
  exact absurd (byte7.symm.trans still1) (by decide)
end Sys2Proof
end

section
/-! PROOFS. What the shared operations of an arrival leave as it was: the ones that drop or update L1 copies, and a write at a home. -/

namespace Sys2Proof.Machine
open Claims

/-! ### Maps that are changed entry by entry -/

/-- A change of every entry that leaves the default alone changes what is read. -/
theorem get_mapEntries {α : Type} {d : α} {f : Nat → α → α} (hf : ∀ k, f k d = d) (m : FMap α) (k : Nat) :
    FMap.get d (m.map fun e => (e.1, f e.1 e.2)) k = f k (FMap.get d m k) := by
  induction m with
  | nil => exact (hf k).symm
  | cons e m ih =>
    by_cases h : e.1 = k
    · subst h; simp [FMap.get]
    · simp [FMap.get, h, ih]

/-! ### What drops or updates L1 copies leaves alone -/

/-- `t` differs from `s` in L1 lines at most. -/
structure State.L1Only (s t : State) : Prop where
  rest : t = { s with cores := t.cores }
  core : ∀ c, t.core c = { s.core c with l1 := (t.core c).l1 }

theorem State.L1Only.refl (s : State) : s.L1Only s := ⟨rfl, fun _ => rfl⟩
theorem State.L1Only.trans {s t u : State} (h : s.L1Only t) (g : t.L1Only u) : s.L1Only u := by
  refine ⟨?_, fun c => ?_⟩
  · have := g.rest; rw [h.rest] at this; exact this
  · have := g.core c; rw [h.core c] at this; exact this

theorem State.L1Only.foldl {α : Type} {f : State → α → State} (hf : ∀ (s : State) x, s.L1Only (f s x)) (l : List α) (s : State) :
    s.L1Only (l.foldl f s) :=
  List.foldlRecOn l f (.refl s) fun t h x _ => h.trans (hf t x)

theorem State.L1Only.slot {s t : State} (h : s.L1Only t) (k : Nat) : t.slot k = s.slot k := by rw [h.rest]; rfl
theorem State.L1Only.mem {s t : State} (h : s.L1Only t) : t.mem = s.mem := by rw [h.rest]
theorem State.L1Only.net {s t : State} (h : s.L1Only t) : t.net = s.net := by rw [h.rest]
theorem State.L1Only.cluster {s t : State} (h : s.L1Only t) (ck : Nat) : t.cluster ck = s.cluster ck := by rw [h.rest]; rfl

/-- A core with its L1 lines changed, where it is selected. -/
def Core.mapL1 (sel : Bool) (f : List L1Line → List L1Line) (x : Core) : Core := if sel then { x with l1 := f x.l1 } else x

theorem Core.mapL1_l1 (sel : Bool) (f : List L1Line → List L1Line) (x : Core) :
    x.mapL1 sel f = { x with l1 := (x.mapL1 sel f).l1 } := by
  unfold Core.mapL1; split <;> rfl
theorem Core.mapL1_reset (sel : Bool) {f : List L1Line → List L1Line} (hf : f [] = []) : Core.reset.mapL1 sel f = Core.reset := by
  unfold Core.mapL1; split
  · exact congrArg (fun l => { Core.reset with l1 := l }) hf
  · rfl

/-- A change of the L1 lines of some cores, which leaves an empty L1 empty. -/
theorem State.l1Only_map (s : State) (sel : Nat → Bool) {f : List L1Line → List L1Line} (hf : f [] = []) :
    s.L1Only { s with cores := s.cores.map fun e => if sel e.1 then (e.1, { e.2 with l1 := f e.2.l1 }) else e } := by
  have entries : (fun e : Nat × Core => if sel e.1 then (e.1, { e.2 with l1 := f e.2.l1 }) else e) =
      fun e => (e.1, e.2.mapL1 (sel e.1) f) := by
    funext e; unfold Core.mapL1; split <;> rfl
  rw [entries]
  refine ⟨rfl, fun c => ?_⟩
  have read := get_mapEntries (f := fun c x => Core.mapL1 (sel c) f x) (fun c => Core.mapL1_reset (sel c) hf) s.cores c
  simp only [State.core, read]
  exact Core.mapL1_l1 ..

theorem State.dropLine_l1Only (s : State) (line : Nat) (sel : Nat → Bool) : s.L1Only (s.dropLine line sel) :=
  s.l1Only_map sel (f := fun l => l.filter (·.pline != line)) rfl
theorem State.dropFar_l1Only (s : State) (c : Nat) (span : Bool) : s.L1Only (s.dropFar c span) :=
  s.l1Only_map (s.sameL1 · c) (f := fun l => l.filter fun l => !s.isFar c l.pline span) rfl
theorem State.updateL1_l1Only (s : State) (c : Nat) (cells : List Host.Cell) : s.L1Only (s.updateL1 c cells) :=
  s.l1Only_map (s.sameL1 · c) (f := fun l => l.map (L1Line.put · cells)) rfl
theorem State.catchUp_l1Only (s : State) (c : Nat) : s.L1Only (s.catchUp c) := by
  refine .foldl (fun s n => ?_) _ s
  cases n with
  | inval => exact s.dropLine_l1Only ..
  | final => exact .refl s
theorem State.jobFilled_l1Only (s : State) (job : Option (Nat × Nat)) (k : Nat) : s.L1Only (s.jobFilled job k) := by
  cases job with
  | none => exact .refl s
  | some j => exact (s.catchUp_l1Only _).trans (State.dropFar_l1Only ..)

/-! ### What a write at a home leaves alone -/

/-- `t` differs from `s` at most in what a write of the device into memory changes: no message, of a slot its reservations, of a core
its L1 lines and the narrowings on their way to it. -/
structure State.Stored (s t : State) : Prop where
  net : t.net = s.net
  slot : ∀ k, t.slot k = { s.slot k with resv := (t.slot k).resv }
  core : ∀ c, t.core c = { s.core c with l1 := (t.core c).l1, narrow := (t.core c).narrow }

theorem State.Stored.refl (s : State) : s.Stored s := ⟨rfl, fun _ => rfl, fun _ => rfl⟩
theorem State.Stored.trans {s t u : State} (h : s.Stored t) (g : t.Stored u) : s.Stored u := by
  refine ⟨g.net.trans h.net, fun k => ?_, fun c => ?_⟩
  · have := g.slot k; rw [h.slot k] at this; exact this
  · have := g.core c; rw [h.core c] at this; exact this
/-- Messages, slots and cores are the same. -/
theorem State.Stored.of_eq {s t : State} (hn : t.net = s.net) (hs : t.slots = s.slots) (hc : t.cores = s.cores) : s.Stored t :=
  ⟨hn, fun k => by simp only [State.slot, hs], fun c => by simp only [State.core, hc]⟩
theorem State.L1Only.stored {s t : State} (h : s.L1Only t) : s.Stored t :=
  ⟨h.net, fun k => by rw [h.slot k], fun c => by have := h.core c; rw [this]⟩
theorem State.Stored.foldl {α : Type} {f : State → α → State} (hf : ∀ (s : State) x, s.Stored (f s x)) (l : List α) (s : State) :
    s.Stored (l.foldl f s) :=
  List.foldlRecOn l f (.refl s) fun t h x _ => h.trans (hf t x)

theorem State.verify_stored (s : State) (key line : Nat) : s.Stored (s.verify key line) := by
  unfold State.verify; split
  · exact .of_eq rfl rfl rfl
  · exact .refl s
theorem State.merge_stored (s : State) (key : Nat) (cells : List Host.Cell) (line : Nat) : s.Stored (s.merge key cells line) := by
  unfold State.merge; split
  · exact .refl s
  · exact s.verify_stored key line
theorem State.writeLine_stored (s : State) (key : Nat) (cells : List Host.Cell) (line : Nat) :
    s.Stored (s.writeLine key cells line) := by
  unfold State.writeLine
  dsimp only
  split
  · exact .of_eq rfl rfl rfl
  · split <;> exact .of_eq rfl rfl rfl
theorem State.setWord_stored (s : State) (a : Nat) (full : Bool) : s.Stored (s.setWord a full) := by
  unfold State.setWord
  split
  · exact .of_eq rfl rfl rfl
  · split
    · exact .refl s
    · exact .of_eq rfl rfl rfl
theorem State.setFull_stored (cells : List Host.Cell) (s : State) : s.Stored (s.setFull cells) := by
  induction cells generalizing s with
  | nil => exact .refl s
  | cons c cells ih => exact (s.setWord_stored c.1 true).trans (ih _)

/-- A wake changes the agenda alone. -/
theorem State.rouse_agenda (s : State) (c : Nat) : s.rouse c = { s with agenda := (s.rouse c).agenda } := by
  unfold State.rouse; split <;> rfl
theorem State.rouse_stored (s : State) (c : Nat) : s.Stored (s.rouse c) := by
  rw [s.rouse_agenda c]; exact .of_eq rfl rfl rfl

/-- A slot with its reservations on a line marked written. -/
def Slot.marked (line : Nat) (t : Slot) : Slot :=
  { t with resv := t.resv.map fun r => if r.line = line then { r with written := true } else r }
theorem State.mapMarked_stored (s : State) (line : Nat) :
    s.Stored { s with slots := s.slots.map fun e => (e.1, e.2.marked line) } := by
  have read (k : Nat) : FMap.get Slot.vacant (s.slots.map fun e => (e.1, e.2.marked line)) k = (s.slot k).marked line :=
    get_mapEntries (f := fun _ t => t.marked line) (fun _ => rfl) s.slots k
  exact ⟨rfl, fun k => by rw [State.slot, read k]; rfl, fun _ => rfl⟩
theorem State.markResv_stored (s : State) (line : Nat) : s.Stored (s.markResv line) := by
  have roused : s.Stored (s.slots.foldl (fun s e => if e.2.resv.any (·.line == line) then s.rouse (coreOf e.1) else s) s) := by
    refine .foldl (fun s e => ?_) _ s
    split
    · exact s.rouse_stored _
    · exact .refl s
  exact roused.trans (State.mapMarked_stored _ line)
theorem State.narrowTo_stored (s : State) (rid lo hi causer : Nat) : s.Stored (s.narrowTo rid lo hi causer) := by
  unfold State.narrowTo
  split
  · rename_i k _
    refine ⟨rfl, fun _ => rfl, fun c => ?_⟩
    by_cases h : c = coreOf k
    · subst h; simp
    · simp [State.core_modCore_ne _ _ h]
  · exact .refl s
theorem State.hitReaders_stored (s : State) (line : Nat) : s.Stored (s.hitReaders line) := by
  unfold State.hitReaders
  split
  · exact .refl s
  · exact .foldl (fun s rid => s.narrowTo_stored rid 1 0 rid) _ s
theorem State.notify_stored (s : State) (die line writer : Nat) : s.Stored (s.notify die line writer) := .of_eq rfl rfl rfl
theorem State.lineWritten_stored (s : State) (cells : List Host.Cell) (writer : Nat) (tag : Option RelTag) (line : Nat) :
    s.Stored (s.lineWritten cells writer tag line) := by
  unfold State.lineWritten
  dsimp only
  have records (t : State) (h : s.Stored t) : s.Stored ((t.markResv line).hitReaders line) :=
    (h.trans (t.markResv_stored line)).trans (State.hitReaders_stored _ line)
  split
  · exact records _ (.of_eq rfl rfl rfl)
  · refine (records _ ?_).trans (State.notify_stored ..)
    exact .of_eq rfl rfl rfl
theorem State.homeWrite_stored (s : State) (key : Nat) (cells : List Host.Cell) (writer : Nat) (tag : Option RelTag) (full : Bool) :
    s.Stored (s.homeWrite key cells writer tag full) := by
  have merged := State.Stored.foldl (fun s l => s.merge_stored key cells l) (linesOf cells) s
  have written := merged.trans (.foldl (fun s l => s.writeLine_stored key cells l) (linesOf cells) _)
  have marked := fun (t : State) => State.Stored.foldl (fun s l => s.lineWritten_stored cells writer tag l) (linesOf cells) t
  unfold State.homeWrite
  cases full with
  | true => exact (written.trans (State.setFull_stored _ _)).trans (marked _)
  | false => exact written.trans (marked _)
theorem State.devWrite_stored (s : State) (c key a : Nat) (bs : List Byte) : s.Stored (s.devWrite c key a bs) :=
  (s.homeWrite_stored ..).trans (State.updateL1_l1Only ..).stored

/-- The save area's page: only the TLBs change. -/
theorem savePage_tlbAdd {s : State} {k : Nat} {e : TlbEnt} {t : State} (h : s.savePage k = .ok (e, t)) :
    ∃ e', t = s.tlbAdd (coreOf k) e' := by
  unfold State.savePage at h
  dsimp only at h
  split at h
  · cases h
  · obtain ⟨es, hes, h⟩ := Tr.bind_ok h
    obtain ⟨⟨e1, t1⟩, htr, h1⟩ := Tr.bind_ok hes
    obtain ⟨e2, -, h2⟩ := Tr.bind_ok h1
    cases h2
    split at h
    · cases h
    · cases h; exact ⟨e1, translate_tlbAdd htr⟩

end Sys2Proof.Machine
end

section
/-! PROOFS. Fills, the dispenser and sleep (R34, R35, R37, R41, R47, R300, R341). -/

namespace Sys2Proof.Machine
open Claims

/-! ### The operations of a fill -/

/-- What answers a fill changes parks and jobs alone: each slot is told. -/
theorem State.slot_answerFill (s : State) (id status k : Nat) :
    (s.answerFill (some id) status).slot k = toldFill id status (s.slot k) := by
  have told : (s.answerFill (some id) status).slots = s.slots.map fun e => (e.1, toldFill id status e.2) := by
    refine List.map_congr_left fun e _ => congrArg (Prod.mk e.1) ?_
    obtain ⟨j, t⟩ := e
    cases hp : t.park with
    | none => simp [toldFill, hp]; rw [← hp]
    | some p =>
      by_cases hw : p.wait = .reply id
      · simp [toldFill, hp, hw] <;> rfl
      · simp [toldFill, hp, hw]; rw [← hp]
  rw [State.slot, told]
  exact get_mapEntries (f := fun _ => toldFill id status) (fun _ => rfl) s.slots k

@[simp] theorem State.net_answerFill (s : State) (id : Option Nat) (status : Nat) : (s.answerFill id status).net = s.net := by
  cases id <;> rfl
@[simp] theorem State.mem_answerFill (s : State) (id : Option Nat) (status : Nat) : (s.answerFill id status).mem = s.mem := by
  cases id <;> rfl
@[simp] theorem State.core_answerFill (s : State) (id : Option Nat) (status c : Nat) :
    (s.answerFill id status).core c = s.core c := by
  cases id <;> rfl
@[simp] theorem State.part_answerFill (s : State) (id : Option Nat) (status pid : Nat) :
    (s.answerFill id status).part pid = s.part pid := by
  cases id <;> rfl

@[simp] theorem State.slot_rouse (s : State) (c k : Nat) : (s.rouse c).slot k = s.slot k := by rw [s.rouse_agenda c]; rfl
@[simp] theorem State.core_rouse (s : State) (c c' : Nat) : (s.rouse c).core c' = s.core c' := by rw [s.rouse_agenda c]; rfl
@[simp] theorem State.cluster_rouse (s : State) (c ck : Nat) : (s.rouse c).cluster ck = s.cluster ck := by
  rw [s.rouse_agenda c]; rfl
@[simp] theorem State.net_rouse (s : State) (c : Nat) : (s.rouse c).net = s.net := by rw [s.rouse_agenda c]
/-- A core that sleeps is woken. -/
theorem State.sleepWake_mem_rouse {s : State} {c : Nat} (h : (s.core c).asleep = true) : Event.sleepWake c ∈ (s.rouse c).agenda := by
  by_cases hc : Event.sleepWake c ∈ s.agenda <;> simp [State.rouse, h, hc]

@[simp] theorem State.slot_countDrop (s : State) (ck k : Nat) : (s.countDrop ck).slot k = s.slot k := rfl
@[simp] theorem State.core_countDrop (s : State) (ck c : Nat) : (s.countDrop ck).core c = s.core c := rfl
@[simp] theorem State.net_countDrop (s : State) (ck : Nat) : (s.countDrop ck).net = s.net := rfl
@[simp] theorem State.mem_countDrop (s : State) (ck : Nat) : (s.countDrop ck).mem = s.mem := rfl

/-- A fill of a register, or what its thread learns where the value of the register is final (R37). -/
theorem State.fillRegister_eq (s : State) (k : Nat) (r : Fin 32) (x : Word) :
    (if s.overwritten k r then s.learn k else s.applyFill k r x) = s.modSlot k (filled s k r x) := by
  unfold State.applyFill State.learn
  by_cases ho : s.overwritten k r = true
  · simp only [ho, if_true]
    exact congrArg (s.setSlot k) (by simp [filled, ho])
  · simp only [ho, Bool.false_eq_true, if_false, State.modSlot_modSlot]
    refine congrArg (s.setSlot k) ?_
    by_cases hr : r = 0
    · simp [filled, hr]; rfl
    · simp [filled, ho, hr]; rfl

/-- A fill held for a handler: beside the record in the save area, the slot holds it (R341). -/
theorem State.holdFill_eq (s : State) (k : Nat) (h : HeldFill) :
    ∃ s', s.Stored s' ∧ s.holdFill k h = s'.modSlot k fun t => { t with held := t.held ++ [h] } := by
  unfold State.holdFill
  dsimp only
  split
  · rename_i e s1 hs
    obtain ⟨e', rfl⟩ := savePage_tlbAdd hs
    refine ⟨_, ?_, rfl⟩
    have entered : s.Stored (s.tlbAdd (coreOf k) e') := .of_eq rfl rfl rfl
    exact (entered.trans (State.devWrite_stored ..)).trans (State.devWrite_stored ..)
  · exact ⟨s, .refl s, rfl⟩

/-! ### The arrival of a fill -/

section Fill
variable {s : State} {m : Msg} {w x : Word} {r : Fin 32} {d : Option (Fin 32)} {job : Option (Nat × Nat)} {k : Nat}

theorem State.fillSlot_fill (hk : m.kind = .fill w r x d job) : s.fillSlot m = s.slotOfName (devOfSlot m.k) w := by
  simp [State.fillSlot, hk]

/-- A fill finds room at a slot outside its handler, and at one whose context buffer is neither full nor behind a frozen leaf. -/
theorem State.fillRoom_of_slot (hs : s.fillSlot m = some k)
    (h : (s.slot k).inh = false ∨ ((s.slot k).held.length < 32 ∧ s.savePage k ≠ .frozen)) : s.fillRoom m = true := by
  simp only [State.fillRoom, hs]
  rcases h with h | ⟨hl, hf⟩
  · simp [h]
  · have : decide (heldMax ≤ (s.slot k).held.length) = false := decide_eq_false (Nat.not_le.2 hl)
    cases hp : s.savePage k with
    | frozen => exact absurd hp hf
    | ok => simp [this]
    | fault => simp [this]
theorem State.fillRoom_full (hs : s.fillSlot m = some k) (hi : (s.slot k).inh = true) (hl : 32 ≤ (s.slot k).held.length) :
    s.fillRoom m = false := by
  simp [State.fillRoom, hs, hi, heldMax, hl]
theorem State.fillRoom_unnamed (hs : s.fillSlot m = none) : s.fillRoom m = true := by simp [State.fillRoom, hs]

theorem State.fillMsg_unnamed (hk : m.kind = .fill w r x d job) (hs : s.slotOfName (devOfSlot m.k) w = none) :
    s.fillMsg m = s.answerFill (some m.id) 0x16 := by
  simp [State.fillMsg, State.fillSlot_fill hk, hk, State.fillAt, hs]

theorem State.fillMsg_refused (hk : m.kind = .fill w r x d job) (hs : s.slotOfName (devOfSlot m.k) w = some k)
    (ha : s.admits m.pid (clusterOf k) none = false) :
    s.fillMsg m = (s.answerFill (some m.id) (if job.isSome then 7 else 8)).countDrop (clusterOf k) := by
  simp [State.fillMsg, State.fillSlot_fill hk, hk, hs, ha]

theorem State.fillMsg_asleep (hk : m.kind = .fill w r x d job) (hs : s.slotOfName (devOfSlot m.k) w = some k)
    (ha : s.admits m.pid (clusterOf k) none = true)
    (hc : (s.core (coreOf k)).asleep = true ∨ (s.core (coreOf k)).wakeEnd ≠ none) :
    s.fillMsg m = (s.modCore (coreOf k) fun y => { y with heldFills := y.heldFills ++ [m] }).rouse (coreOf k) := by
  have : ((s.core (coreOf k)).asleep || (s.core (coreOf k)).wakeEnd.isSome) = true := by
    simpa [Option.isSome_iff_ne_none] using hc
  simp [State.fillMsg, State.fillSlot_fill hk, hk, hs, ha, this]

/-- An admitted fill meets its slot where the core is awake. -/
theorem State.fillMsg_awake (hk : m.kind = .fill w r x d job) (hs : s.slotOfName (devOfSlot m.k) w = some k)
    (ha : s.admits m.pid (clusterOf k) none = true) (hc : (s.core (coreOf k)).asleep = false)
    (hw : (s.core (coreOf k)).wakeEnd = none) : s.fillMsg m = s.fillAt m.id (devOfSlot m.k) w r x job := by
  simp [State.fillMsg, State.fillSlot_fill hk, hk, hs, ha, hc, hw]

variable {id d0 : Nat}

theorem State.fillAt_stale (hs : s.slotOfName d0 w = some k)
    (hh : ¬ ((s.slot k).occ = true ∧ (s.slot k).gen.toNat = w.toNat % 65536)) :
    s.fillAt id d0 w r x job =
      (s.answerFill (some id) 0x16).modPart (s.pidOf (clusterOf k)) fun q => { q with discards := q.discards + 1 } := by
  have : (!(s.slot k).occ || (s.slot k).gen.toNat != w.toNat % 65536) = true := by
    cases ho : (s.slot k).occ <;> simp_all
  simp [State.fillAt, hs, this]

theorem State.fillAt_handler (hs : s.slotOfName d0 w = some k) (ho : (s.slot k).occ = true)
    (hg : (s.slot k).gen.toNat = w.toNat % 65536) (hi : (s.slot k).inh = true) :
    s.fillAt id d0 w r x job = (s.jobFilled job k).holdFill k { reg := r, val := x, sender := some id } := by
  simp [State.fillAt, hs, ho, hg, hi]

theorem State.fillAt_here (hs : s.slotOfName d0 w = some k) (ho : (s.slot k).occ = true)
    (hg : (s.slot k).gen.toNat = w.toNat % 65536) (hi : (s.slot k).inh = false) :
    s.fillAt id d0 w r x job =
      (((s.modSlot k (filled s k r x)).jobFilled job k).answerFill (some id) 0).rouse (coreOf k) := by
  rw [← State.fillRegister_eq]
  simp [State.fillAt, hs, ho, hg, hi]

end Fill

/-- A fill that is applied: its slot is filled and its sender told; no other slot changes but the sender's, no message, and no byte. -/
theorem State.slot_filledTold (s : State) (id k : Nat) (r : Fin 32) (x : Word) (job : Option (Nat × Nat)) (j : Nat) :
    ((((s.modSlot k (filled s k r x)).jobFilled job k).answerFill (some id) 0).rouse (coreOf k)).slot j =
      toldFill id 0 (if j = k then filled s k r x (s.slot k) else s.slot j) := by
  rw [State.slot_rouse, State.slot_answerFill, (State.jobFilled_l1Only ..).slot]
  by_cases h : j = k
  · subst h; simp
  · rw [State.slot_modSlot_ne _ _ h, if_neg h]
theorem State.net_filledTold (s : State) (id k : Nat) (r : Fin 32) (x : Word) (job : Option (Nat × Nat)) :
    ((((s.modSlot k (filled s k r x)).jobFilled job k).answerFill (some id) 0).rouse (coreOf k)).net = s.net := by
  rw [State.net_rouse, State.net_answerFill, (State.jobFilled_l1Only ..).net, State.modSlot_net]
theorem State.mem_filledTold (s : State) (id k : Nat) (r : Fin 32) (x : Word) (job : Option (Nat × Nat)) :
    ((((s.modSlot k (filled s k r x)).jobFilled job k).answerFill (some id) 0).rouse (coreOf k)).mem = s.mem := by
  rw [State.rouse_mem, State.mem_answerFill, (State.jobFilled_l1Only ..).mem, State.modSlot_mem]

/-! ### FILL_ARRIVAL -/

@[simp] theorem State.slot_drop (s : State) (id k : Nat) : (s.drop id).slot k = s.slot k := rfl
@[simp] theorem State.core_drop (s : State) (id c : Nat) : (s.drop id).core c = s.core c := rfl
@[simp] theorem State.part_drop (s : State) (id pid : Nat) : (s.drop id).part pid = s.part pid := rfl
@[simp] theorem State.mem_drop (s : State) (id : Nat) : (s.drop id).mem = s.mem := rfl

/-- The dropped message is gone. -/
theorem gone_of_net {s t : State} {id : Nat} (h : t.net = (s.drop id).net) : Gone t id := by
  intro y hy
  rw [h] at hy
  simpa using (List.mem_filter.1 hy).2

theorem State.msg_id {s : State} {id : Nat} {m : Msg} (h : s.msg id = some m) : m.id = id := by
  simpa using List.find?_some h

theorem exec_fillArrival_room {s : State} {id : Nat} {m : Msg} (he : s.ev = some (.fillArrival id)) (hm : s.msg id = some m)
    (hr : s.fillRoom m = true) : exec .fillArrival s = .next ((s.drop id).fillMsg m) := by
  simp [exec_fillArrival, execFillArrival, he, hm, hr]
theorem exec_fillArrival_full {s : State} {id : Nat} {m : Msg} (he : s.ev = some (.fillArrival id)) (hm : s.msg id = some m)
    (hr : s.fillRoom m = false) : exec .fillArrival s = .next s := by
  simp [exec_fillArrival, execFillArrival, he, hm, hr]

section Arrival
variable {s : State} {id : Nat} {m : Msg} {w x : Word} {r : Fin 32} {d : Option (Fin 32)} {job : Option (Nat × Nat)} {k : Nat}
  (he : s.ev = some (.fillArrival id)) (hm : s.msg id = some m) (hk : m.kind = .fill w r x d job)
include he hm hk

theorem fillArrival_unnamed (hs : s.slotOfName (devOfSlot m.k) w = none) :
    ∃ t, exec .fillArrival s = .next t ∧ Gone t id ∧ ∀ k, t.slot k = toldFill id 0x16 (s.slot k) := by
  have room := State.fillRoom_unnamed ((State.fillSlot_fill hk).trans hs)
  have answered := State.fillMsg_unnamed (s := s.drop id) hk hs
  rw [State.msg_id hm] at answered
  rw [exec_fillArrival_room he hm room, answered]
  exact ⟨_, rfl, gone_of_net (State.net_answerFill ..), fun k => State.slot_answerFill ..⟩

theorem fillArrival_refused (hs : s.slotOfName (devOfSlot m.k) w = some k) (hi : (s.slot k).inh = false)
    (ha : s.admits m.pid (clusterOf k) none = false) :
    ∃ t, exec .fillArrival s = .next t ∧ Gone t id ∧ SameBytes s t ∧
      ∀ j, t.slot j = toldFill id (if job.isSome then 7 else 8) (s.slot j) := by
  have room := State.fillRoom_of_slot ((State.fillSlot_fill hk).trans hs) (.inl hi)
  have dropped := State.fillMsg_refused (s := s.drop id) hk hs ha
  rw [State.msg_id hm] at dropped
  rw [exec_fillArrival_room he hm room, dropped]
  exact ⟨_, rfl, gone_of_net (State.net_answerFill ..), fun _ => rfl, fun j => State.slot_answerFill ..⟩

theorem fillArrival_asleep (hs : s.slotOfName (devOfSlot m.k) w = some k) (hi : (s.slot k).inh = false)
    (ha : s.admits m.pid (clusterOf k) none = true)
    (hc : (s.core (coreOf k)).asleep = true ∨ (s.core (coreOf k)).wakeEnd ≠ none) :
    ∃ t, exec .fillArrival s = .next t ∧ Gone t id ∧ (t.core (coreOf k)).heldFills = (s.core (coreOf k)).heldFills ++ [m] ∧
      (∀ j, t.slot j = s.slot j) ∧ ((s.core (coreOf k)).asleep = true → Event.sleepWake (coreOf k) ∈ t.agenda) := by
  have room := State.fillRoom_of_slot ((State.fillSlot_fill hk).trans hs) (.inl hi)
  rw [exec_fillArrival_room he hm room, State.fillMsg_asleep (s := s.drop id) hk hs ha hc]
  exact ⟨_, rfl, gone_of_net (s := s) (by simp), by simp, fun j => by simp, fun h => State.sleepWake_mem_rouse (by simpa using h)⟩

variable (hs : s.slotOfName (devOfSlot m.k) w = some k) (ha : s.admits m.pid (clusterOf k) none = true)
  (hc : (s.core (coreOf k)).asleep = false) (hw : (s.core (coreOf k)).wakeEnd = none)
include hs ha hc hw

/-- An arrival that finds room meets its slot. -/
theorem fillArrival_meets (hr : (s.slot k).inh = false ∨ ((s.slot k).held.length < 32 ∧ s.savePage k ≠ .frozen)) :
    exec .fillArrival s = .next ((s.drop id).fillAt id (devOfSlot m.k) w r x job) := by
  have room := State.fillRoom_of_slot ((State.fillSlot_fill hk).trans hs) hr
  have met := State.fillMsg_awake (s := s.drop id) hk hs ha hc hw
  rw [State.msg_id hm] at met
  rw [exec_fillArrival_room he hm room, met]

theorem fillArrival_here (ho : (s.slot k).occ = true) (hg : (s.slot k).gen.toNat = w.toNat % 65536)
    (hi : (s.slot k).inh = false) :
    ∃ t, exec .fillArrival s = .next t ∧ Gone t id ∧ SameBytes s t ∧
      ∀ j, t.slot j = toldFill id 0 (if j = k then filled s k r x (s.slot k) else s.slot j) := by
  rw [fillArrival_meets he hm hk hs ha hc hw (.inl hi), State.fillAt_here (s := s.drop id) hs ho hg hi]
  refine ⟨_, rfl, gone_of_net (State.net_filledTold ..), fun a => ?_, fun j => State.slot_filledTold ..⟩
  rw [State.mem_filledTold, State.mem_drop]

theorem fillArrival_stale (hh : ¬ ((s.slot k).occ = true ∧ (s.slot k).gen.toNat = w.toNat % 65536))
    (hr : (s.slot k).inh = false ∨ ((s.slot k).held.length < 32 ∧ s.savePage k ≠ .frozen)) :
    ∃ t, exec .fillArrival s = .next t ∧ Gone t id ∧ SameBytes s t ∧ (∀ j, t.slot j = toldFill id 0x16 (s.slot j)) ∧
      (t.part (s.pidOf (clusterOf k))).discards = (s.part (s.pidOf (clusterOf k))).discards + 1 := by
  rw [fillArrival_meets he hm hk hs ha hc hw hr, State.fillAt_stale (s := s.drop id) hs hh]
  refine ⟨_, rfl, gone_of_net (State.net_answerFill ..), fun _ => rfl, fun j => State.slot_answerFill .., ?_⟩
  show Part.discards (State.part (State.modPart _ (s.pidOf (clusterOf k)) _) _) = _
  simp

theorem fillArrival_handler (ho : (s.slot k).occ = true) (hg : (s.slot k).gen.toNat = w.toNat % 65536)
    (hi : (s.slot k).inh = true) (hr : (s.slot k).held.length < 32 ∧ s.savePage k ≠ .frozen) :
    ∃ t, exec .fillArrival s = .next t ∧ Gone t id ∧
      (t.slot k).held = (s.slot k).held ++ [{ reg := r, val := x, sender := some id }] ∧ (t.slot k).g = (s.slot k).g := by
  obtain ⟨s', stored, held⟩ := ((s.drop id).jobFilled job k).holdFill_eq k { reg := r, val := x, sender := some id }
  have kept := ((s.drop id).jobFilled_l1Only job k).stored.trans stored
  rw [fillArrival_meets he hm hk hs ha hc hw (.inr hr), State.fillAt_handler (s := s.drop id) hs ho hg hi, held]
  refine ⟨_, rfl, gone_of_net kept.net, ?_, ?_⟩ <;> rw [State.slot_modSlot, kept.slot k] <;> rfl

omit ha hc hw in
theorem fillArrival_full (hi : (s.slot k).inh = true) (hl : 32 ≤ (s.slot k).held.length) : exec .fillArrival s = .next s :=
  exec_fillArrival_full he hm (State.fillRoom_full ((State.fillSlot_fill hk).trans hs) hi hl)

end Arrival

/-! ### The dispenser (R41) -/

/-- The slot that the dispenser chooses waits for the item, in its cluster and address space, and in the item's core if it names one. -/
theorem State.waiter_spec {s : State} {ck k : Nat} {it : Item} (h : s.waiter ck it = some k) :
    k % 16 ≠ 0 ∧ clusterOf k = ck ∧ (s.slot k).waitsWork = true ∧ (s.slot k).asid = it.asid ∧
      ∀ c, it.core = some c → coreOf k = ck * 8 + c.val := by
  unfold State.waiter at h
  dsimp only at h
  have waits := List.find?_some h
  simp only [Bool.and_eq_true, bne_iff_ne, ne_eq, beq_iff_eq] at waits
  obtain ⟨⟨hz, hw⟩, ha⟩ := waits
  obtain ⟨c, hc, hk⟩ := List.mem_flatMap.1 (List.mem_of_find?_eq_some h)
  obtain ⟨i, hi, rfl⟩ := List.mem_map.1 hk
  have hi := List.mem_range.1 hi
  have core : coreOf (c * 16 + i) = c := by unfold coreOf; omega
  have cluster (n : Nat) (hn : n < 8) (hcn : c = ck * 8 + n) : clusterOf (c * 16 + i) = ck := by unfold clusterOf; omega
  cases hcore : it.core with
  | some c' =>
    simp only [hcore, List.mem_singleton] at hc
    exact ⟨hz, cluster c'.val c'.isLt hc, hw, ha, fun c2 h2 => by cases h2; rw [core, hc]⟩
  | none =>
    simp only [hcore] at hc
    obtain ⟨n, -, hn⟩ := List.mem_map.1 hc
    exact ⟨hz, cluster _ (Nat.mod_lt _ (by decide)) hn.symm, hw, ha, fun c2 h2 => by cases h2⟩

/-- The slot of a thread that is given an item: its arguments, the emptied registers, the generation, the count of posted operations. -/
def Slot.given (it : Item) (t : Slot) : Slot :=
  { t with gen := t.gen + 1, seq := 0, item := it.placed, g := Vector.ofFn fun r : Fin 32 =>
      if r = 0 then t.g[r]
      else if r.val ≤ it.args.length then GReg.of (it.args.getD (r.val - 1) 0)
      else if r.val ≤ 8 then { t.g[r] with full := false, tag := none }
      else t.g[r] }

/-- The register of a thread that is given an item: an argument, an emptied register, or as it was. -/
theorem Slot.given_reg (it : Item) (t : Slot) {r : Fin 32} (h : r ≠ 0) :
    (t.given it).g[r] = if r.val ≤ it.args.length then GReg.of (it.args.getD (r.val - 1) 0)
      else if r.val ≤ 8 then { t.g[r] with full := false, tag := none } else t.g[r] := by
  simp [Slot.given, h]

/-- The operations of a thread that stay its own under its new generation: no slot and no byte changes, of a cluster its jobs alone. -/
theorem State.cluster_follow (s : State) (k : Nat) (old new : BitVec 16) (ck : Nat) :
    (s.follow k old new).cluster ck = { s.cluster ck with jobs := ((s.follow k old new).cluster ck).jobs } := by
  by_cases h : ck = clusterOf k
  · subst h; simp only [State.follow, State.cluster_modCluster]; rfl
  · simp only [State.follow, State.cluster_modCluster_ne _ _ h]; rfl

/-- The state of a thread that has been given an item, before its instruction completes. -/
def State.itemGiven (s : State) (k : Nat) (it : Item) : State :=
  { ((s.modSlot k (Slot.given it)).follow k (s.slot k).gen ((s.slot k).gen + 1)).catchUp (coreOf k) with cur := k }

theorem State.itemGiven_slot (s : State) (k : Nat) (it : Item) : (s.itemGiven k it).slot k = (s.slot k).given it :=
  ((State.catchUp_l1Only ..).slot k).trans (State.slot_modSlot ..)
theorem State.itemGiven_mem (s : State) (k : Nat) (it : Item) : (s.itemGiven k it).mem = s.mem := (State.catchUp_l1Only _ _).mem
theorem State.itemGiven_queue (s : State) (k : Nat) (it : Item) (ck : Nat) :
    ((s.itemGiven k it).cluster ck).items = (s.cluster ck).items ∧
      ((s.itemGiven k it).cluster ck).served = (s.cluster ck).served := by
  have cluster := ((State.catchUp_l1Only _ (coreOf k)).cluster ck).trans
    (State.cluster_follow (s.modSlot k (Slot.given it)) k (s.slot k).gen ((s.slot k).gen + 1) ck)
  rw [show (s.itemGiven k it).cluster ck = _ from cluster]
  exact ⟨rfl, rfl⟩

/-- A slot may issue from this clock on, and its core wakes. -/
def State.readyNow (s : State) (k : Nat) : State :=
  (s.modSlot k fun t => { t with readyAt := max t.readyAt s.clock }).rouse (coreOf k)

/-- The instruction of a thread that is not stepped completes at the item's PC. -/
theorem State.giveItem_eq {s : State} {k : Nat} (it : Item) (h : (s.slot k).sstep = false) :
    s.giveItem k it = ((s.itemGiven k it).modSlot k fun t => endAt t it.pc).readyNow k := by
  have plain : (s.itemGiven k it).me.sstep = false := (congrArg Slot.sstep (s.itemGiven_slot k it)).trans h
  exact congrArg (State.readyNow · k) (State.doneAt_plain _ _ it.pc plain)

/-- DISPENSE gives the oldest item that some slot waits for. -/
theorem exec_dispense_oldest {s : State} {ck k : Nat} {it : Item} {pre post : List Item} (he : s.ev = some (.dispense ck))
    (hi : (s.cluster ck).items = pre ++ it :: post) (hpre : ∀ i ∈ pre, s.waiter ck i = none) (hw : s.waiter ck it = some k) :
    exec .dispense s = .next ((s.modCluster ck fun x =>
      { x with items := pre ++ post, served := Fin.ofNat 8 (coreOf k) }).giveItem k it) := by
  have oldest : (s.cluster ck).items.find? (fun it => (s.waiter ck it).isSome) = some it := by
    rw [hi, List.find?_append, List.find?_eq_none.2 fun i h => by simp [hpre i h]]
    simp [hw]
  have notBefore : it ∉ pre := fun h => by rw [hpre it h] at hw; cases hw
  have rest : (s.cluster ck).items.erase it = pre ++ post := by
    rw [hi, List.erase_append_right _ notBefore, List.erase_cons_head]
  simp only [exec_dispense, execDispense, he, oldest, hw]
  simp only [State.modCluster, rest]

/-- What a dispensed item does (R41). -/
theorem dispense_gives {s : State} {ck k : Nat} {it : Item} {pre post : List Item} (he : s.ev = some (.dispense ck))
    (hi : (s.cluster ck).items = pre ++ it :: post) (hpre : ∀ i ∈ pre, s.waiter ck i = none) (hw : s.waiter ck it = some k)
    (hs : (s.slot k).sstep = false) :
    ∃ t, exec .dispense s = .next t ∧ SameBytes s t ∧ (t.cluster ck).items = pre ++ post ∧
      (t.cluster ck).served = Fin.ofNat 8 (coreOf k) ∧
      (t.slot k).pc = it.pc ∧ (t.slot k).park = none ∧ (t.slot k).gen = (s.slot k).gen + 1 ∧ (t.slot k).seq = 0 ∧
      ∀ r : Fin 32, r ≠ 0 →
        (r.val ≤ it.args.length → (t.slot k).g[r] = GReg.of (it.args.getD (r.val - 1) 0)) ∧
        (it.args.length < r.val → r.val ≤ 8 → (t.slot k).full r = false) ∧
        (it.args.length < r.val → 8 < r.val → (t.slot k).g[r] = (s.slot k).g[r]) := by
  have given := State.giveItem_eq (s := s.modCluster ck fun x =>
    { x with items := pre ++ post, served := Fin.ofNat 8 (coreOf k) }) it hs
  have slot := congrArg (fun t => t.slot k) given
  simp only [State.readyNow, State.slot_rouse, State.slot_modSlot, State.itemGiven_slot, State.slot_modCluster] at slot
  have mem := congrArg State.mem given
  simp only [State.readyNow, State.rouse_mem, State.modSlot_mem, State.itemGiven_mem, State.modCluster_mem] at mem
  have queue := State.itemGiven_queue (s.modCluster ck fun x =>
    { x with items := pre ++ post, served := Fin.ofNat 8 (coreOf k) }) k it ck
  rw [State.cluster_modCluster] at queue
  rw [exec_dispense_oldest he hi hpre hw]
  refine ⟨_, rfl, fun a => by rw [mem], ?_, ?_, by rw [slot]; rfl, by rw [slot]; rfl, by rw [slot]; rfl, by rw [slot]; rfl, ?_⟩
  · rw [given, State.readyNow, State.cluster_rouse, State.cluster_modSlot, State.cluster_modSlot, queue.1]
  · rw [given, State.readyNow, State.cluster_rouse, State.cluster_modSlot, State.cluster_modSlot, queue.2]
  generalize State.giveItem _ k it = t at slot
  intro r hr
  have reg : (t.slot k).g[r] = ((s.slot k).given it).g[r] := by rw [slot]; rfl
  have full : (t.slot k).full r = (t.slot k).g[r].full := by
    have : (t.slot k).src = none := by rw [slot]; rfl
    simp [Slot.full, Slot.regs, this, hr]
  refine ⟨fun ha => ?_, fun ha h8 => ?_, fun ha h8 => ?_⟩
  · rw [reg, Slot.given_reg it _ hr, if_pos ha]
  · rw [full, reg, Slot.given_reg it _ hr, if_neg (Nat.not_le.2 ha), if_pos h8]
  · rw [reg, Slot.given_reg it _ hr, if_neg (Nat.not_le.2 ha), if_neg (Nat.not_le.2 h8)]

/-! ### Sleep (R47) -/

/-- A write of the device leaves the wake of every core alone. -/
theorem State.Stored.wakeEnd {s t : State} (h : s.Stored t) (c : Nat) : (t.core c).wakeEnd = (s.core c).wakeEnd := by
  rw [h.core c]

theorem State.fillAt_wakeEnd (s : State) (id d0 : Nat) (w : Word) (r : Fin 32) (x : Word) (job : Option (Nat × Nat)) (c : Nat) :
    ((s.fillAt id d0 w r x job).core c).wakeEnd = (s.core c).wakeEnd := by
  cases hs : s.slotOfName d0 w with
  | none => simp [State.fillAt, hs]
  | some k =>
    by_cases hh : (s.slot k).occ = true ∧ (s.slot k).gen.toNat = w.toNat % 65536
    · cases hi : (s.slot k).inh with
      | true =>
        obtain ⟨s', stored, held⟩ := (s.jobFilled job k).holdFill_eq k { reg := r, val := x, sender := some id }
        rw [State.fillAt_handler hs hh.1 hh.2 hi, held, State.core_modSlot]
        exact ((s.jobFilled_l1Only job k).stored.trans stored).wakeEnd c
      | false =>
        rw [State.fillAt_here hs hh.1 hh.2 hi, State.core_rouse, State.core_answerFill]
        exact (State.jobFilled_l1Only ..).stored.wakeEnd c
    · rw [State.fillAt_stale hs hh, State.core_modPart, State.core_answerFill]

/-- The arrival of a fill leaves a core's wake alone. -/
theorem State.fillMsg_wakeEnd (s : State) (m : Msg) (c : Nat) : ((s.fillMsg m).core c).wakeEnd = (s.core c).wakeEnd := by
  unfold State.fillMsg
  split
  · split
    · exact State.fillAt_wakeEnd ..
    · rename_i k _
      dsimp only
      split
      · simp
      · split
        · rw [State.core_rouse]
          by_cases h : c = coreOf k
          · subst h; simp
          · rw [State.core_modCore_ne _ _ h]
        · exact State.fillAt_wakeEnd ..
  · rfl

/-- SLEEP_ENTRY puts a core that is idle and has a depth to sleep. -/
theorem exec_sleepEntry_idle {s : State} {c : Nat} (he : s.ev = some (.sleepEntry c)) :
    exec .sleepEntry s = .next (if s.coreIdle c = true ∧ (s.core c).sdepth ≠ 0
      then s.modCore c fun x => { x with asleep := true, slept := x.sdepth, idleSince := none } else s) := by
  simp [execSleepEntry, he]

/-- SLEEP_WAKE of a core that sleeps begins its wake, of 24 or 420 clocks. -/
theorem exec_sleepWake_asleep {s : State} {c : Nat} (he : s.ev = some (.sleepWake c)) (h : (s.core c).asleep = true) :
    exec .sleepWake s = .next (s.modCore c fun x =>
      { x with asleep := false, wakeEnd := some (s.clock - 1 + if x.slept = 2 then 420 else 24) }) := by
  simp [execSleepWake, he, h, Config.sleep1, Config.sleep2]

/-- A core at the end of its wake, its held fills still to arrive. -/
def State.woken (s : State) (c : Nat) : State := s.modCore c fun x => { x with wakeEnd := none, heldFills := [] }
/-- A fill held through a sleep arrives, or stays on the network where its slot has no room for it. -/
def State.heldArrives (s : State) (m : Msg) : State := if s.fillRoom m then s.fillMsg m else { s with net := s.net ++ [m] }

theorem exec_wakeEnd_held {s : State} {c : Nat} (he : s.ev = some (.wakeEnd c)) :
    exec .wakeEnd s = .next ((s.core c).heldFills.foldl State.heldArrives (s.woken c)) := by
  simp only [exec_wakeEnd, execWakeEnd, he]; rfl

theorem State.heldArrives_wakeEnd (ms : List Msg) (s : State) (c : Nat) :
    ((ms.foldl State.heldArrives s).core c).wakeEnd = (s.core c).wakeEnd := by
  induction ms generalizing s with
  | nil => rfl
  | cons m ms ih =>
    rw [List.foldl_cons, ih]
    unfold State.heldArrives; split
    · exact s.fillMsg_wakeEnd m c
    · rfl

theorem State.woken_of_noFills {s : State} {c : Nat} (h : (s.core c).heldFills = []) :
    s.woken c = s.modCore c fun x => { x with wakeEnd := none } := by
  simp only [State.woken, State.modCore, ← h]

/-- The one fill that a core holds reaches its slot at the end of the wake. -/
theorem State.slot_heldArrives {s : State} {c k : Nat} {m : Msg} {w x : Word} {r : Fin 32} {d : Option (Fin 32)}
    {job : Option (Nat × Nat)} (hk : m.kind = .fill w r x d job) (hc : (s.core c).asleep = false)
    (hs : s.slotOfName (devOfSlot m.k) w = some k) (hkc : coreOf k = c) (ho : (s.slot k).occ = true)
    (hg : (s.slot k).gen.toNat = w.toNat % 65536) (hi : (s.slot k).inh = false) (ha : s.admits m.pid (clusterOf k) none = true)
    (j : Nat) :
    ((s.woken c).heldArrives m).slot j = toldFill m.id 0 (if j = k then filled s k r x (s.slot k) else s.slot j) := by
  subst hkc
  have room : (s.woken (coreOf k)).fillRoom m = true := State.fillRoom_of_slot ((State.fillSlot_fill hk).trans hs) (.inl hi)
  have awake : ((s.woken (coreOf k)).core (coreOf k)).asleep = false := by simpa [State.woken] using hc
  have wakeEnd : ((s.woken (coreOf k)).core (coreOf k)).wakeEnd = none := by simp [State.woken]
  rw [State.heldArrives, if_pos room, State.fillMsg_awake (s := s.woken (coreOf k)) hk hs ha awake wakeEnd,
    State.fillAt_here (s := s.woken (coreOf k)) hs ho hg hi, State.slot_filledTold]
  rfl

end Sys2Proof.Machine

namespace Sys2Proof
open Machine Claims

/-- Settles O46: each clause is the lemma about its event above. -/
theorem fillsItemsAndSleep : Obligations.FillsItemsAndSleep := by
  refine ⟨?arrives, ?refused, ?asleep, ?dispensed, ?sleeps⟩
  case arrives =>
    intro s id m w x r d job he hm hk _ _
    refine ⟨fillArrival_unnamed he hm hk, fun k hnamed => ?_⟩
    obtain ⟨hs, hc, hw, ha⟩ := hnamed
    refine ⟨fun hh hi => fillArrival_here he hm hk hs ha hc hw hh.1 hh.2 hi,
      fun hh hr => fillArrival_stale he hm hk hs ha hc hw hh hr,
      fun hh hi hr => fillArrival_handler he hm hk hs ha hc hw hh.1 hh.2 hi hr,
      fun hi hl => fillArrival_full he hm hk hs hi hl⟩
  case refused => exact fun s id m w x r d job k he hm hk hs hi ha => fillArrival_refused he hm hk hs hi ha
  case asleep => exact fun s id m w x r d job k he hm hk hs hi ha hc => fillArrival_asleep he hm hk hs hi ha hc
  case dispensed =>
    exact fun s ck k it pre post he hi hpre hw => ⟨State.waiter_spec hw, dispense_gives he hi hpre hw⟩
  case sleeps =>
    refine fun s c => ⟨exec_sleepEntry_idle, exec_sleepWake_asleep, fun he => ⟨_, exec_wakeEnd_held he, ?_, fun hf => ?_, ?_⟩⟩
    · rw [State.heldArrives_wakeEnd]; simp [State.woken]
    · rw [hf]; exact State.woken_of_noFills hf
    · intro m w x r d job k hf hk hc hs hkc ho hg hi ha j
      rw [hf]; exact State.slot_heldArrives hk hc hs hkc ho hg hi ha j

end Sys2Proof
end

section
/-! PROOFS. The end of a thread (R62, R152, R159, R342): what a vacated slot holds, EXIT, and the trap that kills. -/

namespace Sys2Proof.Machine
open Claims

/-! ### What the end of a thread leaves alone -/

/-- `t` has slot `k`, memory and the running slot's number of `s`. -/
structure State.KeepsSlot (k : Nat) (s t : State) : Prop where
  slot : t.slot k = s.slot k
  mem : t.mem = s.mem
  cur : t.cur = s.cur

theorem State.KeepsSlot.refl {k : Nat} (s : State) : s.KeepsSlot k s := ⟨rfl, rfl, rfl⟩
theorem State.KeepsSlot.trans {k : Nat} {s t u : State} (h : s.KeepsSlot k t) (g : t.KeepsSlot k u) : s.KeepsSlot k u :=
  ⟨g.slot.trans h.slot, g.mem.trans h.mem, g.cur.trans h.cur⟩
theorem State.KeepsSlot.foldl {k : Nat} {α : Type} {f : State → α → State} (hf : ∀ (s : State) x, s.KeepsSlot k (f s x))
    (l : List α) (s : State) : s.KeepsSlot k (l.foldl f s) :=
  List.foldlRecOn l f (.refl s) fun t h x _ => h.trans (hf t x)

theorem State.rouse_keepsSlot (s : State) (c k : Nat) : s.KeepsSlot k (s.rouse c) := by
  rw [s.rouse_agenda c]; exact ⟨rfl, rfl, rfl⟩
theorem State.modSlot_keepsSlot (s : State) {k i : Nat} (f : Slot → Slot) (h : i ≠ k) : s.KeepsSlot k (s.modSlot i f) :=
  ⟨State.slot_modSlot_ne s f h.symm, rfl, rfl⟩
theorem State.endInst_keepsSlot (s : State) (pid inst node status k : Nat) : s.KeepsSlot k (s.endInst pid inst node status) := by
  unfold State.endInst
  dsimp only
  split
  · split
    · exact .refl s
    · exact ⟨rfl, rfl, rfl⟩
  · exact .refl s

theorem State.modCluster_keepsSlot (s : State) (ck : Nat) (f : Cluster → Cluster) (k : Nat) :
    s.KeepsSlot k (s.modCluster ck f) :=
  ⟨rfl, rfl, rfl⟩
theorem State.closeGang_keepsSlot (s : State) (ck k : Nat) : s.KeepsSlot k (s.closeGang ck) := ⟨rfl, rfl, rfl⟩

/-- A member that leaves its gang changes the slots of the others alone (R214). -/
theorem State.breakGang_keepsSlot (s : State) (k : Nat) : s.KeepsSlot k (s.breakGang k) := by
  unfold State.breakGang
  dsimp only
  split
  · exact .refl s
  · split
    · exact .refl s
    · refine .trans (.trans (.trans (State.modCluster_keepsSlot ..) (.foldl ?tmms _ _)) (.foldl ?others _ _))
        (State.closeGang_keepsSlot ..)
      case tmms => exact fun s c => ⟨rfl, rfl, rfl⟩
      case others =>
        intro s m
        split
        · split
          · rename_i h
            have other : m.2 ≠ k := by simp_all
            exact (s.modSlot_keepsSlot _ other).trans (State.rouse_keepsSlot ..)
          · exact .refl s
        · exact .refl s

theorem State.leaveDie_keepsSlot (s : State) (die rid k : Nat) : s.KeepsSlot k (s.leaveDie die rid) := ⟨rfl, rfl, rfl⟩
theorem State.leaveTurns_keepsSlot (s : State) (j k : Nat) : s.KeepsSlot k (s.leaveTurns j) := ⟨rfl, rfl, rfl⟩

/-! ### A vacated slot (R62) -/

/-- A vacant slot after a thread of generation `gen`: the next generation, nothing held, no binding, no full register. -/
structure Slot.VacatedAfter (gen : BitVec 16) (t : Slot) : Prop where
  occ : t.occ = false
  gen : t.gen = gen + 1
  drs : t.drs = []
  resv : t.resv = []
  recs : t.recs = []
  park : t.park = none
  inh : t.inh = false
  unbound : ∀ q : Fin 8, t.q[q].bound = false
  empty : ∀ r : Fin 32, r ≠ 0 → t.full r = false

/-- A slot is vacated; memory and the running slot's number stay. -/
theorem State.vacate_vacates (s : State) (k : Nat) :
    ((s.vacate k).slot k).VacatedAfter (s.slot k).gen ∧ (s.vacate k).mem = s.mem ∧ (s.vacate k).cur = s.cur := by
  unfold State.vacate
  dsimp only
  generalize hu : State.leaveTurns _ k = u
  have left : s.KeepsSlot k u := by
    subst hu
    split
    · exact (s.leaveDie_keepsSlot ..).trans (State.leaveTurns_keepsSlot ..)
    · exact s.leaveTurns_keepsSlot ..
  have gang := fun t : State => t.breakGang_keepsSlot k
  refine ⟨?vacant, (gang _).mem.trans left.mem, (gang _).cur.trans left.cur⟩
  case vacant =>
    have slot (t : State) (a : List Event) : State.slot { t.breakGang k with agenda := a } k = t.slot k := (gang t).slot
    rw [slot, State.slot_modCluster, State.slot_modCore, State.slot_modSlot, left.slot]
    refine ⟨rfl, rfl, rfl, rfl, rfl, rfl, rfl, fun q => ?_, fun r hr => ?_⟩
    · simp [QBind.none]
    · simp [Slot.full, Slot.regs, hr]

/-! ### The kill of a thread (R342) -/

/-- The answers to the fills that a killed thread held change no generation. -/
theorem State.answerFills_gen (hs : List HeldFill) (s : State) (status k : Nat) :
    ((hs.foldl (fun s h => s.answerFill h.sender status) s).slot k).gen = (s.slot k).gen ∧
      (hs.foldl (fun s h => s.answerFill h.sender status) s).cur = s.cur := by
  induction hs generalizing s with
  | nil => exact ⟨rfl, rfl⟩
  | cons h hs ih =>
    rw [List.foldl_cons, (ih _).1, (ih _).2]
    cases h.sender with
    | none => exact ⟨rfl, rfl⟩
    | some id => exact ⟨by rw [State.slot_answerFill]; rfl, rfl⟩

theorem State.kill_vacates (s : State) (k : Nat) :
    ((s.kill k).slot k).VacatedAfter (s.slot k).gen ∧ (s.kill k).cur = s.cur := by
  unfold State.kill
  dsimp only
  generalize hu : List.foldl _ s _ = u
  have gen : (u.slot k).gen = (s.slot k).gen ∧ u.cur = s.cur := hu ▸ State.answerFills_gen ..
  obtain ⟨vacant, -, cur⟩ := u.vacate_vacates k
  rw [gen.1] at vacant
  rw [gen.2] at cur
  split
  · rw [(State.endInst_keepsSlot ..).slot, (State.endInst_keepsSlot _ _ _ _ _ k).cur]
    exact ⟨vacant, cur⟩
  · exact ⟨vacant, cur⟩

theorem State.abort_outside {s : State} {k : Nat} (code : Nat) (h : (s.slot k).region = none) : s.abort k code = s := by
  simp [State.abort, h]
/-- A trap in a handler, or one whose vector is no gate, kills its thread. -/
theorem State.deliver_kills {s : State} {k : Nat} {i : TrapInfo}
    (h : (s.slot k).inh = true ∨ ∃ c, s.vectorOk k (trapGroup i.cause) = .fault c) : s.deliver k i = s.kill k := by
  unfold State.deliver
  rcases h with h | ⟨c, h⟩
  · rw [if_pos h]
  · rw [h]; exact ite_self _
theorem State.trap_kills {s : State} {cause : Nat} (addr : Word) (nw : Nat) (hr : s.me.region = none)
    (h : s.me.inh = true ∨ ∃ c, s.vectorOk s.cur (trapGroup cause) = .fault c) : s.trap cause addr nw = s.kill s.cur := by
  unfold State.trap State.trapAt
  rw [State.abort_outside 6 hr]
  exact State.deliver_kills h

/-! ### EXIT (R152, R159) -/

section Exit
variable {p : Pfx} {s : State}

/-- A thread whose stores and posted operations are done and whose records are all here is at its faults, or ends. -/
theorem exec_exit_home (hb : Begins s p) (hr : s.me.region = none) (hs : s.storesHome s.cur = true)
    (hp : s.postedAnswered s.cur = true) (hc : s.recComing s.cur = false) :
    exec (.exit p) s = .next (withLanes s (nw0 p) fun s => s.vacate s.cur) := by
  rw [exec_exit, execExit, run_begins hb fun _ => hr]
  simp [hs, hp, hc]

theorem exec_exit_waits (hb : Begins s p) (hr : s.me.region = none)
    (h : s.storesHome s.cur = false ∨ s.postedAnswered s.cur = false ∨ s.recComing s.cur = true) :
    exec (.exit p) s = .next (parked s 10 .storesOut .reissue (Instr.exit p).nwords false) := by
  have waits : (!(s.storesHome s.cur && s.postedAnswered s.cur && !s.recComing s.cur)) = true := by
    rcases h with h | h | h <;> simp [h]
  rw [exec_exit, execExit, run_begins hb fun _ => hr, if_pos waits]
  exact congrArg _ (State.parkAt_parked _ _ _ _ _ _ rfl)

theorem withLanes_noRecords (nw : Nat) (f : State → State) (h : NoRecords s) : withLanes s nw f = f s := by
  have none : (s.me.inh || s.me.recs.isEmpty) = true := by simpa using h
  rw [withLanes, if_pos none]

/-- A pending record waits for its lane, and traps. -/
theorem withLanes_record (nw : Nat) (f : State → State) {r : RemRec} {rs : List RemRec} (hi : s.me.inh = false)
    (hr : s.me.recs = r :: rs) :
    withLanes s nw f = if s.lanesAnswered s.cur then faultTaken s r rs nw else parked s 10 .lanes .reissue nw false := by
  have pending : (s.me.inh || s.me.recs.isEmpty) = false := by simp [hi, hr]
  have trap : s.trapRemote nw = faultTaken s r rs nw := by simp only [State.trapRemote, hr]; rfl
  have wait : s.parkRe 10 .lanes nw = parked s 10 .lanes .reissue nw false := State.parkAt_parked _ _ _ _ _ _ rfl
  rw [withLanes, pending, trap, wait]
  rfl

end Exit

end Sys2Proof.Machine

namespace Sys2Proof
open Machine Claims

/-- Settles O32: EXIT vacates its slot, or waits, or takes the trap of a record; a trap that cannot be delivered vacates it too. -/
theorem threadsEnd : Obligations.ThreadsEnd := by
  refine ⟨fun p s ho => ⟨fun hs hp hc hn => ?ends, exec_exit_waits ho.1.1 ho.2⟩, ?faults, ?killed⟩
  case ends =>
    obtain ⟨vacant, mem, cur⟩ := s.vacate_vacates s.cur
    rw [exec_exit_home ho.1.1 ho.2 hs hp hc, withLanes_noRecords _ _ hn]
    refine ⟨_, rfl, fun a => by rw [mem], ?_⟩
    rw [State.me, cur]
    exact ⟨vacant.occ, vacant.gen, vacant.drs, vacant.resv, vacant.recs, vacant.park, vacant.unbound, vacant.empty⟩
  case faults =>
    intro p s hb hr hs hp hc r rs hi hrec
    rw [exec_exit_home hb hr hs hp hc, withLanes_record _ _ hi hrec]
    rfl
  case killed =>
    intro s cause nw addr hr h
    obtain ⟨vacant, cur⟩ := s.kill_vacates s.cur
    rw [State.trap_kills addr nw hr h]
    dsimp only
    rw [State.me, cur]
    exact ⟨rfl, vacant.occ, vacant.gen, vacant.inh, vacant.empty⟩

end Sys2Proof
end

section
/-! PROOFS. The register file (R48, R50, R131): what a write leaves to read, and the hard-wired g0, p0 and m0. -/

namespace Sys2Proof.Machine

section Registers
variable (t : Slot)

@[simp] theorem Slot.wr_g0 (x : Word) : t.wr 0 x = t := rfl
@[simp] theorem Slot.wrP_p0 (b : Bool) : t.wrP 0 b = t := rfl
@[simp] theorem Slot.wrM_m0 (x : BitVec 32) : t.wrM 0 x = t := rfl

theorem Slot.wr_g (r : Fin 32) (x : Word) (h : r ≠ 0) : (t.wr r x).g = t.g.set r (GReg.of x) := by
  simp [Slot.wr, Slot.setReg, h]
theorem Slot.wrP_p (r : Fin 8) (b : Bool) (h : r ≠ 0) : (t.wrP r b).p = t.p.set r b := by simp [Slot.wrP, h]
theorem Slot.wrM_m (r : Fin 8) (x : BitVec 32) (h : r ≠ 0) : (t.wrM r x).m = t.m.set r x := by simp [Slot.wrM, h]

end Registers

/-- A register other than the one that is set. -/
theorem set_getElem_ne {α : Type} {n : Nat} (v : Vector α n) (x : α) {r r' : Fin n} (h : r' ≠ r) : (v.set r x)[r'] = v[r'] :=
  Vector.getElem_set_ne _ _ fun e => h (Fin.ext e.symm)

end Sys2Proof.Machine

namespace Sys2Proof
open Machine

/-- Settles O5: register by register, a write sets the one it names, and the hard-wired ones discard it. -/
theorem registerFile : Obligations.RegisterFile := by
  intro t
  refine ⟨fun r x hr => ⟨?written, fun hs => ?reads, fun r' h => ?others⟩, fun x => ⟨t.wr_g0 x, rfl, rfl, rfl⟩,
    fun r b hr => ⟨?writtenP, fun r' h => ?othersP⟩, fun b => ⟨t.wrP_p0 b, rfl⟩,
    fun r x hr => ⟨?writtenM, fun r' h => ?othersM⟩, fun x => ⟨t.wrM_m0 x, rfl⟩⟩
  case written => rw [t.wr_g r x hr]; exact Vector.getElem_set_self _
  case reads =>
    have src : (t.wr r x).src = none := by rw [t.wr_keeps r x]; exact hs
    simp [Slot.rd, Slot.regs, src, t.wr_g r x hr, hr, GReg.of]
  case others => rw [t.wr_g r x hr, set_getElem_ne _ _ h]
  case writtenP => simp [Slot.rdP, t.wrP_p r b hr, hr]
  case othersP => simp only [Slot.rdP, t.wrP_p r b hr]; rw [set_getElem_ne _ _ h]
  case writtenM => simp [Slot.rdM, t.wrM_m r x hr, hr]
  case othersM => simp only [Slot.rdM, t.wrM_m r x hr]; rw [set_getElem_ne _ _ h]

end Sys2Proof
end

section
/-! PROOFS. A copy job (R237) on a memory that lists a byte twice: a state that meets a premise and not its conclusion. -/

namespace Sys2Proof
open Machine Claims

/-- Where the job writes: a word of DRAM. -/
def zeroedWord : Chunk := { va := none, pa := 2048, len := 8, key := 0 }

/-- A job that has read eight zero bytes and has them to write. -/
def zeroJob : Job :=
  { id := 9, seq := 1, op := 0, src := [{ va := none, pa := 1024, len := 8, key := 0 }], dst := [.inl zeroedWord], k := 1, gen := 0,
    pid := 0, asid := 0, cls := 2, placed := none, refs := [], q := none, wide := false, started := true, bytes := 0,
    buf := List.replicate 8 0, vals := [], filled := false, fillsOut := [], fillsIn := 0, cause := 0, done := false, doneAt := 0,
    frozen := false }

/-- Memory lists the first byte of the word twice with the value 1: no step makes such a memory (`StepKeepsMemoryForm`), but the
statement asks nothing of memory. -/
def wordListedTwice : State :=
  { State.reset with clusters := [(0, { Cluster.reset with jobs := [(0, zeroJob)] })], mem := [(2048, 1), (2048, 1)] }

/-- The state once the word is written. -/
def wordWritten : State :=
  (wordListedTwice.jobWrite 0 0 2048 (List.replicate 8 0) 1 (jobMark 9) 9 none).modJob 0 0 fun j =>
    { j with bytes := j.bytes + 8, buf := [] }

theorem wordListedTwice_places : wordListedTwice.jobPlace zeroJob zeroedWord 0 = .ok 2048 0 wordListedTwice := rfl

theorem wordListedTwice_step : wordListedTwice.jobStep 0 0 zeroJob 8 = .on 8 wordWritten := rfl

/-- Refutes O50: a job writes eight zero bytes, and where memory lists the first of them twice, storing 0 erases one of the two
entries: the byte does not read as the job's. -/
theorem not_jobsAndStreams : ¬ Obligations.JobsAndStreams := by
  rintro ⟨-, -, steps, -⟩
  obtain ⟨-, writes, -⟩ := steps wordListedTwice wordListedTwice 0 0 8 2048 0 0 zeroJob zeroedWord rfl rfl wordListedTwice_places
  obtain ⟨n, t, step, -, -, -, -, ⟨written, -⟩, -⟩ := writes (by decide) (by decide +kernel)
  obtain ⟨rfl, rfl⟩ := JobStep.on.inj (wordListedTwice_step.symm.trans step)
  have byte0 := written (2048, 0) (by decide +kernel)
  have still1 : wordWritten.byteAt 0 2048 = 1 := by decide +kernel
  exact absurd (byte0.symm.trans still1) (by decide)

end Sys2Proof
end

section
/-! PROOFS. Fields of a packed number: what a byte of a vector and a bit of a number read once they are put together. -/

namespace Sys2Proof.Machine

/-! ### Bytes (R51) -/

theorem getD_map_range {α : Type} (f : Nat → α) {n k : Nat} (h : k < n) (d : α) : ((List.range n).map f).getD k d = f k := by
  rw [List.getD_eq_getElem?_getD, List.getElem?_map, List.getElem?_range h, Option.map_some, Option.getD_some]

theorem packElems_lt (w : Nat) (xs : List Nat) : packElems w xs < 2 ^ (w * xs.length) := by
  induction xs with
  | nil => simp [packElems]
  | cons x xs ih =>
    have low : x % 2 ^ w < 2 ^ w := Nat.mod_lt _ (by positivity)
    calc x % 2 ^ w + 2 ^ w * packElems w xs
      _ < 2 ^ w + 2 ^ w * packElems w xs := Nat.add_lt_add_right low _
      _ = 2 ^ w * (packElems w xs + 1) := by ring
      _ ≤ 2 ^ w * 2 ^ (w * xs.length) := Nat.mul_le_mul_left _ ih
      _ = 2 ^ (w * (x :: xs).length) := by rw [← Nat.pow_add, List.length_cons, Nat.mul_succ, Nat.add_comm]

/-- Field `k` of packed elements is element `k`, and 0 past the last. -/
theorem packElems_field (w : Nat) (xs : List Nat) (k : Nat) :
    packElems w xs / 2 ^ (w * k) % 2 ^ w = xs.getD k 0 % 2 ^ w := by
  induction xs generalizing k with
  | nil => simp [packElems]
  | cons x xs ih =>
    cases k with
    | zero => simp [packElems]
    | succ k =>
      have rest : (x % 2 ^ w + 2 ^ w * packElems w xs) / 2 ^ w = packElems w xs := by
        rw [Nat.add_mul_div_left _ _ (by positivity), Nat.div_eq_of_lt (Nat.mod_lt _ (by positivity)), Nat.zero_add]
      rw [packElems, Nat.mul_succ, Nat.pow_add, Nat.mul_comm (2 ^ (w * k)), ← Nat.div_div_eq_div_mul, rest, ih,
        List.getD_cons_succ]

theorem toNat_ofNat_packElems {w n : Nat} {xs : List Nat} (h : w * xs.length ≤ n) :
    (BitVec.ofNat n (packElems w xs)).toNat = packElems w xs := by
  rw [BitVec.toNat_ofNat, Nat.mod_eq_of_lt ((packElems_lt w xs).trans_le (Nat.pow_le_pow_right (by decide) h))]

theorem byteOf_packElems {xs : List Nat} (h : xs.length ≤ 128) (k : Nat) :
    byteOf (BitVec.ofNat 1024 (packElems 8 xs)) k = xs.getD k 0 % 256 := by
  rw [byteOf, toNat_ofNat_packElems (by omega)]
  exact packElems_field 8 xs k

theorem byteOf_lt (x : BitVec 1024) (k : Nat) : byteOf x k < 256 := Nat.mod_lt _ (by decide)

theorem byteOf_putBytes (x : BitVec 1024) (i : Nat) (bs : List Nat) {k : Nat} (h : k < 128) :
    byteOf (putBytes x i bs) k = if i ≤ k ∧ k < i + 16 then bs.getD (k - i) 0 % 256 else byteOf x k := by
  rw [putBytes, byteOf_packElems (by simp), getD_map_range _ h]
  split
  · rfl
  · exact Nat.mod_eq_of_lt (byteOf_lt x k)

/-! ### Bits -/

theorem testBit_ofBits (bs : List Bool) (j : Nat) : (ofBits bs).testBit j = bs.getD j false := by
  induction bs generalizing j with
  | nil => simp [ofBits]
  | cons b bs ih =>
    rw [ofBits, Nat.add_comm, Nat.mul_comm]
    cases j with
    | zero => cases b <;> simp [Nat.testBit_zero]
    | succ j =>
      have rest : (ofBits bs * 2 + b.toNat) / 2 = ofBits bs := by have bit := b.toNat_le; omega
      rw [Nat.testBit_succ, rest, ih, List.getD_cons_succ]

theorem ofBits_lt (bs : List Bool) : ofBits bs < 2 ^ bs.length := by
  induction bs with
  | nil => simp [ofBits]
  | cons b bs ih =>
    have bit := b.toNat_le
    rw [ofBits, List.length_cons, Nat.pow_succ]
    omega

end Sys2Proof.Machine
end

section
/-! PROOFS. The weight conversions TPACK, TUNPK and TCHK (R78, R222) and the Accord's arrival (R223, R224). -/

namespace Sys2Proof.Machine
open Claims

/-! ### Five elements to a byte (R78) -/

theorem packFive_lt (x : BitVec 1024) (i : Nat) : packFive x i < 256 := by
  have digit (y : Nat) : digitOf y ≤ 2 := by unfold digitOf; split_ifs <;> decide
  calc packFive x i
    _ ≤ ((List.range 5).map fun k => 2 * 3 ^ k).sum :=
      List.sum_le_sum fun k _ => Nat.mul_le_mul_right (3 ^ k) (digit (byteOf x (i + k)))
    _ < 256 := by decide

/-- The 16 bytes that TPACK writes. -/
theorem byteOf_packed (old x : BitVec 1024) (j : Nat) {k : Nat} (h : k < 128) :
    byteOf (putBytes old (16 * j) ((List.range 16).map fun i => packFive x (5 * i))) k =
      if 16 * j ≤ k ∧ k < 16 * j + 16 then packFive x (5 * (k - 16 * j)) else byteOf old k := by
  rw [byteOf_putBytes old _ _ h]
  split
  next inside =>
    have index : k - 16 * j < 16 := by omega
    rw [getD_map_range _ index, Nat.mod_eq_of_lt (packFive_lt ..)]
  next => rfl

/-- A digit as an int8: 0, 1 or -1. -/
theorem trit_int8 (b i : Nat) :
    (trit b i % 256).toNat = match b / 3 ^ i % 3 with
      | 1 => 1
      | 2 => 255
      | _ => 0 := by
  have digit : b / 3 ^ i % 3 < 3 := Nat.mod_lt _ (by decide)
  unfold trit
  generalize b / 3 ^ i % 3 = t at digit
  interval_cases t <;> rfl

theorem unpackFive_length (b : Nat) : (unpackFive b).length = 5 := by simp [unpackFive]

/-- Element `r` of an unpacked byte is its digit as an int8. -/
theorem unpackFive_getD (b : Nat) {r : Nat} (h : r < 5) :
    (unpackFive b).getD r 0 = if 243 ≤ b then 0 else (trit b r % 256).toNat := by
  rw [unpackFive, getD_map_range _ h]

/-- Unpacked bytes in a row: byte `k / 5` gives element `k`; past the last byte the elements are 0, as those of a byte 0 are. -/
theorem flatMap_unpackFive_getD (bs : List Nat) (k : Nat) :
    (bs.flatMap unpackFive).getD k 0 = (unpackFive (bs.getD (k / 5) 0)).getD (k % 5) 0 := by
  induction bs generalizing k with
  | nil =>
    have zero : (unpackFive 0).getD (k % 5) 0 = 0 := by
      rw [unpackFive_getD 0 (Nat.mod_lt k (by decide)), trit, Nat.zero_div]; rfl
    simpa using zero.symm
  | cons b bs ih =>
    rw [List.flatMap_cons]
    by_cases h : k < 5
    · rw [List.getD_append _ _ _ _ (by rwa [unpackFive_length]), Nat.div_eq_of_lt h, Nat.mod_eq_of_lt h, List.getD_cons_zero]
    · obtain ⟨k, rfl⟩ : ∃ n, k = n + 5 := ⟨k - 5, by omega⟩
      rw [List.getD_append_right _ _ _ _ (by rw [unpackFive_length]; omega), unpackFive_length, Nat.add_sub_cancel, ih,
        Nat.add_div_right k (by decide), Nat.add_mod_right, List.getD_cons_succ]

theorem unpackFive_lt (b r : Nat) (h : r < 5) : (unpackFive b).getD r 0 < 256 := by
  rw [unpackFive_getD b h]; split_ifs <;> omega

/-- The 80 elements of 16 packed bytes, and the zeros after them. -/
theorem byteOf_unpackFives {bs : List Nat} (h : bs.length = 16) (k : Nat) :
    byteOf (BitVec.ofNat 1024 (packElems 8 (bs.flatMap unpackFive))) k =
      if 80 ≤ k ∨ 243 ≤ bs.getD (k / 5) 0 then 0 else (trit (bs.getD (k / 5) 0) (k % 5) % 256).toNat := by
  have element : k % 5 < 5 := Nat.mod_lt k (by decide)
  rw [byteOf_packElems (by simp [unpackFive_length, h]), flatMap_unpackFive_getD,
    Nat.mod_eq_of_lt (unpackFive_lt _ _ element), unpackFive_getD _ element]
  by_cases past : 80 ≤ k
  · rw [List.getD_eq_default _ _ (by omega : bs.length ≤ k / 5)]
    simp [past, trit]
  · simp [past]

/-! ### Illegal bytes (R78, R222) -/

/-- The bytes of a vector that pack no five elements, lowest first: what TCHK reports. -/
def illegalBytes (x : BitVec 1024) : List Nat := (List.range 128).filter fun i => decide (243 ≤ byteOf x i)

theorem mem_illegalBytes {x : BitVec 1024} {k : Nat} : k ∈ illegalBytes x ↔ k < 128 ∧ 243 ≤ byteOf x k := by
  simp [illegalBytes]

theorem illegalBytes_eq_nil {x : BitVec 1024} (h : ∀ k, k < 128 → byteOf x k < 243) : illegalBytes x = [] := by
  rw [List.eq_nil_iff_forall_not_mem]
  intro k hk
  obtain ⟨lt, illegal⟩ := mem_illegalBytes.1 hk
  exact absurd (h k lt) (by omega)

/-- The lowest illegal byte. -/
theorem illegalBytes_head {x : BitVec 1024} {k : Nat} (lt : k < 128) (illegal : 243 ≤ byteOf x k)
    (below : ∀ i, i < k → byteOf x i < 243) : (illegalBytes x).headD 255 = k := by
  have first : (List.range 128).find? (fun i => decide (243 ≤ byteOf x i)) = some k := by
    simpa [List.find?_range_eq_some, lt, illegal] using below
  rw [illegalBytes, List.headD_eq_head?_getD, List.head?_filter, first, Option.getD_some]

/-- The bit of each 16 bytes: whether one of them is illegal. -/
def illegalBlocks (x : BitVec 1024) : List Bool := (List.range 8).map fun j => (illegalBytes x).any fun i => i / 16 == j

theorem illegalBlocks_length (x : BitVec 1024) : (illegalBlocks x).length = 8 := by simp [illegalBlocks]
theorem illegalBlocks_getD {x : BitVec 1024} {j : Nat} (h : j < 8) :
    (illegalBlocks x).getD j false = true ↔ ∃ k, k < 128 ∧ k / 16 = j ∧ 243 ≤ byteOf x k := by
  simp only [illegalBlocks, getD_map_range _ h, List.any_eq_true, mem_illegalBytes, beq_iff_eq]
  exact exists_congr fun k => ⟨fun ⟨⟨lt, illegal⟩, block⟩ => ⟨lt, block, illegal⟩,
    fun ⟨lt, block, illegal⟩ => ⟨⟨lt, illegal⟩, block⟩⟩

theorem chkWord_eq (x : BitVec 1024) : chkWord x = 2 ^ 8 * (illegalBytes x).headD 255 + ofBits (illegalBlocks x) :=
  Nat.add_comm ..

theorem illegalBlocks_lt (x : BitVec 1024) : ofBits (illegalBlocks x) < 2 ^ 8 :=
  illegalBlocks_length x ▸ ofBits_lt (illegalBlocks x)

/-- Bit `j` of what TCHK reports stands for bytes `16 * j` to `16 * j + 15`. -/
theorem chkWord_testBit (x : BitVec 1024) {j : Nat} (h : j < 8) :
    (chkWord x).testBit j = true ↔ ∃ k, k < 128 ∧ k / 16 = j ∧ 243 ≤ byteOf x k := by
  rw [chkWord_eq, Nat.testBit_two_pow_mul_add _ (illegalBlocks_lt x), if_pos h, testBit_ofBits, illegalBlocks_getD h]

theorem chkWord_div (x : BitVec 1024) : chkWord x / 256 = (illegalBytes x).headD 255 := by
  have low := illegalBlocks_lt x
  rw [chkWord_eq]
  omega

theorem chkWord_legal {x : BitVec 1024} (h : ∀ k, k < 128 → byteOf x k < 243) : chkWord x = 255 * 256 := by
  rw [chkWord_eq, illegalBlocks, illegalBytes_eq_nil h]
  rfl

/-! ### Completion of an instruction of the vector pages -/

section Effects
variable {p : Pfx} {s : State}

theorem State.me_flag (s : State) (f : AFlags × Nat) : (s.flag f).me = { s.me with vsw := vswAdd s.me.vsw f.1 f.2 } :=
  State.me_modMe ..

/-- An effect that completes with a change of its slot retires its instruction. -/
theorem runEff_done {forbidden : Bool} {eff : State → Eff} {u : State} {f : Slot → Slot} (h : Plain s p)
    (hr : forbidden = true → s.me.region = none) (hs : s.seqRuns = false) (he : eff (onUnit s) = .done (u.modMe f))
    (hf : (f u.me).sstep = false ∧ (f u.me).pc = u.me.pc) : runEff p forbidden eff s = .next (retired u (nwX p) f) := by
  rw [runEff_spec h.1 hr hs, he]
  exact congrArg _ (State.finishMe_plain u (nwX p) f hf.1 hf.2)

/-- A conversion raises its flag and writes its vector. -/
theorem runEff_flag_wrV {eff : State → Eff} {f : AFlags} {d : Fin 16} {v : BitVec 1024} (h : Outside s p)
    (hs : s.seqRuns = false) (he : eff (onUnit s) = .done (((onUnit s).flag (f, 0)).modMe fun t => t.wrV d v)) :
    runEff p true eff s = .next (retired ((onUnit s).flag (f, 0)) (nwX p) fun u => u.wrV d v) :=
  runEff_done h.1 (fun _ => h.2) hs he ⟨by rw [Slot.wrV_sstep, State.me_flag]; exact h.1.2, rfl⟩

/-- What TPACK writes over the register `d`. -/
def packedInto (t : Slot) (d a : Fin 16) (b : Fin 32) : BitVec 1024 :=
  putBytes (t.rdV d) (16 * ((t.rd b).toNat % 8)) ((List.range 16).map fun i => packFive (t.rdV a) (5 * i))

theorem effTpack_full {d a : Fin 16} {b : Fin 32} (hf : Full s [b]) :
    effTpack d a b (onUnit s) =
      .done (((onUnit s).flag (AFlags.sat.when ((List.range 80).any fun i => byteOf (s.me.rdV a) i != 0 &&
        byteOf (s.me.rdV a) i != 1 && byteOf (s.me.rdV a) i != 255), 0)).modMe fun t => t.wrV d (packedInto s.me d a b)) := by
  have full : Full (onUnit s) [b] := hf
  rw [effTpack, withVec_regs full]
  refine congrArg Eff.done (State.modMe_congr ?_)
  rw [State.me_flag]
  rfl

/-- The 16 bytes that TUNPK reads. -/
def packedBytes (t : Slot) (a : Fin 16) (b : Fin 32) : List Nat :=
  (List.range 16).map fun i => byteOf (t.rdV a) (16 * ((t.rd b).toNat % 8) + i)

theorem packedBytes_getD (t : Slot) (a : Fin 16) (b : Fin 32) {i : Nat} (h : i < 16) :
    (packedBytes t a b).getD i 0 = byteOf (t.rdV a) (16 * ((t.rd b).toNat % 8) + i) := by
  rw [packedBytes, getD_map_range _ h]

/-- What TUNPK writes. -/
def unpacked (t : Slot) (a : Fin 16) (b : Fin 32) : BitVec 1024 :=
  BitVec.ofNat 1024 (packElems 8 ((packedBytes t a b).flatMap unpackFive))

/-- Byte by byte: the digits 0, 1 and 2 are the elements 0, 1 and -1. -/
theorem byteOf_unpacked (t : Slot) (a : Fin 16) (b : Fin 32) (k : Nat) :
    byteOf (unpacked t a b) k =
      if 80 ≤ k ∨ 243 ≤ byteOf (t.rdV a) (16 * ((t.rd b).toNat % 8) + k / 5) then 0
      else (trit (byteOf (t.rdV a) (16 * ((t.rd b).toNat % 8) + k / 5)) (k % 5) % 256).toNat := by
  rw [unpacked, byteOf_unpackFives (by simp [packedBytes])]
  by_cases past : 80 ≤ k
  · simp [past]
  · rw [packedBytes_getD t a b (by omega)]

theorem effTunpk_full {d a : Fin 16} {b : Fin 32} (hf : Full s [b]) :
    effTunpk d a b (onUnit s) =
      .done (((onUnit s).flag (AFlags.nv.when ((List.range 16).any fun k =>
        decide (243 ≤ byteOf (s.me.rdV a) (16 * ((s.me.rd b).toNat % 8) + k))), 0)).modMe fun t =>
        t.wrV d (unpacked s.me a b)) := by
  have full : Full (onUnit s) [b] := hf
  have illegal : (packedBytes s.me a b).any (fun b => decide (243 ≤ b)) =
      (List.range 16).any fun k => decide (243 ≤ byteOf (s.me.rdV a) (16 * ((s.me.rd b).toNat % 8) + k)) := List.any_map
  rw [effTunpk, withVec_regs full, ← illegal]
  rfl

theorem exec_tchk_plain {d : Fin 32} {a : Fin 16} (h : Plain s p) (hs : s.seqRuns = false) :
    exec (.tchk p d a) s =
      .next (retired (onUnit s) (nwX p) fun u => u.wr d (BitVec.ofNat 64 (chkWord (u.rdV a)))) := by
  rw [exec_tchk, execTchk]
  exact runEff_done h (by simp) hs rfl ⟨by simpa using h.2, by simp⟩

/-! ### The Accord (R223, R224) -/

/-- What the Accord asks of the cores that a mask names: the own one among them, one partition, and no arrival pending. -/
abbrev State.MayArrive (s : State) (cs : List Nat) : Prop :=
  s.myCore ∈ cs ∧ (∀ c ∈ cs, s.pidOf (clusterOfCore c) = s.myPid) ∧ (s.core s.myCore).accArr = none

/-- The checks of `effAccord` on the named cores and on the own one. -/
theorem State.mayArrive_iff {cs : List Nat} :
    s.MayArrive cs ↔ (!cs.contains s.myCore || cs.any fun c => s.pidOf (clusterOfCore c) != s.myPid) = false ∧
      ((onUnit s).core s.myCore).accArr.isSome = false := by
  simp [State.MayArrive, and_assoc, onUnit]

/-- The arrival of the running thread. -/
def accordArrival (scale : Bool) (d a b : Fin 32) (s : State) : AccArr :=
  { k := s.cur, mask := s.me.rd b, scale := scale, x := (s.me.rd a).setWidth 32, at_ := s.clock, d := d, release := none }

variable {scale : Bool} {d a b : Fin 32}

theorem effAccord_full (hf : Full s [a, b]) :
    effAccord scale d a b (onUnit s) =
      if s.MayArrive (sectorCores s.myCluster (s.me.rd b).toNat) then .rest 5 .accord (.finish [])
        (((onUnit s).modCore s.myCore fun x => { x with accArr := some (accordArrival scale d a b s) }).accordTry s.myCluster
          (s.me.rd b) scale)
      else .trap 0x0C 0 (onUnit s) := by
  have full : Full (onUnit s) [a, b] := hf
  rw [effAccord, withVec_regs full]
  by_cases arrives : s.MayArrive (sectorCores s.myCluster (s.me.rd b).toNat)
  · rw [if_pos arrives]
    obtain ⟨named, idle⟩ := State.mayArrive_iff.1 arrives
    exact (if_neg (ne_true_of_eq_false named)).trans (if_neg (ne_true_of_eq_false idle))
  · rw [if_neg arrives]
    rw [State.mayArrive_iff, not_and, Bool.not_eq_false] at arrives
    exact ite_eq_left_iff.2 fun named => if_pos (arrives (eq_false_of_ne_true named))

end Effects

end Sys2Proof.Machine

namespace Sys2Proof
open Machine Claims

/-- Settles O34: the conversions byte by byte, TCHK's report bit by bit, and the two ways of an Accord. -/
theorem weightsAndAccord : Obligations.WeightsAndAccord := by
  refine ⟨fun p d a b s ho hs hf => ?packs, fun p d a b s ho hs hf => ?unpacks, fun p d a s h hs => ?checks,
    fun p scale d a b s ho hs hf => ?accord⟩
  case packs =>
    rw [nwords_tpack, exec_tpack, execTpack]
    exact ⟨packedInto s.me d a b, runEff_flag_wrV ho hs (effTpack_full hf), fun k hk => byteOf_packed _ _ _ hk⟩
  case unpacks =>
    rw [nwords_tunpk, exec_tunpk, execTunpk]
    refine ⟨unpacked s.me a b, runEff_flag_wrV ho hs (effTunpk_full hf), fun k _ => ?_⟩
    rw [byteOf_unpacked]
    exact if_congr Iff.rfl rfl (trit_int8 ..)
  case checks =>
    rw [nwords_tchk]
    exact ⟨exec_tchk_plain h hs, fun j hj => chkWord_testBit _ hj, chkWord_legal,
      fun k hk illegal below => (chkWord_div _).trans (illegalBytes_head hk illegal below)⟩
  case accord =>
    have encoded : exec (if scale then .accScale p d a b else .accMax p d a b) s = runEff p true (effAccord scale d a b) s ∧
        (if scale then Instr.accScale p d a b else .accMax p d a b).nwords = nwX p := by
      cases scale <;> exact ⟨rfl, by simp⟩
    dsimp only
    rw [encoded.1, encoded.2, runEff_spec ho.1.1 (fun _ => ho.2) hs, effAccord_full hf]
    split
    · exact congrArg _ (State.parkAt_parked _ _ _ _ _ _ rfl)
    · rfl

end Sys2Proof
end

section
/-! PROOFS. Stores into a local word (R160, R161) that memory lists twice: a state that meets the premises of two statements
and not their conclusions. -/

namespace Sys2Proof
open Machine Claims

/-- The thread of slot 0 runs. Memory lists the first byte of its scratchpad twice with the value 1: no step makes such a memory
(`StepKeepsMemoryForm`), but neither statement asks anything of memory. -/
def scratchListedTwice : State := { State.reset with cur := 0, mem := [(2 ^ 42, 1), (2 ^ 42, 1)] }

/-- The byte that an outcome's state reads at the start of that scratchpad. -/
def scratchByte : Res → Option Byte
  | .next t => some (t.mem.read (2 ^ 42))
  | _ => none

theorem scratchListedTwice_outside : Outside scratchListedTwice Pfx.none := by decide

/-- Storing 0 erases one of the two entries: the byte still reads as 1, and the cells of the word are not stored. -/
theorem not_stored_of_scratchByte {o : Res} {t : State} (still1 : scratchByte o = some 1) (ht : o = .next t) :
    ¬ Stored scratchListedTwice t (cellsAt (2 ^ 42) (toBytes 8 0)) := by
  rintro ⟨written, -⟩
  have byte0 : t.mem.read (2 ^ 42) = 0 := written (2 ^ 42, 0) (by decide)
  rw [ht] at still1
  exact absurd (byte0.symm.trans (Option.some.inj still1)) (by decide)

theorem exec_stl_scratchByte : scratchByte (exec (.stl Pfx.none .own 0 0 0) scratchListedTwice) = some 1 := by decide +kernel
theorem exec_stff_scratchByte : scratchByte (exec (.stff Pfx.none .own 0 0 0) scratchListedTwice) = some 1 := by decide +kernel

/-- Refutes O19: STL stores the zero of g0 in the first word of the own scratchpad, where memory lists the first byte twice. -/
theorem not_localLoadsAndStores : ¬ Obligations.LocalLoadsAndStores := by
  rintro ⟨-, stores⟩
  obtain ⟨t, ht, -, stored, -⟩ := stores (.stl Pfx.none .own 0 0 0) Pfx.none .own 0 0 0 8 scratchListedTwice
    (.inl ⟨0, rfl, rfl, rfl⟩) scratchListedTwice_outside (by decide) (by decide)
  exact not_stored_of_scratchByte exec_stl_scratchByte ht stored

/-- Refutes O20: STFF stores the zero of g0 in that word, which is full. -/
theorem not_fullEmptyOperations : ¬ Obligations.FullEmptyOperations := by
  rintro ⟨acts, -⟩
  have own := acts .stff Pfx.none .own 0 0 0 scratchListedTwice scratchListedTwice_outside (by decide) (by decide) nofun
  rw [if_pos (by decide)] at own
  obtain ⟨t, ht, -, -, stored, -⟩ := own
  exact not_stored_of_scratchByte exec_stff_scratchByte ht stored

end Sys2Proof
end

section
/-! PROOFS. Grants (R107, R241, R243, R244): the writes of an entry, the walk of a range's pages, and the three instructions. -/

namespace Sys2Proof.Machine
open Claims

/-! ### Writing an entry -/

/-- A write under a key changes memory, the second L2 lines and the recorded serials alone. -/
theorem State.writeLine_rest (s : State) (key : Nat) (cells : List Host.Cell) (line : Nat) :
    s.writeLine key cells line = { s with mem := (s.writeLine key cells line).mem, l2 := (s.writeLine key cells line).l2,
                                          serials := (s.writeLine key cells line).serials } := by
  unfold State.writeLine
  dsimp only
  split
  · rfl
  · split <;> rfl
theorem State.writeUnder_rest (s : State) (key : Nat) (cells : List Host.Cell) :
    s.writeUnder key cells = { s with mem := (s.writeUnder key cells).mem, l2 := (s.writeUnder key cells).l2,
                                      serials := (s.writeUnder key cells).serials } := by
  unfold State.writeUnder
  generalize linesOf cells = ls
  induction ls generalizing s with
  | nil => rfl
  | cons l ls ih =>
    have rest := ih (s.writeLine key cells l)
    rw [s.writeLine_rest key cells l] at rest
    rw [List.foldl_cons, s.writeLine_rest key cells l]
    exact rest

/-- An entry written at its home, of which core `c` takes a copy. -/
def State.grantWritten (s : State) (c key pa : Nat) (g : Grant) : State := (s.putGrant key pa g).takeCopy c pa g.toRaw

section Written
variable (s : State) (c key pa : Nat) (g : Grant)

theorem State.grantWritten_rest :
    s.grantWritten c key pa g = { s with
      mem := (s.grantWritten c key pa g).mem, l2 := (s.grantWritten c key pa g).l2,
      serials := (s.grantWritten c key pa g).serials, cores := (s.grantWritten c key pa g).cores } := by
  unfold State.grantWritten State.putGrant
  rw [s.writeUnder_rest]
  rfl

theorem State.grantWritten_cur : (s.grantWritten c key pa g).cur = s.cur := by rw [State.grantWritten_rest]
theorem State.grantWritten_me : (s.grantWritten c key pa g).me = s.me := by rw [State.grantWritten_rest]; rfl
theorem State.grantWritten_cluster (ck : Nat) : (s.grantWritten c key pa g).cluster ck = s.cluster ck := by
  rw [State.grantWritten_rest]; rfl
theorem State.grantWritten_myCore : (s.grantWritten c key pa g).myCore = s.myCore := by
  rw [State.myCore, State.grantWritten_cur, State.myCore]
theorem State.grantWritten_myPid : (s.grantWritten c key pa g).myPid = s.myPid := by
  rw [State.grantWritten_rest]; rfl

end Written

/-! ### The pages of a range (R241) -/

/-- An effect that is done has passed its check. -/
theorem effTr_done {α : Type} {r : Tr α} {s t : State} {addr : Word} {f : α → Eff} (h : effTr r s addr f = .done t) :
    ∃ x, r = .ok x ∧ f x = .done t := by
  cases r with
  | ok x => exact ⟨x, rfl, h⟩
  | fault c => cases h
  | frozen => cases h

/-- Where the walk of a range reaches its end, what comes after the walk happens there. -/
theorem grantPages_goes {need stop fuel va : Nat} {s s1 : State} (f : State → Eff)
    (h : grantPages need stop .done fuel va s = .done s1) : s.Light s1 ∧ grantPages need stop f fuel va s = f s1 := by
  induction fuel generalizing va s with
  | zero => cases h; exact ⟨.refl _, rfl⟩
  | succ fuel ih =>
    rw [grantPages] at h ⊢
    by_cases done : stop ≤ va
    · rw [if_pos done] at h ⊢
      cases h
      exact ⟨.refl _, rfl⟩
    · rw [if_neg done] at h ⊢
      obtain ⟨⟨page, s2⟩, translated, h⟩ := effTr_done h
      obtain ⟨⟨row, s3⟩, rowed, h⟩ := effTr_done h
      have light : s.Light s3 := (State.translate_light translated).trans (State.rowOf_light rowed)
      dsimp only at h rowed
      simp only [translated, rowed, effTr]
      split at h
      case isTrue => cases h
      case isFalse permitted =>
        rw [if_neg permitted]
        split at h
        case h_3 e resolved =>
          split at h
          case isTrue => cases h
          case isFalse classed =>
            rw [if_neg classed]
            obtain ⟨rest, goes⟩ := ih h
            exact ⟨light.trans rest, goes⟩
        all_goals cases h

/-! ### MKGRANT (R241) -/

section Mkgrant
variable {p : Pfx} {rw_ : Bool} {d a b : Fin 32} {s s1 : State} {j pa key : Nat} {g : Grant}

/-- The entry that MKGRANT makes of a free one. -/
def Grant.made (g : Grant) (t : Slot) (rw_ : Bool) (a b : Fin 32) : Grant :=
  { g with base := (t.rd a).toNat, len := (t.rd b).toNat, rw := rw_, val := true, rvk := false, use := 0 }

/-- The range that the registers name meets the conditions of R241. -/
def Slot.NamesRange (t : Slot) (a b : Fin 32) : Prop :=
  0 < (t.rd b).toNat ∧ (t.rd b).toNat ≤ 2 ^ 40 ∧ canonical (t.rd a).toNat = true ∧
    canonical (((t.rd a).toNat + (t.rd b).toNat - 1) % 2 ^ 64) = true

/-- MKGRANT whose range is walked takes the free entry. -/
theorem effMkgrant_made (full : Full s [a, b]) (range : s.me.NamesRange a b)
    (walked : grantPages (if rw_ then 2 else 1) ((s.me.rd a).toNat + (s.me.rd b).toNat) .done ((s.me.rd b).toNat / 65536 + 2)
      (s.me.rd a).toNat s = .done s1)
    (free : s1.freeGrant 4096 0 = .ok (some (j, pa, key, g))) :
    effMkgrant rw_ d a b s = .done ((s1.grantWritten s.myCore key pa (g.made s.me rw_ a b)).modMe fun t =>
      t.wrTag d (s.me.rd a) (some (BitVec.ofNat 32 (j * 2 ^ 20 + g.gen)))) := by
  obtain ⟨pos, le, first, last⟩ := range
  obtain ⟨light, goes⟩ := grantPages_goes _ walked
  have size : ¬ ((s.me.rd b).toNat = 0 ∨ 2 ^ 40 < (s.me.rd b).toNat) := by omega
  rw [effMkgrant, withVec_regs full]
  dsimp only
  rw [if_neg size, first, last, Bool.not_true, if_neg Bool.false_ne_true, if_neg Bool.false_ne_true, goes, free]
  rw [← show s1.myCore = s.myCore by rw [State.myCore, light.cur, State.myCore]]
  rfl

/-- An instruction whose pages are all in the boundary TLB does not park for walks (R316). -/
theorem withWalks_done {f : State → Eff} {t : State} (h : f s = .done t) (walked : Walked s t) : withWalks s f = f s := by
  refine if_pos (walked.imp_right fun known => ?_)
  rw [h]
  exact List.all_eq_true.2 fun e he => List.contains_iff_mem.2 (known e he)

theorem exec_mkgrant_made (ho : Outside s p) (full : Full s [a, b]) (range : s.me.NamesRange a b)
    (pages : grantPages (if rw_ then 2 else 1) ((s.me.rd a).toNat + (s.me.rd b).toNat) .done ((s.me.rd b).toNat / 65536 + 2)
      (s.me.rd a).toNat s = .done s1)
    (free : s1.freeGrant 4096 0 = .ok (some (j, pa, key, g))) (walked : Walked s s1) :
    exec (.mkgrant p rw_ d a b) s =
      .next (retired (s1.grantWritten s.myCore key pa (g.made s.me rw_ a b)) (nwX p) fun t =>
        t.wrTag d (s.me.rd a) (some (BitVec.ofNat 32 (j * 2 ^ 20 + g.gen)))) := by
  have done := effMkgrant_made (d := d) full range pages free
  have light := (grantPages_goes .done pages).1
  have still : Walked s ((s1.grantWritten s.myCore key pa (g.made s.me rw_ a b)).modMe fun t =>
      t.wrTag d (s.me.rd a) (some (BitVec.ofNat 32 (j * 2 ^ 20 + g.gen)))) := by
    unfold Walked
    rw [State.cluster_modMe, State.grantWritten_cluster]
    exact walked
  rw [exec_mkgrant, execMkgrant, run_begins ho.1.1 fun _ => ho.2, withWalks_done done still, done]
  refine congrArg _ (State.finishMe_plain _ _ _ ?_ ?_)
  · rw [Slot.wrTag_sstep, State.grantWritten_me, light.me]
    exact ho.1.2
  · rw [Slot.wrTag_pc]

end Mkgrant

/-! ### GRANTQ (R243) -/

section Query
variable {p : Pfx} {d a : Fin 32} {s : State}

theorem exec_grantq_untagged (h : Plain s p) (full : Full s [a]) (untagged : s.me.tagOf a = none) :
    exec (.grantq p d a) s = .next (retired s (nwX p) fun t => t.wr d 0) := by
  rw [exec_grantq, execGrantq]
  dsimp only
  rw [run_begins h.1 (forbidden := false) (by simp), withFull_full _ _ full, untagged]
  exact congrArg _ (State.finishMe_plain s _ _ (by simp [h.2]) (by simp))

theorem exec_grantq_held {ref : BitVec 32} {pk : Nat × Nat} {g : Grant} (h : Plain s p) (full : Full s [a])
    (tagged : s.me.tagOf a = some ref) (entry : s.grantAddr s.myCore s.me.asid.toNat (refIndex ref) = .ok pk)
    (held : s.grantCopy s.myCore pk.1 = some g) :
    exec (.grantq p d a) s =
      .next (retired (s.takeCopy s.myCore pk.1 g.toRaw) (nwX p) fun t => t.wr d (grantReport ref g)) := by
  rw [exec_grantq, execGrantq]
  dsimp only
  rw [run_begins h.1 (forbidden := false) (by simp), withFull_full _ _ full, tagged]
  dsimp only
  rw [entry, withTr, held]
  exact congrArg _ (State.finishMe_plain _ _ _ (by rw [Slot.wr_sstep]; exact h.2) (by simp))

end Query

/-! ### REVOKE (R107, R244) -/

section Revoke
variable {p : Pfx} {d : Fin 32} {s : State} {ref : BitVec 32} {pk : Nat × Nat}

/-- A REVOKE of the reference has advanced the entry's generation before. -/
abbrev Grant.Resumed (g : Grant) (ref : BitVec 32) : Prop := g.rvk = true ∧ g.gen = refGen ref + 1

/-- The entry once its generation is advanced, and once it is free. -/
def Grant.advanced (g : Grant) : Grant := { g with gen := g.gen + 1, rvk := true }
def Grant.freed (g : Grant) : Grant := { g with rvk := false, val := false, ret := g.ret || g.gen == 0xFFFFF }

/-- A REVOKE advances the generation, and every other core of its partition has its copy to invalidate. -/
def State.revokeBegun (s : State) (pk : Nat × Nat) (g : Grant) : State :=
  let u := s.grantWritten s.myCore pk.2 pk.1 g.advanced
  { u with revokes := u.revokes ++ ((u.coresOf s.myPid).filter (· != s.myCore)).map fun c => (pk.1, c) }

theorem State.revokeBegun_eq (s : State) (pk : Nat × Nat) (g : Grant) :
    s.revokeBegun pk g =
      let u := s.grantWritten s.myCore pk.2 pk.1 g.advanced
      { u with revokes := u.revokes ++ ((u.coresOf u.myPid).filter (· != u.myCore)).map fun c => (pk.1, c) } := by
  dsimp only
  rw [State.grantWritten_myCore, State.grantWritten_myPid]
  rfl

/-- The wait of a REVOKE: it ends at once where it is over. -/
def State.revokeWait (s : State) (pk : Nat × Nat) (d : Fin 32) (nw : Nat) : State :=
  if s.revokeOver pk.1 pk.2 then s.revokeEnd pk.1 pk.2 d nw else s.parkRe 9 (.revoke pk.1) nw

/-- REVOKE of a tagged register, by its entry. -/
theorem exec_revoke_entry (ho : Outside s p) (full : Full s [d]) (tagged : s.me.tagOf d = some ref)
    (entry : s.grantAddr s.myCore s.me.asid.toNat (refIndex ref) = .ok pk) :
    let g := Grant.ofRaw (s.numAt pk.2 pk.1 32)
    exec (.revoke p d) s = .next (
      if g.Resumed ref then s.revokeWait pk d (nwX p)
      else if g.gen ≠ refGen ref ∨ g.val = false then s.trap 9 0 (nwX p)
      else (s.revokeBegun pk g).revokeWait pk d (nwX p)) := by
  intro g
  rw [exec_revoke, execRevoke]
  dsimp only
  rw [run_begins ho.1.1 fun _ => ho.2, withFull_full _ _ full, tagged]
  dsimp only
  rw [entry, withTr]
  refine congrArg _ (if_congr (by simp [g]) rfl (if_congr (by simp [g]) rfl ?_))
  rw [State.revokeBegun_eq]
  rfl

/-- What a REVOKE whose generation is advanced still needs, where a single step does not follow it. -/
theorem State.revokeWait_plain {nw : Nat} (plain : s.me.sstep = false) :
    s.revokeWait pk d nw =
      if s.revokeOver pk.1 pk.2 then
        retired (s.grantWritten s.myCore pk.2 pk.1 (Grant.ofRaw (s.numAt pk.2 pk.1 32)).freed) nw fun t =>
          t.setReg d { val := t.rd d, full := true, tag := none }
      else parked s 9 (.revoke pk.1) .reissue nw false := by
  refine if_congr Iff.rfl ?_ (State.parkAt_parked s 9 (.revoke pk.1) .reissue nw false rfl)
  refine State.finishMe_plain (s.grantWritten s.myCore pk.2 pk.1 _) nw _ ?_ (Slot.setReg_pc ..)
  rw [Slot.setReg_sstep, State.grantWritten_me]
  exact plain

theorem State.revokeBegun_me (s : State) (pk : Nat × Nat) (g : Grant) : (s.revokeBegun pk g).me = s.me :=
  s.grantWritten_me s.myCore pk.2 pk.1 g.advanced
theorem State.revokeBegun_myCore (s : State) (pk : Nat × Nat) (g : Grant) : (s.revokeBegun pk g).myCore = s.myCore :=
  s.grantWritten_myCore s.myCore pk.2 pk.1 g.advanced

end Revoke

end Sys2Proof.Machine

namespace Sys2Proof
open Machine Claims

/-- Settles O39: MKGRANT walks its range and takes the free entry, GRANTQ reports the tag, and REVOKE begins or resumes its wait. -/
theorem grants : Obligations.Grants := by
  refine ⟨fun p rw_ d a b s s1 j pa key g ho full => ?makes, fun p d a s h full => ⟨?untagged, ?held⟩,
    fun p d s ref pk ho full tagged entry => ?revokes⟩
  case makes =>
    intro i va n g' pos le first last pages free walked
    rw [nwords_mkgrant]
    exact exec_mkgrant_made ho full ⟨pos, le, first, last⟩ pages free walked
  case untagged =>
    rw [nwords_grantq]
    exact exec_grantq_untagged h full
  case held =>
    intro ref pk g tagged entry held
    rw [nwords_grantq]
    exact exec_grantq_held h full tagged entry held
  case revokes =>
    intro i g resumed g' s1 h h'
    have runs := exec_revoke_entry ho full tagged entry
    have words : i.nwords = nwX p := nwords_revoke p d
    rw [words]
    refine ⟨fun fresh stale => ?stale, fun taken => ?waits⟩
    case stale => exact runs.trans (congrArg _ ((if_neg fresh).trans (if_pos stale)))
    case waits =>
      have wait : exec i s = .next (s1.revokeWait pk d (nwX p)) := by
        refine runs.trans (congrArg _ ?_)
        by_cases again : resumed
        · have same : s1 = s := if_pos again
          rw [same]
          exact if_pos again
        · have begun : s1 = s.revokeBegun pk g := if_neg again
          have current : ¬ (g.gen ≠ refGen ref ∨ g.val = false) := by
            obtain ⟨gen, val⟩ := taken.resolve_left again
            simp [gen, val]
          rw [begun]
          exact (if_neg again).trans (if_neg current)
      have core : s1.myCore = s.myCore ∧ s1.me = s.me := by
        by_cases again : resumed
        · have same : s1 = s := if_pos again
          rw [same]
          exact ⟨rfl, rfl⟩
        · have begun : s1 = s.revokeBegun pk g := if_neg again
          rw [begun]
          exact ⟨s.revokeBegun_myCore pk g, s.revokeBegun_me pk g⟩
      obtain ⟨core, me⟩ := core
      rw [wait, State.revokeWait_plain (me ▸ ho.1.2), core]
      exact ⟨fun pending => congrArg _ (if_neg (ne_true_of_eq_false pending)), fun ended => congrArg _ (if_pos ended)⟩

end Sys2Proof
end

section

/-! PROOFS. Every step keeps the canonical form of memory (R87, O58): what the form asks of a state, the changes of a state's parts,
the write-backs of the L2, the verification of lines and the translation of addresses. A function of the model that can answer
several ways is said to leave the state that its answer holds (`Eff.state`, `Chk.state` and so on). -/

namespace Sys2Proof.Machine
open Claims
variable {s : State}

/-- Where an instruction or an event answers a next state, its memory is in its canonical form. -/
def Res.MemWf : Res → Prop
  | .next s => s.MemWf
  | _ => True

theorem State.Light.memWf {s t : State} (l : s.Light t) (h : s.MemWf) : t.MemWf := by
  rw [State.MemWf, l.mem]
  exact h

theorem State.MemWf.of_mem {s t : State} (h : s.MemWf) (e : t.mem = s.mem) : t.MemWf := by
  rw [State.MemWf, e]
  exact h

theorem Eff.memWf_done (h : s.MemWf) : (Eff.done s).state.MemWf := h

theorem Eff.memWf_rest {c w r} (h : s.MemWf) : (Eff.rest c w r s).state.MemWf := h

theorem Eff.memWf_trap {cause addr} (h : s.MemWf) : (Eff.trap cause addr s).state.MemWf := h

theorem State.MemWf.foldl {α : Type} {f : State → α → State} {l : List α} (hf : ∀ s x, s.MemWf → (f s x).MemWf) (h : s.MemWf) :
    (l.foldl f s).MemWf := by
  induction l generalizing s with
  | nil => exact h
  | cons x l ih => exact ih (hf s x h)

theorem snd_memWf {α : Type} {r : α × State} {x : α} {t : State} (e : r = (x, t)) (h : r.2.MemWf) : t.MemWf := by
  rw [e] at h
  exact h

/-- The state that a capture leaves. -/
def Cap.state : Cap → State
  | .ok _ s => s
  | .trap _ _ s => s
  | .park _ s => s

/-- The state that a job's search for its place leaves. -/
def JobAt.state : JobAt → State
  | .ok _ _ s => s
  | .ends _ s => s
  | .waits s => s

/-- The state that a step of a job leaves. -/
def JobStep.state : JobStep → State
  | .on _ s => s
  | .ends _ s => s
  | .waits s => s

/-- The state that a fetch leaves. -/
def FetchRes.state : FetchRes → State
  | .instr _ _ s => s
  | .park _ _ s => s
  | .event _ s => s
  | .again s => s

theorem FetchRes.instr_memWf {i nw t} {r : FetchRes} (e : r = .instr i nw t) (h : r.state.MemWf) : t.MemWf := by
  subst e
  exact h

theorem FetchRes.park_memWf {w nw t} {r : FetchRes} (e : r = .park w nw t) (h : r.state.MemWf) : t.MemWf := by
  subst e
  exact h

theorem FetchRes.event_memWf {ev t} {r : FetchRes} (e : r = .event ev t) (h : r.state.MemWf) : t.MemWf := by
  subst e
  exact h

theorem FetchRes.again_memWf {t} {r : FetchRes} (e : r = .again t) (h : r.state.MemWf) : t.MemWf := by
  subst e
  exact h

theorem Chk.ok_memWf {a} {c : Chk} (e : c = .ok a) (h : c.state.MemWf) : a.s.MemWf := by
  subst e
  exact h

theorem Chk.trap_memWf {cause t} {c : Chk} (e : c = .trap cause t) (h : c.state.MemWf) : t.MemWf := by
  subst e
  exact h

theorem Chk.park_memWf {w t} {c : Chk} (e : c = .park w t) (h : c.state.MemWf) : t.MemWf := by
  subst e
  exact h

theorem Cap.ok_memWf {cs t} {c : Cap} (e : c = .ok cs t) (h : c.state.MemWf) : t.MemWf := by
  subst e
  exact h

theorem Cap.trap_memWf {cause addr t} {c : Cap} (e : c = .trap cause addr t) (h : c.state.MemWf) : t.MemWf := by
  subst e
  exact h

theorem Cap.park_memWf {w t} {c : Cap} (e : c = .park w t) (h : c.state.MemWf) : t.MemWf := by
  subst e
  exact h

theorem JobAt.ok_memWf {a key t} {j : JobAt} (e : j = .ok a key t) (h : j.state.MemWf) : t.MemWf := by
  subst e
  exact h

theorem JobAt.ends_memWf {cause t} {j : JobAt} (e : j = .ends cause t) (h : j.state.MemWf) : t.MemWf := by
  subst e
  exact h

theorem JobAt.waits_memWf {t} {j : JobAt} (e : j = .waits t) (h : j.state.MemWf) : t.MemWf := by
  subst e
  exact h

theorem JobStep.on_memWf {n t} {j : JobStep} (e : j = .on n t) (h : j.state.MemWf) : t.MemWf := by
  subst e
  exact h

theorem JobStep.ends_memWf {cause t} {j : JobStep} (e : j = .ends cause t) (h : j.state.MemWf) : t.MemWf := by
  subst e
  exact h

theorem JobStep.waits_memWf {t} {j : JobStep} (e : j = .waits t) (h : j.state.MemWf) : t.MemWf := by
  subst e
  exact h

theorem Eff.done_memWf {t} {x : Eff} (e : x = .done t) (h : x.state.MemWf) : t.MemWf := by
  subst e
  exact h

theorem Eff.park_memWf {c w t} {x : Eff} (e : x = .park c w t) (h : x.state.MemWf) : t.MemWf := by
  subst e
  exact h

theorem Eff.rest_memWf {c w r t} {x : Eff} (e : x = .rest c w r t) (h : x.state.MemWf) : t.MemWf := by
  subst e
  exact h

theorem Eff.trap_memWf {cause addr t} {x : Eff} (e : x = .trap cause addr t) (h : x.state.MemWf) : t.MemWf := by
  subst e
  exact h

theorem State.MemWf.setSlot {k t} (h : s.MemWf) : (s.setSlot k t).MemWf := h

theorem State.MemWf.modSlot {k f} (h : s.MemWf) : (s.modSlot k f).MemWf := h

theorem State.MemWf.modCore {c f} (h : s.MemWf) : (s.modCore c f).MemWf := h

theorem State.MemWf.modCluster {ck f} (h : s.MemWf) : (s.modCluster ck f).MemWf := h

theorem State.MemWf.modDev {d f} (h : s.MemWf) : (s.modDev d f).MemWf := h

theorem State.MemWf.modPart {pid f} (h : s.MemWf) : (s.modPart pid f).MemWf := h

theorem State.MemWf.modMe {f} (h : s.MemWf) : (s.modMe f).MemWf := h

theorem State.MemWf.choose (h : s.MemWf) : s.choose.2.MemWf := by
  unfold State.choose
  split <;> exact h

theorem State.MemWf.writeBacks (h : s.MemWf) : s.writeBacks.MemWf := by
  refine .foldl (fun _ _ h' => ?_) h
  dsimp only
  split
  · exact Memory.writeCells_wf _ (State.MemWf.choose h')
  · split <;> exact .choose h'

theorem State.MemWf.setWord {a full} (h : s.MemWf) : (s.setWord a full).MemWf := by
  unfold State.setWord
  split
  · exact h
  · split <;> exact h

theorem State.MemWf.setFull {cs} (h : s.MemWf) : (s.setFull cs).MemWf := by
  rw [State.MemWf, State.setFull_mem]
  exact h

theorem State.MemWf.verify {key line} (h : s.MemWf) : (s.verify key line).MemWf := by
  unfold State.verify
  dsimp only
  split <;> exact h

theorem State.MemWf.verifyAll {key a n} (h : s.MemWf) : (s.verifyAll key a n).MemWf := .foldl (fun _ _ => .verify) h

theorem State.translate_memWf {c asid va e} {t : State} (ht : s.translate c asid va = .ok (e, t)) (h : s.MemWf) : t.MemWf :=
  (State.translate_light ht).memWf h

theorem State.dataPage_memWf {c asid va e} {t : State} (ht : s.dataPage c asid va = .ok (e, t)) (h : s.MemWf) : t.MemWf := by
  obtain ⟨⟨e', t'⟩, translated, ht⟩ := Tr.bind_ok ht
  obtain ⟨e, -, ht⟩ := Tr.bind_ok ht
  cases ht
  exact State.translate_memWf translated h

theorem State.rowOf_memWf {k r} {t : State} (ht : s.rowOf k = .ok (r, t)) (h : s.MemWf) : t.MemWf :=
  (State.rowOf_light ht).memWf h

theorem State.MemWf.takeCopy {c pa raw} (h : s.MemWf) : (s.takeCopy c pa raw).MemWf := h

theorem State.MemWf.putGrant {key pa g} (h : s.MemWf) : (s.putGrant key pa g).MemWf := State.writeUnder_memWf _ _ h

end Sys2Proof.Machine
end

section

/-! PROOFS. Canonical memory: parks, the writes of lines, the end of a thread, the delivery of exceptions, and `run`, in which every
instruction stands. -/

namespace Sys2Proof.Machine
open Claims
variable {s : State}

theorem State.MemWf.parkAt {k cause w rest nw exempt} (h : s.MemWf) : (s.parkAt k cause w rest nw exempt).MemWf := h

theorem withFull_memWf {rs nw} {f : State → State} (h : s.MemWf) (hf : (f s).MemWf) : (withFull s rs nw f).MemWf := by
  unfold withFull
  split
  · exact h
  · exact hf

theorem State.MemWf.rouse {c} (h : s.MemWf) : (s.rouse c).MemWf := by
  unfold State.rouse
  split <;> exact h

theorem State.MemWf.markResv {line} (h : s.MemWf) : (s.markResv line).MemWf := by
  refine .foldl (fun _ _ h' => ?_) h
  split
  · exact .rouse h'
  · exact h'

theorem State.MemWf.narrowTo {rid lo hi causer} (h : s.MemWf) : (s.narrowTo rid lo hi causer).MemWf := by
  unfold State.narrowTo
  split <;> exact h

theorem State.MemWf.hitReaders {line} (h : s.MemWf) : (s.hitReaders line).MemWf := by
  unfold State.hitReaders
  split
  · exact h
  · exact .foldl (fun _ _ => .narrowTo) h

theorem State.MemWf.lineWritten {cells writer tag line} (h : s.MemWf) : (s.lineWritten cells writer tag line).MemWf := by
  unfold State.lineWritten
  dsimp only
  split <;> exact .hitReaders (.markResv h)

theorem State.MemWf.leaveTurns {k} (h : s.MemWf) : (s.leaveTurns k).MemWf := h

theorem State.MemWf.enterPage {k dom cls cross} (h : s.MemWf) : (s.enterPage k dom cls cross).MemWf := by
  unfold State.enterPage
  split <;> exact h

theorem State.MemWf.abort {k code} (h : s.MemWf) : (s.abort k code).MemWf := by
  unfold State.abort
  dsimp only
  split
  · exact h
  · exact .enterPage h

theorem State.MemWf.endInst {pid inst node status} (h : s.MemWf) : (s.endInst pid inst node status).MemWf := by
  unfold State.endInst
  dsimp only
  split
  · split <;> exact h
  · exact h

theorem State.MemWf.modSlice {c f} (h : s.MemWf) : (s.modSlice c f).MemWf := h

theorem State.MemWf.breakGang {k} (h : s.MemWf) : (s.breakGang k).MemWf := by
  unfold State.breakGang
  dsimp only
  split
  · exact h
  · split
    · exact h
    · refine .foldl (fun _ _ h' => ?_) (.foldl (fun _ _ h' => h') h)
      split
      · split
        · exact .rouse h'
        · exact h'
      · exact h'

theorem State.MemWf.vacate {k} (h : s.MemWf) : (s.vacate k).MemWf := by
  refine .breakGang (.modCluster (.modCore (.modSlot (.leaveTurns ?_))))
  split <;> exact h

theorem State.MemWf.answerFill {sender status} (h : s.MemWf) : (s.answerFill sender status).MemWf := by
  unfold State.answerFill
  dsimp only
  split <;> exact h

theorem State.MemWf.kill {k} (h : s.MemWf) : (s.kill k).MemWf := by
  unfold State.kill
  dsimp only
  split
  · exact .endInst (.modDev (.vacate (.foldl (fun _ _ => .answerFill) h)))
  · exact .modDev (.vacate (.foldl (fun _ _ => .answerFill) h))

theorem State.fetchPage_memWf {c asid va cls e} {t : State} (ht : s.fetchPage c asid va cls = .ok (e, t)) (h : s.MemWf) :
    t.MemWf :=
  (State.fetchPage_light ht).memWf h

theorem State.savePage_memWf {k e} {t : State} (ht : s.savePage k = .ok (e, t)) (h : s.MemWf) : t.MemWf := by
  obtain ⟨e', rfl⟩ := savePage_tlbAdd ht
  exact h

theorem State.MemWf.devWrite {c key a bs} (h : s.MemWf) : (s.devWrite c key a bs).MemWf := State.homeWrite_memWf _ _ _ _ _ h

theorem State.vectorOk_memWf {k grp e} {t : State} (ht : s.vectorOk k grp = .ok (e, t)) (h : s.MemWf) : t.MemWf := by
  unfold State.vectorOk at ht
  dsimp only at ht
  split at ht
  · cases ht
  · obtain ⟨⟨e', t'⟩, fetched, ht⟩ := Tr.bind_ok ht
    split at ht
    · cases ht
      exact State.fetchPage_memWf fetched h
    · cases ht

theorem State.MemWf.deliver {k i} (h : s.MemWf) : (s.deliver k i).MemWf := by
  unfold State.deliver
  split
  · exact .kill h
  · split
    · exact .kill h
    · exact h
    · next ve e t pages =>
      obtain ⟨⟨ve', t'⟩, vector, pages⟩ := Tr.bind_ok pages
      obtain ⟨⟨e', t''⟩, saved, pages⟩ := Tr.bind_ok pages
      cases pages
      exact .enterPage (.devWrite (State.savePage_memWf saved (State.vectorOk_memWf vector h)))

theorem State.MemWf.trapAt {k cause addr nw rec_} (h : s.MemWf) : (s.trapAt k cause addr nw rec_).MemWf := .deliver (.abort h)

theorem State.MemWf.trap {cause addr nw} (h : s.MemWf) : (s.trap cause addr nw).MemWf := .trapAt h

theorem State.MemWf.doneAt {nw pc} (h : s.MemWf) : (s.doneAt nw pc).MemWf := by
  unfold State.doneAt
  dsimp only
  split
  · exact .deliver h
  · exact h

theorem State.MemWf.finish {nw} (h : s.MemWf) : (s.finish nw).MemWf := .doneAt h

theorem State.MemWf.finishMe {nw f} (h : s.MemWf) : (s.finishMe nw f).MemWf := .finish h

theorem State.MemWf.applyWr {k a} (h : s.MemWf) : (s.applyWr k a).MemWf := by
  cases a with
  | lmPut => exact State.homeWrite_memWf _ _ _ _ _ h
  | lmSet => exact .setWord h
  | _ => exact h

theorem State.MemWf.finishWith {ws nw} (h : s.MemWf) : (s.finishWith ws nw).MemWf := by
  unfold State.finishWith
  split
  · exact .trap (.verifyAll h)
  · exact .finish (.foldl (fun _ _ => .applyWr) h)

theorem State.MemWf.resume (h : s.MemWf) : s.resume.MemWf := by
  unfold State.resume
  split
  · exact h
  · split
    · exact h
    · exact h
    · exact .trap h
    · exact .deliver h
    · exact .finishWith h

theorem State.MemWf.abortAt {k code nw} (h : s.MemWf) : (s.abortAt k code nw).MemWf := by
  unfold State.abortAt
  dsimp only
  split
  · exact .deliver (.abort h)
  · exact .abort h

theorem State.MemWf.abortMe {code nw} (h : s.MemWf) : (s.abortMe code nw).MemWf := .abortAt h

theorem run_memWf {p nw forbidden} {body : State → State} (h : s.MemWf) (hb : (body s).MemWf) :
    Res.MemWf (run p nw forbidden s body) := by
  unfold run
  dsimp only [Res.MemWf]
  split
  · exact .resume h
  · split
    · exact .finish h
    · split
      · exact .abortMe h
      · exact hb

theorem State.MemWf.eretAt {k inh step e} (h : s.MemWf) : (s.eretAt k inh step e).MemWf := by
  refine .devWrite ?_
  split
  · exact .foldl (fun _ _ h' => .answerFill h') h
  · exact h

theorem State.MemWf.eret {step nw} (h : s.MemWf) : (s.eret step nw).MemWf := by
  unfold State.eret
  split
  · exact .trap h
  · exact h
  · split
    · exact .trap (State.dataPage_memWf ‹_› h)
    · exact .eretAt (State.dataPage_memWf ‹_› h)

theorem State.MemWf.popOpds {os} (h : s.MemWf) : (s.popOpds os).2.MemWf := by
  induction os generalizing s with
  | nil => exact h
  | cons o os ih =>
    cases o with
    | v r => exact ih h
    | q r => exact ih h

end Sys2Proof.Machine
end

section

/-! PROOFS. Canonical memory: checked accesses, posted operations, footprints, and the regions of elastic execution (R180 to R186).
-/

namespace Sys2Proof.Machine
open Claims
variable {s : State}

theorem State.step5_memWf {dom need tagged} {t : State} (ht : s.step5 dom need tagged = .ok t) (h : s.MemWf) : t.MemWf :=
  (State.step5_light ht).memWf h

theorem State.MemWf.check {tag va n need posted} (h : s.MemWf) : (s.check tag va n need posted).state.MemWf :=
  (s.check_light tag va n need posted).memWf h

theorem withAcc_memWf {tag va n need posted nw} {f : Acc → State} (h : s.MemWf)
    (hf : ∀ acc : Acc, acc.s.MemWf → (f acc).MemWf) : (withAcc s tag va n need posted nw f).MemWf := by
  unfold withAcc
  split
  · exact .trap h
  · split
    · exact .trap (Chk.trap_memWf ‹_› (.check h))
    · have kept := Chk.park_memWf ‹_› (.check h)
      exact kept
    · exact hf _ (Chk.ok_memWf ‹_› (.check h))

theorem State.MemWf.fillLine {k nt va dom cls} {acc : Acc} (h : s.MemWf) : (s.fillLine k nt va dom cls acc).MemWf := by
  unfold State.fillLine
  dsimp only
  split
  · exact h
  · split <;> exact h

theorem State.MemWf.fillOne {nt va} {acc : Acc} (h : s.MemWf) : (s.fillOne nt va acc).MemWf := by
  unfold State.fillOne
  split
  · exact h
  · exact .fillLine h

theorem State.MemWf.fillNext {hints va n} {acc : Acc} (h : s.MemWf) : (s.fillNext hints va acc n).MemWf := by
  unfold State.fillNext
  dsimp only
  split
  · exact .fillOne h
  · exact h

theorem State.MemWf.fillFor {hints va n} {acc : Acc} (h : s.MemWf) : (s.fillFor hints va acc n).MemWf :=
  .fillNext (.foldl (fun _ _ => .fillOne) h)

theorem withLoad_memWf {va n nw} {acc : Acc} {f : State → State} (h : acc.s.MemWf) (hf : (f acc.s).MemWf) :
    (withLoad va acc n nw f).MemWf := by
  unfold withLoad
  split
  · exact h
  · split
    · exact h
    · split
      · exact .verifyAll h
      · exact hf

theorem State.MemWf.onPath {va} {acc : Acc} (h : s.MemWf) : (s.onPath acc va).MemWf := by
  unfold State.onPath
  split <;> exact h

theorem State.MemWf.loadNow {hints va n nw ws} {acc : Acc} (h : s.MemWf) : (s.loadNow hints va acc n nw ws).MemWf :=
  .onPath (.fillFor h)

theorem doLoad_memWf {hints va n nw ws} {acc : Acc} (h : acc.s.MemWf) : (doLoad hints va acc n nw ws).MemWf :=
  withLoad_memWf h (.loadNow h)

theorem State.MemWf.enqueue {va op tag} {acc : Acc} (h : s.MemWf) : (s.enqueue va acc op tag).MemWf := by
  unfold State.enqueue
  dsimp only
  split <;> exact h

theorem State.MemWf.post {va op tag nw} {acc : Acc} (h : acc.s.MemWf) : (s.post va acc op tag nw).MemWf := by
  unfold State.post
  split
  · exact h
  · split
    · split
      · unfold windowStore
        dsimp only
        split
        · exact .trap h
        · split <;> exact h
      · exact .finish (.enqueue h)
    · split
      · exact .enqueue h
      · exact .finish (.enqueue h)

theorem State.MemWf.putChunks {writer tag cs bs} (h : s.MemWf) : (s.putChunks writer tag cs bs).MemWf := by
  induction cs generalizing s bs with
  | nil => exact h
  | cons c cs ih => exact ih (State.homeWrite_memWf _ _ _ _ _ h)

theorem State.MemWf.verifyChunks {cs} (h : s.MemWf) : (s.verifyChunks cs).MemWf := .foldl (fun _ _ => .verifyAll) h

theorem State.regionRights_memWf {tagged need va b} {t : State} (ht : s.regionRights tagged need va = .ok (b, t))
    (h : s.MemWf) : t.MemWf := by
  obtain ⟨⟨e, u⟩, translated, ht⟩ := Tr.bind_ok ht
  have hu := State.translate_memWf translated h
  split at ht
  · split at ht
    · cases ht
      exact hu
    · cases ht
  · cases ht
  · cases ht
    exact State.step5_memWf ‹_› hu

theorem State.MemWf.useCounts {up refs} (h : s.MemWf) : (s.useCounts up refs).MemWf :=
  .foldl (fun _ _ h' => Memory.writeCells_wf _ h') h

theorem State.rehome_memWf {k r} {t : State} (ht : s.rehome k r = .ok t) (h : s.MemWf) : t.MemWf := by
  obtain ⟨⟨r1, u⟩, moved, ht⟩ := Tr.bind_ok ht
  cases ht
  refine List.foldlRecOn (motive := fun acc : Tr (Region × State) => ∀ x, acc = .ok x → x.2.MemWf) r.wvas _ ?_ ?_ (r1, u) moved
  · rintro x ⟨⟩
    exact h
  · intro acc hacc e _ x hx
    obtain ⟨rs, done, hx⟩ := Tr.bind_ok hx
    have hrs := hacc rs done
    split at hx
    · cases hx
      exact hrs
    · obtain ⟨p, paged, hx⟩ := Tr.bind_ok hx
      cases hx
      exact State.dataPage_memWf paged hrs

theorem State.MemWf.regionLoad {r va n signed d nw} {acc : Acc} (h : s.MemWf) :
    (s.regionLoad r va acc n signed d nw).MemWf := by
  unfold State.regionLoad
  dsimp only
  split
  · exact .abortMe h
  · split
    · exact .abortMe h
    · exact h

theorem State.MemWf.regionStore {r va cells nw} {acc : Acc} (h : s.MemWf) : (s.regionStore r va acc cells nw).MemWf := by
  unfold State.regionStore
  dsimp only
  split
  · exact .trap h
  · split
    · exact .abortMe h
    · split
      · exact .abortMe h
      · exact .finish (.foldl (fun _ _ h' => h') h)

theorem State.MemWf.dropRecs {die} (h : s.MemWf) : (s.dropRecs die).MemWf := by
  refine .foldl (fun _ _ h' => ?_) h
  split <;> exact .choose h'

theorem State.MemWf.edge {die slice causer x y bx bY} (h : s.MemWf) : (s.edge die slice causer x y bx bY).MemWf := by
  unfold State.edge
  dsimp only
  split
  · split
    · exact .narrowTo h
    · exact .narrowTo (.narrowTo h)
  · split
    · exact .narrowTo h
    · exact .narrowTo (.narrowTo h)

theorem State.MemWf.atSlice {rid line lo hi write} (h : s.MemWf) : (s.atSlice rid line lo hi write).MemWf := by
  refine .foldl (fun _ _ h' => ?_) (.narrowTo h)
  split <;> exact .edge h'

theorem State.MemWf.abortEmpty {k} (h : s.MemWf) : (s.abortEmpty k).MemWf := by
  unfold State.abortEmpty
  split
  · split
    · exact .abortAt h
    · exact .abort h
  · exact .abort h

theorem State.MemWf.testEmpty {k} (h : s.MemWf) : (s.testEmpty k).MemWf := by
  unfold State.testEmpty
  dsimp only
  split
  · exact h
  · split
    · exact .abortEmpty h
    · exact h

theorem State.MemWf.applyNarrows {k rid} (h : s.MemWf) : (s.applyNarrows k rid).MemWf := .foldl (fun _ _ h' => h') h

theorem State.MemWf.commitNow {k} (h : s.MemWf) : (s.commitNow k).MemWf := by
  unfold State.commitNow
  dsimp only
  split
  · exact h
  · split
    · exact .abortEmpty (.applyNarrows h)
    · exact .applyNarrows h

theorem withPage_memWf {va nw} {f : TlbEnt → State → State} (h : s.MemWf) (hf : ∀ e t, t.MemWf → (f e t).MemWf) :
    (withPage s va nw f).MemWf := by
  unfold withPage
  split
  · exact .trap h
  · exact h
  · exact hf _ _ (State.fetchPage_memWf ‹_› h)

theorem execEbegin_memWf {p d imm} (h : s.MemWf) : Res.MemWf (execEbegin p d imm s) := by
  unfold execEbegin
  refine run_memWf h (withPage_memWf h (fun _ _ h' => ?_))
  split
  · exact .trap h'
  · dsimp only
    split
    · exact h'
    · exact .finishMe h'

theorem execEcommit_memWf {p} (h : s.MemWf) : Res.MemWf (execEcommit p s) := by
  unfold execEcommit
  refine run_memWf h ?_
  split
  · exact .trap h
  · exact h

theorem execEabort_memWf {p} (h : s.MemWf) : Res.MemWf (execEabort p s) := by
  unfold execEabort
  refine run_memWf h ?_
  split
  · exact .trap h
  · exact .abortMe h

end Sys2Proof.Machine
end

section

/-! PROOFS. Canonical memory: the vector and array instructions, in the form of their effects (`runEff`). -/

namespace Sys2Proof.Machine
open Claims
variable {s : State}

theorem State.MemWf.onLink {w} (h : s.MemWf) : (s.onLink w).MemWf := by
  unfold State.onLink
  split
  · split <;> exact h
  · exact h

theorem Eff.toState_memWf {nw} {e : Eff} (h : e.state.MemWf) : (e.toState nw).MemWf := by
  cases e with
  | done s => exact .finish h
  | park c w s => exact h
  | rest c w r s => exact .onLink h
  | trap c a s => exact .trap h

theorem withWalks_memWf {f : State → Eff} (h : s.MemWf) (hf : (f s).state.MemWf) : (withWalks s f).state.MemWf := by
  unfold withWalks
  dsimp only
  split
  · exact hf
  · exact h

theorem runEff_memWf {p forbidden} {eff : State → Eff} (h : s.MemWf) (he : ∀ t, t.MemWf → (eff t).state.MemWf) :
    Res.MemWf (runEff p forbidden eff s) := by
  refine run_memWf h ?_
  split
  · exact h
  · exact Eff.toState_memWf (he _ h)

theorem withVec_memWf {srcs gs dst} {f : List (BitVec 1024) → State → Eff} (h : s.MemWf)
    (hf : ∀ xs t, t.MemWf → (f xs t).state.MemWf) : (withVec srcs gs dst s f).state.MemWf := by
  unfold withVec
  dsimp only
  split
  · exact h
  · split
    · exact h
    · split
      · exact h
      · split
        · exact h
        · exact hf _ _ (.popOpds h)

theorem State.MemWf.putVec {d x} (h : s.MemWf) : (s.putVec d x).MemWf := by
  unfold State.putVec
  split <;> exact h

theorem vop_memWf {srcs gs d mask f} (h : s.MemWf) : (vop srcs gs d mask f s).state.MemWf :=
  withVec_memWf h fun _ _ h' => Eff.memWf_done (.putVec h')

theorem vbin_memWf {t d a b m f} (h : s.MemWf) : (vbin t d a b m f s).state.MemWf := vop_memWf h

theorem effVadd_memWf {t r d a b m} (h : s.MemWf) : (effVadd t r d a b m s).state.MemWf := vbin_memWf h

theorem effVsub_memWf {t r d a b m} (h : s.MemWf) : (effVsub t r d a b m s).state.MemWf := vbin_memWf h

theorem effVmul_memWf {t r d a b m} (h : s.MemWf) : (effVmul t r d a b m s).state.MemWf := vbin_memWf h

theorem effFused_memWf {o t r d a b m} (h : s.MemWf) : (effFused o t r d a b m s).state.MemWf := vop_memWf h

theorem effExtreme_memWf {larger mag t d a b m} (h : s.MemWf) : (effExtreme larger mag t d a b m s).state.MemWf := vbin_memWf h

theorem effSign_memWf {neg t d a m} (h : s.MemWf) : (effSign neg t d a m s).state.MemWf := vop_memWf h

theorem effBits_memWf {f d a b m} (h : s.MemWf) : (effBits f d a b m s).state.MemWf := vop_memWf h

theorem effShift_memWf {f t d a imm m} (h : s.MemWf) : (effShift f t d a imm m s).state.MemWf := vop_memWf h

theorem effVcmp_memWf {cc neg t d a b m} (h : s.MemWf) : (effVcmp cc neg t d a b m s).state.MemWf :=
  withVec_memWf h fun _ _ h' => h'

theorem effVsel_memWf {d a b m} (h : s.MemWf) : (effVsel d a b m s).state.MemWf := by
  unfold effVsel
  exact vop_memWf h

theorem effVred_memWf {t f d a m} (h : s.MemWf) : (effVred t f d a m s).state.MemWf := withVec_memWf h fun _ _ h' => h'

theorem effVquant_memWf {d a b m} (h : s.MemWf) : (effVquant d a b m s).state.MemWf := by
  unfold effVquant
  exact vop_memWf h

theorem effVdeq_memWf {d a b m} (h : s.MemWf) : (effVdeq d a b m s).state.MemWf := by
  unfold effVdeq
  exact vop_memWf h

theorem effUnary_memWf {f d a m} (h : s.MemWf) : (effUnary f d a m s).state.MemWf := vop_memWf h

theorem effVmov_memWf {d a m} (h : s.MemWf) : (effVmov d a m s).state.MemWf := vop_memWf h

theorem effVbcast_memWf {d a m} (h : s.MemWf) : (effVbcast d a m s).state.MemWf := by
  unfold effVbcast
  exact vop_memWf h

theorem effVgetl_memWf {d a b} (h : s.MemWf) : (effVgetl d a b s).state.MemWf := withVec_memWf h fun _ _ h' => h'

theorem effVsetl_memWf {d a b} (h : s.MemWf) : (effVsetl d a b s).state.MemWf := withVec_memWf h fun _ _ h' => h'

theorem effAcc_memWf {tag va n al need posted} {f : Acc → Eff} (h : s.MemWf)
    (hf : ∀ acc : Acc, acc.s.MemWf → (f acc).state.MemWf) : (effAcc s tag va n al need posted f).state.MemWf := by
  unfold effAcc
  split
  · exact h
  · split
    · exact Chk.trap_memWf ‹_› (.check h)
    · exact Chk.park_memWf ‹_› (.check h)
    · exact hf _ (Chk.ok_memWf ‹_› (.check h))

theorem State.MemWf.startPieces {d ps} (h : s.MemWf) : (s.startPieces d ps).state.MemWf := by
  unfold State.startPieces
  dsimp only
  split
  · exact h
  · exact Eff.memWf_rest (.foldl (fun _ _ => .fillOne) h)

theorem State.MemWf.readPiece {k i} (h : s.MemWf) : (s.readPiece k i).MemWf := by
  unfold State.readPiece
  dsimp only
  split
  · exact h
  · split
    · split
      · exact h
      · split
        · exact h
        · exact h
        · split
          · exact .verify h
          · split
            · exact h
            · exact .fillOne h
    · exact h

theorem effVldVirt_memWf {hints m d a off} (h : s.MemWf) : (effVldVirt hints m d a off s).state.MemWf := by
  refine withVec_memWf h fun _ _ h' => ?_
  refine effAcc_memWf h' fun _ h'' => ?_
  dsimp only
  split
  · exact h''
  · exact .startPieces (.fillNext h'')

theorem localEff_memWf {mode la ws} (h : s.MemWf) : (localEff mode la ws s).state.MemWf := by
  unfold localEff
  split
  · split
    · exact Eff.memWf_trap (.verifyAll h)
    · exact Eff.memWf_done (.foldl (fun _ _ => .applyWr) h)
  · exact h

theorem State.MemWf.doWord {k i} (h : s.MemWf) : (s.doWord k i).MemWf := by
  unfold State.doWord
  dsimp only
  split
  · exact h
  · split
    · split
      · exact h
      · split
        · split
          · exact .verifyAll h
          · exact h
        · exact .applyWr h
    · exact h

theorem State.MemWf.runParts {k n} (h : s.MemWf) : (s.runParts k n).MemWf := by
  induction n generalizing s with
  | zero => exact h
  | succ n ih =>
    unfold State.runParts
    split
    · split
      · exact ih (.readPiece h)
      · exact ih (.doWord h)
      · exact h
    · exact h

theorem effVld_memWf {hints sp m d a off} (h : s.MemWf) : (effVld hints sp m d a off s).state.MemWf := by
  unfold effVld
  dsimp only
  split
  · exact effVldVirt_memWf h
  · refine withVec_memWf h fun _ _ h' => ?_
    split
    · exact h'
    · exact localEff_memWf h'

theorem effVst_memWf {sp m d a off} (h : s.MemWf) : (effVst sp m d a off s).state.MemWf := by
  refine withVec_memWf h fun _ _ h' => ?_
  dsimp only
  split
  · split
    · exact h'
    · exact localEff_memWf h'
  · refine effAcc_memWf h' fun _ h'' => ?_
    split
    · exact h''
    · split
      · unfold windowStore
        dsimp only
        split
        · exact h''
        · split <;> exact h''
      · exact Eff.memWf_done (.enqueue h'')

theorem vstRegion_memWf {nw m d a off} (h : s.MemWf) : (vstRegion nw m d a off s).MemWf := by
  refine withFull_memWf h ?_
  dsimp only
  split
  · exact .trap h
  · split
    · exact .trap (Chk.trap_memWf ‹_› (.check h))
    · have kept := Chk.park_memWf ‹_› (.check h)
      exact kept
    · split
      · split
        · exact .finish (Chk.ok_memWf ‹_› (.check h))
        · exact .regionStore (Chk.ok_memWf ‹_› (.check h))
      · exact .finish (Chk.ok_memWf ‹_› (.check h))

theorem gather_memWf {tag base idx nt l ps} (h : s.MemWf) :
    ((gather tag base idx nt l ps s).elim Eff.state Prod.snd).MemWf := by
  induction l generalizing ps s with
  | nil => exact h
  | cons i l ih =>
    unfold gather
    dsimp only
    split
    · exact h
    · split
      · exact Chk.trap_memWf ‹_› (.check h)
      · exact Chk.park_memWf ‹_› (.check h)
      · have checked := Chk.ok_memWf ‹_› (.check h)
        split
        · exact checked
        · exact ih checked

theorem gather_inl_memWf {tag base idx nt l ps x} (e : gather tag base idx nt l ps s = .inl x) (h : s.MemWf) :
    x.state.MemWf := by
  have := gather_memWf (tag := tag) (base := base) (idx := idx) (nt := nt) (l := l) (ps := ps) h
  rw [e] at this
  exact this

theorem gather_inr_memWf {tag base idx nt l ps ps' t} (e : gather tag base idx nt l ps s = .inr (ps', t)) (h : s.MemWf) :
    t.MemWf := by
  have := gather_memWf (tag := tag) (base := base) (idx := idx) (nt := nt) (l := l) (ps := ps) h
  rw [e] at this
  exact this

theorem effVgather_memWf {hints d a b m} (h : s.MemWf) : (effVgather hints d a b m s).state.MemWf := by
  refine withVec_memWf h fun _ _ h' => ?_
  split
  · exact gather_inl_memWf ‹_› h'
  · split
    · exact Eff.memWf_done (gather_inr_memWf ‹_› h')
    · exact .startPieces (gather_inr_memWf ‹_› h')

theorem execVst_memWf {p sp m d a off} (h : s.MemWf) : Res.MemWf (execVst p sp m d a off s) := by
  unfold execVst
  split
  · refine run_memWf h ?_
    split
    · exact h
    · exact vstRegion_memWf h
  · exact runEff_memWf h fun _ => effVst_memWf

theorem withMember_memWf {dif gs} {f : State → Eff} (h : s.MemWf) (hf : ∀ t, t.MemWf → (f t).state.MemWf) :
    (withMember dif gs s f).state.MemWf := by
  refine withVec_memWf h fun _ t ht => ?_
  split
  · exact ht
  · split
    · exact ht
    · exact hf t ht

theorem gangJoin_memWf {elastic stat} (h : s.MemWf) : (gangJoin elastic stat s).state.MemWf := by
  unfold gangJoin
  dsimp only
  split <;> exact h

theorem effTwld_memWf {buf a b} (h : s.MemWf) : (effTwld buf a b s).state.MemWf := by
  refine withMember_memWf h fun _ h' => ?_
  dsimp only
  split
  · exact h'
  · split <;> exact h'

theorem effTmm_memWf {dif acc buf src b} (h : s.MemWf) : (effTmm dif acc buf src b s).state.MemWf := by
  refine withMember_memWf h fun t ht => ?_
  extract_lets gb m row0 place
  have hplace : ∀ rows pop, (place t rows pop).state.MemWf := fun _ _ => ht
  split
  · exact ht
  · split
    · extract_lets la
      split
      · exact ht
      · split
        · exact ht
        · split
          · exact Eff.memWf_trap (.verifyAll ht)
          · exact hplace ..
    · split
      · exact ht
      · split
        · exact ht
        · split
          · exact ht
          · exact hplace ..

theorem effTzero_memWf {acc} (h : s.MemWf) : (effTzero acc s).state.MemWf := withMember_memWf h fun _ h' => h'

theorem withTile_memWf {a} {f : Nat → State → Eff} (h : s.MemWf) (hf : ∀ la, (f la s).state.MemWf) :
    (withTile a s f).state.MemWf := by
  unfold withTile
  dsimp only
  split
  · exact h
  · exact hf _

theorem State.MemWf.capture {tag need ps acc} (h : s.MemWf) : (s.capture tag need ps acc).state.MemWf := by
  induction ps generalizing s acc with
  | nil => exact h
  | cons p ps ih =>
    unfold State.capture
    have checked : ∀ steps : State → Bool → Chk, (∀ (t : State) b, t.Light (steps t b).state) →
        (s.checkBy tag p.1 p.2 need steps).state.MemWf :=
      fun steps hs => (s.checkBy_light tag p.1 p.2 need steps hs).memWf h
    have light : ∀ (t : State) (b : Bool), t.Light (Chk.state (match t.steps456 p.1 need b false with
        | .ok a => if t.mayReach t.myCluster a.pa then Chk.ok a else .trap 7 a.s
        | r => r)) := by
      intro t b
      have steps := t.steps456_light p.1 need b false
      generalize t.steps456 p.1 need b false = c at steps ⊢
      cases c with
      | ok a =>
        dsimp only
        split <;> exact steps
      | _ => exact steps
    split
    · have kept := Chk.trap_memWf ‹_› (checked _ light)
      exact kept
    · exact Chk.park_memWf ‹_› (checked _ light)
    · exact ih (Chk.ok_memWf ‹_› (checked _ light))

theorem captureAll_memWf {rs acc} {f : List (List Chunk) → State → Eff} (h : s.MemWf)
    (hf : ∀ cs t, t.MemWf → (f cs t).state.MemWf) : (captureAll s rs acc f).state.MemWf := by
  induction rs generalizing s acc with
  | nil => exact hf _ s h
  | cons r rs ih =>
    unfold captureAll
    split
    · exact Cap.trap_memWf ‹_› (.capture h)
    · exact Cap.park_memWf ‹_› (.capture h)
    · exact ih (Cap.ok_memWf ‹_› (.capture h))

theorem effTdrain_memWf {acc add d a b} (h : s.MemWf) : (effTdrain acc add d a b s).state.MemWf := by
  refine withMember_memWf h fun _ h' => ?_
  dsimp only
  split
  · exact h'
  · split
    · exact h'
    · split
      · exact h'
      · split
        · exact h'
        · exact captureAll_memWf h' fun _ _ h'' => Eff.memWf_done (.useCounts h'')

theorem effTpack_memWf {d a b} (h : s.MemWf) : (effTpack d a b s).state.MemWf := withVec_memWf h fun _ _ h' => h'

theorem effTunpk_memWf {d a b} (h : s.MemWf) : (effTunpk d a b s).state.MemWf := withVec_memWf h fun _ _ h' => h'

theorem State.MemWf.accordTry {ck mask scale} (h : s.MemWf) : (s.accordTry ck mask scale).MemWf := by
  unfold State.accordTry
  dsimp only
  split
  · exact .foldl (fun _ _ h' => h') h
  · exact h

theorem effAccord_memWf {scale d a b} (h : s.MemWf) : (effAccord scale d a b s).state.MemWf := by
  refine withVec_memWf h fun _ _ h' => ?_
  dsimp only
  split
  · exact h'
  · split
    · exact h'
    · exact Eff.memWf_rest (.accordTry h')

end Sys2Proof.Machine
end

section

/-! PROOFS. Canonical memory: the Diffuser, scopes, the local memories, firmware windows, atomics and barriers. -/

namespace Sys2Proof.Machine
open Claims
variable {s : State}

theorem readDif_memWf {va n ws} (h : s.MemWf) : ((readDif va n s ws).elim Eff.state Prod.snd).MemWf := by
  induction n generalizing s ws with
  | zero => exact h
  | succ n ih =>
    unfold readDif
    dsimp only
    split
    · exact h
    · exact h
    · have fetched := State.fetchPage_memWf ‹_› h
      split
      · exact fetched
      · split
        · split
          · exact fetched
          · split
            · exact .verifyAll fetched
            · exact fetched
        · exact ih fetched

theorem readDif_inl_memWf {va n ws x} (e : readDif va n s ws = .inl x) (h : s.MemWf) : x.state.MemWf := by
  have := readDif_memWf (va := va) (n := n) (ws := ws) h
  rw [e] at this
  exact this

theorem readDif_inr_memWf {va n ws ws' t} (e : readDif va n s ws = .inr (ws', t)) (h : s.MemWf) : t.MemWf := by
  have := readDif_memWf (va := va) (n := n) (ws := ws) h
  rw [e] at this
  exact this

theorem effDifs_memWf {a b} (h : s.MemWf) : (effDifs a b s).state.MemWf := by
  refine withVec_memWf h fun _ _ h' => ?_
  split
  · exact h'
  · dsimp only
    split
    · exact h'
    · split
      · exact h'
      · split
        · exact h'
        · split
          · exact readDif_inl_memWf ‹_› h'
          · split
            · exact Eff.memWf_trap (readDif_inr_memWf ‹_› h')
            · refine Eff.memWf_done ?_
              have kept := readDif_inr_memWf ‹_› h'
              exact kept

theorem effDifgo_memWf {a imm} (h : s.MemWf) : (effDifgo a imm s).state.MemWf := by
  refine withVec_memWf h fun _ _ h' => ?_
  split
  · exact h'
  · dsimp only
    split
    · exact h'
    · split
      · exact h'
      · split <;> exact h'

theorem execDifwait_memWf {p} (h : s.MemWf) : Res.MemWf (execDifwait p s) := by
  refine run_memWf h ?_
  split
  · exact h
  · exact .finish h

theorem recEff_memWf {base a} (h : s.MemWf) : (recEff base a s).state.MemWf := by
  unfold recEff
  split
  · exact effVadd_memWf h
  · exact effVsub_memWf h
  · exact effVmul_memWf h
  · exact effFused_memWf h
  · exact effFused_memWf h
  · exact effFused_memWf h
  · exact effFused_memWf h
  · exact effExtreme_memWf h
  · exact effExtreme_memWf h
  · exact effExtreme_memWf h
  · exact effExtreme_memWf h
  · exact effVcmp_memWf h
  · exact effVcmp_memWf h
  · exact effVcmp_memWf h
  · exact effVcmp_memWf h
  · exact effVsel_memWf h
  · exact effBits_memWf h
  · exact effBits_memWf h
  · exact effBits_memWf h
  · exact effBits_memWf h
  · exact effShift_memWf h
  · exact effShift_memWf h
  · exact effShift_memWf h
  · split <;> exact h
  · exact effUnary_memWf h
  · exact effUnary_memWf h
  · exact effUnary_memWf h
  · exact effVquant_memWf h
  · exact effVdeq_memWf h
  · exact effVmov_memWf h
  · exact effVld_memWf h
  · exact effVst_memWf h
  · exact h
  · exact h
  · exact h
  · exact h
  · exact effSign_memWf h
  · exact effSign_memWf h
  · exact effTmm_memWf h
  · exact effTmm_memWf h
  · exact effTzero_memWf h
  · exact h

theorem State.MemWf.difTry {c} (h : s.MemWf) : (s.difTry c).MemWf := by
  unfold State.difTry
  dsimp only
  split
  · split
    · exact h
    · split
      · exact h
      · have issued : ∀ base x t, t.mem = s.mem → (recEff base x t).state.MemWf := fun _ _ _ e => recEff_memWf (h.of_mem e)
        split
        · next e =>
          have kept := Eff.done_memWf e (issued _ _ _ rfl)
          exact kept
        · next e =>
          have kept := Eff.rest_memWf e (issued _ _ _ rfl)
          exact kept
        · next e =>
          have kept := Eff.rest_memWf e (issued _ _ _ rfl)
          have parts : ∀ k q, ((State.modSlot _ k q).runParts k 64).MemWf := fun k q =>
            .runParts (kept.of_mem (t := State.modSlot _ k q) rfl)
          split
          · exact kept
          · exact parts ..
          · have verified : ∀ k q key a n, ((State.runParts _ k 64).verifyAll key a n).MemWf := fun k q _ _ _ =>
              .verifyAll (parts k q)
            have written : ∀ k q ws, (List.foldl (fun s w => s.applyWr k w) (State.runParts _ k 64) ws).MemWf := fun k q _ =>
              .foldl (fun t w ht => .applyWr ht) (parts k q)
            split
            · exact verified ..
            · exact written ..
          · exact kept
        · next e =>
          have kept := Eff.park_memWf e (issued _ _ _ rfl)
          exact kept
        · next e =>
          have kept := Eff.trap_memWf e (issued _ _ _ rfl)
          exact kept
  · exact h

theorem State.MemWf.trapRemote {nw} (h : s.MemWf) : (s.trapRemote nw).MemWf := by
  unfold State.trapRemote
  dsimp only
  split
  · exact h
  · exact .trapAt h

theorem withLanes_memWf {nw} {f : State → State} (h : s.MemWf) (hf : (f s).MemWf) : (withLanes s nw f).MemWf := by
  unfold withLanes
  split
  · exact hf
  · split
    · exact .trapRemote h
    · exact h

theorem withScope_memWf {sc nw} {f : ScopeInst → State} (h : s.MemWf) (hf : ∀ i, (f i).MemWf) :
    (withScope s sc nw f).MemWf := by
  unfold withScope
  split
  · exact hf _
  · exact .trap h

theorem localAt_memWf {nw m la w} (h : s.MemWf) : (localAt nw m la w s).MemWf := by
  unfold localAt
  split
  · exact .finishWith h
  · exact h

theorem ldlAt_memWf {nw p m d a off n signed} (h : s.MemWf) : Res.MemWf (ldlAt nw p m d a off n signed s) := by
  refine run_memWf h (withFull_memWf h ?_)
  dsimp only
  split
  · exact .trap h
  · exact localAt_memWf h

theorem stlAt_memWf {nw p m d a off n} (h : s.MemWf) : Res.MemWf (stlAt nw p m d a off n s) := by
  refine run_memWf h (withFull_memWf h ?_)
  dsimp only
  split
  · exact .trap h
  · exact localAt_memWf h

theorem State.MemWf.feDo {k pa store tag leave} (h : s.MemWf) : (s.feDo k pa store tag leave).MemWf := by
  unfold State.feDo
  split
  · exact .setWord (State.homeWrite_memWf _ _ _ _ _ h)
  · exact .setWord h

theorem fe_memWf {p m d a off wantFull isStore leave} (h : s.MemWf) : Res.MemWf (fe p m d a off wantFull isStore leave s) := by
  unfold fe
  refine run_memWf h (withFull_memWf h ?_)
  dsimp only
  split
  · exact .trap h
  · split
    · split
      · exact .trap (.verifyAll h)
      · exact .finishMe (.feDo h)
    · exact h

theorem sete_memWf {p m a off full} (h : s.MemWf) : Res.MemWf (sete p m a off full s) := by
  unfold sete
  refine run_memWf h (withFull_memWf h ?_)
  dsimp only
  split
  · exact .trap h
  · exact localAt_memWf h

theorem State.MemWf.nextRole {dev role} (h : s.MemWf) : (s.nextRole dev role).2.MemWf := by
  unfold State.nextRole
  dsimp only
  split <;> exact h

theorem amo_memWf {op p w64 d a b} (h : s.MemWf) : Res.MemWf (amo op p w64 d a b s) := by
  unfold amo
  exact run_memWf h (withFull_memWf h (withAcc_memWf h (fun _ h' => .onPath h')))

theorem posted_memWf {p a b n op} (h : s.MemWf) : Res.MemWf (posted p a b n op s) := by
  unfold posted
  exact run_memWf h (withFull_memWf h (withAcc_memWf h (fun _ => .post)))

theorem amop_memWf {op p w64 a b} (h : s.MemWf) : Res.MemWf (amop op p w64 a b s) := posted_memWf h

theorem execLdr_memWf {p d a off} (h : s.MemWf) : Res.MemWf (execLdr p d a off s) := by
  unfold execLdr
  exact run_memWf h (withFull_memWf h (withAcc_memWf h (fun _ h' => withLoad_memWf h' (.loadNow h'))))

theorem execStc_memWf {p d a off} (h : s.MemWf) : Res.MemWf (execStc p d a off s) := by
  unfold execStc
  exact run_memWf h (withFull_memWf h (withAcc_memWf h (fun _ h' => .onPath h')))

theorem execWaitrs_memWf {p d a} (h : s.MemWf) : Res.MemWf (execWaitrs p d a s) := by
  unfold execWaitrs
  refine run_memWf h (withFull_memWf h ?_)
  dsimp only
  split
  · exact .finishMe h
  · exact h

theorem barSend_memWf {va o tag acq nw} {acc : Acc} (h : s.MemWf) : (barSend s va acc o tag acq nw).MemWf := .onPath h

theorem withBar_memWf {a nw} {f : Word → Acc → State} (h : s.MemWf) (hf : ∀ va acc, acc.s.MemWf → (f va acc).MemWf) :
    (withBar s a nw f).MemWf :=
  withAcc_memWf h (hf _)

theorem withRelease_memWf {i nw} {f : State → State} (h : s.MemWf) (hf : (f s).MemWf) : (withRelease s i nw f).MemWf := by
  unfold withRelease
  dsimp only
  split
  · exact hf
  · exact h

theorem execBarInit_memWf {p a b} (h : s.MemWf) : Res.MemWf (execBarInit p a b s) := by
  unfold execBarInit
  exact run_memWf h (withFull_memWf h (withBar_memWf h (fun _ _ => barSend_memWf)))

theorem execBarArrive_memWf {p sc d a} (h : s.MemWf) : Res.MemWf (execBarArrive p sc d a s) := by
  unfold execBarArrive
  refine run_memWf h (withFull_memWf h (withBar_memWf h fun _ _ ha => withScope_memWf ha fun _ => ?_))
  exact withRelease_memWf ha (barSend_memWf ha)

theorem barWaitOn_memWf {va i old aw nw} {acc : Acc} (h : s.MemWf) : (barWaitOn s va acc i old aw nw).MemWf := by
  unfold barWaitOn
  dsimp only
  split
  · exact h
  · split
    · exact h
    · split
      · exact .verifyAll h
      · split
        · exact h
        · split
          · exact h
          · split
            · exact h
            · exact .finish (.foldl (fun _ _ => .applyWr) h)

theorem execBarWait_memWf {p sc a b} (h : s.MemWf) : Res.MemWf (execBarWait p sc a b s) := by
  unfold execBarWait
  exact run_memWf h (withFull_memWf h (withBar_memWf h (fun _ _ h' => withScope_memWf h' (fun _ => barWaitOn_memWf h'))))

theorem execBarAw_memWf {p sc d a} (h : s.MemWf) : Res.MemWf (execBarAw p sc d a s) := by
  unfold execBarAw
  refine run_memWf h (withFull_memWf h (withBar_memWf h (fun _ _ h' => ?_)))
  refine withScope_memWf h' fun _ => ?_
  split
  · exact barWaitOn_memWf h'
  · exact withRelease_memWf h' (barSend_memWf h')

theorem execBarTest_memWf {p sc d a b} (h : s.MemWf) : Res.MemWf (execBarTest p sc d a b s) := by
  unfold execBarTest
  exact run_memWf h (withFull_memWf h (withBar_memWf h (fun _ _ h' => withScope_memWf h' (fun _ => barSend_memWf h'))))

end Sys2Proof.Machine
end

section

/-! PROOFS. Canonical memory: the copy engine, grants, and the ends of parks, fences and waits. -/

namespace Sys2Proof.Machine
open Claims
variable {s : State}

theorem Eff.reserving_memWf {i} {e : Eff} (h : e.state.MemWf) : (e.reserving i).state.MemWf := by
  cases e with
  | _ => exact h

theorem State.MemWf.translateAll {ps acc} (h : s.MemWf) : (s.translateAll ps acc).state.MemWf := by
  induction ps generalizing s acc with
  | nil => exact h
  | cons p ps ih =>
    unfold State.translateAll
    split
    · exact h
    · exact h
    · exact ih (State.translate_memWf ‹_› h)

theorem State.MemWf.captureRights {tag need ps} (h : s.MemWf) : (s.captureRights tag need ps).state.MemWf := by
  induction ps generalizing s with
  | nil => exact h
  | cons p ps ih =>
    unfold State.captureRights
    cases tag with
    | none =>
      dsimp only
      split
      · exact h
      · exact h
      · exact ih (State.regionRights_memWf ‹_› h)
      · exact State.regionRights_memWf ‹_› h
    | some tag =>
      have inGrant := (s.step3_light tag p.1 p.2 (decide (2 ≤ need))).memWf h
      dsimp only
      split
      · have hs := Chk.trap_memWf ‹_› inGrant
        split
        · exact hs
        · split
          · exact hs
          · split
            · exact hs
            · exact hs
            · exact State.regionRights_memWf ‹_› hs
            · exact State.regionRights_memWf ‹_› hs
      · exact Chk.park_memWf ‹_› inGrant
      · have hs := Chk.ok_memWf ‹_› inGrant
        split
        · exact hs
        · exact hs
        · exact ih (State.regionRights_memWf ‹_› hs)
        · exact State.regionRights_memWf ‹_› hs

theorem translateDescs_memWf {a b ds acc} {f : List (List Chunk) → State → Eff} (h : s.MemWf)
    (hf : ∀ cs t, t.MemWf → (f cs t).state.MemWf) : (translateDescs a b s ds acc f).state.MemWf := by
  induction ds generalizing s acc with
  | nil => exact hf _ s h
  | cons d ds ih =>
    unfold translateDescs
    dsimp only
    split
    · split
      · exact Cap.trap_memWf ‹_› (.translateAll h)
      · exact Cap.park_memWf ‹_› (.translateAll h)
      · exact ih (Cap.ok_memWf ‹_› (.translateAll h))
    · exact ih h
    · exact ih h

theorem rightsDescs_memWf {a b need ds} {f : State → Eff} (h : s.MemWf) (hf : ∀ t, t.MemWf → (f t).state.MemWf) :
    (rightsDescs a b need s ds f).state.MemWf := by
  induction ds generalizing s with
  | nil => exact hf s h
  | cons d ds ih =>
    unfold rightsDescs
    split
    · split
      · exact Cap.trap_memWf ‹_› (.captureRights h)
      · exact Cap.park_memWf ‹_› (.captureRights h)
      · exact ih (Cap.ok_memWf ‹_› (.captureRights h))
    · exact ih h

theorem State.MemWf.issueJob {i c d named src dst q wide} (h : s.MemWf) : (s.issueJob i c d named src dst q wide).MemWf :=
  .useCounts h

theorem copyCard_memWf {d a b stream off c} (h : s.MemWf) : (copyCard d a b stream off c s).state.MemWf := by
  unfold copyCard
  dsimp only
  split
  · exact h
  · split
    · exact h
    · split
      · exact h
      · split
        · exact h
        · refine Eff.reserving_memWf ?_
          split
          · exact h
          · refine translateDescs_memWf h fun _ _ h' => ?_
            split
            · exact h'
            · exact rightsDescs_memWf h' (fun _ h'' => rightsDescs_memWf h'' (fun _ h''' => Eff.memWf_done (.issueJob h''')))

theorem copyWalks_memWf {f : State → Eff} (h : s.MemWf) (hf : (f s).state.MemWf) : (copyWalks s f).state.MemWf := by
  have walked := withWalks_memWf h hf
  unfold copyWalks
  split
  · next e =>
    rw [e] at walked
    exact walked
  · exact walked

theorem execCopy_memWf {p d a b} (h : s.MemWf) : Res.MemWf (execCopy p d a b s) := by
  refine run_memWf h (Eff.toState_memWf (copyWalks_memWf h (withVec_memWf h (fun _ _ h' => ?_))))
  dsimp only
  split
  · exact h'
  · exact copyCard_memWf h'

theorem execCopyq_memWf {p d q b} (h : s.MemWf) : Res.MemWf (execCopyq p d q b s) := by
  refine run_memWf h (Eff.toState_memWf (copyWalks_memWf h (withVec_memWf h (fun _ _ h' => ?_))))
  dsimp only
  split
  · exact h'
  · split
    · exact h'
    · exact copyCard_memWf h'

theorem execCjwait_memWf {p d a} (h : s.MemWf) : Res.MemWf (execCjwait p d a s) := by
  refine run_memWf h (withFull_memWf h ?_)
  split
  · exact .finishMe h
  · split
    · exact .finishMe h
    · exact h

theorem withTr_memWf {addr nw} {α : Type} {r : Tr α} {f : α → State} (h : s.MemWf) (hf : ∀ x, r = .ok x → (f x).MemWf) :
    (withTr r s addr nw f).MemWf := by
  cases r with
  | fault c => exact .trap h
  | frozen => exact h
  | ok x => exact hf x rfl

theorem effTr_memWf {addr} {α : Type} {r : Tr α} {f : α → Eff} (h : s.MemWf) (hf : ∀ x, r = .ok x → (f x).state.MemWf) :
    (effTr r s addr f).state.MemWf := by
  cases r with
  | fault c => exact h
  | frozen => exact h
  | ok x => exact hf x rfl

theorem grantPages_memWf {need stop fuel va} {f : State → Eff} (h : s.MemWf) (hf : ∀ t, t.MemWf → (f t).state.MemWf) :
    (grantPages need stop f fuel va s).state.MemWf := by
  induction fuel generalizing va s with
  | zero => exact hf s h
  | succ fuel ih =>
    unfold grantPages
    split
    · exact hf s h
    · refine effTr_memWf h fun es translated => ?_
      have he := State.translate_memWf translated h
      refine effTr_memWf he fun rs read => ?_
      have hr := State.rowOf_memWf read he
      dsimp only
      split
      · exact hr
      · split
        · exact hr
        · exact hr
        · split
          · exact hr
          · exact ih hr

theorem effMkgrant_memWf {rw d a b} (h : s.MemWf) : (effMkgrant rw d a b s).state.MemWf := by
  refine withVec_memWf h fun _ _ h' => ?_
  dsimp only
  split
  · exact h'
  · split
    · exact h'
    · split
      · exact h'
      · refine grantPages_memWf h' fun _ h'' => ?_
        refine effTr_memWf h'' fun _ _ => ?_
        split
        · exact h''
        · exact Eff.memWf_done (.modMe (.takeCopy (.putGrant h'')))

theorem execGrantq_memWf {p d a} (h : s.MemWf) : Res.MemWf (execGrantq p d a s) := by
  unfold execGrantq
  refine run_memWf h (withFull_memWf h ?_)
  split
  · exact .finishMe h
  · refine withTr_memWf h fun _ _ => ?_
    split
    · exact h
    · exact .finishMe h

theorem State.MemWf.revokeEnd {pa key d nw} (h : s.MemWf) : (s.revokeEnd pa key d nw).MemWf := .finishMe (.putGrant h)

theorem execRevoke_memWf {p d} (h : s.MemWf) : Res.MemWf (execRevoke p d s) := by
  unfold execRevoke
  refine run_memWf h (withFull_memWf h ?_)
  split
  · exact .trap h
  · refine withTr_memWf h fun _ _ => ?_
    dsimp only
    split
    · split
      · exact .revokeEnd h
      · exact h
    · split
      · exact .trap h
      · split
        · exact .revokeEnd (.of_mem (.putGrant h) rfl)
        · exact .of_mem (.putGrant h) rfl

theorem State.MemWf.withdraw {k} (h : s.MemWf) : (s.withdraw k).MemWf := by
  unfold State.withdraw
  dsimp only
  split <;> exact h

theorem State.MemWf.halt {k} (h : s.MemWf) : (s.halt k).MemWf := by
  refine .abort ?_
  split
  · split
    · exact .withdraw h
    · split
      · exact h
      · exact .withdraw h
  · exact h

theorem State.MemWf.interruptCore {c} (h : s.MemWf) : (s.interruptCore c).MemWf := by
  refine .foldl (fun _ _ h' => ?_) h
  split
  · exact h'
  · dsimp only
    split
    · exact h'
    · exact .rouse (.halt h')

theorem State.MemWf.stopSlot {k} (h : s.MemWf) : (s.stopSlot k).MemWf := by
  unfold State.stopSlot
  split
  · exact .halt h
  · exact h

theorem State.MemWf.wake {k} (h : s.MemWf) : (s.wake k).MemWf := .rouse h

theorem State.MemWf.wakeWith {k r} (h : s.MemWf) : (s.wakeWith k r).MemWf := .wake h

theorem State.MemWf.arrive {k p} (h : s.MemWf) : (s.arrive k p).MemWf := by
  unfold State.arrive
  split
  · exact h
  · exact .wakeWith h
  · exact .wake h
  · exact .readPiece (.choose h)
  · split
    · exact .wake (.runParts h)
    · exact .doWord (.choose h)
  · exact .wake h

theorem execParkEvent_memWf (h : s.MemWf) : Res.MemWf (execParkEvent s) := by
  unfold execParkEvent
  split
  · split
    · split
      · exact .arrive h
      · exact h
    · exact h
  · trivial

theorem execParkedResume_memWf (h : s.MemWf) : Res.MemWf (execParkedResume s) := by
  unfold execParkedResume
  split
  · exact .resume h
  · trivial

theorem execParkTimeout_memWf (h : s.MemWf) : Res.MemWf (execParkTimeout s) := by
  unfold execParkTimeout
  split
  · split
    · split
      · exact .trapAt (.rouse (.withdraw h))
      · exact h
    · exact h
  · trivial

theorem execFrozenLeafReread_memWf (h : s.MemWf) : Res.MemWf (execFrozenLeafReread s) := by
  unfold execFrozenLeafReread
  split
  · split
    · split
      · exact .wake h
      · exact h
    · exact h
  · trivial

theorem execCoreInterruptTake_memWf (h : s.MemWf) : Res.MemWf (execCoreInterruptTake s) := by
  unfold execCoreInterruptTake
  dsimp only
  split
  · split
    · exact h
    · exact .deliver (.halt h)
  · trivial

theorem execUnallocatedEncoding_memWf (h : s.MemWf) : Res.MemWf (execUnallocatedEncoding s) := by
  unfold execUnallocatedEncoding
  split
  · exact .trap h
  · trivial

theorem execFetchFault_memWf (h : s.MemWf) : Res.MemWf (execFetchFault s) := by
  unfold execFetchFault
  split
  · exact .trap h
  · trivial

theorem State.MemWf.holdFill {k hints} (h : s.MemWf) : (s.holdFill k hints).MemWf := by
  unfold State.holdFill
  split
  · exact .devWrite (.devWrite (State.savePage_memWf ‹_› h))
  · exact h

theorem State.MemWf.catchUp {c} (h : s.MemWf) : (s.catchUp c).MemWf := by
  refine .foldl (fun _ _ h' => ?_) h
  split <;> exact h'

theorem State.MemWf.jobFilled {job k} (h : s.MemWf) : (s.jobFilled job k).MemWf := by
  unfold State.jobFilled
  split
  · exact h
  · exact .catchUp h

theorem State.MemWf.fillAt {id d0 target r x job} (h : s.MemWf) : (s.fillAt id d0 target r x job).MemWf := by
  unfold State.fillAt
  dsimp only
  split
  · exact .answerFill h
  · split
    · exact .answerFill h
    · split
      · exact .holdFill (.jobFilled h)
      · refine .rouse (.answerFill (.jobFilled ?_))
        split <;> exact h

theorem State.MemWf.fillMsg {m} (h : s.MemWf) : (s.fillMsg m).MemWf := by
  unfold State.fillMsg
  dsimp only
  split
  · split
    · exact .fillAt h
    · split
      · exact .answerFill h
      · split
        · exact .rouse h
        · exact .fillAt h
  · exact h

theorem execFillArrival_memWf (h : s.MemWf) : Res.MemWf (execFillArrival s) := by
  unfold execFillArrival
  split
  · split
    · split
      · exact .fillMsg h
      · exact h
    · exact h
  · trivial

theorem State.MemWf.giveItem {k it} (h : s.MemWf) : (s.giveItem k it).MemWf := .rouse (.doneAt (.catchUp h))

theorem execDispense_memWf (h : s.MemWf) : Res.MemWf (execDispense s) := by
  unfold execDispense
  split
  · split
    · exact h
    · split
      · exact h
      · exact .giveItem h
  · trivial

theorem execSleepEntry_memWf (h : s.MemWf) : Res.MemWf (execSleepEntry s) := by
  unfold execSleepEntry
  split
  · split <;> exact h
  · trivial

theorem execSleepWake_memWf (h : s.MemWf) : Res.MemWf (execSleepWake s) := by
  unfold execSleepWake
  split
  · split <;> exact h
  · trivial

theorem execWakeEnd_memWf (h : s.MemWf) : Res.MemWf (execWakeEnd s) := by
  unfold execWakeEnd
  dsimp only
  split
  · refine .foldl (fun _ _ h' => ?_) h
    split
    · exact .fillMsg h'
    · exact h'
  · trivial

theorem fence_memWf {p sc waits vis acq rel} (h : s.MemWf) : Res.MemWf (fence p sc waits vis acq rel s) := by
  unfold fence
  refine run_memWf h (withScope_memWf h (fun _ => ?_))
  refine withLanes_memWf h ?_
  dsimp only
  split
  · exact h
  · split
    · exact h
    · refine .finishMe ?_
      split
      · exact .foldl (fun _ _ => .applyWr) h
      · exact h

theorem execFencePost_memWf {p} (h : s.MemWf) : Res.MemWf (execFencePost p s) := by
  unfold execFencePost
  refine run_memWf h ?_
  split
  · exact h
  · exact withLanes_memWf h (.finishMe h)

theorem State.MemWf.defineScope {pid d} (h : s.MemWf) : (s.defineScope pid d).2.MemWf := by
  unfold State.defineScope
  dsimp only
  split
  · exact h
  · split
    · exact h
    · split <;> exact h

theorem withBytes_memWf {tag va n nw} {f : List Byte → State → State} (h : s.MemWf) (hf : ∀ bs t, t.MemWf → (f bs t).MemWf) :
    (withBytes s tag va n nw f).MemWf := by
  unfold withBytes
  dsimp only
  have one : ∀ {t : State} {va n}, t.MemWf → (t.check tag va n 1 false).state.MemWf := .check
  split
  · exact .trap (Chk.trap_memWf ‹_› (one h))
  · have parked := Chk.park_memWf ‹_› (one h)
    exact parked
  · have h1 := Chk.ok_memWf ‹_› (one h)
    split
    · exact h1
    · split
      · exact h1
      · split
        · exact .verifyAll h1
        · split
          · exact hf _ _ h1
          · split
            · exact .trap (Chk.trap_memWf ‹_› (one h1))
            · have parked := Chk.park_memWf ‹_› (one h1)
              exact parked
            · have h2 := Chk.ok_memWf ‹_› (one h1)
              split
              · exact h2
              · split
                · exact h2
                · split
                  · exact .verifyAll h2
                  · exact hf _ _ h2

theorem execScopedef_memWf {p d a} (h : s.MemWf) : Res.MemWf (execScopedef p d a s) := by
  unfold execScopedef
  refine run_memWf h (withFull_memWf h ?_)
  dsimp only
  split
  · exact .trap h
  · exact withBytes_memWf h fun _ _ => .defineScope

theorem execFill_memWf {p t d a b} (h : s.MemWf) : Res.MemWf (execFill p t d a b s) := by
  unfold execFill
  refine run_memWf h (withFull_memWf h ?_)
  split
  · exact .finishMe h
  · split
    · exact .trap h
    · exact .onPath h

end Sys2Proof.Machine
end

section

/-! PROOFS. Canonical memory: the instructions of firmware. -/

namespace Sys2Proof.Machine
open Claims
variable {s : State}

theorem State.MemWf.sysWrite {n key v} (h : s.MemWf) : (s.sysWrite n key v).MemWf := by
  unfold State.sysWrite
  dsimp only
  split
  case h_11 => split <;> exact h  -- 0x40, the interleave
  case h_16 => split <;> exact h  -- 0x54, the keys
  case h_18 =>  -- the registers in ranges
    split
    · exact h
    · split
      · exact h
      · split
        · exact h
        · split <;> exact h
  all_goals exact h

theorem withSys_memWf {n inst nw} {f : Nat → State} (h : s.MemWf) (hf : ∀ key, (f key).MemWf) :
    (withSys s n inst nw f).MemWf := by
  unfold withSys
  split
  · exact .trap h
  · split
    · exact .trap h
    · exact hf _

theorem State.MemWf.settleReads (h : s.MemWf) : s.settleReads.MemWf := by
  refine .foldl (fun _ _ h' => ?_) h
  split <;> exact h'

theorem execSrd_memWf {p n d a} (h : s.MemWf) : Res.MemWf (execSrd p n d a s) := by
  unfold execSrd
  refine run_memWf h (withFull_memWf h (withSys_memWf h (fun _ => ?_)))
  dsimp only
  split
  · exact .finishMe h
  · exact h

theorem swrMrext_memWf {v nw} (h : s.MemWf) : (swrMrext s v nw).MemWf := by
  unfold swrMrext
  dsimp only
  split
  · exact .trap h
  · exact withBytes_memWf h fun _ _ h' => h'

theorem execSwr_memWf {p n a b} (h : s.MemWf) : Res.MemWf (execSwr p n a b s) := by
  unfold execSwr
  refine run_memWf h (withFull_memWf h (withSys_memWf h (fun _ => ?_)))
  dsimp only
  split
  · exact swrMrext_memWf h
  · split
    · exact h
    · split
      · exact h
      · split
        · exact .parkAt (.of_mem (.sysWrite h) rfl)
        · split
          · exact .finish (.of_mem (.sysWrite h) rfl)
          · exact .parkAt (.of_mem (.sysWrite h) rfl)

theorem State.MemWf.placeSlot {k} (h : s.MemWf) : (s.placeSlot k).MemWf := by
  unfold State.placeSlot
  dsimp only
  split <;> exact h

theorem execEretStart_memWf {p d a} (h : s.MemWf) : Res.MemWf (execEretStart p d a s) := by
  unfold execEretStart
  refine run_memWf h (withFull_memWf h ?_)
  dsimp only
  split
  · exact .finishMe h
  · refine withTr_memWf h fun _ _ => ?_
    split
    · exact .finishMe (State.dataPage_memWf ‹_› h)
    · refine .finishMe (.placeSlot (.eretAt ?_))
      have kept := State.dataPage_memWf ‹_› h
      exact kept

theorem State.MemWf.shootSlots {devs pid asid lo hi hit} (h : s.MemWf) : (s.shootSlots devs pid asid lo hi hit).MemWf := by
  refine .foldl (fun _ _ h' => ?_) h
  split
  · exact h'
  · split
    · exact .abort h'
    · split
      · split
        · split
          · exact .wake h'
          · exact h'
        · exact h'
      · exact h'

theorem tlbinv_memWf {span pid asid lo hi ent l1 ko hit nw} (h : s.MemWf) :
    (tlbinv span pid asid lo hi ent l1 ko hit nw s).MemWf :=
  .shootSlots h

theorem execTlbinvRange_memWf {p span d a b} (h : s.MemWf) : Res.MemWf (execTlbinvRange p span d a b s) := by
  unfold execTlbinvRange
  refine run_memWf h (withFull_memWf h ?_)
  dsimp only
  split
  · exact .finish h
  · exact tlbinv_memWf h

theorem execTlbinvAsid_memWf {p span d _a _b} (h : s.MemWf) : Res.MemWf (execTlbinvAsid p span d _a _b s) := by
  unfold execTlbinvAsid
  exact run_memWf h (withFull_memWf h (tlbinv_memWf h))

theorem execTlbinvS2range_memWf {p span d a b} (h : s.MemWf) : Res.MemWf (execTlbinvS2range p span d a b s) := by
  unfold execTlbinvS2range
  refine run_memWf h (withFull_memWf h ?_)
  dsimp only
  split
  · exact .finish h
  · exact tlbinv_memWf h

theorem execTlbinvPartition_memWf {p span d _a _b} (h : s.MemWf) : Res.MemWf (execTlbinvPartition p span d _a _b s) := by
  unfold execTlbinvPartition
  exact run_memWf h (withFull_memWf h (tlbinv_memWf h))

theorem execTlbprobe_memWf {p d a b} (h : s.MemWf) : Res.MemWf (execTlbprobe p d a b s) := by
  unfold execTlbprobe
  refine run_memWf h (withFull_memWf h ?_)
  dsimp only
  split
  · split
    · exact .finishMe h
    · exact h
  · split
    · exact .finishMe h
    · exact h

theorem cacheop_memWf {p span a b} {act : List Nat → (Nat → Nat → Bool) → State → State} (h : s.MemWf)
    (hact : ∀ devs named t, t.MemWf → (act devs named t).MemWf) : Res.MemWf (cacheop p span a b act s) := by
  unfold cacheop
  refine run_memWf h (withFull_memWf h ?_)
  dsimp only
  split
  · exact h
  · exact hact _ _ _ h

theorem State.MemWf.writeBackLine {l} (h : s.MemWf) : (s.writeBackLine l).MemWf := by
  unfold State.writeBackLine
  dsimp only
  split <;> exact Memory.writeCells_wf _ (State.MemWf.choose h)

theorem State.MemWf.writeBackBoth {l} (h : s.MemWf) : (s.writeBackBoth l).MemWf := by
  unfold State.writeBackBoth
  dsimp only
  split
  · exact .choose h
  · exact .writeBackLine (.choose h)

theorem execCacheopL2v_memWf {p span a b} (h : s.MemWf) : Res.MemWf (execCacheopL2v p span a b s) := by
  unfold execCacheopL2v
  refine cacheop_memWf h fun _ _ _ h' => ?_
  refine .foldl (fun _ _ h'' => ?_) h'
  split
  · exact .writeBackLine h''
  · exact h''

theorem execCacheopL2p_memWf {p a b} (h : s.MemWf) : Res.MemWf (execCacheopL2p p a b s) := by
  unfold execCacheopL2p
  refine cacheop_memWf h fun _ _ _ h' => ?_
  refine .foldl (fun _ _ h'' => ?_) h'
  split
  · exact .writeBackBoth h''
  · exact h''

theorem domset_memWf {p rs b dom} (h : s.MemWf) : Res.MemWf (domset p rs b dom s) := by
  unfold domset
  exact run_memWf h (withFull_memWf h h)

theorem State.MemWf.fwsend {role d va msg nw} (h : s.MemWf) : (s.fwsend role d va msg nw).MemWf := by
  unfold State.fwsend
  dsimp only
  split
  · exact h
  · split
    · have kept := snd_memWf ‹_› (.nextRole h)
      exact kept
    · split
      · refine .trap ?_
        have kept := snd_memWf ‹_› (.nextRole h)
        exact kept
      · have kept := snd_memWf ‹_› (.nextRole h)
        exact kept

theorem execFwsend_memWf {p d a b} (h : s.MemWf) : Res.MemWf (execFwsend p d a b s) := by
  unfold execFwsend
  refine run_memWf h (withFull_memWf h ?_)
  dsimp only
  split
  · exact .finishMe h
  · split
    · exact .trap h
    · exact withBytes_memWf h fun _ _ => .fwsend

theorem State.MemWf.mailAnswer {k gen x} (h : s.MemWf) : (s.mailAnswer k gen x).2.MemWf := by
  unfold State.mailAnswer
  dsimp only
  split
  · exact h
  · split
    · exact h
    · split
      · exact .wakeWith h
      · exact h

theorem execFwsendReply_memWf {p d a b} (h : s.MemWf) : Res.MemWf (execFwsendReply p d a b s) := by
  unfold execFwsendReply
  refine run_memWf h (withFull_memWf h (.finishMe ?_))
  split
  · split
    · exact .mailAnswer h
    · exact h
  · exact h

theorem execStoparmCore_memWf {p a} (h : s.MemWf) : Res.MemWf (execStoparmCore p a s) := by
  unfold execStoparmCore
  refine run_memWf h (withFull_memWf h ?_)
  dsimp only
  split
  · exact .trap h
  · split
    · exact .trap h
    · split
      · exact .interruptCore (.finish h)
      · exact .parkAt (.interruptCore h)

theorem stoparm_memWf {p d a b arm} (h : s.MemWf) : Res.MemWf (stoparm p d a b arm s) := by
  unfold stoparm
  refine run_memWf h (withFull_memWf h ?_)
  dsimp only
  split
  · exact .finishMe h
  · split
    · exact .trap h
    · refine withBytes_memWf h fun bs t ht => ?_
      have armed : ∀ l : List Nat, (l.foldl (fun s ck => s.modCluster ck (arm s ck (s.me.rd a).toNat)) t).MemWf :=
        fun _ => .foldl (fun _ _ hs => hs) ht
      split
      · exact ht
      · split
        · exact ht
        · split
          · exact armed _
          · exact armed _

theorem execSlpset_memWf {p d a} (h : s.MemWf) : Res.MemWf (execSlpset p d a s) := by
  unfold execSlpset
  exact run_memWf h (withFull_memWf h (.finishMe h))

theorem execWdsetArm_memWf {p a b} (h : s.MemWf) : Res.MemWf (execWdsetArm p a b s) := by
  unfold execWdsetArm
  exact run_memWf h (withFull_memWf h (.finish h))

theorem execWdsetRead_memWf {p d b} (h : s.MemWf) : Res.MemWf (execWdsetRead p d b s) := by
  unfold execWdsetRead
  exact run_memWf h (withFull_memWf h (.finishMe h))

end Sys2Proof.Machine
end

section

/-! PROOFS. Canonical memory: what arrives at the home of a line, and the commits of regions. -/

namespace Sys2Proof.Machine
open Claims
variable {s : State}

theorem State.MemWf.countDiscard {l seq} (h : s.MemWf) : (s.countDiscard l seq).MemWf := by
  unfold State.countDiscard
  dsimp only
  split <;> exact h

theorem State.MemWf.toLane {e} (h : s.MemWf) : (s.toLane e).MemWf := by
  unfold State.toLane
  dsimp only
  split
  · split
    · exact .countDiscard h
    · exact h
  · exact h

theorem State.MemWf.depart {c e rest} (h : s.MemWf) : (s.depart c e rest).MemWf := by
  unfold State.depart
  dsimp only
  split
  · split
    · exact h
    · split
      · exact .choose h
      · exact h
  · exact h

theorem execStoreQueueDepart_memWf (h : s.MemWf) : Res.MemWf (execStoreQueueDepart s) := by
  unfold execStoreQueueDepart
  dsimp only
  split
  · split
    · exact h
    · split
      · exact .depart h
      · split
        · exact h
        · exact .toLane h
  · trivial

theorem State.MemWf.ackFar {k writer op lines} (h : s.MemWf) : (s.ackFar k writer op lines).MemWf := by
  refine .foldl (fun _ _ h' => ?_) h
  split <;> exact h'

theorem execStoreOrderAtHome_memWf (h : s.MemWf) : Res.MemWf (execStoreOrderAtHome s) := by
  unfold execStoreOrderAtHome
  split
  · split
    · split
      · split
        · split
          · exact h
          · split
            · exact h
            · exact .ackFar (State.homeWrite_memWf _ _ _ _ _ h)
        · exact h
      · exact h
    · exact h
  · trivial

theorem execInvalidationDelivery_memWf (h : s.MemWf) : Res.MemWf (execInvalidationDelivery s) := by
  unfold execInvalidationDelivery
  split
  · split <;> exact h
  · trivial

theorem execRemoteStoreAck_memWf (h : s.MemWf) : Res.MemWf (execRemoteStoreAck s) := by
  unfold execRemoteStoreAck
  split
  · split <;> exact h
  · trivial

theorem execLeaseExpiry_memWf (h : s.MemWf) : Res.MemWf (execLeaseExpiry s) := by
  unfold execLeaseExpiry
  split
  · exact h
  · trivial

theorem State.MemWf.atomicWrite {key cells k id a tag full} (h : s.MemWf) : (s.atomicWrite key cells k id a tag full).MemWf :=
  .ackFar (State.homeWrite_memWf _ _ _ _ _ h)

theorem State.MemWf.ownFault {e cause} (h : s.MemWf) : (s.ownFault e cause).MemWf := h

theorem State.MemWf.atomicDo {m} (h : s.MemWf) : (s.atomicDo m).MemWf := by
  unfold State.atomicDo
  dsimp only
  split
  · split
    · exact h
    · split
      · exact .modSlot (.ownFault (.verifyAll h))
      · exact .modSlot (.atomicWrite h)
  · split
    · exact .modSlot (.verifyAll h)
    · exact .modSlot (.atomicWrite h)
  · split
    · exact .modSlot (.verifyAll h)
    · split
      · exact .modSlot (.atomicWrite h)
      · exact h
  · exact h

theorem State.MemWf.heldReply {m} (h : s.MemWf) : (s.heldReply m).MemWf := by
  unfold State.heldReply
  dsimp only
  split
  · exact h
  · split
    · split <;> exact h
    · exact h
  · exact h
  · exact h
  · exact h

theorem execAtomicAtHome_memWf (h : s.MemWf) : Res.MemWf (execAtomicAtHome s) := by
  unfold execAtomicAtHome
  split
  · split
    · split
      · split
        · exact .heldReply h
        · split
          · exact h
          · split
            · exact h
            · exact .atomicDo h
      · exact h
    · exact h
  · trivial

theorem State.MemWf.movedFault {m k cause} (h : s.MemWf) : (s.movedFault m k cause).MemWf := by
  unfold State.movedFault
  split <;> exact h

theorem execMovedAnswer_memWf (h : s.MemWf) : Res.MemWf (execMovedAnswer s) := by
  unfold execMovedAnswer
  dsimp only
  split
  · dsimp only [Res.MemWf]
    split
    · split
      · split
        · exact h
        · exact .movedFault h
        · next heq =>
          obtain ⟨⟨e, t⟩, translated, heq⟩ := Tr.bind_ok heq
          obtain ⟨p, -, heq⟩ := Tr.bind_ok heq
          cases heq
          have ht : t.MemWf := State.translate_memWf translated h
          dsimp only
          split
          · exact .movedFault ht
          · split
            · exact .movedFault ht
            · split
              · exact .of_mem (.movedFault ht) rfl
              · split
                · split
                  · next rehomed => exact State.rehome_memWf rehomed (ht.of_mem rfl)
                  · exact ht
                · exact ht
      · exact h
    · exact h
  · trivial

theorem State.MemWf.modLane {i f} (h : s.MemWf) : (s.modLane i f).MemWf := h

theorem State.MemWf.postedCounts {l e} (h : s.MemWf) : (s.postedCounts l e).MemWf := by
  -- not `unfold`, whose equation has the kernel compare the page walk of the match with itself by evaluation
  rw [show State.postedCounts = _ by delta State.postedCounts; rfl]
  split
  · extract_lets a
    split
    · exact h
    · exact .foldl (fun _ _ => .verify) h
  · exact h

theorem execPostedOpApply_memWf (h : s.MemWf) : Res.MemWf (execPostedOpApply s) := by
  unfold execPostedOpApply
  dsimp only
  split
  · split
    · split
      · exact h
      · split
        · exact h
        · split
          · exact h
          · exact .modLane (.postedCounts h)
          · refine .modLane (State.homeWrite_memWf _ _ _ _ _ ?_)
            split
            · exact .choose h
            · exact h
    · exact h
  · trivial

theorem execPostedAck_memWf (h : s.MemWf) : Res.MemWf (execPostedAck s) := by
  unfold execPostedAck
  dsimp only
  split
  · split
    · split
      · exact h
      · split
        · exact .countDiscard h
        · exact h
    · exact h
  · trivial

theorem execRemoteFaultRecord_memWf (h : s.MemWf) : Res.MemWf (execRemoteFaultRecord s) := by
  unfold execRemoteFaultRecord
  dsimp only
  split
  · split
    · split
      · exact h
      · split
        · exact h
        · split
          · exact h
          · split
            · exact h
            · split <;> exact h
    · exact h
  · trivial

theorem execRemoteRecordResend_memWf (h : s.MemWf) : Res.MemWf (execRemoteRecordResend s) := by
  unfold execRemoteRecordResend
  split
  · exact h
  · trivial

theorem State.MemWf.barDo {m} (h : s.MemWf) : (s.barDo m).MemWf := by
  unfold State.barDo
  dsimp only
  split
  · split
    · exact .modSlot (.verifyAll h)
    · split
      · exact .modSlot (.atomicWrite h)
      · split
        · split
          · split
            · exact .modSlot (.modSlot (.atomicWrite h))
            · exact .atomicWrite h
          · split
            · exact .modSlot (.modSlot (.atomicWrite h))
            · exact .atomicWrite h
        · exact .modSlot (.atomicWrite h)
      · split
        · exact h
        · split
          · exact h
          · split <;> exact h
  · exact h

theorem execBarrierAtHome_memWf (h : s.MemWf) : Res.MemWf (execBarrierAtHome s) := by
  unfold execBarrierAtHome
  split
  · split
    · split
      · split
        · exact .heldReply h
        · split
          · exact h
          · split
            · exact h
            · exact .barDo h
      · exact h
    · exact h
  · trivial

theorem State.MemWf.feServe {ck b} (h : s.MemWf) : (s.feServe ck b).MemWf := by
  unfold State.feServe
  dsimp only
  split
  · exact .verifyAll h
  · exact .feDo h

theorem State.MemWf.feWrong {word} (h : s.MemWf) : (s.feWrong word).MemWf := by
  refine .foldl (fun _ _ h' => ?_) h
  refine .foldl (fun _ _ h'' => ?_) h'
  split <;> exact h''

theorem execFeWaiterService_memWf (h : s.MemWf) : Res.MemWf (execFeWaiterService s) := by
  unfold execFeWaiterService
  split
  · refine .feWrong ?_
    split
    · exact h
    · exact .feServe h
  · trivial

theorem execScopeMissMessage_memWf (h : s.MemWf) : Res.MemWf (execScopeMissMessage s) := by
  unfold execScopeMissMessage
  dsimp only
  split
  · split
    · split <;> exact h
    · exact h
  · trivial

theorem execScopeMissAnswer_memWf (h : s.MemWf) : Res.MemWf (execScopeMissAnswer s) := by
  unfold execScopeMissAnswer
  dsimp only
  split
  · split
    · exact h
    · split
      · split <;> exact h
      · exact h
  · trivial

theorem execTagEvictionRepair_memWf (h : s.MemWf) : Res.MemWf (execTagEvictionRepair s) := by
  unfold execTagEvictionRepair
  split
  · split <;> exact h
  · trivial

theorem execGrantInvalidation_memWf (h : s.MemWf) : Res.MemWf (execGrantInvalidation s) := by
  unfold execGrantInvalidation
  dsimp only
  split
  · exact h
  · trivial

theorem State.MemWf.regionAnswered {k} (h : s.MemWf) : (s.regionAnswered k).MemWf := h

theorem State.MemWf.regionDo {m} (h : s.MemWf) : (s.regionDo m).MemWf := by
  unfold State.regionDo
  dsimp only
  split
  · split
    · exact h
    · split
      · exact .regionAnswered (.atSlice h)
      · split
        · exact .modSlot (.verifyAll (.regionAnswered (.atSlice h)))
        · exact .modSlot (.regionAnswered (.atSlice h))
        · exact .regionAnswered (.atSlice h)
  · exact h

theorem execRegionAccessAtSlice_memWf (h : s.MemWf) : Res.MemWf (execRegionAccessAtSlice s) := by
  unfold execRegionAccessAtSlice
  dsimp only
  split
  · split
    · split
      · split
        · exact h
        · split
          · split
            · exact h
            · exact .regionDo h
          · split
            · exact h
            · exact .regionDo h
      · exact h
    · exact h
  · trivial

theorem execNarrowingArrival_memWf (h : s.MemWf) : Res.MemWf (execNarrowingArrival s) := by
  unfold execNarrowingArrival
  dsimp only
  split
  · refine .foldl (fun _ _ => .testEmpty) ?_
    refine .foldl (fun _ _ h' => ?_) h
    split <;> exact h'
  · trivial

theorem execBroadcastTurnGrant_memWf (h : s.MemWf) : Res.MemWf (execBroadcastTurnGrant s) := by
  unfold execBroadcastTurnGrant
  dsimp only
  split
  · dsimp only [Res.MemWf]
    split
    · split
      · exact h
      · split
        · exact h
        · split
          · have moved := State.rehome_memWf ‹_› (h.of_mem (t := s.modDie _ _) rfl)
            split
            · exact .abortAt moved
            · exact .commitNow moved
          · exact h
    · exact h
  · trivial

theorem State.MemWf.commitLine {core tag cells line key} (h : s.MemWf) : (s.commitLine core tag cells line key).MemWf := by
  refine .markResv (.setFull (State.writeLine_memWf _ _ _ ?_))
  split
  · exact h
  · exact .verify h

theorem State.MemWf.settle {die rid f} (h : s.MemWf) : (s.settle die rid f).2.2.MemWf := by
  refine List.foldlRecOn (motive := fun r : List Nat × List Nat × State => r.2.2.MemWf) (s.die die).edges _ h ?_
  intro r hr e _
  split
  · split
    · exact hr
    · exact hr
  · split
    · split
      · split
        · exact hr
        · exact hr
      · exact hr
    · exact hr

theorem State.MemWf.overtaken {k} (h : s.MemWf) : (s.overtaken k).MemWf := by
  unfold State.overtaken
  split <;> exact h

theorem execFinalPositionBroadcast_memWf (h : s.MemWf) : Res.MemWf (execFinalPositionBroadcast s) := by
  unfold execFinalPositionBroadcast
  dsimp only
  split
  · dsimp only [Res.MemWf]
    split
    · refine .dropRecs (.foldl (fun _ _ => .testEmpty) ?_)
      refine .foldl (fun _ _ => .overtaken) (.foldl (fun t k ht => ?_) ?_)
      · split
        · exact .applyNarrows ht
        · exact ht
      · refine State.MemWf.of_mem (State.MemWf.settle ?_) rfl
        exact .foldl (fun _ _ => .commitLine) h
    · exact h
  · trivial

theorem execSerialTokenGrant_memWf (h : s.MemWf) : Res.MemWf (execSerialTokenGrant s) := by
  unfold execSerialTokenGrant
  split
  · split
    · exact .wake h
    · exact h
  · trivial

end Sys2Proof.Machine
end

section

/-! PROOFS. Canonical memory: the array engines as they run, and the jobs of the copy engine. -/

namespace Sys2Proof.Machine
open Claims
variable {s : State}

theorem State.MemWf.jobWrote {ck k writer op lines} (h : s.MemWf) : (s.jobWrote ck k writer op lines).MemWf :=
  .ackFar (.foldl (fun _ _ h' => h') h)

theorem State.MemWf.jobWrite {ck key a bs k writer op tag} (h : s.MemWf) : (s.jobWrite ck key a bs k writer op tag).MemWf :=
  .jobWrote (State.homeWrite_memWf _ _ _ _ _ h)

theorem State.MemWf.writeStat {c} (h : s.MemWf) : (s.writeStat c).MemWf := by
  unfold State.writeStat
  split
  · exact .jobWrite h
  · exact h

theorem State.MemWf.statMoved {c} (h : s.MemWf) : (s.statMoved c).MemWf := by
  unfold State.statMoved
  dsimp only
  split
  · split
    · exact h
    · split
      · have kept := State.dataPage_memWf ‹_› h
        exact kept
      · exact h
  · exact h

theorem State.MemWf.sliceDone {c} (h : s.MemWf) : (s.sliceDone c).MemWf := .writeStat h

theorem State.MemWf.release {k r} (h : s.MemWf) : (s.release k r).MemWf := .wakeWith h

theorem State.MemWf.openGang {ck as} (h : s.MemWf) : (s.openGang ck as).MemWf := by
  unfold State.openGang
  dsimp only
  split
  · exact .foldl (fun _ _ h' => h') h
  · split
    · exact .foldl (fun _ _ => .release) (.foldl (fun _ _ h' => h') h)
    · split
      · exact .foldl (fun _ _ => .release) (.foldl (fun _ _ h' => h') h)
      · exact .foldl (fun _ _ h' => .release h') (.foldl (fun _ _ h' => .writeStat h') (.foldl (fun _ _ h' => h') h))

theorem execGangOpen_memWf (h : s.MemWf) : Res.MemWf (execGangOpen s) := by
  unfold execGangOpen
  split
  · split
    · exact .openGang h
    · exact h
  · trivial

theorem execGangStall_memWf (h : s.MemWf) : Res.MemWf (execGangStall s) := by
  unfold execGangStall
  split
  · split <;> exact h
  · trivial

theorem State.MemWf.ungate {ck} (h : s.MemWf) : (s.ungate ck).MemWf := .foldl (fun _ _ h' => h') h

theorem execGangStallEnd_memWf (h : s.MemWf) : Res.MemWf (execGangStallEnd s) := by
  unfold execGangStallEnd
  dsimp only
  split
  · split
    · exact h
    · split
      · exact h
      · split
        · exact .ungate (.foldl (fun _ _ h' => h') h)
        · exact .foldl (fun _ _ h' => h') h
  · trivial

theorem State.MemWf.tmmTrap {ts cause addr} (h : s.MemWf) : (s.tmmTrap ts cause addr).MemWf := by
  refine .foldl (fun _ _ h' => ?_) h
  dsimp only
  split
  · exact h'
  · exact .release h'

theorem State.MemWf.tmmSlice {g gi rows e} (h : s.MemWf) : (s.tmmSlice g gi rows e).MemWf := by
  unfold State.tmmSlice
  dsimp only
  split
  · split
    · split
      · split <;> exact h
      · refine .release ?_
        split <;> exact h
    · split
      · split <;> exact h
      · refine .release ?_
        split <;> exact h
  · split
    · split
      · split <;> exact h
      · refine .release ?_
        split <;> exact h
    · split
      · split <;> exact h
      · refine .release ?_
        split <;> exact h

theorem State.MemWf.tmmStart {ck} (h : s.MemWf) : (s.tmmStart ck).MemWf := by
  unfold State.tmmStart
  dsimp only
  split
  · split
    · split <;> exact h
    · split
      · exact h
      · split
        · refine .tmmTrap ?_
          split
          · exact .ungate h
          · exact h
        · refine .foldl (fun _ _ => .tmmSlice) ?_
          split
          · exact .ungate h
          · exact h
  · exact h

theorem State.MemWf.accStart {c} (h : s.MemWf) : (s.accStart c).MemWf := by
  unfold State.accStart
  dsimp only
  split
  · exact h
  · split
    · exact h
    · split
      · exact h
      · exact h
      · exact .modSlice (.choose h)
      · exact .modSlice (.choose (.verifyAll h))
      · exact h

theorem State.MemWf.ldStart {c} (h : s.MemWf) : (s.ldStart c).MemWf := by
  unfold State.ldStart
  dsimp only
  split
  · exact h
  · split
    · exact h
    · split
      · exact h
      · split <;> split <;> exact h

theorem execArrayInstrStart_memWf (h : s.MemWf) : Res.MemWf (execArrayInstrStart s) := by
  unfold execArrayInstrStart
  split
  · split
    · exact .ldStart h
    · split
      · exact .tmmStart h
      · exact .accStart h
  · trivial

theorem State.MemWf.ldEndAt {c o} (h : s.MemWf) : (s.ldEndAt c o).MemWf := .sliceDone (.verifyAll h)

theorem State.MemWf.accEndAt {c o} (h : s.MemWf) : (s.accEndAt c o).MemWf := by
  unfold State.accEndAt
  -- the names stay folded: with the bytes in place the kernel would walk the page table in the match
  extract_lets s
  split
  · exact .sliceDone h
  · exact .sliceDone h
  · exact .sliceDone h
  · extract_lets t bs u v
    have hu : u.MemWf := State.homeWrite_memWf _ _ _ _ _ h
    refine .sliceDone ?_
    unfold v
    split
    · exact hu.of_mem rfl
    · exact hu
  · exact h

theorem execArrayInstrComplete_memWf (h : s.MemWf) : Res.MemWf (execArrayInstrComplete s) := by
  unfold execArrayInstrComplete
  dsimp only
  split
  · split
    · exact h
    · split
      · exact .statMoved h
      · split
        · split
          · split
            · exact .ldEndAt h
            · exact h
          · exact h
        · split
          · split
            · exact .accEndAt h
            · exact h
          · exact h
  · trivial

theorem execArrayIdleGate_memWf (h : s.MemWf) : Res.MemWf (execArrayIdleGate s) := by
  unfold execArrayIdleGate
  dsimp only
  split
  · split <;> exact h
  · trivial

theorem execAccordRelease_memWf (h : s.MemWf) : Res.MemWf (execAccordRelease s) := by
  unfold execAccordRelease
  split
  · split
    · split
      · split
        · exact .wakeWith h
        · exact h
      · exact h
    · exact h
  · trivial

theorem execDiffuserIssue_memWf (h : s.MemWf) : Res.MemWf (execDiffuserIssue s) := by
  unfold execDiffuserIssue
  dsimp only
  split
  · split
    · split
      · exact h
      · split <;> exact .difTry h
    · split
      · exact h
      · split <;> exact .difTry h
  · trivial

theorem execJobStart_memWf (h : s.MemWf) : Res.MemWf (execJobStart s) := by
  unfold execJobStart
  split
  · split
    · split <;> exact h
    · exact h
  · trivial

theorem State.jobAddr_memWf {j c o x} {t : State} (ht : s.jobAddr j c o = .ok (x, t)) (h : s.MemWf) : t.MemWf := by
  unfold State.jobAddr at ht
  split at ht
  · cases ht
    exact h
  · obtain ⟨⟨e, u⟩, translated, ht⟩ := Tr.bind_ok ht
    have hu := State.translate_memWf translated h
    dsimp only at ht
    split at ht
    · split at ht
      · cases ht
      · split at ht
        · cases ht
        · obtain ⟨l, -, ht⟩ := Tr.bind_ok ht
          cases ht
          exact hu
    · split at ht
      · cases ht
      · cases ht
        exact hu

theorem State.MemWf.endJob {ck i cause} (h : s.MemWf) : (s.endJob ck i cause).MemWf := by
  unfold State.endJob
  dsimp only
  split
  · exact h
  · refine .rouse (.foldl (fun _ _ h' => ?_) (.useCounts h))
    split
    · split
      · exact .wakeWith h'
      · exact h'
    · exact h'

theorem State.MemWf.jobPlace {j c o} (h : s.MemWf) : (s.jobPlace j c o).state.MemWf := by
  unfold State.jobPlace
  split
  · exact h
  · exact h
  · split
    · have kept := State.jobAddr_memWf ‹_› h
      exact kept
    · split
      · split
        · have kept := State.jobAddr_memWf ‹_› h
          exact kept
        · exact State.jobAddr_memWf ‹_› h
      · exact State.jobAddr_memWf ‹_› h

theorem State.MemWf.readAhead {ck i j budget} (h : s.MemWf) : (s.readAhead ck i j budget).state.MemWf := by
  unfold State.readAhead
  dsimp only
  split
  · exact h
  · split
    · exact h
    · split
      · exact JobAt.ends_memWf ‹_› (.jobPlace h)
      · exact JobAt.waits_memWf ‹_› (.jobPlace h)
      · split
        · exact .verify (JobAt.ok_memWf ‹_› (.jobPlace h))
        · have kept := JobAt.ok_memWf ‹_› (.jobPlace h)
          exact kept

theorem State.MemWf.jobStep {ck i j budget} (h : s.MemWf) : (s.jobStep ck i j budget).state.MemWf := by
  unfold State.jobStep
  dsimp only
  split
  · split
    · exact .readAhead h
    · exact h
  · split
    · exact h
    · split
      · exact .readAhead h
      · exact h
    · split
      · exact JobAt.ends_memWf ‹_› (.jobPlace h)
      · exact JobAt.waits_memWf ‹_› (.jobPlace h)
      · have placed := JobAt.ok_memWf ‹_› (.jobPlace h)
        split
        · exact .readAhead placed
        · split
          · exact placed
          · exact .of_mem (.jobWrite placed) rfl

theorem State.MemWf.moveJob {ck i fuel budget} (h : s.MemWf) : (s.moveJob ck i fuel budget).MemWf := by
  induction fuel generalizing s budget with
  | zero => exact h
  | succ fuel ih =>
    unfold State.moveJob
    split
    · exact h
    · split
      · exact h
      · split
        · exact JobStep.waits_memWf ‹_› (.jobStep h)
        · exact .endJob (JobStep.ends_memWf ‹_› (.jobStep h))
        · exact ih (JobStep.on_memWf ‹_› (.jobStep h))

theorem State.MemWf.sendFills {ck i j} (h : s.MemWf) : (s.sendFills ck i j).MemWf := by
  unfold State.sendFills
  dsimp only
  split
  · exact .endJob h
  · exact .foldl (fun _ _ h' => h') h

theorem State.MemWf.drainPut {c d cs bs} (h : s.MemWf) : (s.drainPut c d cs bs).MemWf := .jobWrote (.putChunks h)

theorem State.MemWf.drainRows {c dj} (h : s.MemWf) : (s.drainRows c dj).MemWf := by
  unfold State.drainRows
  dsimp only
  split
  · exact .verifyChunks h
  · exact .drainPut (.verifyChunks h)

theorem State.MemWf.endDrain {ck id} (h : s.MemWf) : (s.endDrain ck id).MemWf := by
  unfold State.endDrain
  dsimp only
  split
  · exact h
  · split
    · split
      · exact h
      · split
        · exact .statMoved h
        · split
          · exact .drainRows h
          · exact .drainPut h
          · exact .rouse (.sliceDone (.useCounts h))
    · exact h

theorem execJobComplete_memWf (h : s.MemWf) : Res.MemWf (execJobComplete s) := by
  unfold execJobComplete
  dsimp only
  split
  · dsimp only [Res.MemWf]
    split
    · exact .endDrain h
    · split
      · exact h
      · split
        · exact h
        · split
          · exact .moveJob (.choose h)
          · split
            · split
              · exact .sendFills h
              · exact h
            · split
              · exact .endJob h
              · exact h
  · trivial

theorem execJobEndEarly_memWf (h : s.MemWf) : Res.MemWf (execJobEndEarly s) := by
  unfold execJobEndEarly
  split
  · split
    · split
      · exact h
      · exact .endJob h
    · exact h
  · trivial

theorem State.MemWf.jobPush {c q i j} (h : s.MemWf) : (s.jobPush c q i j).MemWf := by
  unfold State.jobPush
  dsimp only
  split
  · exact h
  · exact .rouse h

theorem execStreamElementArrival_memWf (h : s.MemWf) : Res.MemWf (execStreamElementArrival s) := by
  unfold execStreamElementArrival
  dsimp only
  split
  · split
    · exact h
    · split
      · split
        · split
          · exact h
          · exact .jobPush h
        · exact h
      · split
        · exact h
        · split
          · exact h
          · split
            · exact h
            · split
              · exact h
              · exact .rouse h
  · trivial

theorem execStreamElementAccept_memWf (h : s.MemWf) : Res.MemWf (execStreamElementAccept s) := by
  unfold execStreamElementAccept
  split
  · split
    · exact h
    · split
      · split
        · split <;> exact h
        · exact h
      · split <;> exact h
  · trivial

end Sys2Proof.Machine
end

section

/-! PROOFS. Canonical memory: control transfers, the ends of threads, graphs and the placing of their nodes. -/

namespace Sys2Proof.Machine
open Claims
variable {s : State}

theorem withTarget_memWf {t nw} {f : Bool → TlbEnt → State → State} (h : s.MemWf) (hf : ∀ c e u, u.MemWf → (f c e u).MemWf) :
    (withTarget s t nw f).MemWf := by
  unfold withTarget
  split
  · exact .trap h
  · split
    · exact .trap h
    · refine withPage_memWf h fun e u hu => ?_
      dsimp only
      split
      · exact hf _ _ _ hu
      · split
        · exact .trap hu
        · split
          · exact .trap hu
          · exact hu
          · have read := State.rowOf_memWf ‹_› hu
            split
            · exact .trap read
            · exact hf _ _ _ read

theorem State.MemWf.goTo {t e cross nw} (h : s.MemWf) : (s.goTo t e cross nw).MemWf := .doneAt (.enterPage h)

theorem State.MemWf.land {t e cross nw effect} (h : s.MemWf) : (s.land t e cross nw effect).MemWf := by
  unfold State.land
  dsimp only
  split
  · exact .goTo h
  · exact h

theorem transfer_memWf {p srcs target link} (h : s.MemWf) : Res.MemWf (transfer p srcs target link s) := by
  unfold transfer
  exact run_memWf h (withFull_memWf h (withTarget_memWf h (fun _ _ _ => .land)))

theorem callx_memWf {p srcs target} (h : s.MemWf) : Res.MemWf (callx p srcs target s) := by
  unfold callx
  refine run_memWf h (withFull_memWf h (withTarget_memWf h (fun _ _ _ h' => ?_)))
  split
  · exact .trap h'
  · split
    · exact .trap h'
    · exact .land h'

theorem execRetx_memWf {p} (h : s.MemWf) : Res.MemWf (execRetx p s) := by
  unfold execRetx
  refine run_memWf h ?_
  split
  · exact .trap h
  · refine withPage_memWf h fun _ _ h' => ?_
    split
    · exact .trap h'
    · exact .land h'

theorem trapInstr_memWf {p cause} (h : s.MemWf) : Res.MemWf (trapInstr p cause s) := by
  refine run_memWf h ?_
  split
  · exact .abort h
  · exact .trap h

theorem State.MemWf.hinted {hints t} (h : s.MemWf) : (s.hinted hints t).MemWf := by
  unfold State.hinted
  split
  · split
    · split
      · exact h
      · have kept := State.fetchPage_memWf ‹_› h
        exact kept
    · exact h
  · exact h

theorem tstx_memWf {p bit a imm want} (h : s.MemWf) : Res.MemWf (tstx p bit a imm want s) := by
  unfold tstx
  refine run_memWf h (withFull_memWf h ?_)
  dsimp only
  split
  · exact .finish (.hinted h)
  · exact withTarget_memWf h fun _ _ _ => .land

theorem execExit_memWf {p} (h : s.MemWf) : Res.MemWf (execExit p s) := by
  unfold execExit
  refine run_memWf h ?_
  split
  · exact h
  · exact withLanes_memWf h (.vacate h)

theorem execSpawn_memWf {p d a} (h : s.MemWf) : Res.MemWf (execSpawn p d a s) := by
  unfold execSpawn
  refine run_memWf h (withFull_memWf h ?_)
  dsimp only
  split
  · exact .trap h
  · split
    · exact .finishMe h
    · refine withTarget_memWf h fun _ _ _ h' => ?_
      split
      · exact h'
      · refine .finishMe ?_
        split <;> exact h'

theorem State.MemWf.launch {pid w session} (h : s.MemWf) : (s.launch pid w session).2.MemWf := by
  unfold State.launch
  dsimp only
  split
  · exact h
  · split <;> exact h

theorem State.MemWf.launchBy {k w} (h : s.MemWf) : (s.launchBy k w).2.MemWf := by
  unfold State.launchBy
  split
  · exact h
  · exact .launch h

theorem execLaunch_memWf {p d a b} (h : s.MemWf) : Res.MemWf (execLaunch p d a b s) := by
  unfold execLaunch
  refine run_memWf h (withFull_memWf h ?_)
  dsimp only
  split
  · exact .finishMe h
  · exact .launchBy h

theorem execInrd_memWf {p d a} (h : s.MemWf) : Res.MemWf (execInrd p d a s) := by
  unfold execInrd
  refine run_memWf h (withFull_memWf h ?_)
  dsimp only
  split
  · exact .trap h
  · split
    · exact h
    · exact .finishMe (State.homeWrite_memWf _ _ _ _ _ h)

theorem State.MemWf.verifyVa {c asid cls ps} (h : s.MemWf) : (s.verifyVa c asid cls ps).MemWf := by
  induction ps with
  | nil => exact h
  | cons p ps ih =>
    unfold State.verifyVa
    split
    · split
      · exact .verifyAll h
      · exact ih
    · exact h

theorem State.MemWf.verifyGraph {c asid header} (h : s.MemWf) : (s.verifyGraph c asid header).MemWf := .verifyVa h

theorem State.MemWf.answerTo {by_ x} (h : s.MemWf) : (s.answerTo by_ x).MemWf := by
  unfold State.answerTo
  split
  · exact .mailAnswer h
  · exact h

theorem execGraphRegister_memWf (h : s.MemWf) : Res.MemWf (execGraphRegister s) := by
  unfold execGraphRegister
  dsimp only
  split
  · split
    · exact .answerTo (.verifyGraph h)
    · split
      · exact .verifyGraph h
      · exact .answerTo (.verifyGraph h)
      · exact .answerTo (.verifyGraph h)
  · trivial

theorem execGraphUnregister_memWf (h : s.MemWf) : Res.MemWf (execGraphUnregister s) := by
  unfold execGraphUnregister
  split
  · split <;> exact .answerTo h
  · trivial

theorem State.MemWf.sendFx {pid hs} (h : s.MemWf) : (s.sendFx pid hs).2.MemWf := by
  induction hs generalizing s with
  | nil => exact h
  | cons x hs ih =>
    unfold State.sendFx
    split
    · split
      · split
        · exact h
        · exact ih h
      · split
        · exact .toLane h
        · exact h
    · split
      · exact h
      · exact ih h
    · split
      · exact h
      · have found := snd_memWf ‹_› (.nextRole h)
        exact ih found

theorem State.MemWf.releaseFx {pid i j} (h : s.MemWf) : (s.releaseFx pid i j).MemWf := .sendFx h

theorem execLaunchWordAccept_memWf (h : s.MemWf) : Res.MemWf (execLaunchWordAccept s) := by
  unfold execLaunchWordAccept
  split
  · split
    · exact h
    · split <;> exact h
  · trivial

theorem State.MemWf.modInst {pid i f} (h : s.MemWf) : (s.modInst pid i f).MemWf := h

theorem State.MemWf.tidyInst {pid i} (h : s.MemWf) : (s.tidyInst pid i).MemWf := by
  unfold State.tidyInst
  dsimp only
  split <;> exact h

theorem State.undoCopies_memWf {pid i j c n t} (ht : s.undoCopies pid i j c n = some t) (h : s.MemWf) : t.MemWf := by
  unfold State.undoCopies at ht
  dsimp only at ht
  split at ht
  · cases ht
  · cases ht
    exact h

theorem State.MemWf.fuse {ck fused} (h : s.MemWf) : (s.fuse ck fused).MemWf := by
  unfold State.fuse
  split
  · exact h
  · exact .foldl (fun _ _ h' => h') h

theorem State.MemWf.giveSlots {pid i j next todo held n r binds es} (h : s.MemWf) :
    (s.giveSlots pid i j next todo held n r binds es).MemWf :=
  .foldl (fun _ _ h' => .catchUp (.fuse h')) h

theorem State.MemWf.givePushes {pid i j next todo held n r es} (h : s.MemWf) :
    (s.givePushes pid i j next todo held n r es).MemWf :=
  .foldl (fun _ _ h' => .foldl (fun _ _ => .catchUp) (.fuse h')) h

theorem State.MemWf.placeNode {pid i j next todo held n r} (h : s.MemWf) : (s.placeNode pid i j next todo held n r).MemWf := by
  unfold State.placeNode
  dsimp only
  split
  · exact .endInst h
  · split
    · exact h
    · split
      · split
        · exact .givePushes (.choose h)
        · split
          · split
            · exact .endInst h
            · exact .giveSlots (State.undoCopies_memWf ‹_› (.choose h))
          · exact .giveSlots (.choose h)
      · split
        · exact .givePushes h
        · split
          · split
            · exact .endInst h
            · exact .giveSlots (State.undoCopies_memWf ‹_› h)
          · exact .giveSlots h

theorem State.MemWf.refetch {pid} (h : s.MemWf) : (s.refetch pid).MemWf := h

theorem State.MemWf.freshen {pid i ns} (h : s.MemWf) : (s.freshen pid i ns).MemWf := h

theorem State.MemWf.fenceNode {pid i j} (h : s.MemWf) : (s.fenceNode pid i j).MemWf := by
  unfold State.fenceNode
  dsimp only
  split
  · exact .verifyGraph h
  · exact .endInst (.modPart (.verifyGraph h))
  · exact .modInst (.freshen (.refetch (.verifyGraph h)))

theorem State.MemWf.rereadGraph {pid i j} (h : s.MemWf) : (s.rereadGraph pid i j).MemWf := by
  unfold State.rereadGraph
  dsimp only
  split
  · exact h
  · split
    · exact .verifyGraph h
    · exact .endInst (.verifyGraph h)
    · exact .freshen (.verifyGraph h)

theorem execNodeStart_memWf (h : s.MemWf) : Res.MemWf (execNodeStart s) := by
  unfold execNodeStart
  dsimp only
  split
  · split
    · exact h
    · split
      · split
        · split
          · exact .placeNode h
          · exact h
        · exact h
      · split
        · exact .rereadGraph h
        · split
          · exact h
          · split
            · exact h
            · split
              · exact .fenceNode h
              · split
                · exact h
                · split
                  · exact h
                  · split
                    · exact .placeNode h
                    · exact h
      · exact h
  · trivial

theorem execTaskRecordWrite_memWf (h : s.MemWf) : Res.MemWf (execTaskRecordWrite s) := by
  unfold execTaskRecordWrite
  dsimp only
  split
  · split
    · exact h
    · split
      · exact .rouse h
      · exact h
  · trivial

theorem execNodeComplete_memWf (h : s.MemWf) : Res.MemWf (execNodeComplete s) := by
  unfold execNodeComplete
  dsimp only
  split
  · split
    · exact .tidyInst (.releaseFx h)
    · split
      · exact h
      · exact .releaseFx h
  · trivial

theorem State.MemWf.complete {pid i x e} (h : s.MemWf) : (s.complete pid i x e).MemWf := by
  refine .tidyInst (.modInst ?_)
  split
  · split
    · split
      · exact .modDev (.jobWrite h)
      · exact .jobWrite h
    · split <;> exact h
  · split
    · exact .jobWrite h
    · exact h

theorem execInstanceComplete_memWf (h : s.MemWf) : Res.MemWf (execInstanceComplete s) := by
  unfold execInstanceComplete
  dsimp only
  split
  · split
    · split
      · exact h
      · exact .complete h
    · exact h
  · trivial

theorem execRecoveryModeSet_memWf (h : s.MemWf) : Res.MemWf (execRecoveryModeSet s) := by
  unfold execRecoveryModeSet
  dsimp only
  split
  · split
    · exact .answerTo h
    · split
      · exact .answerTo h
      · split
        · split <;> exact .answerTo (.choose h)
        · split <;> exact .answerTo h
  · trivial

end Sys2Proof.Machine
end

section

/-! PROOFS. Canonical memory: stops, images and saved contexts, boot and sessions, links and errors. -/

namespace Sys2Proof.Machine
open Claims
variable {s : State}

theorem State.MemWf.clearCluster {ck} (h : s.MemWf) : (s.clearCluster ck).MemWf := Memory.filter_wf _ (State.MemWf.useCounts h)

theorem State.MemWf.retireKey {d id} (h : s.MemWf) : (s.retireKey d id).MemWf := by
  unfold State.retireKey
  split <;> exact h

theorem State.MemWf.killPart {pid} (h : s.MemWf) : (s.killPart pid).MemWf := by
  unfold State.killPart
  dsimp only
  refine .modPart (.foldl (fun _ _ => .retireKey) ?_)
  refine .useCounts (.foldl (fun _ _ h' => .foldl (fun _ _ h'' => h'') (.clearCluster h')) ?_)
  refine .foldl ?_ ?_
  · intro _ _ h'
    split
    · exact .complete h'
    · exact h'
  · refine .foldl (fun _ _ => .endInst) ?_
    refine .foldl (fun _ _ h' => ?_) (.foldl (fun _ _ h' => h') (.answerTo h))
    split
    · exact .kill h'
    · exact h'

theorem execWatchdogExpiry_memWf (h : s.MemWf) : Res.MemWf (execWatchdogExpiry s) := by
  unfold execWatchdogExpiry
  split
  · split
    · split
      · exact .killPart h
      · exact h
    · exact h
  · trivial

theorem execSyncStop_memWf (h : s.MemWf) : Res.MemWf (execSyncStop s) := by
  unfold execSyncStop
  dsimp only
  split
  · split
    · split
      · exact h
      · exact .modCluster (.foldl (fun _ _ => .stopSlot) h)
    · exact h
  · trivial

theorem State.MemWf.endSave {pid ck} (h : s.MemWf) : (s.endSave pid ck).MemWf := by
  unfold State.endSave
  split
  · split
    · exact .answerTo h
    · exact h
  · exact h

theorem execSyncResume_memWf (h : s.MemWf) : Res.MemWf (execSyncResume s) := by
  unfold execSyncResume
  dsimp only
  split
  · split
    · split
      · exact h
      · exact .endSave h
    · exact h
  · trivial

theorem execJobFreeze_memWf (h : s.MemWf) : Res.MemWf (execJobFreeze s) := by
  unfold execJobFreeze
  dsimp only
  split
  · split
    · split <;> exact h
    · exact h
  · trivial

theorem State.MemWf.captureMsgs {v ms} (h : s.MemWf) : (s.captureMsgs v ms).2.MemWf := by
  induction ms generalizing s with
  | nil => exact h
  | cons m ms ih =>
    unfold State.captureMsgs
    refine ih ?_
    have picked : ∀ n, (if 2 ≤ n then s.choose else (0, s)).2.MemWf := by
      intro n
      split
      · exact .choose h
      · exact h
    exact picked _

theorem execSillageSweep_memWf (h : s.MemWf) : Res.MemWf (execSillageSweep s) := by
  unfold execSillageSweep
  dsimp only
  split
  · split
    · split
      · exact h
      · exact .captureMsgs h
    · exact h
  · trivial

theorem State.MemWf.putPage {key pa cells} (h : s.MemWf) : (s.putPage key pa cells).MemWf :=
  .foldl (fun _ _ => .lineWritten) (Memory.writeCells_wf _ (Memory.filter_wf _ h))

theorem State.MemWf.writeImage {i} (h : s.MemWf) : (s.writeImage i).MemWf := by
  refine .foldl (fun _ _ h' => ?_) h
  split
  · exact .putPage h'
  · exact h'

theorem State.MemWf.writeHeader {i} (h : s.MemWf) : (s.writeHeader i).MemWf := by
  unfold State.writeHeader
  split
  · exact State.homeWrite_memWf _ _ _ _ _ h
  · exact h

theorem State.MemWf.imagePlace {pid c} (h : s.MemWf) : (s.imagePlace pid c).2.MemWf := by
  unfold State.imagePlace
  dsimp only
  split
  · exact h
  · exact .choose h

theorem execImageWrite_memWf (h : s.MemWf) : Res.MemWf (execImageWrite s) := by
  unfold execImageWrite
  split
  · show State.MemWf _
    split
    · split
      · exact h
      · extract_lets r i ps out
        have hr : r.2.MemWf := .imagePlace h
        split
        · exact hr
        · split
          · exact .killPart hr
          · exact .modPart (.writeImage hr)
    · exact h
  · trivial

theorem State.MemWf.unspill {pid} (h : s.MemWf) : (s.unspill pid).MemWf := by
  refine .foldl (fun _ _ h' => ?_) h
  split
  · refine .foldl (fun _ _ h'' => ?_) h'
    split
    · exact .putPage h''
    · exact h''
  · exact h'

theorem execImageSeal_memWf (h : s.MemWf) : Res.MemWf (execImageSeal s) := by
  unfold execImageSeal
  dsimp only
  split
  · split
    · split
      · exact h
      · split
        · exact .answerTo (.foldl (fun _ _ h' => h') (.writeHeader h))
        · exact .foldl (fun _ _ h' => h') (.writeHeader h)
    · exact h
  · trivial

theorem State.MemWf.giveUp {pid key i} (h : s.MemWf) : (s.giveUp pid key i).MemWf := by
  refine .foldl ?_ ?_
  · intro _ _ h'
    split
    · exact .endInst h'
    · exact h'
  · split
    · exact .foldl (fun _ _ => .useCounts) (.foldl (fun _ _ => .answerFill) h)
    · exact .useCounts (.foldl (fun _ _ => .useCounts) (.foldl (fun _ _ => .answerFill) h))

theorem execSaveBudgetExpiry_memWf (h : s.MemWf) : Res.MemWf (execSaveBudgetExpiry s) := by
  unfold execSaveBudgetExpiry
  split
  · split
    · exact .killPart h
    · exact .foldl (fun _ _ => .giveUp) h
  · trivial

theorem execImageSwapOut_memWf (h : s.MemWf) : Res.MemWf (execImageSwapOut s) := by
  unfold execImageSwapOut
  dsimp only
  split
  · split
    · split
      · exact h
      · exact .writeHeader h
    · exact h
  · trivial

theorem execImageReadback_memWf (h : s.MemWf) : Res.MemWf (execImageReadback s) := by
  unfold execImageReadback
  dsimp only
  split
  · split
    · exact .killPart h
    · split
      · split
        · exact h
        · exact .writeImage h
      · exact h
  · trivial

theorem State.MemWf.withClusters {e pid desc by_ own} {f : List Nat → State} (h : s.MemWf) (hf : ∀ cks, (f cks).MemWf) :
    (s.withClusters e pid desc by_ own f).MemWf := by
  unfold State.withClusters
  split
  · exact h
  · exact .answerTo h
  · split
    · exact .answerTo h
    · exact hf _

theorem execCtxSave_memWf (h : s.MemWf) : Res.MemWf (execCtxSave s) := by
  unfold execCtxSave
  dsimp only
  split
  · refine .withClusters h fun _ => ?_
    split
    · exact .answerTo h
    · split
      · exact h
      · split
        · exact .answerTo h
        · exact h
  · trivial

theorem State.MemWf.emptyCluster {pid ck} (h : s.MemWf) : (s.emptyCluster pid ck).MemWf := by
  refine .foldl (fun _ _ h' => ?_) h
  refine .foldl (fun _ _ h'' => ?_) h'
  split
  · exact h''
  · split
    · exact .vacate h''
    · exact .kill h''

theorem execCtxClear_memWf (h : s.MemWf) : Res.MemWf (execCtxClear s) := by
  unfold execCtxClear
  split
  · exact .withClusters h (fun _ => .answerTo (.foldl (fun _ _ h'' => .clearCluster (.emptyCluster h'')) h))
  · trivial

theorem State.MemWf.leaveSlot {i k} (h : s.MemWf) : (s.leaveSlot i k).MemWf := by
  unfold State.leaveSlot
  dsimp only
  split
  · exact h
  · refine .vacate ?_
    split <;> split <;> exact h

theorem State.MemWf.placeThread {m saved i e dst} (h : s.MemWf) : (s.placeThread m saved i e dst).MemWf := by
  have fused : (match s.fuseOf e.2 with
      | some f => s.fuse (clusterOf dst) f
      | none => s).MemWf := by
    split
    · exact .fuse h
    · exact h
  unfold State.placeThread
  extract_lets ck c tk gen s1 s2 slot s3 s4 dif s5 s6
  have h3 : s3.MemWf := fused
  have h4 : s4.MemWf := .foldl (fun t b ht => by split <;> exact ht) h3
  have h5 : s5.MemWf := by
    unfold s5
    split <;> exact h4
  have h6 : s6.MemWf := by
    unfold s6
    split <;> exact h5
  split <;> exact h6

theorem State.MemWf.sendCaptured {m saved g} (h : s.MemWf) : (s.sendCaptured m saved g).MemWf := by
  unfold State.sendCaptured
  dsimp only
  split
  · split
    · split
      · exact h
      · split
        · split
          · exact h
          · exact .answerFill h
        · exact .answerFill h
    · exact .answerFill h
  · exact h

theorem State.MemWf.replaceIn {pid named is} (h : s.MemWf) : (s.replaceIn pid named is).MemWf := by
  refine .foldl (fun _ _ => .sendCaptured) ?_
  refine .foldl ?_ ?_
  · intro _ _ h'
    refine .foldl (fun _ _ h'' => ?_) h'
    split
    · exact .placeThread h''
    · exact h''
  · refine .foldl (fun _ _ h' => ?_) (.unspill h)
    refine .foldl (fun _ _ h'' => ?_) h'
    split
    · exact h''
    · exact .leaveSlot h''

theorem execCtxReplace_memWf (h : s.MemWf) : Res.MemWf (execCtxReplace s) := by
  unfold execCtxReplace
  dsimp only
  split
  · split
    · exact h
    · exact .replaceIn h
  · exact .withClusters h fun _ => .answerTo (.replaceIn h)
  · trivial

theorem execMeasurementExtend_memWf (h : s.MemWf) : Res.MemWf (execMeasurementExtend s) := by
  unfold execMeasurementExtend
  split
  · exact h
  · trivial

theorem State.MemWf.handOver {d src f} (h : s.MemWf) : (s.handOver d src f).MemWf := by
  refine .setSlot (.foldl (fun _ _ h' => h') ?_)
  split
  · exact State.homeWrite_memWf _ _ _ _ _ h
  · exact .foldl (fun _ _ h' => h') (State.homeWrite_memWf _ _ _ _ _ h)

theorem State.MemWf.clearDevice {d} (h : s.MemWf) : (s.clearDevice d).MemWf := Memory.filter_wf _ h

theorem State.MemWf.bootFrom {d src f} (h : s.MemWf) : (s.bootFrom d src f).MemWf := by
  unfold State.bootFrom
  split
  · exact .handOver h
  · exact h

theorem execDeviceReset_memWf (h : s.MemWf) : Res.MemWf (execDeviceReset s) := by
  unfold execDeviceReset
  dsimp only
  split
  · split
    · exact .clearDevice h
    · exact .bootFrom (.clearDevice h)
  · trivial

theorem execRecoveryRequest_memWf (h : s.MemWf) : Res.MemWf (execRecoveryRequest s) := by
  unfold execRecoveryRequest
  dsimp only
  split
  · exact h
  · trivial

theorem execRecoveryDataFrame_memWf (h : s.MemWf) : Res.MemWf (execRecoveryDataFrame s) := by
  unfold execRecoveryDataFrame
  dsimp only
  split
  · exact h
  · trivial

theorem execRecoveryEndFrame_memWf (h : s.MemWf) : Res.MemWf (execRecoveryEndFrame s) := by
  unfold execRecoveryEndFrame
  dsimp only
  split
  · split
    · exact h
    · exact .bootFrom h
  · trivial

theorem execRecoveryTimeout_memWf (h : s.MemWf) : Res.MemWf (execRecoveryTimeout s) := by
  unfold execRecoveryTimeout
  split
  · exact h
  · trivial

theorem execRecoveryRetry_memWf (h : s.MemWf) : Res.MemWf (execRecoveryRetry s) := by
  unfold execRecoveryRetry
  split
  · exact h
  · trivial

theorem execEthernetFrameRx_memWf (h : s.MemWf) : Res.MemWf (execEthernetFrameRx s) := by
  unfold execEthernetFrameRx
  dsimp only
  split
  · split
    · exact h
    · split <;> exact h
  · trivial

theorem execGetDigests_memWf (h : s.MemWf) : Res.MemWf (execGetDigests s) := by
  unfold execGetDigests
  split
  · exact h
  · trivial

theorem execGetCertificate_memWf (h : s.MemWf) : Res.MemWf (execGetCertificate s) := by
  unfold execGetCertificate
  split
  · exact h
  · trivial

theorem execChallenge_memWf (h : s.MemWf) : Res.MemWf (execChallenge s) := by
  unfold execChallenge
  split
  · exact h
  · trivial

theorem execGetMeasurements_memWf (h : s.MemWf) : Res.MemWf (execGetMeasurements s) := by
  unfold execGetMeasurements
  split
  · exact h
  · trivial

theorem execKeyExchange_memWf (h : s.MemWf) : Res.MemWf (execKeyExchange s) := by
  unfold execKeyExchange
  dsimp only
  split
  · exact h
  · trivial

theorem execFinish_memWf (h : s.MemWf) : Res.MemWf (execFinish s) := by
  unfold execFinish
  dsimp only
  split
  · split
    · exact h
    · split
      · exact h
      · split
        · exact h
        · split
          · exact h
          · split
            · split <;> exact h
            · exact h
  · trivial

theorem execKeyUpdate_memWf (h : s.MemWf) : Res.MemWf (execKeyUpdate s) := by
  unfold execKeyUpdate
  dsimp only
  split
  · exact h
  · trivial

theorem execHeartbeat_memWf (h : s.MemWf) : Res.MemWf (execHeartbeat s) := by
  unfold execHeartbeat
  split
  · split <;> exact h
  · trivial

theorem execEndSession_memWf (h : s.MemWf) : Res.MemWf (execEndSession s) := by
  unfold execEndSession
  dsimp only
  split
  · split <;> exact h
  · trivial

theorem State.MemWf.tenantAccess {e pid asid va n} {go : List Chunk → State} (h : s.MemWf) (hgo : ∀ cs, (go cs).MemWf) :
    (s.tenantAccess e pid asid va n go).MemWf := by
  unfold State.tenantAccess
  split
  · split
    · exact hgo _
    · exact .foldl (fun _ _ ht => ht) h
  · exact h
  · exact h

theorem State.MemWf.createPart {pid cert keys} (h : s.MemWf) : (s.createPart pid cert keys).MemWf := by
  unfold State.createPart
  dsimp only
  split <;> exact h

theorem State.MemWf.destroyPart {pid} (h : s.MemWf) : (s.destroyPart pid).MemWf := by
  unfold State.destroyPart
  split
  · exact h
  · exact .modPart (.killPart h)

theorem State.MemWf.tenantSays {d id pid msg} (h : s.MemWf) : (s.tenantSays d id pid msg).MemWf := by
  unfold State.tenantSays
  dsimp only
  split
  · exact .launch h
  · split
    · exact h
    · exact .tenantAccess h fun _ => .putChunks h
  · split
    · exact h
    · refine .tenantAccess h fun _ => ?_
      split
      · exact .verifyAll h
      · exact h
  · exact h

theorem execTenantAppData_memWf (h : s.MemWf) : Res.MemWf (execTenantAppData s) := by
  unfold execTenantAppData
  split
  · split
    · exact h
    · split
      · split
        · exact .tenantSays h
        · exact h
      · split
        · exact .createPart h
        · exact h
      · split
        · exact .destroyPart h
        · exact h
      · exact h
  · trivial

theorem execLinkEnable_memWf (h : s.MemWf) : Res.MemWf (execLinkEnable s) := by
  unfold execLinkEnable
  dsimp only
  split
  · split <;> exact h
  · trivial

theorem execLinkTrainingEnd_memWf (h : s.MemWf) : Res.MemWf (execLinkTrainingEnd s) := by
  unfold execLinkTrainingEnd
  dsimp only
  split
  · split
    · exact h
    · split
      · exact h
      · split
        · exact h
        · split <;> exact h
  · trivial

theorem execFlitResend_memWf (h : s.MemWf) : Res.MemWf (execFlitResend s) := by
  unfold execFlitResend
  dsimp only
  split
  · split
    · exact h
    · split <;> split <;> split <;> exact h
  · trivial

theorem State.MemWf.lose {d i} (h : s.MemWf) : (s.lose d i).MemWf := by
  refine .foldl ?_ ?_
  · intro _ _ h'
    split
    · exact h'
    · refine .foldl (fun _ _ h'' => ?_) h'
      split
      · exact .endJob h''
      · exact h''
  · refine .foldl (fun _ _ h' => .answerFill h') ?_
    refine .foldl (fun _ _ h' => ?_) h
    refine .wakeWith ?_
    split <;> exact h'

theorem execLinkDown_memWf (h : s.MemWf) : Res.MemWf (execLinkDown s) := by
  unfold execLinkDown
  split
  · split
    · exact h
    · exact .lose h
  · trivial

theorem execLinkDisable_memWf (h : s.MemWf) : Res.MemWf (execLinkDisable s) := by
  unfold execLinkDisable
  dsimp only
  split
  · split
    · exact .lose h
    · exact h
  · trivial

theorem execClockSyncExchange_memWf (h : s.MemWf) : Res.MemWf (execClockSyncExchange s) := by
  unfold execClockSyncExchange
  dsimp only
  split
  · split <;> exact h
  · trivial

theorem execClockSyncLoss_memWf (h : s.MemWf) : Res.MemWf (execClockSyncLoss s) := by
  unfold execClockSyncLoss
  split
  · exact h
  · trivial

theorem execKeyGenerate_memWf (h : s.MemWf) : Res.MemWf (execKeyGenerate s) := by
  unfold execKeyGenerate
  split
  · exact h
  · trivial

theorem execKeyRetire_memWf (h : s.MemWf) : Res.MemWf (execKeyRetire s) := by
  unfold execKeyRetire
  split
  · split
    · exact h
    · exact .retireKey h
  · trivial

theorem execInterleaveCommit_memWf (h : s.MemWf) : Res.MemWf (execInterleaveCommit s) := by
  unfold execInterleaveCommit
  dsimp only
  split
  · split <;> exact h
  · trivial

theorem execMovedFrameEnter_memWf (h : s.MemWf) : Res.MemWf (execMovedFrameEnter s) := by
  unfold execMovedFrameEnter
  split
  · exact h
  · trivial

theorem execMovedFrameRemove_memWf (h : s.MemWf) : Res.MemWf (execMovedFrameRemove s) := by
  unfold execMovedFrameRemove
  dsimp only
  split
  · exact .foldl (fun _ _ => .statMoved) h
  · trivial

theorem execIntcntClear_memWf (h : s.MemWf) : Res.MemWf (execIntcntClear s) := by
  unfold execIntcntClear
  split
  · exact h
  · trivial

theorem execClusterHold_memWf (h : s.MemWf) : Res.MemWf (execClusterHold s) := by
  unfold execClusterHold
  dsimp only
  split
  · refine .foldl (fun _ _ h' => ?_) h
    split
    · exact .halt h'
    · exact h'
  · trivial

theorem execClusterRelease_memWf (h : s.MemWf) : Res.MemWf (execClusterRelease s) := by
  unfold execClusterRelease
  dsimp only
  split
  · refine .foldl ?_ ?_
    · intro _ _ h'
      split <;> exact h'
    · split
      · exact h
      · exact .endSave h
  · trivial

theorem execFirewallWrite_memWf (h : s.MemWf) : Res.MemWf (execFirewallWrite s) := by
  unfold execFirewallWrite
  dsimp only
  split
  · split
    · exact h
    · split <;> split <;> exact h
  · trivial

theorem execMailRecordDelivery_memWf (h : s.MemWf) : Res.MemWf (execMailRecordDelivery s) := by
  unfold execMailRecordDelivery
  split
  · split
    · exact h
    · split
      · exact h
      · exact .rouse h
  · trivial

theorem execCorrectableError_memWf (h : s.MemWf) : Res.MemWf (execCorrectableError s) := by
  unfold execCorrectableError
  split
  · exact h
  · trivial

theorem State.MemWf.discardWork {pid} (h : s.MemWf) : (s.discardWork pid).MemWf := by
  refine .foldl (fun t e ht => ?_) (.foldl (fun t e ht => ?_) h)
  · exact .foldl (fun _ _ ht => ht) (.foldl (fun _ _ => .useCounts) ht)
  · exact .foldl (fun _ _ => .useCounts) ht

theorem State.MemWf.discardSlot {k} (h : s.MemWf) : (s.discardSlot k).MemWf := by
  refine .vacate ?_
  split <;> exact h

theorem State.MemWf.rollBack {pid} (h : s.MemWf) : (s.rollBack pid).MemWf := .foldl (fun _ _ h' => h') h

theorem State.MemWf.restore {pid} (h : s.MemWf) : (s.restore pid).MemWf := by
  unfold State.restore
  extract_lets cks ks s1 undo s2 insts s3 held s4 s5 s6
  have h1 : s1.MemWf := .foldl (fun _ _ => .discardSlot) (.discardWork h)
  have h2 : s2.MemWf := .foldl (fun t u ht => State.homeWrite_memWf _ _ _ _ _ (ht.of_mem rfl)) h1
  have h3 : s3.MemWf := .foldl (fun _ _ ht => ht) h2
  have h5 : s5.MemWf := .foldl (fun _ _ ht => ht) (h3.of_mem rfl)
  refine .foldl (fun t i ht => ?_) (h5.of_mem rfl)
  split
  · exact .endInst ht
  · exact ht

theorem State.MemWf.charge {d pid} (h : s.MemWf) : (s.charge d pid).MemWf := by
  unfold State.charge
  split
  · exact h
  · split
    · exact h
    · split
      · split
        · exact .killPart h
        · exact h
      · split
        · exact .rollBack h
        · exact .killPart h

theorem State.MemWf.corrupt {pa x} (h : s.MemWf) : (s.corrupt pa x).MemWf := Memory.writeCells_wf _ h

theorem execUncorrectableError_memWf (h : s.MemWf) : Res.MemWf (execUncorrectableError s) := by
  unfold execUncorrectableError
  split
  · split
    · exact .corrupt h
    · split
      · exact .charge h
      · exact h
    · exact h
    · exact h
    · split
      · exact .charge h
      · exact h
    · exact .charge h
    · exact .charge h
    · split <;> exact h
    · split
      · exact .restore h
      · exact h
  · trivial

end Sys2Proof.Machine
end

section

/-! PROOFS. Canonical memory: loads, stores and the scalar instructions, and with them every instruction and event (`exec_memWf`).
-/

namespace Sys2Proof.Machine
open Claims
variable {s : State}

theorem load_memWf {p d a off n signed} (h : s.MemWf) : Res.MemWf (load p d a off n signed s) := by
  unfold load
  refine run_memWf h (withFull_memWf h (withAcc_memWf h (fun _ h' => ?_)))
  split
  · exact .regionLoad (.fillNext h')
  · exact doLoad_memWf h'

theorem store_memWf {p d a off n} (h : s.MemWf) : Res.MemWf (store p d a off n s) := by
  unfold store
  refine run_memWf h (withFull_memWf h (withAcc_memWf h (fun _ h' => ?_)))
  dsimp only
  split
  · exact .regionStore h'
  · exact .post h'

theorem State.MemWf.konstFill {va} {acc : Acc} (h : s.MemWf) : (s.konstFill va acc).MemWf := by
  unfold State.konstFill
  dsimp only
  split <;> exact h

theorem State.MemWf.konstFor {hints va} {acc : Acc} (h : s.MemWf) : (s.konstFor hints va acc).MemWf := by
  unfold State.konstFor
  dsimp only
  split
  · split
    · exact .konstFill h
    · exact h
  · split
    · exact .konstFill (.konstFill h)
    · exact .konstFill h

theorem execLdc_memWf {p d a off} (h : s.MemWf) : Res.MemWf (execLdc p d a off s) := by
  unfold execLdc
  refine run_memWf h (withFull_memWf h (withAcc_memWf h (fun _ h' => ?_)))
  dsimp only
  split
  · exact h'
  · split
    · exact .trap h'
    · split
      · exact .verifyAll h'
      · exact .onPath (.konstFor h')

theorem execCsync_memWf {p} (h : s.MemWf) : Res.MemWf (execCsync p s) := by
  unfold execCsync
  refine run_memWf h ?_
  split
  · exact .finish h
  · exact h

theorem execLdAcq_memWf {p sc sz d a off} (h : s.MemWf) : Res.MemWf (execLdAcq p sc sz d a off s) := by
  unfold execLdAcq
  refine run_memWf h (withFull_memWf h (withAcc_memWf h (fun _ h' => ?_)))
  refine withScope_memWf h' fun _ => ?_
  split
  · exact h'
  · split
    · exact h'
    · refine doLoad_memWf ?_
      split <;> exact h'

theorem execStRel_memWf {p sc sz d a off} (h : s.MemWf) : Res.MemWf (execStRel p sc sz d a off s) := by
  unfold execStRel
  refine run_memWf h (withFull_memWf h (withAcc_memWf h (fun _ h' => ?_)))
  refine withScope_memWf h' fun _ => ?_
  refine withLanes_memWf h' ?_
  dsimp only
  split
  · exact h'
  · exact .post h'

theorem alu_memWf {p nw d a b op} (h : s.MemWf) : Res.MemWf (alu p nw d a b op s) :=
  run_memWf h (withFull_memWf h (.finishMe h))

theorem alu1_memWf {p nw d a op} (h : s.MemWf) : Res.MemWf (alu1 p nw d a op s) := run_memWf h (withFull_memWf h (.finishMe h))

theorem cmp_memWf {p d a b op} (h : s.MemWf) : Res.MemWf (cmp p d a b op s) := run_memWf h (withFull_memWf h (.finishMe h))

theorem plogic_memWf {p d a b op} (h : s.MemWf) : Res.MemWf (plogic p d a b op s) := run_memWf h (.finishMe h)

theorem execQpop_memWf {p d q} (h : s.MemWf) : Res.MemWf (execQpop p d q s) := by
  refine run_memWf h ?_
  split
  · exact .trap h
  · split
    · exact h
    · exact .finishMe h

theorem execQpush_memWf {p q a} (h : s.MemWf) : Res.MemWf (execQpush p q a s) := by
  refine run_memWf h (withFull_memWf h ?_)
  split
  · exact .trap h
  · split
    · exact h
    · exact .finish h

theorem exec_memWf {i} (h : s.MemWf) : Res.MemWf (exec i s) := by
  unfold exec
  cases i with
  | add | sub | and | or | xor | mul | shl | shr | shra | andn | mulh | mulhz | div | divz | rem | remz | bfi | min | max |
    minz | maxz => exact alu_memWf h
  | gate | wdsetKick => exact run_memWf h (.finish h)
  | retx => exact execRetx_memWf h
  | exit => exact execExit_memWf h
  | brk | trap => exact trapInstr_memWf h
  | addi | shli | shri | shrai | bfxZ | bfxS | clz | ctz | popc | bswap | andi | ori | xori => exact alu1_memWf h
  | ldS8 | ldS16 | ldS32 | ld64 | ldZ8 | ldZ16 | ldZ32 => exact load_memWf h
  | st8 | st16 | st32 | st64 => exact store_memWf h
  | ldl | ldlLong => exact ldlAt_memWf h
  | stl | stlLong => exact stlAt_memWf h
  | ldc => exact execLdc_memWf h
  | cmpEq | cmpNe | cmpLt | cmpGe | cmpuLtu | cmpuGeu | cmpuTst | cmpuNtst => exact cmp_memWf h
  | pand | por | pxor | pandn => exact plogic_memWf h
  | br | call | jmp | callReg | ret => exact transfer_memWf h
  | callx | callxReg => exact callx_memWf h
  | vadd => exact runEff_memWf h fun _ => effVadd_memWf
  | vsub => exact runEff_memWf h fun _ => effVsub_memWf
  | vmul => exact runEff_memWf h fun _ => effVmul_memWf
  | vfma | vfms | vfnma | vfnms => exact runEff_memWf h fun _ => effFused_memWf
  | vmax | vmin | vmaxa | vmina => exact runEff_memWf h fun _ => effExtreme_memWf
  | vcmpEq | vcmpLt | vcmpLe | vcmpUn => exact runEff_memWf h fun _ => effVcmp_memWf
  | vsel => exact runEff_memWf h fun _ => effVsel_memWf
  | vand | vor | vxor | vandn => exact runEff_memWf h fun _ => effBits_memWf
  | vshl | vshr | vshra => exact runEff_memWf h fun _ => effShift_memWf
  | vredSum | vredMax | vredMin => exact runEff_memWf h fun _ => effVred_memWf
  | vcvt | mand | mor | mxor | mandn | mpop | mget | mgetVs | mgetVsClr | tchk => exact runEff_memWf h fun _ h' => h'
  | vexp2 | vrcp | vrsq => exact runEff_memWf h fun _ => effUnary_memWf
  | vquant => exact runEff_memWf h fun _ => effVquant_memWf
  | vdeq => exact runEff_memWf h fun _ => effVdeq_memWf
  | vmov => exact runEff_memWf h fun _ => effVmov_memWf
  | vbcast => exact runEff_memWf h fun _ => effVbcast_memWf
  | vgetl => exact runEff_memWf h fun _ => effVgetl_memWf
  | vsetl => exact runEff_memWf h fun _ => effVsetl_memWf
  | vld => exact runEff_memWf h fun _ => effVld_memWf
  | vst => exact execVst_memWf h
  | vgather => exact runEff_memWf h fun _ => effVgather_memWf
  | mset => exact runEff_memWf h fun _ h' => withVec_memWf h' (fun _ _ h'' => h'')
  | vabs | vneg => exact runEff_memWf h fun _ => effSign_memWf
  | gangStatic => exact runEff_memWf h fun _ => gangJoin_memWf
  | gangElastic =>
      exact runEff_memWf h (fun _ h' => withVec_memWf h' (fun _ _ h'' => effAcc_memWf h'' (fun _ => gangJoin_memWf)))
  | gangEnd => exact runEff_memWf h fun _ h' => withMember_memWf h' (fun _ h'' => h'')
  | twld => exact runEff_memWf h fun _ => effTwld_memWf
  | tmm => exact runEff_memWf h fun _ => effTmm_memWf
  | tdrain | tdrainAdd => exact runEff_memWf h fun _ h' => withWalks_memWf h' (effTdrain_memWf h')
  | tzero => exact runEff_memWf h fun _ => effTzero_memWf
  | trda | twra => exact runEff_memWf h (fun _ h' => withMember_memWf h' (fun _ h'' => withTile_memWf h'' (fun _ => h'')))
  | tpack => exact runEff_memWf h fun _ => effTpack_memWf
  | tunpk => exact runEff_memWf h fun _ => effTunpk_memWf
  | tstxSet | tstxClr => exact tstx_memWf h
  | accMax | accScale => exact runEff_memWf h fun _ => effAccord_memWf
  | difs => exact runEff_memWf h fun _ => effDifs_memWf
  | difgo => exact runEff_memWf h fun _ => effDifgo_memWf
  | difwait => exact execDifwait_memWf h
  | ldfe | ldff | stfe | stff => exact fe_memWf h
  | seteE | seteF => exact sete_memWf h
  | rempty | ebnd | epos | krd => exact run_memWf h (.finishMe h)
  | fill => exact execFill_memWf h
  | amoAdd | amoAnd | amoOr | amoXor | amoMin | amoMax | amoMinz | amoMaxz | amoSwap | amoCas => exact amo_memWf h
  | amopAdd | amopAnd | amopOr | amopXor | amopMin | amopMax | amopMinz | amopMaxz => exact amop_memWf h
  | famoF32 | famoBf16 => exact posted_memWf h
  | ldr => exact execLdr_memWf h
  | stc => exact execStc_memWf h
  | waitrs => exact execWaitrs_memWf h
  | fenceAcq | fenceRel | fenceAr | fenceSc => exact fence_memWf h
  | fencePost => exact execFencePost_memWf h
  | scopedef => exact execScopedef_memWf h
  | csync => exact execCsync_memWf h
  | ebegin => exact execEbegin_memWf h
  | ecommit => exact execEcommit_memWf h
  | eabort => exact execEabort_memWf h
  | barArrive => exact execBarArrive_memWf h
  | barWait => exact execBarWait_memWf h
  | barAw => exact execBarAw_memWf h
  | barTest => exact execBarTest_memWf h
  | barInit => exact execBarInit_memWf h
  | ldAcq => exact execLdAcq_memWf h
  | stRel => exact execStRel_memWf h
  | copy => exact execCopy_memWf h
  | copyq => exact execCopyq_memWf h
  | cjwait => exact execCjwait_memWf h
  | cjtest | addg | kwr | sel => exact run_memWf h (withFull_memWf h (.finishMe h))
  | mkgrant => exact run_memWf h (Eff.toState_memWf (withWalks_memWf h (effMkgrant_memWf h)))
  | grantq => exact execGrantq_memWf h
  | revoke => exact execRevoke_memWf h
  | wfw => exact run_memWf h h
  | spawn => exact execSpawn_memWf h
  | launch => exact execLaunch_memWf h
  | inrd => exact execInrd_memWf h
  | qpop => exact execQpop_memWf h
  | qpush => exact execQpush_memWf h
  | srd => exact execSrd_memWf h
  | swr => exact execSwr_memWf h
  | eret => exact run_memWf h (.eret h)
  | eretStart => exact execEretStart_memWf h
  | tlbinvRange => exact execTlbinvRange_memWf h
  | tlbinvAsid => exact execTlbinvAsid_memWf h
  | tlbinvS2range => exact execTlbinvS2range_memWf h
  | tlbinvPartition => exact execTlbinvPartition_memWf h
  | tlbprobe => exact execTlbprobe_memWf h
  | cacheopIc | cacheopL1 | cacheopCc => exact cacheop_memWf h fun _ _ _ h' => h'
  | cacheopL2v => exact execCacheopL2v_memWf h
  | cacheopL2p => exact execCacheopL2p_memWf h
  | domsetRow | domsetAll => exact domset_memWf h
  | fwsend => exact execFwsend_memWf h
  | fwsendReply => exact execFwsendReply_memWf h
  | stoparmCore => exact execStoparmCore_memWf h
  | stoparmStop | stoparmResume => exact stoparm_memWf h
  | step => exact run_memWf h (withFull_memWf h (.eret h))
  | slpset => exact execSlpset_memWf h
  | wdsetArm => exact execWdsetArm_memWf h
  | wdsetRead => exact execWdsetRead_memWf h
  | deviceReset => exact execDeviceReset_memWf h
  | recoveryRequest => exact execRecoveryRequest_memWf h
  | recoveryDataFrame => exact execRecoveryDataFrame_memWf h
  | recoveryEndFrame => exact execRecoveryEndFrame_memWf h
  | recoveryTimeout => exact execRecoveryTimeout_memWf h
  | recoveryRetry => exact execRecoveryRetry_memWf h
  | parkEvent => exact execParkEvent_memWf h
  | parkedResume => exact execParkedResume_memWf h
  | parkTimeout => exact execParkTimeout_memWf h
  | fillArrival => exact execFillArrival_memWf h
  | dispense => exact execDispense_memWf h
  | taskRecordWrite => exact execTaskRecordWrite_memWf h
  | gangOpen => exact execGangOpen_memWf h
  | gangStall => exact execGangStall_memWf h
  | gangStallEnd => exact execGangStallEnd_memWf h
  | sleepEntry => exact execSleepEntry_memWf h
  | sleepWake => exact execSleepWake_memWf h
  | wakeEnd => exact execWakeEnd_memWf h
  | streamElementArrival => exact execStreamElementArrival_memWf h
  | streamElementAccept => exact execStreamElementAccept_memWf h
  | storeQueueDepart => exact execStoreQueueDepart_memWf h
  | storeOrderAtHome => exact execStoreOrderAtHome_memWf h
  | invalidationDelivery => exact execInvalidationDelivery_memWf h
  | remoteStoreAck => exact execRemoteStoreAck_memWf h
  | leaseExpiry => exact execLeaseExpiry_memWf h
  | postedOpApply => exact execPostedOpApply_memWf h
  | postedAck => exact execPostedAck_memWf h
  | remoteFaultRecord => exact execRemoteFaultRecord_memWf h
  | remoteRecordResend => exact execRemoteRecordResend_memWf h
  | atomicAtHome => exact execAtomicAtHome_memWf h
  | movedAnswer => exact execMovedAnswer_memWf h
  | barrierAtHome => exact execBarrierAtHome_memWf h
  | feWaiterService => exact execFeWaiterService_memWf h
  | regionAccessAtSlice => exact execRegionAccessAtSlice_memWf h
  | narrowingArrival => exact execNarrowingArrival_memWf h
  | broadcastTurnGrant => exact execBroadcastTurnGrant_memWf h
  | finalPositionBroadcast => exact execFinalPositionBroadcast_memWf h
  | serialTokenGrant => exact execSerialTokenGrant_memWf h
  | scopeMissMessage => exact execScopeMissMessage_memWf h
  | scopeMissAnswer => exact execScopeMissAnswer_memWf h
  | tagEvictionRepair => exact execTagEvictionRepair_memWf h
  | jobStart => exact execJobStart_memWf h
  | jobComplete => exact execJobComplete_memWf h
  | jobEndEarly => exact execJobEndEarly_memWf h
  | arrayInstrStart => exact execArrayInstrStart_memWf h
  | arrayInstrComplete => exact execArrayInstrComplete_memWf h
  | arrayIdleGate => exact execArrayIdleGate_memWf h
  | accordRelease => exact execAccordRelease_memWf h
  | diffuserIssue => exact execDiffuserIssue_memWf h
  | grantInvalidation => exact execGrantInvalidation_memWf h
  | coreInterruptTake => exact execCoreInterruptTake_memWf h
  | graphRegister => exact execGraphRegister_memWf h
  | graphUnregister => exact execGraphUnregister_memWf h
  | launchWordAccept => exact execLaunchWordAccept_memWf h
  | nodeStart => exact execNodeStart_memWf h
  | nodeComplete => exact execNodeComplete_memWf h
  | instanceComplete => exact execInstanceComplete_memWf h
  | recoveryModeSet => exact execRecoveryModeSet_memWf h
  | correctableError => exact execCorrectableError_memWf h
  | uncorrectableError => exact execUncorrectableError_memWf h
  | ctxSave => exact execCtxSave_memWf h
  | ctxClear => exact execCtxClear_memWf h
  | ctxReplace => exact execCtxReplace_memWf h
  | syncStop => exact execSyncStop_memWf h
  | syncResume => exact execSyncResume_memWf h
  | jobFreeze => exact execJobFreeze_memWf h
  | sillageSweep => exact execSillageSweep_memWf h
  | imageWrite => exact execImageWrite_memWf h
  | imageSeal => exact execImageSeal_memWf h
  | saveBudgetExpiry => exact execSaveBudgetExpiry_memWf h
  | imageSwapOut => exact execImageSwapOut_memWf h
  | imageReadback => exact execImageReadback_memWf h
  | watchdogExpiry => exact execWatchdogExpiry_memWf h
  | frozenLeafReread => exact execFrozenLeafReread_memWf h
  | linkTrainingEnd => exact execLinkTrainingEnd_memWf h
  | flitResend => exact execFlitResend_memWf h
  | linkDown => exact execLinkDown_memWf h
  | clockSyncExchange => exact execClockSyncExchange_memWf h
  | clockSyncLoss => exact execClockSyncLoss_memWf h
  | ethernetFrameRx => exact execEthernetFrameRx_memWf h
  | getDigests => exact execGetDigests_memWf h
  | getCertificate => exact execGetCertificate_memWf h
  | challenge => exact execChallenge_memWf h
  | getMeasurements => exact execGetMeasurements_memWf h
  | keyExchange => exact execKeyExchange_memWf h
  | finish => exact execFinish_memWf h
  | keyUpdate => exact execKeyUpdate_memWf h
  | heartbeat => exact execHeartbeat_memWf h
  | endSession => exact execEndSession_memWf h
  | tenantAppData => exact execTenantAppData_memWf h
  | clusterHold => exact execClusterHold_memWf h
  | clusterRelease => exact execClusterRelease_memWf h
  | firewallWrite => exact execFirewallWrite_memWf h
  | movedFrameEnter => exact execMovedFrameEnter_memWf h
  | movedFrameRemove => exact execMovedFrameRemove_memWf h
  | interleaveCommit => exact execInterleaveCommit_memWf h
  | keyGenerate => exact execKeyGenerate_memWf h
  | keyRetire => exact execKeyRetire_memWf h
  | measurementExtend => exact execMeasurementExtend_memWf h
  | linkEnable => exact execLinkEnable_memWf h
  | linkDisable => exact execLinkDisable_memWf h
  | intcntClear => exact execIntcntClear_memWf h
  | unallocatedEncoding => exact execUnallocatedEncoding_memWf h
  | fetchFault => exact execFetchFault_memWf h
  | mailRecordDelivery => exact execMailRecordDelivery_memWf h

end Sys2Proof.Machine
end

section

/-! PROOFS. Canonical memory: the clock, the fetch at an issue, and the step. -/

namespace Sys2Proof.Machine
open Claims
variable {s : State}

theorem State.MemWf.advance (h : s.MemWf) : s.advance.MemWf := .settleReads h

theorem State.MemWf.letHappen {es} (h : s.MemWf) : (s.letHappen es).2.MemWf := by
  induction es generalizing s with
  | nil => exact h
  | cons e es ih => exact ih (.choose h)

theorem State.MemWf.tick (h : s.MemWf) : s.tick.MemWf := by
  unfold State.tick
  dsimp only
  exact .of_mem (.letHappen (.writeBacks (.advance h))) rfl

theorem State.happen_memWf {e} (h : s.MemWf) : Res.MemWf (s.happen e) := exec_memWf h

theorem decideWords_state {t ws s r} (e : decideWords t ws s = some r) : r.state = s := by
  unfold decideWords at e
  split at e
  · cases e
  · cases e
    rfl
  · split at e
    · cases e
      rfl
    · cases e
      rfl

theorem State.MemWf.fetchWords {k e0 ws fuel} (h : s.MemWf) : (s.fetchWords k e0 ws fuel).state.MemWf := by
  induction fuel generalizing s ws with
  | zero => exact h
  | succ fuel ih =>
    unfold State.fetchWords
    dsimp only
    split
    · exact h
    · exact h
    · have fetched := State.fetchPage_memWf ‹_› h
      split
      · exact fetched
      · split
        · split
          · exact fetched
          · split
            · exact .verifyAll fetched
            · exact fetched
        · split
          · rw [decideWords_state ‹_›]
            exact fetched
          · exact ih fetched

theorem State.MemWf.fetch {k} (h : s.MemWf) : (s.fetch k).state.MemWf := by
  unfold State.fetch
  dsimp only
  split
  · exact h
  · exact h
  · split
    · refine .fetchWords ?_
      have kept := State.fetchPage_memWf ‹_› h
      exact kept
    · split
      · refine .fetchWords ?_
        have kept := State.fetchPage_memWf ‹_› h
        exact kept
      · split
        · exact State.fetchPage_memWf ‹_› h
        · split
          · exact State.fetchPage_memWf ‹_› h
          · exact State.fetchPage_memWf ‹_› h
          · split
            · exact State.rowOf_memWf ‹_› (State.fetchPage_memWf ‹_› h)
            · have kept := State.rowOf_memWf ‹_› (State.fetchPage_memWf ‹_› h)
              exact kept

theorem State.MemWf.next {k t} (h : s.MemWf) : (s.next k t).state.MemWf := by
  have fetched : ((s.modSlot k Slot.anew).fetch k).state.MemWf := .fetch h
  unfold State.next
  split
  · exact h
  · split
    · have kept := FetchRes.instr_memWf ‹_› fetched
      exact kept
    · exact fetched

theorem State.MemWf.atIssue {k} (h : s.MemWf) : (s.atIssue k).state.MemWf := by
  unfold State.atIssue
  dsimp only
  split
  · exact h
  · split
    · exact h
    · split
      · exact h
      · split
        · split
          · exact h
          · exact .next h
        · exact .next h

theorem State.turn_memWf {c} (h : s.MemWf) : Res.MemWf (s.turn c) := by
  unfold State.turn
  split
  · exact h
  · next k _ =>
    have issued : ((s.beginIssue k).atIssue k).state.MemWf := .atIssue h
    split
    · exact exec_memWf (FetchRes.instr_memWf ‹_› issued)
    · have parked := FetchRes.park_memWf ‹_› issued
      exact parked
    · exact State.happen_memWf (FetchRes.event_memWf ‹_› issued)
    · exact FetchRes.again_memWf ‹_› issued

theorem step_memWf (h : s.MemWf) : Res.MemWf (step s) := by
  unfold step
  split
  · exact State.happen_memWf h
  · split
    · exact State.turn_memWf h
    · exact .tick h

end Sys2Proof.Machine

namespace Sys2Proof
open Machine Claims

/-- Settles O58: nothing but writes and filters changes a memory, and both keep its canonical form; so does every operation of the
machine that is made of them (`step_memWf`). -/
theorem stepKeepsMemoryForm : Obligations.StepKeepsMemoryForm := by
  intro s t h stepped
  have kept := step_memWf h
  rw [stepped] at kept
  exact kept

end Sys2Proof
end

section
/-! PROOFS. The scalar forms (R131, R133-R137, R139, R140): the operation of each row of the tables, the shape that the forms
share, and what they leave unchanged. -/

namespace Sys2Proof.Machine
open Claims

/-! ### An empty source (R131) -/

/-- The first empty source parks the thread under cause 2. -/
theorem withFull_empty {s : State} {rs : List (Fin 32)} {r : Fin 32} (nw : Nat) (f : State → State)
    (h : rs.find? (fun r => !s.me.full r) = some r) : withFull s rs nw f = parked s 2 (.reg r) .reissue nw false := by
  rw [withFull, h]
  exact State.parkAt_parked s 2 (.reg r) .reissue nw false rfl

/-- Of two sources that are not both full, the first empty one. -/
theorem find_empty_pair {s : State} {a b : Fin 32} (h : ¬ Full s [a, b]) :
    [a, b].find? (fun r => !s.me.full r) = some (if s.me.full a then b else a) := by
  by_cases ha : s.me.full a = true
  · have hb : s.me.full b = false := by simpa [Full, ha] using h
    simp [ha, hb]
  · simp [ha]

/-! ### The tables (R133-R136, R139, R140) -/

/-- What the meaning of a register form computes. -/
def aluOp : Alu2 → Word → Word → Word
  | .add => (· + ·)
  | .sub => (· - ·)
  | .and => (· &&& ·)
  | .or => (· ||| ·)
  | .xor => (· ^^^ ·)
  | .mul => (· * ·)
  | .shl => fun x y => x <<< shiftCount y
  | .shr => fun x y => x >>> shiftCount y
  | .shra => fun x y => x.sshiftRight (shiftCount y)
  | .andn => fun x y => x &&& ~~~y
  | .min => smin
  | .max => smax
  | .minz => umin
  | .maxz => umax
  | .mulh => mulhS
  | .mulhz => mulhU
  | .div => divS
  | .divz => divU
  | .rem => remS
  | .remz => remU

theorem exec_alu2 (o : Alu2) (p : Pfx) (d a b : Fin 32) (s : State) :
    exec (o.instr p d a b) s = alu p (o.instr p d a b).nwords d a b (aluOp o) s := by
  cases o <;> simp only [Alu2.instr, nwords_add, nwords_sub, nwords_and, nwords_or, nwords_xor, nwords_mul, nwords_shl, nwords_shr,
    nwords_shra, nwords_andn, nwords_min, nwords_max, nwords_minz, nwords_maxz, nwords_mulh, nwords_mulhz, nwords_div, nwords_divz,
    nwords_rem, nwords_remz] <;> rfl

theorem sub_eq_ofInt (x y : Word) : x - y = BitVec.ofInt 64 (x.toInt - y.toInt) := by
  rw [Int.sub_eq_add_neg, BitVec.ofInt_add, BitVec.ofInt_neg, BitVec.ofInt_toInt, BitVec.ofInt_toInt, BitVec.sub_eq_add_neg]

/-- The meanings compute what the tables give. -/
theorem aluOp_eq_result (o : Alu2) (x y : Word) : aluOp o x y = o.result x y := by
  cases o with
  | sub => exact sub_eq_ofInt x y
  | min => exact if_congr BitVec.slt_iff_toInt_lt rfl rfl
  | max => exact if_congr BitVec.slt_iff_toInt_lt rfl rfl
  | minz => exact if_congr BitVec.ult_iff_toNat_lt rfl rfl
  | maxz => exact if_congr BitVec.ult_iff_toNat_lt rfl rfl
  | _ => rfl


/-- What the meaning of an immediate or single-source form computes. -/
def alu1Op : Alu1 → Word → Word
  | .addi imm => (· + immWord imm)
  | .shli imm => fun x => x <<< shiftCount (immWord imm)
  | .shri imm => fun x => x >>> shiftCount (immWord imm)
  | .shrai imm => fun x => x.sshiftRight (shiftCount (immWord imm))
  | .andi imm => (· &&& immWord imm)
  | .ori imm => (· ||| immWord imm)
  | .xori imm => (· ^^^ immWord imm)
  | .clz => fun x => BitVec.ofNat 64 (clz64 x)
  | .ctz => fun x => BitVec.ofNat 64 (ctz64 x)
  | .popc => fun x => BitVec.ofNat 64 (ones 64 x.toNat)
  | .bswap => bswap64
  | .bfxZ w imm => fun x => BitVec.ofNat 64 (bfField x (shiftCount (immWord imm)) (w.val + 1))
  | .bfxS w imm => fun x => bfxSigned x (shiftCount (immWord imm)) (w.val + 1)

theorem exec_alu1 (o : Alu1) (p : Pfx) (d a : Fin 32) (s : State) :
    exec (o.instr p d a) s = alu1 p (o.instr p d a).nwords d a (alu1Op o) s := by
  cases o <;> simp only [Alu1.instr, nwords_addi, nwords_shli, nwords_shri, nwords_shrai, nwords_andi, nwords_ori, nwords_xori,
    nwords_clz, nwords_ctz, nwords_popc, nwords_bswap, nwords_bfxZ, nwords_bfxS] <;> rfl

/-- The count of a shift by an immediate: its low six bits (R133). -/
theorem shiftCount_immWord (imm : Int) : shiftCount (immWord imm) = (imm % 64).toNat := by
  rw [shiftCount, immWord, BitVec.toNat_ofInt]
  omega

theorem alu1Op_eq_result (o : Alu1) (x : Word) : alu1Op o x = o.result x := by
  cases o with
  | addi imm => simp only [alu1Op, Alu1.result, immWord, BitVec.ofInt_add, BitVec.ofInt_toInt]
  | shli imm | shri imm | shrai imm | bfxZ w imm | bfxS w imm => simp only [alu1Op, Alu1.result, shiftCount_immWord]
  | _ => rfl

/-- What the meaning of a compare tests. -/
def cmpOp : Cmp → Word → Word → Bool
  | .eq => fun x y => x == y
  | .ne => fun x y => x != y
  | .lt => fun x y => x.slt y
  | .ge => fun x y => !x.slt y
  | .ltu => fun x y => x.ult y
  | .geu => fun x y => !x.ult y
  | .tst => fun x y => x &&& y != 0
  | .ntst => fun x y => x &&& y == 0

theorem exec_cmp (o : Cmp) (p : Pfx) (d : Fin 8) (a b : Fin 32) (s : State) :
    exec (o.instr p d a b) s = cmp p d a b (cmpOp o) s := by
  cases o <;> rfl
theorem nwords_cmp (o : Cmp) (p : Pfx) (d : Fin 8) (a b : Fin 32) : (o.instr p d a b).nwords = nw0 p := by
  cases o <;> simp [Cmp.instr]

theorem cmpOp_eq_test (o : Cmp) (x y : Word) : cmpOp o x y = o.test x y := by
  cases o with
  | ne | tst => exact decide_not.symm
  | ge => exact decide_not.symm.trans (decide_eq_decide.2 Int.not_lt)
  | geu => exact decide_not.symm.trans (decide_eq_decide.2 Nat.not_lt)
  | _ => rfl

/-- What the meaning of a predicate operation computes. -/
def plogicOp : PLogic → Bool → Bool → Bool
  | .pand => (· && ·)
  | .por => (· || ·)
  | .pxor => fun x y => x != y
  | .pandn => fun x y => x && !y

theorem exec_plogic (o : PLogic) (p : Pfx) (d a b : Fin 8) (s : State) :
    exec (o.instr p d a b) s = plogic p d a b (plogicOp o) s := by
  cases o <;> rfl
theorem nwords_plogic (o : PLogic) (p : Pfx) (d a b : Fin 8) : (o.instr p d a b).nwords = nw0 p := by
  cases o <;> simp [PLogic.instr]

theorem plogicOp_eq_result (o : PLogic) (x y : Bool) : plogicOp o x y = o.result x y := by
  cases o <;> rfl

/-! ### What the forms leave unchanged -/

/-- The shape of the forms that write a g register: full sources, and a value of them to gD. -/
def scalarForm (p : Pfx) (nw : Nat) (srcs : List (Fin 32)) (d : Fin 32) (value : Slot → Word) (s : State) : Res :=
  run p nw false s fun s => withFull s srcs nw fun s => s.finishMe nw fun t => t.wr d (value t)

/-- A change of the running slot that leaves all of it but gD, the PC, the park and what is noted of the instruction under way. -/
structure ScalarChange (d : Fin 32) (t u : Slot) : Prop where
  rest : u = { t with g := u.g, pc := u.pc, park := u.park, src := u.src, wrote := u.wrote }
  others : ∀ r : Fin 32, r ≠ d → u.g[r] = t.g[r]

theorem Slot.wr_scalarChange (t : Slot) (d : Fin 32) (x : Word) (pc : Word) : ScalarChange d t (endAt (t.wr d x) pc) := by
  refine ⟨?rest, fun r h => ?others⟩
  case rest => rw [endAt, Slot.wr_keeps]
  case others =>
    by_cases hd : d = 0
    · subst hd; rfl
    · show (t.wr d x).g[r] = t.g[r]
      rw [t.wr_g d x hd, set_getElem_ne _ _ h]

/-- A scalar form that is not stepped changes its own slot alone, in such a way: it retires, it parks, or its guard is false. -/
theorem scalarForm_changes {p : Pfx} {nw : Nat} {srcs : List (Fin 32)} {d : Fin 32} {value : Slot → Word} {s : State}
    (issues : s.me.replied = false) (plain : s.me.sstep = false) :
    ∃ f : Slot → Slot, scalarForm p nw srcs d value s = .next (s.modMe f) ∧ ScalarChange d s.me (f s.me) := by
  by_cases guard : s.me.guard p = true
  · rw [scalarForm, run_begins ⟨issues, guard⟩ (by simp)]
    cases empty : srcs.find? fun r => !s.me.full r with
    | some r =>
      rw [withFull_empty _ _ empty]
      exact ⟨_, rfl, rfl, fun _ _ => rfl⟩
    | none =>
      rw [withFull, empty]
      dsimp only
      rw [State.finishMe_plain s nw _ (by simpa using plain) (by simp)]
      exact ⟨_, rfl, Slot.wr_scalarChange ..⟩
  · rw [scalarForm, run_false issues (by simpa using guard) plain]
    exact ⟨_, rfl, rfl, fun _ _ => rfl⟩

theorem onlyMe_modMe (s : State) (f : Slot → Slot) : OnlyMe s (s.modMe f) := ⟨rfl, fun _ h => State.slot_modMe_ne s f h⟩

/-- The forms of R133-R137 that write a g register are scalar forms. -/
theorem exec_scalarForm {i : Instr} {d : Fin 32} (s : State)
    (form : (∃ o p a b, i = Alu2.instr p d a b o) ∨ (∃ o p a, i = Alu1.instr p d a o) ∨ (∃ p w a imm, i = .bfi p w d a imm) ∨
      ∃ p pr a b, i = .sel p pr d a b) : ∃ p nw srcs value, exec i s = scalarForm p nw srcs d value s := by
  rcases form with ⟨o, p, a, b, rfl⟩ | ⟨o, p, a, rfl⟩ | ⟨p, w, a, imm, rfl⟩ | ⟨p, pr, a, b, rfl⟩
  · exact ⟨p, _, [a, b], _, exec_alu2 o p d a b s⟩
  · exact ⟨p, _, [a], _, exec_alu1 o p d a s⟩
  · exact ⟨p, _, [a, d], _, rfl⟩
  · exact ⟨p, _, [a, b], _, rfl⟩

end Sys2Proof.Machine

namespace Sys2Proof
open Machine Claims

/-- Settles O2: each form has the shape of its table with the table's operation. -/
theorem scalarForms : Obligations.ScalarForms := by
  refine ⟨fun o p d a b s h => ⟨fun full => ?results, fun empty => ?parks⟩, fun o p d a s h full => ?single⟩
  case results =>
    rw [exec_alu2, alu_spec h full]
    simp only [aluOp_eq_result]
  case parks =>
    rw [exec_alu2, alu, run_begins h.1 (by simp), withFull_empty _ _ (find_empty_pair empty)]
  case single =>
    rw [exec_alu1, alu1_spec h full]
    simp only [alu1Op_eq_result]

/-- Settles O3: BFI and SEL by their own meanings, the compares and the predicate logic by their tables. -/
theorem insertSelectCompare : Obligations.InsertSelectCompare := by
  refine ⟨fun p w d a imm s h full => ?inserts, fun p pr d a b s h full => ?selects, fun o p d a b s h full => ?compares,
    fun o p d a b s h => ?logic⟩
  case inserts =>
    rw [nwords_bfi, exec_bfi, execBfi, alu_spec h full]
    simp only [shiftCount_immWord]
  case selects =>
    rw [nwords_sel, exec_sel, execSel, run_begins h.1 (by simp), withFull_full _ _ full,
      State.finishMe_plain _ _ _ (by simpa using h.2) (by simp)]
  case compares =>
    rw [nwords_cmp, exec_cmp, cmp_spec h full]
    simp only [cmpOp_eq_test]
  case logic =>
    rw [nwords_plogic, exec_plogic, plogic_spec h]
    simp only [plogicOp_eq_result]

/-- Settles O4: a scalar form changes its own slot alone, and of it what `ScalarChange` names. -/
theorem scalarFrame : Obligations.ScalarFrame := by
  intro i d s t form issues plain ht
  obtain ⟨p, nw, srcs, value, shape⟩ := exec_scalarForm s form
  obtain ⟨f, changed, change⟩ := scalarForm_changes (p := p) (nw := nw) (srcs := srcs) (d := d) (value := value) issues plain
  obtain rfl : s.modMe f = t := Host.Outcome.next.inj ((shape.trans changed).symm.trans ht)
  refine ⟨onlyMe_modMe s f, fun _ => rfl, ?_, ?_⟩ <;> rw [State.me_modMe]
  · exact change.rest
  · exact change.others

end Sys2Proof
end

section
/-! PROOFS. QPOP and QPUSH (R52, R53, R138): their words, and what they do to their queue. -/

namespace Sys2Proof
open Machine

/-! ### The decision about a chain without a hint or an immediate -/

section Finish
variable {c : Chain} {w : Nat} (dup : c.dup = false) (page : (c.raw w).page ≠ 0) (xin : c.xin = 0)
include dup page xin

theorem Chain.finish_mapped {i : Instr} (xh : c.xh = none) (h : mapRaw (c.raw w) = some i) : c.finish w = .ok i (c.n + 1) := by
  simp [Chain.finish, dup, page, xin, xh, h]
theorem Chain.finish_unmapped (h : mapRaw (c.raw w) = none) : c.finish w = .trap 1 (c.n + 1) := by
  simp [Chain.finish, dup, page, xin, h]

end Finish

/-! ### The words (R138) -/

theorem mapRaw_qpop {r : Raw} (page : r.page = 5) (maj : r.maj = 8) (fn : r.fn % 2 = 0) :
    mapRaw r = (reg8 r.a).bind fun q => some (.qpop r.p r.d q) := by
  simp only [mapRaw, mapPage5, page, maj, fn]
theorem mapRaw_qpush {r : Raw} (page : r.page = 5) (maj : r.maj = 8) (fn : r.fn % 2 = 1) :
    mapRaw r = (reg8 r.d).bind fun q => some (.qpush r.p q r.a) := by
  simp only [mapRaw, mapPage5, page, maj, fn]

theorem reg8_unextended {n : Nat} (h : n < 8) : reg8 (fin32 n) = some (fin8 n) :=
  (reg8_fin32 ⟨n, h⟩).trans (congrArg some (Fin.ext (Nat.mod_eq_of_lt h).symm))
theorem reg8_extended {n x : Nat} (h : n < 8) (hx : x % 4 ≠ 0) : reg8 (fin32 (x % 4 * 8 + n)) = none := by
  have val : (fin32 (x % 4 * 8 + n)).val = x % 4 * 8 + n := val_fin32 (by omega)
  exact dif_neg (by rw [val]; omega)

/-- The chain before the base word of a stream move on page 5: an XR word or none, and the XP word. -/
def streamMoveChain (xr : Option Nat) (fn : Nat) : Chain :=
  { Chain.start with n := if xr.isSome then 2 else 1, xr := xr, xp := some (640 + fn) }

theorem decode_streamMove (fn w : Nat) (hfn : fn < 128) (hw : w / 2048 < 28) :
    decodeWords [0xFA80 + fn, w] = (streamMoveChain none fn).finish w := by
  have word : 0xFA80 + fn = 63488 + (640 + fn) := by omega
  rw [decodeWords, word, scan_prefix _ (by omega) (by decide), push_xp _ (by omega), scan_base _ hw]
  rfl
theorem decode_streamMove_xr (x fn w : Nat) (hx : x < 2048) (hfn : fn < 128) (hw : w / 2048 < 28) :
    decodeWords [0xF000 + x, 0xFA80 + fn, w] = (streamMoveChain (some x) fn).finish w := by
  have word : 0xFA80 + fn = 63488 + (640 + fn) := by omega
  have word0 : 0xF000 + x = 61440 + x := by omega
  rw [decodeWords, word, word0, scan_prefix _ (by omega) (by decide), push_xr _ hx, scan_prefix _ (by omega) (by simp [Chain.start]),
    push_xp _ (by omega), scan_base _ hw]
  rfl

/-- The fields of the base word of a stream move. -/
theorem streamMove_raw (xr : Option Nat) {k u d a b f : Nat} (hk : k < 2) (hu : u < 64) (hd : d < 8) (ha : a < 8) (hb : b < 8)
    (hf : f < 4) :
    let r := (streamMoveChain xr (2 * u + k)).raw (8 * 2048 + 256 * d + 32 * a + 4 * b + f)
    r.page = 5 ∧ r.maj = 8 ∧ r.fn % 2 = k ∧ r.d = fin32 (xr.getD 0 / 512 % 4 * 8 + d) ∧ r.a = fin32 (xr.getD 0 / 128 % 4 * 8 + a) := by
  have fieldD : (8 * 2048 + 256 * d + 32 * a + 4 * b + f) / 256 % 8 = d := by omega
  have fieldA : (8 * 2048 + 256 * d + 32 * a + 4 * b + f) / 32 % 8 = a := by omega
  refine ⟨?_, ?_, ?_, ?_, ?_⟩
  · show (640 + (2 * u + k)) / 128 = 5; omega
  · show (8 * 2048 + 256 * d + 32 * a + 4 * b + f) / 2048 = 8; omega
  · show (640 + (2 * u + k)) % 128 % 2 = k; omega
  · simp only [Chain.raw, fieldD]; rfl
  · simp only [Chain.raw, fieldA]; rfl

theorem streamMove_pfx (fn w : Nat) : ((streamMoveChain none fn).raw w).p = Pfx.none := by
  have guard : xrGuard 0 = none := rfl
  simp only [Chain.raw, Pfx.none, streamMoveChain, Option.getD_none, guard]
  rfl

section Words
variable {u d a b f : Nat} (hu : u < 64) (hd : d < 8) (ha : a < 8) (hb : b < 8) (hf : f < 4)
include hu hd ha hb hf

theorem decode_qpop : decodeWords [0xFA80 + 2 * u, 8 * 2048 + 256 * d + 32 * a + 4 * b + f] =
    .ok (.qpop Pfx.none (fin32 d) (fin8 a)) 2 := by
  obtain ⟨page, maj, fn, rd, ra⟩ := streamMove_raw none (k := 0) (by decide) hu hd ha hb hf
  have mapped := mapRaw_qpop page maj fn
  rw [ra, rd, Option.getD_none, Nat.zero_div, Nat.zero_mod, Nat.zero_mul, Nat.zero_add, Nat.zero_add, reg8_unextended ha, Option.bind_some,
    streamMove_pfx] at mapped
  rw [decode_streamMove (2 * u) _ (by omega) (by omega)]
  exact Chain.finish_mapped rfl (ne_of_eq_of_ne page (by decide)) rfl rfl mapped
theorem decode_qpush : decodeWords [0xFA81 + 2 * u, 8 * 2048 + 256 * d + 32 * a + 4 * b + f] =
    .ok (.qpush Pfx.none (fin8 d) (fin32 a)) 2 := by
  obtain ⟨page, maj, fn, rd, ra⟩ := streamMove_raw none (k := 1) (by decide) hu hd ha hb hf
  have mapped := mapRaw_qpush page maj fn
  rw [ra, rd, Option.getD_none, Nat.zero_div, Nat.zero_mod, Nat.zero_mul, Nat.zero_add, Nat.zero_add, reg8_unextended hd, Option.bind_some,
    streamMove_pfx] at mapped
  rw [show 0xFA81 + 2 * u = 0xFA80 + (2 * u + 1) by omega, decode_streamMove (2 * u + 1) _ (by omega) (by omega)]
  exact Chain.finish_mapped rfl (ne_of_eq_of_ne page (by decide)) rfl rfl mapped

variable {x : Nat} (hx : x < 2048)
include hx

/-- An XR word that extends the q field of QPOP, its a field. -/
theorem decode_qpop_extended (hq : x / 128 % 4 ≠ 0) :
    decodeWords [0xF000 + x, 0xFA80 + 2 * u, 8 * 2048 + 256 * d + 32 * a + 4 * b + f] = .trap 1 3 := by
  obtain ⟨page, maj, fn, -, ra⟩ := streamMove_raw (some x) (k := 0) (by decide) hu hd ha hb hf
  have mapped := mapRaw_qpop page maj fn
  rw [ra, Option.getD_some, reg8_extended ha hq] at mapped
  rw [decode_streamMove_xr x (2 * u) _ hx (by omega) (by omega)]
  exact Chain.finish_unmapped rfl (ne_of_eq_of_ne page (by decide)) rfl mapped
/-- An XR word that extends the q field of QPUSH, its d field. -/
theorem decode_qpush_extended (hq : x / 512 % 4 ≠ 0) :
    decodeWords [0xF000 + x, 0xFA81 + 2 * u, 8 * 2048 + 256 * d + 32 * a + 4 * b + f] = .trap 1 3 := by
  obtain ⟨page, maj, fn, rd, -⟩ := streamMove_raw (some x) (k := 1) (by decide) hu hd ha hb hf
  have mapped := mapRaw_qpush page maj fn
  rw [rd, Option.getD_some, reg8_extended hd hq] at mapped
  rw [show 0xFA81 + 2 * u = 0xFA80 + (2 * u + 1) by omega, decode_streamMove_xr x (2 * u + 1) _ hx (by omega) (by omega)]
  exact Chain.finish_unmapped rfl (ne_of_eq_of_ne page (by decide)) rfl mapped

end Words

end Sys2Proof

namespace Sys2Proof.Machine
open Claims

/-! ### What they do to a queue (R52, R53) -/

theorem Slot.qBad_narrow_iff (t : Slot) (q : Fin 8) (out : Bool) :
    t.qBad q out false = true ↔ t.q[q].bound = false ∨ t.q[q].outbound ≠ out ∨ t.q[q].wide = true := by
  simp [Slot.qBad, or_assoc]

section Moves
variable {p : Pfx} {d a : Fin 32} {q : Fin 8} {s : State}

theorem exec_qpop_element {x : BitVec 1024} {xs : Queue} (h : Plain s p) (bound : s.me.qBad q false false = false)
    (queue : s.queueOf s.cur q = x :: xs) :
    exec (.qpop p d q) s = .next (retired (s.setQueue s.cur q xs) (nwX p) fun t => t.wr d (x.setWidth 64)) := by
  rw [exec_qpop, execQpop, run_begins h.1 (by simp), bound, if_neg Bool.false_ne_true, queue]
  exact congrArg _ (State.finishMe_plain _ _ _ (by rw [Slot.wr_sstep]; exact h.2) (by simp))
theorem exec_qpop_waits (h : Plain s p) (bound : s.me.qBad q false false = false) (queue : s.queueOf s.cur q = []) :
    exec (.qpop p d q) s = .next (parked s 7 (.streamIn q 1) .reissue (nwX p) false) := by
  rw [exec_qpop, execQpop, run_begins h.1 (by simp), bound, if_neg Bool.false_ne_true, queue]
  exact congrArg _ (State.parkAt_parked _ _ _ _ _ _ rfl)
theorem exec_qpop_misused (h : Begins s p) (misused : s.me.qBad q false false = true) :
    exec (.qpop p d q) s = .next (s.trap 0x10 0 (nwX p)) := by
  rw [exec_qpop, execQpop, run_begins h (by simp), if_pos misused]

/-- QPUSH of a full register, by its binding and the room in its queue. -/
theorem exec_qpush_full (h : Begins s p) (full : Full s [a]) :
    exec (.qpush p q a) s = .next (
      if s.me.qBad q true false = true then s.trap 0x10 0 (nwX p)
      else if Config.qdepth ≤ (s.queueOf s.cur q).length then s.parkRe 8 (.streamOut q) (nwX p)
      else (s.setQueue s.cur q (s.queueOf s.cur q ++ [(s.me.rd a).setWidth 1024])).finish (nwX p)) := by
  rw [exec_qpush, execQpush, run_begins h (by simp), withFull_full _ _ full]
theorem exec_qpush_empty (h : Begins s p) (empty : s.me.full a = false) :
    exec (.qpush p q a) s = .next (parked s 2 (.reg a) .reissue (nwX p) false) := by
  rw [exec_qpush, execQpush, run_begins h (by simp), withFull_empty (r := a) _ _ (by simp [empty])]

end Moves

end Sys2Proof.Machine

namespace Sys2Proof
open Machine Claims

/-- Settles O7: the words are read field by field; the moves take the branch of their meaning that the binding and the queue choose. -/
theorem scalarStreamMoves : Obligations.ScalarStreamMoves := by
  refine ⟨fun u d a b f hu hd ha hb hf => ⟨decode_qpop hu hd ha hb hf, decode_qpush hu hd ha hb hf, fun x hx =>
      ⟨decode_qpop_extended hu hd ha hb hf hx, decode_qpush_extended hu hd ha hb hf hx⟩⟩,
    Slot.qBad_narrow_iff, ?pops, ?popWaits, ?popTraps, ?pushes, ?pushWaits, ?pushEmpty, ?pushTraps, rfl,
    fun s q => ⟨?arrived, ?room⟩⟩
  case pops => intro p d q x xs s h bound queue; rw [nwords_qpop, exec_qpop_element h bound queue]
  case popWaits => intro p d q s h bound queue; rw [nwords_qpop, exec_qpop_waits h bound queue]
  case popTraps => intro p d q s h misused; rw [nwords_qpop, exec_qpop_misused h misused]
  case pushes =>
    intro p q a s h full bound room
    rw [nwords_qpush, exec_qpush_full h.1 full, bound, if_neg Bool.false_ne_true, if_neg (Nat.not_le.2 room)]
    exact congrArg _ (State.finish_plain _ _ h.2)
  case pushWaits =>
    intro p q a s h full bound noRoom
    rw [nwords_qpush, exec_qpush_full h.1 full, bound, if_neg Bool.false_ne_true, if_pos noRoom]
    exact congrArg _ (State.parkAt_parked _ _ _ _ _ _ rfl)
  case pushEmpty => intro p q a s h empty; rw [nwords_qpush, exec_qpush_empty h.1 empty]
  case pushTraps => intro p q a s h full misused; rw [nwords_qpush, exec_qpush_full h full, if_pos misused]
  case arrived => exact decide_eq_true_iff.trans List.length_pos_iff
  case room => exact decide_eq_true_iff

end Sys2Proof
end

section
/-! PROOFS. Counts of bits, the byte reversal and the bit fields (R134, R136), said bit by bit and byte by byte. -/

namespace Sys2Proof.Machine

/-! ### Leading and trailing zeros, ones (R134) -/

theorem Word.toNat_ne_zero {x : Word} (h : x ≠ 0) : x.toNat ≠ 0 := fun e => h (BitVec.eq_of_toNat_eq e)

/-- Past its leading zeros a word has its highest one. -/
theorem clz64_bits {x : Word} (h : x ≠ 0) :
    clz64 x ≤ 63 ∧ x.getLsbD (63 - clz64 x) = true ∧ ∀ i, 63 - clz64 x < i → x.getLsbD i = false := by
  have top : x.toNat.log2 < 64 := (Nat.log2_lt (Word.toNat_ne_zero h)).2 x.isLt
  have clz : clz64 x = 63 - x.toNat.log2 := if_neg h
  have highest : 63 - clz64 x = x.toNat.log2 := by omega
  refine ⟨by omega, ?_, fun i hi => ?_⟩
  · rw [highest]
    exact Nat.testBit_log2 (Word.toNat_ne_zero h)
  · rw [highest] at hi
    have below : x.toNat < 2 ^ i := Nat.lt_log2_self.trans_le (Nat.pow_le_pow_right (by decide) hi)
    exact Nat.testBit_lt_two_pow below

/-- A word and its negation share the lowest one alone. -/
theorem and_neg_eq_twoPow {x : Word} {k : Nat} (one : x.getLsbD k = true) (below : ∀ j, j < k → x.getLsbD j = false) :
    x &&& (0 - x) = BitVec.twoPow 64 k := by
  rw [show x &&& (0 - x) = x &&& -x from congrArg (x &&& ·) (BitVec.zero_sub x)]
  refine BitVec.eq_of_getLsbD_eq fun i hi => ?_
  rw [BitVec.getLsbD_and, BitVec.getLsbD_neg, BitVec.getLsbD_twoPow]
  rcases Nat.lt_trichotomy i k with lt | rfl | gt
  · simp [below i lt, Nat.ne_of_gt lt]
  · have noneBelow : ¬ ∃ j < i, x.getLsbD j = true := fun ⟨j, hj, hx⟩ => by simp [below j hj] at hx
    simp [one, noneBelow, hi]
  · have someBelow : ∃ j < i, x.getLsbD j = true := ⟨k, gt, one⟩
    simp [someBelow, hi, Nat.ne_of_lt gt]

/-- A word that is not zero has a lowest one. -/
theorem exists_lowest_one {x : Word} (h : x ≠ 0) :
    ∃ k, x.getLsbD k = true ∧ ∀ j, j < k → x.getLsbD j = false := by
  have one : ∃ k, x.getLsbD k = true := Nat.exists_testBit_of_ne_zero (Word.toNat_ne_zero h)
  exact ⟨Nat.find one, Nat.find_spec one, fun j hj => Bool.eq_false_iff.2 (Nat.find_min one hj)⟩

theorem ctz64_bits {x : Word} (h : x ≠ 0) :
    ctz64 x ≤ 63 ∧ x.getLsbD (ctz64 x) = true ∧ ∀ i, i < ctz64 x → x.getLsbD i = false := by
  obtain ⟨k, one, below⟩ := exists_lowest_one h
  have low : k < 64 := BitVec.lt_of_getLsbD one
  have power : 2 ^ k < 2 ^ 64 := Nat.pow_lt_pow_right (by decide) low
  have ctz : ctz64 x = k := by
    rw [ctz64, if_neg h, and_neg_eq_twoPow one below, BitVec.toNat_twoPow, Nat.mod_eq_of_lt power, Nat.log2_two_pow]
  rw [ctz]
  exact ⟨Nat.le_of_lt_succ low, one, below⟩

/-- The ones among the low bits, counted one by one. -/
theorem ones_eq_length (n x : Nat) : ones n x = ((List.range n).filter fun i => x.testBit i).length := by
  induction n generalizing x with
  | zero => rfl
  | succ n ih =>
    have tail : ((List.map Nat.succ (List.range n)).filter fun i => x.testBit i).length = ones n (x / 2) := by
      rw [ih, List.filter_map, List.length_map]
      simp only [Function.comp_def, Nat.testBit_succ]
    rw [ones, List.range_succ_eq_map, List.filter_cons, ← tail, Nat.testBit_zero]
    rcases Nat.mod_two_eq_zero_or_one x with even | odd
    · simp [even]
    · simp [odd, Nat.add_comm]

/-! ### The byte reversal (R134) -/

theorem ofBytes_lt (bs : List Byte) : ofBytes bs < 2 ^ (8 * bs.length) := by
  induction bs with
  | nil => simp [ofBytes]
  | cons b bs ih =>
    have byte := b.isLt
    rw [ofBytes, List.length_cons, Nat.mul_succ, Nat.pow_add]
    omega

/-- Byte `j` of a number made of bytes. -/
theorem ofBytes_byte (bs : List Byte) (j : Nat) : ofBytes bs / 2 ^ (8 * j) % 256 = (bs.getD j 0).toNat := by
  induction bs generalizing j with
  | nil => simp [ofBytes]
  | cons b bs ih =>
    have byte := b.isLt
    cases j with
    | zero => simp only [ofBytes, List.getD_cons_zero]; omega
    | succ j =>
      have rest : (b.toNat + 256 * ofBytes bs) / 2 ^ 8 = ofBytes bs := by omega
      rw [ofBytes, Nat.mul_succ, Nat.add_comm (8 * j), Nat.pow_add, ← Nat.div_div_eq_div_mul, rest, ih, List.getD_cons_succ]

theorem toBytes_length (n x : Nat) : (toBytes n x).length = n := by
  induction n generalizing x with
  | zero => rfl
  | succ n ih => rw [toBytes, List.length_cons, ih]

theorem toBytes_getD {n k : Nat} (h : k < n) (x : Nat) : ((toBytes n x).getD k 0).toNat = x / 2 ^ (8 * k) % 256 := by
  induction n generalizing k x with
  | zero => exact absurd h (Nat.not_lt_zero k)
  | succ n ih =>
    cases k with
    | zero => simp [toBytes]
    | succ k =>
      rw [toBytes, List.getD_cons_succ, ih (Nat.lt_of_succ_lt_succ h), Nat.mul_succ, Nat.add_comm (8 * k), Nat.pow_add,
        Nat.div_div_eq_div_mul]

theorem bswap64_byte (x : Word) {j : Nat} (h : j < 8) :
    (bswap64 x).toNat / 2 ^ (8 * j) % 256 = x.toNat / 2 ^ (8 * (7 - j)) % 256 := by
  have length : (toBytes 8 x.toNat).reverse.length = 8 := by rw [List.length_reverse, toBytes_length]
  have bound : ofBytes (toBytes 8 x.toNat).reverse < 2 ^ 64 := by
    have := ofBytes_lt (toBytes 8 x.toNat).reverse
    rwa [length] at this
  have mirrored : (toBytes 8 x.toNat).reverse.getD j 0 = (toBytes 8 x.toNat).getD (7 - j) 0 := by
    rw [List.getD_eq_getElem?_getD, List.getElem?_reverse (by rw [toBytes_length]; exact h), toBytes_length,
      ← List.getD_eq_getElem?_getD]
  rw [bswap64, BitVec.toNat_ofNat, Nat.mod_eq_of_lt bound, ofBytes_byte, mirrored, toBytes_getD (by omega)]

/-! ### Bit fields (R136) -/

section Fields
variable {pos w : Nat} (hp : pos < 64) (hw : 1 ≤ w)
include hp hw

/-- A field is not empty and ends at bit 63 at the latest. -/
theorem fieldLen_eq : fieldLen pos w = min w (64 - pos) := by unfold fieldLen; omega

theorem bfField_testBit (x : Word) (i : Nat) : (bfField x pos w).testBit i = (decide (i < w) && x.getLsbD (pos + i)) := by
  rw [bfField, Nat.testBit_mod_two_pow, Nat.testBit_div_two_pow, fieldLen_eq hp hw, Nat.add_comm i]
  show (decide _ && x.getLsbD (pos + i)) = _
  by_cases inside : pos + i < 64
  · have : i < min w (64 - pos) ↔ i < w := by omega
    simp only [this]
  · simp [BitVec.getLsbD_of_ge x (pos + i) (by omega)]

/-- A field with its sign is its bits as a number of the field's width, extended. -/
theorem bfxSigned_eq_signExtend (x : Word) :
    bfxSigned x pos w = (BitVec.ofNat (fieldLen pos w) (bfField x pos w)).signExtend 64 := by
  have width : fieldLen pos w = fieldLen pos w - 1 + 1 := by rw [fieldLen_eq hp hw]; omega
  have double : 2 ^ fieldLen pos w = 2 * 2 ^ (fieldLen pos w - 1) := by
    rw [← Nat.pow_succ', Nat.succ_eq_add_one, ← width]
  have bound : bfField x pos w < 2 ^ fieldLen pos w := Nat.mod_lt _ (Nat.two_pow_pos _)
  have half : 2 * bfField x pos w < 2 ^ fieldLen pos w ↔ bfField x pos w < 2 ^ (fieldLen pos w - 1) := by omega
  rw [BitVec.signExtend, BitVec.toInt_eq_toNat_cond, BitVec.toNat_ofNat, Nat.mod_eq_of_lt bound, bfxSigned]
  simp only [half]
  split
  · exact (BitVec.ofInt_natCast 64 _).symm
  · rw [Nat.cast_pow, Nat.cast_ofNat]

theorem bfxSigned_bit (x : Word) {i : Nat} (hi : i < 64) :
    (bfxSigned x pos w).getLsbD i = x.getLsbD (min (pos + min i (w - 1)) 63) := by
  have width := fieldLen_eq hp hw
  rw [bfxSigned_eq_signExtend hp hw, BitVec.getLsbD_signExtend, BitVec.msb_eq_getLsbD_last]
  simp only [BitVec.getLsbD_ofNat, bfField_testBit hp hw, hi, decide_true, Bool.true_and]
  by_cases inside : i < fieldLen pos w
  · have low : i < w ∧ min (pos + min i (w - 1)) 63 = pos + i := by omega
    simp only [if_true, inside, low, decide_true, Bool.true_and]
  · have top : fieldLen pos w - 1 < fieldLen pos w ∧ fieldLen pos w - 1 < w ∧
        min (pos + min i (w - 1)) 63 = pos + (fieldLen pos w - 1) := by omega
    simp only [if_false, inside, top, decide_true, Bool.true_and]

theorem bfiOf_bit (x y : Word) {i : Nat} (hi : i < 64) :
    (bfiOf x y pos w).getLsbD i = if pos ≤ i ∧ i < pos + w then x.getLsbD (i - pos) else y.getLsbD i := by
  have width := fieldLen_eq hp hw
  have low : y.toNat % 2 ^ pos < 2 ^ pos := Nat.mod_lt _ (Nat.two_pow_pos _)
  have mid : x.toNat % 2 ^ fieldLen pos w < 2 ^ fieldLen pos w := Nat.mod_lt _ (Nat.two_pow_pos _)
  have parts : y.toNat / 2 ^ (pos + fieldLen pos w) * 2 ^ (pos + fieldLen pos w) + x.toNat % 2 ^ fieldLen pos w * 2 ^ pos +
      y.toNat % 2 ^ pos = 2 ^ pos * (2 ^ fieldLen pos w * (y.toNat / 2 ^ (pos + fieldLen pos w)) + x.toNat % 2 ^ fieldLen pos w) +
      y.toNat % 2 ^ pos := by ring
  rw [bfiOf, BitVec.getLsbD_ofNat, parts, Nat.testBit_two_pow_mul_add _ low, Nat.testBit_two_pow_mul_add _ mid]
  simp only [hi, decide_true, Bool.true_and, Nat.testBit_mod_two_pow, Nat.testBit_div_two_pow, BitVec.testBit_toNat]
  by_cases below : i < pos
  · have outside : ¬ (pos ≤ i ∧ i < pos + w) := by omega
    simp [below, outside]
  · by_cases inside : i - pos < fieldLen pos w
    · have field : pos ≤ i ∧ i < pos + w := by omega
      simp [below, inside, field]
    · have outside : ¬ (pos ≤ i ∧ i < pos + w) := by omega
      have same : i - pos - fieldLen pos w + (pos + fieldLen pos w) = i := by omega
      simp [below, inside, outside, same]

end Fields

end Sys2Proof.Machine

namespace Sys2Proof
open Machine

/-- Settles O6: the counts by the highest and the lowest one, the bytes by their places, the fields bit by bit. -/
theorem bitOperations : Obligations.BitOperations := by
  refine ⟨fun x => ⟨fun zero => ⟨if_pos zero, if_pos zero⟩, clz64_bits, ctz64_bits, ones_eq_length 64 x.toNat,
    fun j hj => bswap64_byte x hj⟩, fun x y pos w i hp hw hi => ⟨?_, bfxSigned_bit hp hw x hi, bfiOf_bit hp hw x y hi⟩⟩
  rw [BitVec.getLsbD_ofNat, bfField_testBit hp hw, decide_eq_true hi, Bool.true_and]

end Sys2Proof
end

section
/-! PROOFS. Control transfers (R101, R104, R143-R149, R221): the row of a page that is entered, the checks of a target, the landing,
and the transfers that go through them. -/

namespace Sys2Proof.Machine
open Claims

/-! ### What is read of memory does not depend on slots (R297, R310-R314) -/

section Reads
variable (s : State) (k : Nat) (f : Slot → Slot)

theorem State.numAt_modSlot : (s.modSlot k f).numAt = s.numAt := rfl
theorem State.leafOk_modSlot : (s.modSlot k f).leafOk = s.leafOk := rfl
theorem State.dirEntry_modSlot : (s.modSlot k f).dirEntry = s.dirEntry := rfl
theorem State.keyOfNum_modSlot : (s.modSlot k f).keyOfNum = s.keyOfNum := rfl
theorem State.pidOf_modSlot : (s.modSlot k f).pidOf = s.pidOf := rfl

theorem State.walk2_modSlot (dev pid colours : Nat) (reqCls : Option Nat) (pa : Nat) (probe : Bool) (levels : List (Nat × Nat))
    (table : Nat) :
    (s.modSlot k f).walk2 dev pid colours reqCls pa probe levels table = s.walk2 dev pid colours reqCls pa probe levels table := by
  induction levels generalizing table with
  | nil => rfl
  | cons level levels ih =>
    rw [State.walk2, State.walk2, State.numAt_modSlot, State.leafOk_modSlot]
    simp only [ih]
/-- Stage 2 is unfolded as a function: the equation of its match at arguments makes the kernel evaluate the directory entry. -/
theorem State.stage2_modSlot (dev pid : Nat) (reqCls : Option Nat) (pa : Nat) (probe : Bool) :
    (s.modSlot k f).stage2 dev pid reqCls pa probe = s.stage2 dev pid reqCls pa probe := by
  have body : @State.stage2 = @State.stage2 := rfl
  conv at body => rhs; delta State.stage2
  have entry := s.dirEntry_modSlot k f
  rw [body]
  simp only [entry, State.walk2_modSlot]
theorem State.partAddr_modSlot (dev pid p : Nat) (probe : Bool) :
    (s.modSlot k f).partAddr dev pid p probe = s.partAddr dev pid p probe := by
  rw [State.partAddr, State.partAddr, State.keyOfNum_modSlot]
  cases s.keyOfNum dev (bits p 52 44) with
  | none => rfl
  | some d => exact congrArg (Tr.bind · _) (State.stage2_modSlot ..)
theorem State.readPart_modSlot (dev pid p n : Nat) (probe : Bool) :
    (s.modSlot k f).readPart dev pid p n probe = s.readPart dev pid p n probe := by
  rw [State.readPart, State.readPart, State.partAddr_modSlot, State.numAt_modSlot]
theorem State.readRow_modSlot (c asid dom : Nat) : (s.modSlot k f).readRow c asid dom = s.readRow c asid dom := by
  rw [State.readRow, State.readRow, State.asd, State.asd, State.pidOf_modSlot, State.core_modSlot]
  simp only [State.readPart_modSlot]

end Reads

/-! ### Entering a page (R101, R104) -/

theorem State.modSlot_congr {s : State} {k : Nat} {f g : Slot → Slot} (h : f (s.slot k) = g (s.slot k)) : s.modSlot k f = s.modSlot k g :=
  congrArg (s.setSlot k) h

/-- A slot that enters a page is on its domain and class, with the row reloaded where the domain changes or classes cross. -/
theorem State.enterPage_eq (s : State) (k : Nat) (dom : BitVec 8) (cls : BitVec 2) (cross : Bool) :
    s.enterPage k dom cls cross = s.modSlot k (entered (reloaded s k dom) (s.reloadEnd k) dom cls cross) := by
  by_cases reloads : cross = true ∨ dom ≠ (s.slot k).dom
  · have code : (cross || dom != (s.slot k).dom) = true := by simpa using reloads
    rw [State.enterPage, if_pos code, State.reloadRow, State.modSlot_modSlot, State.slot_modSlot, State.readRow_modSlot]
    refine State.modSlot_congr ?_
    rw [entered, if_pos reloads]
    rfl
  · have code : ¬ (cross || dom != (s.slot k).dom) = true := by simpa using reloads
    rw [State.enterPage, if_neg code]
    refine State.modSlot_congr ?_
    rw [entered, if_neg reloads]

/-- What a transfer does to its slot beside going: g31 and the domain return records at most. -/
def TransferEffect (t u : Slot) : Prop := u = { t with g := u.g, wrote := u.wrote, drs := u.drs }

/-- A transfer that lands goes to its target. -/
theorem State.goTo_went {s : State} (t : Word) (e : TlbEnt) (cross : Bool) (nw : Nat) {f : Slot → Slot}
    (plain : s.me.sstep = false) (effect : TransferEffect s.me (f s.me)) : (s.modMe f).goTo t e cross nw = went s t e cross f := by
  have row : reloaded (s.modMe f) s.cur e.dom = reloaded s s.cur e.dom := by
    have asid : ((s.modMe f).slot s.cur).asid = (s.slot s.cur).asid := by
      rw [State.modMe, State.slot_modSlot]; exact (congrArg Slot.asid effect).trans rfl
    rw [reloaded, reloaded, asid, State.modMe, State.readRow_modSlot]
  have ready : (s.modMe f).reloadEnd s.cur = s.reloadEnd s.cur := by
    have slot : (s.modMe f).slot s.cur = f s.me := State.slot_modSlot ..
    rw [State.reloadEnd, slot, effect]; rfl
  have enters : (s.modMe f).enterPage s.cur e.dom e.cls cross =
      s.modMe fun u => entered (reloaded s s.cur e.dom) (s.reloadEnd s.cur) e.dom e.cls cross (f u) := by
    rw [State.enterPage_eq, row, ready]
    exact State.modSlot_modSlot ..
  have still : (entered (reloaded s s.cur e.dom) (s.reloadEnd s.cur) e.dom e.cls cross (f s.me)).sstep = false := by
    have kept : (f s.me).sstep = false := (congrArg Slot.sstep effect).trans plain
    unfold entered; split <;> exact kept
  rw [State.goTo, State.modMe_cur, enters, State.doneAt_plain _ _ _ (by rw [State.me_modMe]; exact still)]
  exact State.modMe_modMe ..

section Landing
variable {s : State} {t : Word} {e : TlbEnt} (cross : Bool) (nw : Nat) {f : Slot → Slot}

theorem State.land_cached (here : Cached s t e) (plain : s.me.sstep = false) (effect : TransferEffect s.me (f s.me)) :
    s.land t e cross nw f = went s t e cross f := by
  have code : (s.icHit s.myCore s.me.asid.toNat e t.toNat || !s.routeUp s.myDev e.dev ||
      (s.poisonOf e.key (e.pa t.toNat) 1).isSome) = true := by simpa [Cached, or_assoc] using here
  rw [State.land, if_pos code]
  exact State.goTo_went t e cross nw plain effect
theorem State.land_uncached (away : ¬ Cached s t e) : s.land t e cross nw f = awaits s t e nw := by
  have code : ¬ (s.icHit s.myCore s.me.asid.toNat e t.toNat || !s.routeUp s.myDev e.dev ||
      (s.poisonOf e.key (e.pa t.toNat) 1).isSome) = true := by simpa [Cached, or_assoc] using away
  rw [State.land, if_neg code]
  exact State.parkAt_parked _ _ _ _ _ _ rfl

end Landing

/-! ### The checks of a target (R143) -/

theorem State.Light.gateAt {s t : State} (h : s.Light t) (c asid : Nat) (e : TlbEnt) (va : Nat) :
    t.gateAt c asid e va = s.gateAt c asid e va := by
  have bytes : t.byteAt = s.byteAt := by rw [h.rest]; rfl
  have core := h.core c
  unfold State.gateAt State.codeWord State.codeByte
  rw [bytes, core]

/-- The page of a fetch is entered in the TLBs: the running slot is as it was. -/
theorem fetchPage_running {s s0 : State} {c asid va cls : Nat} {e : TlbEnt} (h : s.fetchPage c asid va cls = .ok (e, s0)) :
    s0.me = s.me ∧ s0.cur = s.cur ∧ s0.myCore = s.myCore := by
  obtain ⟨e', rfl⟩ := fetchPage_tlbAdd h
  exact ⟨rfl, rfl, rfl⟩

section Checks
variable {s s0 s1 : State} {t : Word} {e : TlbEnt} {r : Row} (nw : Nat) (f : Bool → TlbEnt → State → State)

theorem withTarget_odd (odd : t.toNat % 2 = 1) : withTarget s t nw f = s.trap 5 t nw := if_pos (by omega)
theorem withTarget_notCanonical (even : t.toNat % 2 = 0) (h : canonical t.toNat = false) : withTarget s t nw f = s.trap 6 t nw := by
  simp [withTarget, even, h]

section Page
variable (even : t.toNat % 2 = 0) (canon : canonical t.toNat = true)
include even canon

theorem withTarget_fault {c : Nat} (page : s.fetchPage s.myCore s.me.asid.toNat t.toNat s.me.cls.toNat = .fault c) :
    withTarget s t nw f = s.trap c t nw := by
  simp [withTarget, withPage, even, canon, page]

variable (page : s.fetchPage s.myCore s.me.asid.toNat t.toNat s.me.cls.toNat = .ok (e, s0))
include page

theorem withTarget_inside (inside : e.dom = s.me.dom ∧ e.cls ≤ s.me.cls) : withTarget s t nw f = f false e s0 := by
  obtain ⟨me, -, -⟩ := fetchPage_running page
  simp [withTarget, withPage, even, canon, page, me, inside]

variable (outside : ¬ (e.dom = s.me.dom ∧ e.cls ≤ s.me.cls))
include outside

theorem withTarget_noGate (gate : s0.gateAt s.myCore s.me.asid.toNat e t.toNat = false) :
    withTarget s t nw f = s0.trap 0x0A t nw := by
  obtain ⟨me, -, core⟩ := fetchPage_running page
  simp [withTarget, withPage, even, canon, page, me, core, outside, gate]

variable (gate : s0.gateAt s.myCore s.me.asid.toNat e t.toNat = true) (row : s0.rowOf s.cur = .ok (r, s1))
include gate row

theorem withTarget_forbidden (code : r.code e.dom ≠ 3) : withTarget s t nw f = s1.trap 8 t nw := by
  obtain ⟨me, cur, core⟩ := fetchPage_running page
  simp [withTarget, withPage, even, canon, page, me, cur, core, outside, gate, row, code]
theorem withTarget_crosses (code : r.code e.dom = 3) : withTarget s t nw f = f true e s1 := by
  obtain ⟨me, cur, core⟩ := fetchPage_running page
  simp [withTarget, withPage, even, canon, page, me, cur, core, outside, gate, row, code]

end Page

/-- A target that passes the checks. -/
theorem withTarget_target {cross : Bool} (h : Target s t cross e s1) : withTarget s t nw f = f cross e s1 := by
  obtain ⟨even, canon, s0, page, h⟩ := h
  by_cases inside : e.dom = s.me.dom ∧ e.cls ≤ s.me.cls
  · rw [if_pos inside] at h
    obtain ⟨rfl, rfl⟩ := h
    exact withTarget_inside nw f even canon page inside
  · rw [if_neg inside] at h
    obtain ⟨rfl, gate, r, row, code⟩ := h
    exact withTarget_crosses nw f even canon page inside gate row code

end Checks

section Passed
variable {s s1 : State} {t : Word} {cross : Bool} {e : TlbEnt}

/-- The checks change TLBs and the row of the running slot at most. -/
theorem target_light (h : Target s t cross e s1) : s.Light s1 := by
  obtain ⟨-, -, s0, page, h⟩ := h
  split at h
  · obtain ⟨-, rfl⟩ := h
    exact State.fetchPage_light page
  · obtain ⟨-, -, r, row, -⟩ := h
    exact (State.fetchPage_light page).trans (State.rowOf_light row)
theorem target_running (h : Target s t cross e s1) : s1.me = { s.me with row := s1.me.row } ∧ s1.myCore = s.myCore :=
  ⟨(target_light h).me, congrArg coreOf (target_light h).cur⟩
/-- A target in another domain or a higher class is a gate. -/
theorem target_gate (h : Target s t true e s1) : s1.gateAt s.myCore s.me.asid.toNat e t.toNat = true := by
  obtain ⟨-, -, s0, page, h⟩ := h
  split at h
  · exact absurd h.1 (by decide)
  · obtain ⟨-, gate, r, row, -⟩ := h
    rw [(State.rowOf_light row).gateAt]
    exact gate

end Passed

/-! ### The transfers (R145, R221) -/

theorem exec_go (o : Go) (p : Pfx) (s : State) : exec (o.instr p) s = transfer p o.srcs o.target o.links s := by
  cases o <;> rfl
theorem nwords_go (o : Go) (p : Pfx) : (o.instr p).nwords = nw0 p := by
  cases o <;> simp [Go.instr]

theorem tb_eq_testBit (x n : Nat) : tb x n = x.testBit n := by
  rw [Nat.testBit_eq_decide_div_mod_eq]; rfl

/-- A link in g31 is an effect of a transfer. -/
theorem linkEffect (link : Bool) (t : Slot) (x : Word) : TransferEffect t (if link then t.wr 31 x else t) := by
  cases link <;> rfl

theorem went_congr {s : State} {t : Word} {e : TlbEnt} {cross : Bool} {f g : Slot → Slot} (h : f s.me = g s.me) :
    went s t e cross f = went s t e cross g :=
  State.modMe_congr (by rw [h])

/-- A hint enters lines in the TLBs and the instruction cache alone (R117). -/
theorem State.hinted_me (s : State) (h : Hints) (t : Word) : (s.hinted h t).me = s.me := by
  unfold State.hinted
  split
  · split
    · rename_i e s' page
      split
      · rfl
      · exact (fetchPage_running page).1
    · rfl
  · rfl

section Transfers
variable {s : State} {p : Pfx}

/-- A plain transfer checks its target and lands. -/
theorem exec_go_target (o : Go) (h : Begins s p) (full : Full s o.srcs) :
    exec (o.instr p) s = .next (withTarget s (o.target s.me) (nw0 p) fun cross e s1 =>
      s1.land (o.target s.me) e cross (nw0 p) fun x => if o.links then x.wr 31 (afterChain x (nw0 p)) else x) := by
  rw [exec_go, transfer]
  dsimp only
  rw [run_begins h (by simp), withFull_full _ _ full]

/-- TSTX goes on where its bit is not as it asks, and is a transfer where it is. -/
theorem exec_tstx_full {i : Instr} {want : Bool} {bit : Fin 64} {a : Fin 32} {imm : Int} (h : Begins s p) (full : Full s [a])
    (hi : i = if want then .tstxSet p bit a imm else .tstxClr p bit a imm) :
    i.nwords = nwX p ∧ exec i s = .next (
      if (s.me.rd a).getLsbD bit ≠ want then (s.hinted (hintsOf p) (relTarget s.me imm)).finish (nwX p)
      else withTarget s (relTarget s.me imm) (nwX p) fun cross e s1 => s1.land (relTarget s.me imm) e cross (nwX p) id) := by
  have meaning : exec i s = tstx p bit a imm want s ∧ i.nwords = nwX p := by
    subst hi
    cases want <;> exact ⟨rfl, by simp⟩
  refine ⟨meaning.2, ?_⟩
  rw [meaning.1, tstx]
  dsimp only
  rw [run_begins h (by simp), withFull_full _ _ full, tb_eq_testBit]
  exact congrArg _ (if_congr bne_iff_ne rfl rfl)

/-- A CALLX, with the registers it reads and its target. -/
def Callx (s : State) (p : Pfx) (i : Instr) (srcs : List (Fin 32)) (t : Word) : Prop :=
  (∃ imm, i = .callx p imm ∧ srcs = [] ∧ t = s.me.pc + BitVec.ofInt 64 (2 * imm)) ∨
    ∃ a, i = .callxReg p a ∧ srcs = [a] ∧ t = s.me.rd a

/-- CALLX at its checked target (R146). -/
def enterDomain (t : Word) (nw : Nat) (cross : Bool) (e : TlbEnt) (s : State) : State :=
  if !cross && !s.gateAt s.myCore s.me.asid.toNat e t.toNat then s.trap 0x0A t nw
  else if 8 ≤ s.me.drs.length then s.trap 0x0A t nw
  else s.land t e cross nw fun x => { x with drs := x.drs ++ [DomRet.make x.dom (afterChain x nw)] }

theorem exec_callx_target {i : Instr} {srcs : List (Fin 32)} {t : Word} (call : Callx s p i srcs t) (h : Begins s p)
    (full : Full s srcs) : exec i s = .next (withTarget s t i.nwords (enterDomain t i.nwords)) := by
  rcases call with ⟨imm, rfl, rfl, rfl⟩ | ⟨a, rfl, rfl, rfl⟩
  · rw [exec_callx, execCallx, callx]
    dsimp only
    rw [run_begins h (by simp), withFull_full _ _ full, nwords_callx]
    rfl
  · rw [exec_callxReg, execCallxReg, callx]
    dsimp only
    rw [run_begins h (by simp), withFull_full _ _ full, nwords_callxReg]
    rfl

/-- Past the checks CALLX lands at a gate with a ninth record's room. -/
theorem enterDomain_lands {s1 : State} {t : Word} {cross : Bool} {e : TlbEnt} (nw : Nat) (target : Target s t cross e s1)
    (gate : s1.gateAt s.myCore s.me.asid.toNat e t.toNat = true) (room : s.me.drs.length < 8) :
    enterDomain t nw cross e s1 =
      s1.land t e cross nw fun x => { x with drs := x.drs ++ [DomRet.make x.dom (afterChain x nw)] } := by
  obtain ⟨me, core⟩ := target_running target
  have gate1 : s1.gateAt s1.myCore s1.me.asid.toNat e t.toNat = true := by rw [core, me]; exact gate
  have room1 : ¬ 8 ≤ s1.me.drs.length := by rw [me]; exact Nat.not_le.2 room
  rw [enterDomain, gate1, if_neg (by simp), if_neg room1]
/-- A target that is no gate, which is in the domain, and a ninth record trap (R146). -/
theorem enterDomain_traps {s1 : State} {t : Word} {cross : Bool} {e : TlbEnt} (nw : Nat) (target : Target s t cross e s1)
    (stops : s1.gateAt s.myCore s.me.asid.toNat e t.toNat = false ∨ 8 ≤ s.me.drs.length) :
    enterDomain t nw cross e s1 = s1.trap 0x0A t nw := by
  obtain ⟨me, core⟩ := target_running target
  rcases stops with noGate | records
  · have within : cross = false := by
      cases cross with
      | false => rfl
      | true => exact absurd (target_gate target) (by simp [noGate])
    have noGate1 : s1.gateAt s1.myCore s1.me.asid.toNat e t.toNat = false := by rw [core, me]; exact noGate
    rw [enterDomain, within, noGate1]
    rfl
  · have records1 : 8 ≤ s1.me.drs.length := by rw [me]; exact records
    rw [enterDomain, if_pos records1]
    exact ite_self _

/-- Every transfer begins with the checks of its target. -/
theorem exec_goesTo {i : Instr} {srcs : List (Fin 32)} {t : Word} (goes : GoesTo s p i srcs t) (h : Begins s p)
    (full : Full s srcs) : ∃ f, exec i s = .next (withTarget s t i.nwords f) := by
  rcases goes with ⟨o, rfl, rfl, rfl⟩ | label | register | ⟨bit, a, imm, rfl, rfl, tests⟩
  · rw [nwords_go]
    exact ⟨_, exec_go_target o h full⟩
  · exact ⟨_, exec_callx_target (.inl label) h full⟩
  · exact ⟨_, exec_callx_target (.inr register) h full⟩
  · obtain ⟨want, hi, holds⟩ : ∃ want, i = (if want then .tstxSet p bit a imm else .tstxClr p bit a imm) ∧
        (s.me.rd a).getLsbD bit = want := by
      rcases tests with ⟨rfl, holds⟩ | ⟨rfl, holds⟩
      · exact ⟨true, rfl, holds⟩
      · exact ⟨false, rfl, holds⟩
    obtain ⟨words, runs⟩ := exec_tstx_full h full hi
    rw [if_neg (not_not.2 holds)] at runs
    rw [words]
    exact ⟨_, runs⟩

end Transfers

/-! ### RETX (R147, R148) -/

section Retx
variable {s s1 : State} {p : Pfx} {r : DomRet} {rs : List DomRet}

theorem withPage_fault {va : Word} {nw c : Nat} (f : TlbEnt → State → State)
    (page : s.fetchPage s.myCore s.me.asid.toNat va.toNat s.me.cls.toNat = .fault c) : withPage s va nw f = s.trap c va nw := by
  simp [withPage, page]
theorem withPage_ok {va : Word} {nw : Nat} {e : TlbEnt} (f : TlbEnt → State → State)
    (page : s.fetchPage s.myCore s.me.asid.toNat va.toNat s.me.cls.toNat = .ok (e, s1)) : withPage s va nw f = f e s1 := by
  simp [withPage, page]

/-- RETX at the page of its record's address. -/
def leaveDomain (r : DomRet) (nw : Nat) (e : TlbEnt) (s : State) : State :=
  if e.dom ≠ r.dom then s.trap 0x0A r.rpc nw
  else s.land r.rpc e (decide (s.me.cls < e.cls)) nw fun x => { x with drs := x.drs.dropLast }

theorem exec_retx_record (h : Begins s p) (top : s.me.drs = rs ++ [r]) :
    exec (.retx p) s = .next (withPage s r.rpc (nw0 p) (leaveDomain r (nw0 p))) := by
  rw [exec_retx, execRetx]
  rw [run_begins h (by simp), top, List.getLast?_concat]
  rfl
theorem exec_retx_none (h : Begins s p) (empty : s.me.drs = []) : exec (.retx p) s = .next (s.trap 0x0A 0 (nw0 p)) := by
  rw [exec_retx, execRetx]
  rw [run_begins h (by simp), empty]
  rfl

/-- At a page of the record's domain RETX lands, with the record off the stack. -/
theorem exec_retx_lands {e : TlbEnt} (h : Plain s p) (top : s.me.drs = rs ++ [r])
    (page : s.fetchPage s.myCore s.me.asid.toNat r.rpc.toNat s.me.cls.toNat = .ok (e, s1)) (dom : e.dom = r.dom) :
    (Cached s1 r.rpc e → exec (.retx p) s = .next (went s1 r.rpc e (decide (s.me.cls < e.cls)) fun u => { u with drs := rs })) ∧
    (¬ Cached s1 r.rpc e → exec (.retx p) s = .next (awaits s1 r.rpc e (nw0 p))) := by
  obtain ⟨me, -, -⟩ := fetchPage_running page
  have plain : s1.me.sstep = false := by rw [me]; exact h.2
  have popped : s1.me.drs.dropLast = rs := by rw [me, top, List.dropLast_concat]
  have lands : leaveDomain r (nw0 p) e s1 =
      s1.land r.rpc e (decide (s.me.cls < e.cls)) (nw0 p) fun x => { x with drs := x.drs.dropLast } := by
    rw [leaveDomain, if_neg (not_not.2 dom), me]
  rw [exec_retx_record h.1 top, withPage_ok _ page, lands]
  refine ⟨fun here => congrArg _ ?_, fun away => congrArg _ (State.land_uncached _ _ away)⟩
  rw [State.land_cached (f := fun x => { x with drs := x.drs.dropLast }) _ _ here plain rfl]
  exact went_congr (by rw [popped])

theorem signExtend_eight (x : Nat) : signExtend 8 x = BitVec.ofNat 64 x := by
  refine BitVec.eq_of_toNat_eq ?_
  unfold signExtend
  split
  · rw [BitVec.toNat_ofNat, BitVec.toNat_ofNat, Nat.mod_mod]
  · rw [BitVec.toNat_ofInt, BitVec.toNat_ofNat]
    omega

/-- An even canonical address is its bits [56:1] with the highest of them continued. -/
theorem canonical_eq {n : Nat} (lt : n < 2 ^ 64) (even : n % 2 = 0) (canon : canonical n = true) :
    n = n / 2 % 2 ^ 56 * 2 + if n / 2 % 2 ^ 56 / 2 ^ 55 % 2 = 1 then 127 * 2 ^ 57 else 0 := by
  have high : n / 2 ^ 56 % 2 ^ 8 = if n / 2 ^ 56 % 2 = 1 then 255 else 0 := by
    simpa [canonical, bits, tb] using canon
  split <;> split at high <;> omega

/-- A record keeps the bits [56:1] of an address. -/
theorem DomRet.make_eq {dom : BitVec 8} {ret : Word} (even : ret.toNat % 2 = 0) (canon : canonical ret.toNat = true) :
    DomRet.make dom ret = { dom := dom, rpc := ret } := by
  have field : DomRet.word { dom := dom, rpc := ret } = dom.toNat * 2 ^ 56 + ret.toNat / 2 % 2 ^ 56 := rfl
  have domain : bits (dom.toNat * 2 ^ 56 + ret.toNat / 2 % 2 ^ 56) 63 56 = dom.toNat := by
    have := dom.isLt
    simp only [bits]; omega
  have address : bits (dom.toNat * 2 ^ 56 + ret.toNat / 2 % 2 ^ 56) 55 0 = ret.toNat / 2 % 2 ^ 56 := by
    simp only [bits]; omega
  have sign : tb (dom.toNat * 2 ^ 56 + ret.toNat / 2 % 2 ^ 56) 55 = decide (ret.toNat / 2 % 2 ^ 56 / 2 ^ 55 % 2 = 1) := by
    have same : (dom.toNat * 2 ^ 56 + ret.toNat / 2 % 2 ^ 56) / 2 ^ 55 % 2 = ret.toNat / 2 % 2 ^ 56 / 2 ^ 55 % 2 := by omega
    rw [tb, same]; rfl
  rw [DomRet.make, field, DomRet.ofWord, domain, address, sign, signExtend_eight]
  simp only [decide_eq_true_eq]
  rw [← canonical_eq ret.isLt even canon, BitVec.ofNat_toNat, BitVec.ofNat_toNat, BitVec.setWidth_eq, BitVec.setWidth_eq]

end Retx

end Sys2Proof.Machine

namespace Sys2Proof
open Machine Claims

/-- Settles O29: a transfer goes through the checks of its target, and lands there where they pass. -/
theorem transfersAndBadTargets : Obligations.TransfersAndBadTargets := by
  refine ⟨fun o p s s1 cross e h full target => ?goes, fun set p bit a imm s h full => ?tests, fun p i srcs t s h goes full => ?traps⟩
  case goes =>
    have plain : s1.me.sstep = false := (congrArg Slot.sstep (target_running target).1).trans h.2
    rw [nwords_go, exec_go_target o h.1 full, withTarget_target _ _ target]
    exact ⟨fun here => congrArg _ (State.land_cached _ _ here plain (linkEffect ..)),
      fun away => congrArg _ (State.land_uncached _ _ away)⟩
  case tests =>
    obtain ⟨words, runs⟩ := exec_tstx_full (imm := imm) h.1 full (i := if set then .tstxSet p bit a imm else .tstxClr p bit a imm) rfl
    dsimp only
    rw [words, runs]
    refine ⟨fun other => ?stays, fun s1 cross e asked target => ?branches⟩
    case stays =>
      rw [if_pos other]
      exact congrArg _ (State.finish_plain _ _ (by rw [State.hinted_me]; exact h.2))
    case branches =>
      have plain : s1.me.sstep = false := (congrArg Slot.sstep (target_running target).1).trans h.2
      have checked := withTarget_target (nwX p) (fun cross e s1 => s1.land (relTarget s.me imm) e cross (nwX p) id) target
      rw [if_neg (not_not.2 asked)]
      exact ⟨fun here => congrArg _ (checked.trans (State.land_cached _ _ here plain rfl)),
        fun away => congrArg _ (checked.trans (State.land_uncached _ _ away))⟩
  case traps =>
    obtain ⟨f, runs⟩ := exec_goesTo goes h.1 full
    dsimp only
    rw [runs]
    refine ⟨fun odd => ?odd, fun even canon => ?high, fun even canon c page => ?page, fun e s0 even canon page outside =>
      ⟨fun gate => ?gate, fun r s1 gate row code => ?code⟩⟩
    case odd => exact congrArg _ (withTarget_odd _ _ odd)
    case high => exact congrArg _ (withTarget_notCanonical _ _ even canon)
    case page => exact congrArg _ (withTarget_fault _ _ even canon page)
    case gate => exact congrArg _ (withTarget_noGate _ _ even canon page outside gate)
    case code => exact congrArg _ (withTarget_forbidden _ _ even canon page outside gate row code)

/-- Settles O30: CALLX and RETX at their checked pages, by the gate and the records. -/
theorem domainCalls : Obligations.DomainCalls := by
  refine ⟨?calls, ?returns, ?callTraps, ?noRecord, ?returnTraps, ?gate, fun dom ret => DomRet.make_eq⟩
  case calls =>
    intro i srcs t p s s1 cross e call h full target gate room
    have plain : s1.me.sstep = false := (congrArg Slot.sstep (target_running target).1).trans h.2
    rw [exec_callx_target call h.1 full, withTarget_target _ _ target, enterDomain_lands _ target gate room]
    exact ⟨fun here => congrArg _ (State.land_cached _ _ here plain rfl), fun away => congrArg _ (State.land_uncached _ _ away)⟩
  case returns =>
    intro p s s1 r rs e h top page dom
    rw [nwords_retx]
    exact exec_retx_lands h top page dom
  case callTraps =>
    intro i srcs t p s s1 cross e call h full target stops
    rw [exec_callx_target call h.1 full, withTarget_target _ _ target, enterDomain_traps _ target stops]
  case noRecord =>
    intro p s h empty
    rw [nwords_retx, exec_retx_none h.1 empty]
  case returnTraps =>
    intro p s r rs h top
    dsimp only
    rw [nwords_retx, exec_retx_record h.1 top]
    refine ⟨fun c page => congrArg _ (withPage_fault _ page), fun e s1 page dom => ?_⟩
    rw [withPage_ok _ page, leaveDomain, if_pos dom]
  case gate =>
    intro p s h
    rw [nwords_gate, exec_gate, execGate, run_begins h.1 (by simp), State.finish_plain _ _ h.2]

end Sys2Proof
end

section
/-! PROOFS. The frame of TRAP (R151, R338, R340) on a memory that lists a byte of the save area twice: a state that meets a premise
and not its conclusion. -/

namespace Sys2Proof.Machine
open Claims

/-- Outside a region a trap instruction takes its trap (R151). -/
theorem trapInstr_outside {p : Pfx} {s : State} (cause : Nat) (h : Outside s p) :
    trapInstr p cause s = .next (s.trap cause 0 (nw0 p)) := by
  rw [trapInstr, run_begins h.1.1 (by simp), h.2]
  rfl

end Sys2Proof.Machine

namespace Sys2Proof
open Machine Claims

/-- The thread of `twiceListed` issues TRAP 0 outside a region. -/
theorem twiceListed_outside : Outside twiceListed Pfx.none := by decide

/-- Its vector word of group 0 is a gate, and its save area lies on a page that it may write. -/
theorem twiceListed_deliversTrap : ∃ s, Delivers twiceListed 0 vectorPage vectorPage s := ⟨_, rfl, _, rfl, rfl⟩

theorem exec_trap_twiceListed : exec (.trap Pfx.none 0) twiceListed = .next (twiceListed.trap 0x40 0 1) := by
  rw [exec_trap, execTrap, trapInstr_outside _ twiceListed_outside]
  rfl

/-- Refutes O31: TRAP 0 saves a frame whose byte 88 is 0, and where memory lists that byte of the save area twice, storing 0 erases
one of the two entries: the byte does not read as the frame's. -/
theorem not_trapsAreTaken : ¬ Obligations.TrapsAreTaken := by
  rintro ⟨-, takes, -⟩
  obtain ⟨s, delivers⟩ := twiceListed_deliversTrap
  obtain ⟨t, ht, ⟨stored, -⟩, -⟩ := takes Pfx.none 0 twiceListed s vectorPage vectorPage twiceListed_outside delivers
  obtain rfl : twiceListed.trap 0x40 0 1 = t := Host.Outcome.next.inj (exec_trap_twiceListed.symm.trans ht)
  have byte88 := stored (1112, 0) (by decide +kernel)
  have still1 : (twiceListed.trap 0x40 0 1).byteAt vectorPage.key 1112 = 1 := by decide +kernel
  exact absurd (byte88.symm.trans still1) (by decide)

end Sys2Proof
end

section
/-! PROOFS. Writes of zero bytes at a home (R88, R161, R176, R182, R255) over a byte that memory lists twice: for each of five statements
a state that meets a premise and not its conclusion. No step makes such a memory (`StepKeepsMemoryForm`), but the statements ask nothing
of memory. -/

namespace Sys2Proof
open Machine Claims

/-! ### A byte that memory lists twice -/

/-- Memory lists the byte at `a` twice, with the value 1. -/
def listedTwice (a : Nat) : Memory := [(a, 1), (a, 1)]


/-- The byte that an outcome's state reads at an address, and the byte at its home under key 0. -/
def byteIn (a : Nat) : Res → Option Byte
  | .next t => some (t.mem.read a)
  | _ => none
def homeByteIn (a : Nat) : Res → Option Byte
  | .next t => some (t.byteAt 0 a)
  | _ => none

theorem not_stored_zero {s t : State} {o : Res} {cells : List Host.Cell} {a : Nat} (still1 : byteIn a o = some 1) (ht : o = .next t)
    (zero : (a, 0) ∈ cells) : ¬ Stored s t cells := by
  rintro ⟨written, -⟩
  have byte0 : t.mem.read a = 0 := written _ zero
  rw [ht] at still1
  exact absurd (byte0.symm.trans (Option.some.inj still1)) (by decide)

theorem not_homeByte_zero {t : State} {o : Res} {a : Nat} (still1 : homeByteIn a o = some 1) (ht : o = .next t) : t.byteAt 0 a ≠ 0 := by
  intro byte0
  rw [ht] at still1
  exact absurd (byte0.symm.trans (Option.some.inj still1)) (by decide)

/-! ### A barrier record and a store at their homes -/

/-- The message `kind` of slot 0 is on the network, and its event happens. -/
def arriving (ev : Event) (kind : MsgKind) : State :=
  { State.reset with cur := 0, ev := some ev, net := [{ id := 0, k := 0, gen := 0, pid := 0, kind := kind }], mem := listedTwice 1024 }

/-- BAR.init of the record at 1024 with the count 0. -/
def barInit0 : MsgKind := .bar 1024 1024 0 (.init 0) none none

theorem exec_barInit0_byte : homeByteIn 1024 (exec .barrierAtHome (arriving (.barrierAtHome 0) barInit0)) = some 1 := by decide +kernel

/-- Refutes O25: BAR.init writes a count of 0 over a byte that memory lists twice. -/
theorem not_barriersAtHome : ¬ Obligations.BarriersAtHome := by
  intro h
  obtain ⟨t, ht, inits, -⟩ := h (arriving (.barrierAtHome 0) barInit0) 0 ⟨0, 0, 0, 0, barInit0⟩ 1024 1024 0 (.init 0) none none
    rfl rfl rfl (by decide +kernel) (by decide +kernel)
  obtain ⟨⟨written, -⟩, -⟩ := inits 0 rfl
  exact not_homeByte_zero exec_barInit0_byte ht (written (1024, 0) (by decide))

/-- A store of a zero byte at 1024. -/
def storeZero : SqEntry :=
  { id := 0, k := 0, gen := 0, va := 1024, pa := 1024, op := .store [(1024, 0)], tag := none, pid := 0, cls := 0, key := 0, seq := 0 }

theorem exec_storeZero_byte :
    homeByteIn 1024 (exec .storeOrderAtHome (arriving (.storeOrderAtHome 0) (.op storeZero))) = some 1 := by decide +kernel

/-- Refutes O17: a store writes a zero byte at its home, where memory lists the byte twice. -/
theorem not_atHome : ¬ Obligations.AtHome := by
  rintro ⟨-, -, -, stores, -⟩
  obtain ⟨t, ht, ⟨written, -⟩, -⟩ := stores (arriving (.storeOrderAtHome 0) (.op storeZero)) 0 ⟨0, 0, 0, 0, .op storeZero⟩ storeZero
    [(1024, 0)] rfl rfl rfl rfl (by decide) (by decide +kernel) (by decide +kernel)
  exact not_homeByte_zero exec_storeZero_byte ht (written (1024, 0) (by decide))

/-! ### A store to a local window, and one that waited at its bank -/

/-- A page that maps the first 64 KiB to the own cluster's local memory. -/
def windowPage : TlbEnt :=
  { pid := 0, asid := 0, vbase := 0, szlog := 16, dev := 0, remote := false, base := 2 ^ 42, part := 0, dom := 0, x := false,
    gate := false, cls := 0, key := 0 }

/-- The thread of slot 0 runs, whose row permits domain 0; memory lists the first byte of its window twice. -/
def atWindow : State :=
  { State.reset with
    cur := 0, slots := [(0, { Slot.rom with row := some { asid := 0, dom := 0, codes := 3 } })]
    clusters := [(0, { Cluster.reset with tlb := [windowPage] })], mem := listedTwice (2 ^ 42) }

/-- The checked access of its store at address 0. -/
def windowAcc : Acc := { pa := 2 ^ 42, key := 0, dev := 0, remote := false, s := atWindow.tlbAdd 0 windowPage }

/-- The parts of the access that a check answers. -/
def passedParts : Chk → Option (Nat × Nat × Nat × Bool × State)
  | .ok a => some (a.pa, a.key, a.dev, a.remote, a.s)
  | _ => none
theorem eq_ok_of_passedParts {c : Chk} {a : Acc} (h : passedParts c = some (a.pa, a.key, a.dev, a.remote, a.s)) : c = .ok a := by
  cases c with
  | ok b =>
    cases a; cases b
    simpa [passedParts] using h
  | trap => cases h
  | park => cases h

theorem atWindow_check : atWindow.check (atWindow.me.tagOf 0) (ea atWindow 0 0 8).toNat 8 2 true = .ok windowAcc :=
  eq_ok_of_passedParts (by decide +kernel)

theorem resume_windowStore_byte :
    byteIn (2 ^ 42) (exec .parkedResume (resuming (parked windowAcc.s 1 .latency
      (.finish [.lmPut (cellsAt windowAcc.pa (toBytes 8 0)) none]) 1 false))) = some 1 := by decide +kernel

/-- Refutes O13: ST.64 stores the zero of g0 in the first word of the window, where memory lists the first byte twice. -/
theorem not_storesComplete : ¬ Obligations.StoresComplete := by
  intro h
  obtain ⟨-, -, window⟩ := h .b64 Pfx.none 0 0 0 atWindow windowAcc (by decide) (by decide) (by decide) atWindow_check (by decide)
  obtain ⟨-, -, u, hu, -, stored⟩ := window (by decide) (by decide +kernel)
  exact not_stored_zero resume_windowStore_byte hu (by decide) stored

/-- A store of 0 that waits for the first word of local memory to be full, which it is. -/
def zeroWaits : BankWait :=
  { word := 2 ^ 39, full := true, k := 0, d := 0, la := 0, store := some 0, leave := true, tag := none }

/-- The service of that word; memory lists its first byte twice. -/
def servingZero : State :=
  { State.reset with
    cur := 0, ev := some (.feWaiterService (2 ^ 39)), clusters := [(0, { Cluster.reset with bank := [zeroWaits] })],
    mem := listedTwice (2 ^ 42) }

theorem exec_servingZero_byte : byteIn (2 ^ 42) (exec .feWaiterService servingZero) = some 1 := by decide +kernel

/-- Refutes O47: the bank serves a store of 0 to a word whose first byte memory lists twice. -/
theorem not_homesAndLanes : ¬ Obligations.HomesAndLanes := by
  rintro ⟨-, -, -, -, -, -, -, serves, -⟩
  obtain ⟨-, -, t, ht, -, -, -, -, stores, -⟩ := serves servingZero (2 ^ 39) 0 zeroWaits rfl (by decide +kernel) (by decide) nofun
    (by decide) (by decide)
  exact not_stored_zero exec_servingZero_byte ht (by decide) (stores 0 rfl)

/-! ### A commit -/

/-- The final position of a region that wrote a zero byte at 1024, which memory lists twice. -/
def committingZero : State :=
  { State.reset with
    cur := 0, ev := some (.finalPositionBroadcast 0),
    dies := [(0, { Die.reset with notices := [.final 0 0 0 0 false none [(1024, 0)] [(16, 0)] []] })], mem := listedTwice 1024 }

theorem exec_committingZero_byte : homeByteIn 1024 (exec .finalPositionBroadcast committingZero) = some 1 := by decide +kernel

/-- No thread of it is stepped. -/
theorem committingZero_plain (j : Nat) : (committingZero.slot j).sstep = false := by
  by_cases rom : romSlotKey = j
  · subst rom; rfl
  · simp [State.slot, committingZero, State.reset, FMap.get, rom, Slot.vacant]

/-- Refutes O48: a commit writes a zero byte over one that memory lists twice. -/
theorem not_regionEvents : ¬ Obligations.RegionEvents := by
  rintro ⟨-, -, -, commits, -⟩
  obtain ⟨t, ht, -, -, written, -⟩ := commits committingZero 0 0 0 0 0 false none [(1024, 0)] [(16, 0)] [] [] rfl rfl (by decide)
    committingZero_plain
  exact not_homeByte_zero exec_committingZero_byte ht (written 1024 0 (by decide))

end Sys2Proof
end

section
/-! PROOFS. What issues an access (R105, R155, R156): a checked access goes on, what its checks leave as it was, and the rest of a parked
instruction, which its event completes (R22). -/

namespace Sys2Proof.Machine
open Claims

/-! ### Checked accesses (R105, R155) -/

section Checked
variable {s : State} {tag : Option (BitVec 32)} {va : Word} {n need nw : Nat} {posted : Bool} {acc : Acc} {f : Acc → State}

theorem withAcc_ok (aligned : va.toNat % n = 0) (ok : s.check tag va.toNat n need posted = .ok acc) :
    withAcc s tag va n need posted nw f = f acc := by
  rw [withAcc, if_neg (not_not_intro aligned), ok]
theorem withAcc_misaligned (h : va.toNat % n ≠ 0) : withAcc s tag va n need posted nw f = s.trap 5 va nw := if_pos h

end Checked

/-! ### What the checks leave as it was -/

section Light
variable {s t : State} (h : s.Light t)
include h

theorem State.Light.region : t.me.region = s.me.region := by rw [h.me]
theorem State.Light.sstep : t.me.sstep = s.me.sstep := by rw [h.me]
theorem State.Light.rel : t.me.rel = s.me.rel := by rw [h.me]
theorem State.Light.resv : t.me.resv = s.me.resv := by rw [h.me]
theorem State.Light.myCore : t.myCore = s.myCore := by rw [State.myCore, h.cur]; rfl
theorem State.Light.myCluster : t.myCluster = s.myCluster := by rw [State.myCluster, h.cur]; rfl

end Light

theorem sameBytes_of_mem {s t : State} (h : t.mem = s.mem) : SameBytes s t := fun a => by rw [h]

section L1Only
variable {s t : State} (h : s.L1Only t)
include h

theorem State.L1Only.cur : t.cur = s.cur := by rw [h.rest]
theorem State.L1Only.me : t.me = s.me := by rw [State.me, State.me, h.cur, h.slot]

end L1Only

/-! ### Parks -/

@[simp] theorem parked_mem (s : State) (c : Nat) (w : Wait) (r : Rest) (nw : Nat) (x : Bool) : (parked s c w r nw x).mem = s.mem := rfl
@[simp] theorem parked_me (s : State) (c : Nat) (w : Wait) (r : Rest) (nw : Nat) (x : Bool) :
    (parked s c w r nw x).me = { s.me with src := s.me.keeps c r, park := some (parkNow s c w r nw x) } := State.me_modMe ..

theorem State.parkRe_parked (s : State) {cause : Nat} {w : Wait} (nw : Nat) (h : w.isFrozen = false)
    (hc : (cause == 6 || cause == 11) = false := by rfl) : s.parkRe cause w nw = parked s cause w .reissue nw false := by
  rw [State.parkRe, hc, State.parkAt_parked _ _ _ _ _ _ h]
theorem State.parkFin_parked (s : State) (cause : Nat) {w : Wait} (ws : List Wr) (nw : Nat) (h : w.isFrozen = false) :
    s.parkFin cause w ws nw = parked s cause w (.finish ws) nw false := State.parkAt_parked _ _ _ _ _ _ h

theorem State.replyWait_notFrozen (s : State) (c : Nat) : (s.replyWait c).isFrozen = false := by
  unfold State.replyWait; split <;> rfl
theorem State.loadWait_notFrozen (s : State) (va : Nat) : (s.loadWait va).isFrozen = false := by
  unfold State.loadWait
  split
  · rfl
  · exact s.replyWait_notFrozen _

@[simp] theorem State.onPath_mem (s : State) (a : Acc) (va : Word) : (s.onPath a va).mem = s.mem := by
  unfold State.onPath; split <;> rfl

/-! ### The rest of a parked instruction (R22) -/

/-- The running thread, which is not stepped, is parked in the middle of an instruction of `nw` words that has some writes left. -/
def State.Owes (t : State) (ws : List Wr) (nw : Nat) : Prop :=
  t.me.sstep = false ∧ ∃ q, t.me.park = some q ∧ q.rest = .finish ws ∧ q.nw = nw

theorem parked_owes {s : State} (c : Nat) (w : Wait) (ws : List Wr) (nw : Nat) (x : Bool) (plain : s.me.sstep = false) :
    (parked s c w (.finish ws) nw x).Owes ws nw := by
  refine ⟨?_, parkNow s c w (.finish ws) nw x, ?_, rfl, rfl⟩ <;> rw [parked_me]
  exact plain

theorem resuming_eq (t : State) : resuming t =
    ({ t with ev := some (.parkedResume t.cur) } : State).modMe fun u => { u with park := u.park.map fun p => { p with arrived := true } } :=
  rfl
theorem State.resume_finish {s : State} {q : Park} {ws : List Wr} (park : s.me.park = some q) (rest : q.rest = .finish ws) :
    s.resume = s.finishWith ws q.nw := by
  simp [State.resume, park, rest]
theorem State.finishWith_sound {s : State} {ws : List Wr} (nw : Nat) (sound : ws.findSome? s.wrBad = none) :
    s.finishWith ws nw = (ws.foldl (fun s w => s.applyWr s.cur w) s).finish nw := by
  simp [State.finishWith, sound]

section Owes
variable {t : State} {ws : List Wr} {nw : Nat} (owes : t.Owes ws nw)
include owes

theorem State.Owes.onPath (a : Acc) (va : Word) : (t.onPath a va).Owes ws nw := by
  unfold State.onPath
  split
  · obtain ⟨plain, q, park, rest, words⟩ := owes
    refine ⟨?_, { q with via := t.viaOf t.cur a.dev va }, ?_, rest, words⟩ <;> rw [State.me_modMe]
    · exact plain
    · rw [park]; rfl
  · exact owes

/-- Once its event has arrived, the rest makes its writes and completes. -/
theorem State.Owes.resumes (sound : ws.findSome? (resuming t).wrBad = none) :
    Resumes t ((ws.foldl (fun s w => s.applyWr s.cur w) (resuming t)).finish nw) := by
  obtain ⟨-, q, park, rest, rfl⟩ := owes
  have arrived : (resuming t).me.park = some { q with arrived := true } := by
    rw [resuming_eq, State.me_modMe]
    exact congrArg (Option.map _) park
  exact congrArg Host.Outcome.next ((State.resume_finish arrived rest).trans (State.finishWith_sound q.nw sound))

/-- A rest whose writes change the slot of its thread alone completes with that change. -/
theorem State.Owes.finishes {f : Slot → Slot} (sound : ws.findSome? (resuming t).wrBad = none)
    (writes : ws.foldl (fun s w => s.applyWr s.cur w) (resuming t) = (resuming t).modMe f)
    (keeps : Slot.Keeps f) (parks : ∀ u q, f { u with park := q } = { f u with park := q }) : Finishes t nw f := by
  have plain : (f (resuming t).me).sstep = false := by
    rw [(keeps _).2, resuming_eq, State.me_modMe]
    exact owes.1
  refine (owes.resumes sound).trans (congrArg _ ?_)
  rw [writes]
  refine (State.finishMe_plain _ _ _ plain (keeps _).1).trans ?_
  rw [retired, resuming_eq, State.modMe_modMe]
  refine State.modMe_congr ?_
  rw [parks]
  rfl

end Owes

theorem State.Owes.finishes_wr {t : State} {d : Fin 32} {x : Word} {nw : Nat} (owes : t.Owes [.g d x] nw) :
    Finishes t nw fun u => u.wr d x :=
  owes.finishes rfl rfl (fun u => ⟨Slot.wr_pc .., Slot.wr_sstep ..⟩) fun u q => by
    unfold Slot.wr Slot.setReg; split <;> rfl
theorem State.Owes.finishes_nil {t : State} {nw : Nat} (owes : t.Owes [] nw) : Finishes t nw id :=
  owes.finishes rfl (by rw [resuming_eq, State.modMe_modMe]; rfl) (fun _ => ⟨rfl, rfl⟩) fun _ _ => rfl

end Sys2Proof.Machine
end

section
/-! PROOFS. Loads, stores and atomics as they issue (R155-R158, R165, R166, R169): what a load reads and enters in the L1, what the
store queue takes, and what a request leaves behind. -/

namespace Sys2Proof.Machine
open Claims

/-! ### The lines that a load uses in the L1 (R95, R117) -/

theorem State.modL1_l1Only (s : State) (c : Nat) (f : List L1Line → List L1Line) :
    s.L1Only (s.modCore c fun x => { x with l1 := f x.l1 }) := by
  refine ⟨rfl, fun c' => ?_⟩
  by_cases h : c' = c
  · subst h; rw [State.core_modCore]
  · rw [State.core_modCore_ne _ _ h]
theorem State.fillLine_l1Only (s : State) (k : Nat) (nt : Bool) (va : Nat) (dom : BitVec 8) (cls : BitVec 2) (a : Acc) :
    s.L1Only (s.fillLine k nt va dom cls a) := by
  unfold State.fillLine
  dsimp only
  split
  · exact .refl s
  · split
    · exact .refl s
    · exact s.modL1_l1Only _ _
theorem State.fillOne_l1Only (s : State) (nt : Bool) (va : Nat) (a : Acc) : s.L1Only (s.fillOne nt va a) := by
  unfold State.fillOne
  split
  · exact s.modL1_l1Only _ _
  · exact s.fillLine_l1Only ..
theorem State.fillNext_l1Only (s : State) (h : Hints) (va : Nat) (a : Acc) (n : Nat) : s.L1Only (s.fillNext h va a n) := by
  unfold State.fillNext
  dsimp only
  split
  · exact s.fillOne_l1Only ..
  · exact .refl s
theorem State.fillFor_l1Only (s : State) (h : Hints) (va : Nat) (a : Acc) (n : Nat) : s.L1Only (s.fillFor h va a n) :=
  (State.L1Only.foldl (fun s _ => s.fillOne_l1Only ..) _ s).trans (State.fillNext_l1Only ..)

/-! ### A load that reads (R156, R157) -/

theorem withLoad_ready {va : Word} {acc : Acc} {n : Nat} (nw : Nat) (f : State → State) (ready : LoadReady acc va.toNat n) :
    withLoad va acc n nw f = f acc.s := by
  obtain ⟨free, here, sound⟩ := ready
  have stays : ((acc.s.copyAt va.toNat acc.pa).isNone && acc.s.isMoved acc.s.myPid acc.pa) = false := by
    rcases here with copy | still
    · rw [Option.isNone_eq_false_iff.2 copy]; rfl
    · rw [still, Bool.and_false]
  rw [withLoad, free, stays, sound]
  rfl

/-- A load that reads now parks for its reply, on a link where the L1 does not answer it. -/
theorem State.loadNow_eq (s : State) (h : Hints) (va : Word) (acc : Acc) (n nw : Nat) (ws : Nat → List Wr) :
    s.loadNow h va acc n nw ws =
      (parked (s.fillFor h va.toNat acc n) 1 (s.loadWait va.toNat) (.finish (ws (ofBytes (s.viewBytes va.toNat acc n)))) nw
        false).onPath { acc with remote := acc.remote && (s.l1Find s.myCore s.me.asid.toNat va.toNat).isNone } va := by
  rw [State.loadNow, State.parkFin_parked _ _ _ _ (s.loadWait_notFrozen _)]

theorem State.loadNow_sameBytes (s : State) (h : Hints) (va : Word) (acc : Acc) (n nw : Nat) (ws : Nat → List Wr) :
    SameBytes s (s.loadNow h va acc n nw ws) := by
  rw [State.loadNow_eq]
  exact sameBytes_of_mem (by rw [State.onPath_mem, parked_mem, (s.fillFor_l1Only ..).mem])
theorem State.loadNow_owes {s : State} (h : Hints) (va : Word) (acc : Acc) (n nw : Nat) (ws : Nat → List Wr)
    (plain : s.me.sstep = false) : (s.loadNow h va acc n nw ws).Owes (ws (ofBytes (s.viewBytes va.toNat acc n))) nw := by
  rw [State.loadNow_eq]
  exact .onPath (parked_owes _ _ _ _ _ (by rw [(s.fillFor_l1Only ..).me]; exact plain)) _ _

theorem exec_ld (o : Ld) (p : Pfx) (d a : Fin 32) (off : Int) (s : State) :
    exec (o.instr p d a off) s = load p d a off o.size o.signed s := by cases o <;> rfl
theorem nwords_ld (o : Ld) (p : Pfx) (d a : Fin 32) (off : Int) : (o.instr p d a off).nwords = nw0 p := by
  cases o <;> exact nwords_of_page0 p rfl rfl rfl

section Load
variable {p : Pfx} {d a : Fin 32} {off : Int} {n : Nat} {signed : Bool} {s : State} {acc : Acc}
  (full : Full s [a]) (aligned : (ea s a off n).toNat % n = 0)
  (ok : s.check (s.me.tagOf a) (ea s a off n).toNat n 1 false = .ok acc)
include full aligned ok

theorem load_checked (h : Begins s p) : load p d a off n signed s = .next (match acc.s.me.region with
    | some r => (acc.s.fillNext (hintsOf p) (ea s a off n).toNat acc n).regionLoad r (ea s a off n) acc n signed d (nw0 p)
    | none => doLoad (hintsOf p) (ea s a off n) acc n (nw0 p) fun x => [.g d (extend signed n x)]) := by
  rw [load]
  dsimp only
  rw [run_begins h (by simp), withFull_full _ _ full]
  exact congrArg _ (withAcc_ok aligned ok)

theorem load_outside (h : Outside s p) (ready : LoadReady acc (ea s a off n).toNat n) :
    load p d a off n signed s =
      .next (acc.s.loadNow (hintsOf p) (ea s a off n) acc n (nw0 p) fun x => [.g d (extend signed n x)]) := by
  rw [load_checked full aligned ok h.1.1, (State.check_ok_light ok).region, h.2]
  exact congrArg _ (withLoad_ready _ _ ready)

end Load

/-! ### What the store queue takes (R156, R158) -/

theorem State.enqueue_eq (s : State) (va : Word) (a : Acc) (op : POp) (tag : Option RelTag) :
    s.enqueue va a op tag = queued s (entryOf s va a op tag) a.remote := rfl

section Queue
variable (s : State) (e : SqEntry) (remote : Bool)

theorem queued_mem : (queued s e remote).mem = s.mem := by unfold queued; dsimp only; split <;> rfl
theorem queued_cur : (queued s e remote).cur = s.cur := by unfold queued; dsimp only; split <;> rfl
theorem queued_sstep : (queued s e remote).me.sstep = s.me.sstep := by
  unfold queued
  dsimp only
  split
  · rw [State.me_modMe]; rfl
  · rfl

end Queue

section Post
variable {va : Word} {acc : Acc} (tag : Option RelTag) (nw : Nat)

theorem State.post_full (op : POp) (full : ¬ HasRoom acc.s) :
    acc.s.post va acc op tag nw = parked acc.s 8 .storeQueue .reissue nw false := by
  unfold State.post
  rw [if_pos (Nat.le_of_not_lt full), State.parkRe_parked _ _ rfl]
/-- An operation that has taken its entry completes. -/
theorem State.enqueue_finish (op : POp) (plain : acc.s.me.sstep = false) :
    (acc.s.enqueue va acc op tag).finish nw = retired (queued acc.s (entryOf acc.s va acc op tag) acc.remote) nw id := by
  rw [State.enqueue_eq, State.finish_plain _ _ (by rw [queued_sstep]; exact plain)]
theorem State.post_atomic {op : POp} (atomic : op.isAtomic = true) (room : HasRoom acc.s) (plain : acc.s.me.sstep = false) :
    acc.s.post va acc op tag nw =
      if acc.window then parked (queued acc.s (entryOf acc.s va acc op tag) acc.remote) 1 (.reply acc.s.nextId) (.finish []) nw true
      else retired (queued acc.s (entryOf acc.s va acc op tag) acc.remote) nw id := by
  have parks : (acc.s.enqueue va acc op tag).parkAt acc.s.cur 1 (.reply acc.s.nextId) (.finish []) nw true =
      parked (queued acc.s (entryOf acc.s va acc op tag) acc.remote) 1 (.reply acc.s.nextId) (.finish []) nw true := by
    rw [← State.parkAt_parked _ _ _ _ _ _ rfl, queued_cur]
    rfl
  rw [← parks, ← State.enqueue_finish tag nw op plain]
  unfold State.post
  rw [if_neg (Nat.not_le_of_lt room)]
  cases op with
  | store cells => cases atomic
  | amop => rfl
  | famo => rfl
theorem State.post_store (cells : List Host.Cell) (room : HasRoom acc.s) (plain : acc.s.me.sstep = false) (away : acc.window = false) :
    acc.s.post va acc (.store cells) tag nw = retired (queued acc.s (entryOf acc.s va acc (.store cells) tag) acc.remote) nw id := by
  rw [← State.enqueue_finish tag nw _ plain]
  unfold State.post
  rw [if_neg (Nat.not_le_of_lt room)]
  exact if_neg (ne_true_of_eq_false away)
theorem State.post_window (cells : List Host.Cell) (room : HasRoom acc.s) (window : acc.window = true) (ready : WindowReady acc cells) :
    acc.s.post va acc (.store cells) tag nw = parked acc.s 1 .latency (.finish [.lmPut cells tag]) nw false := by
  have free : (linesOf cells).any acc.s.heldBySerial = false := by
    rw [List.any_eq_false]
    exact fun l hl => by rw [ready.2 l hl]; exact Bool.false_ne_true
  unfold State.post
  rw [if_neg (Nat.not_le_of_lt room)]
  refine (if_pos window).trans ?_
  rw [windowStore, ready.1, free]
  exact State.parkFin_parked _ _ _ _ rfl

end Post

/-! ### Stores and posted atomics -/

theorem exec_st (o : St) (p : Pfx) (d a : Fin 32) (off : Int) (s : State) :
    exec (o.instr p d a off) s = store p d a off o.size s := by cases o <;> rfl
theorem nwords_st (o : St) (p : Pfx) (d a : Fin 32) (off : Int) : (o.instr p d a off).nwords = nw0 p := by
  cases o <;> exact nwords_of_page0 p rfl rfl rfl
theorem exec_posted (o : Posted) (p : Pfx) (a b : Fin 32) (s : State) :
    exec (o.instr p a b) s = posted p a b o.size (fun pa x => o.op pa x) s := by cases o <;> rfl
theorem nwords_posted (o : Posted) (p : Pfx) (a b : Fin 32) : (o.instr p a b).nwords = nwX p := by
  cases o <;> exact nwords_of_page p rfl rfl (Nat.succ_ne_zero _)
theorem posted_op_isAtomic (o : Posted) (pa : Nat) (x : Word) : (o.op pa x).isAtomic = true := by cases o <;> rfl

section Store
variable {p : Pfx} {s : State} {acc : Acc}

theorem store_checked {d a : Fin 32} {off : Int} {n : Nat} (h : Begins s p) (full : Full s [a, d])
    (aligned : (ea s a off n).toNat % n = 0) (ok : s.check (s.me.tagOf a) (ea s a off n).toNat n 2 true = .ok acc) :
    store p d a off n s = .next (match acc.s.me.region with
      | some r => acc.s.regionStore r (ea s a off n) acc (cellsAt acc.pa (toBytes n (s.me.rd d).toNat)) (nw0 p)
      | none => acc.s.post (ea s a off n) acc (.store (cellsAt acc.pa (toBytes n (s.me.rd d).toNat))) acc.s.me.rel (nw0 p)) := by
  rw [store]
  dsimp only
  rw [run_begins h (by simp), withFull_full _ _ full]
  exact congrArg _ (withAcc_ok aligned ok)
theorem posted_checked {a b : Fin 32} {n : Nat} {op : Nat → Word → POp} (h : Begins s p) (outside : s.me.region = none)
    (full : Full s [a, b]) (aligned : (s.me.rd a).toNat % n = 0)
    (ok : s.check (s.me.tagOf a) (s.me.rd a).toNat n 2 true = .ok acc) :
    posted p a b n op s = .next (acc.s.post (s.me.rd a) acc (op acc.pa (s.me.rd b)) s.me.rel (nwX p)) := by
  rw [posted]
  dsimp only
  rw [run_begins h fun _ => outside, withFull_full _ _ full]
  exact congrArg _ (withAcc_ok aligned ok)

end Store

/-! ### Returning atomics and STC (R165, R169) -/

theorem exec_amo (op : AmoOp) (p : Pfx) (w64 : Bool) (d a b : Fin 32) (s : State) :
    exec (amoInstr p w64 d a b op) s = amo op p w64 d a b s := by cases op <;> rfl
theorem nwords_amo (op : AmoOp) (p : Pfx) (w64 : Bool) (d a b : Fin 32) : (amoInstr p w64 d a b op).nwords = nwX p := by
  cases op <;> exact nwords_of_page p rfl rfl (Nat.succ_ne_zero _)

end Sys2Proof.Machine
end

section
/-! PROOFS. The statements on loads, stores and atomics as they issue (R155-R158, R165, R166, R169). -/

namespace Sys2Proof.Machine
open Claims

/-! ### A load sees its thread's latest store (R156) -/

theorem le_of_mem_cellsAt {a : Nat} {bs : List Byte} {c : Host.Cell} (h : c ∈ cellsAt a bs) : a ≤ c.1 := by
  induction bs generalizing a with
  | nil => cases h
  | cons b bs ih =>
    rcases List.mem_cons.1 h with rfl | h
    · exact Nat.le_refl _
    · exact Nat.le_of_succ_le (ih h)
/-- The latest cell at an address of a run of bytes is the byte there. -/
theorem find?_cellsAt_reverse (a : Nat) {bs : List Byte} {i : Nat} (h : i < bs.length) :
    (cellsAt a bs).reverse.find? (·.1 == a + i) = some (a + i, bs[i]) := by
  induction bs generalizing a i with
  | nil => cases h
  | cons b bs ih =>
    rw [cellsAt, List.reverse_cons, List.find?_append]
    cases i with
    | zero =>
      have above : (cellsAt (a + 1) bs).reverse.find? (·.1 == a + 0) = none := by
        rw [List.find?_eq_none]
        intro c hc at_
        have := le_of_mem_cellsAt (List.mem_reverse.1 hc)
        have := beq_iff_eq.1 at_
        omega
      rw [above]
      simp
    | succ i =>
      have tail := ih (a + 1) (i := i) (Nat.lt_of_succ_lt_succ h)
      rw [show a + 1 + i = a + (i + 1) by omega] at tail
      rw [tail]
      rfl

/-- The store at the tail of the queue is the latest one of its thread. -/
theorem queuedByte_queued {s : State} {va : Word} {acc : Acc} {op : POp} (tag : Option RelTag) {a : Nat} {b : Byte}
    (own : devOfAddr acc.pa = devOfSlot s.cur) (here : devOfAddr acc.pa = devOfAddr a) (puts : op.byteAt a = some b) :
    (queued s (entryOf s va acc op tag) false).queuedByte s.cur a = some b := by
  have tail : ((queued s (entryOf s va acc op tag) false).core (coreOf s.cur)).sq =
      (s.core (coreOf s.cur)).sq ++ [entryOf s va acc op tag] := by
    have core := State.core_modCore { s with nextId := s.nextId + (entryOf s va acc op tag).op.lines.length } s.myCore
      fun c => { c with sq := c.sq ++ [entryOf s va acc op tag] }
    exact congrArg Core.sq core
  have skips : ((entryOf s va acc op tag).k != s.cur || devOfAddr (entryOf s va acc op tag).pa != devOfAddr a) = false := by
    simp [entryOf, here]
  have atHome : (queued s (entryOf s va acc op tag) false).atHome (entryOf s va acc op tag) = some op := if_pos own
  rw [State.queuedByte, tail, List.reverse_append, List.reverse_singleton, List.singleton_append, List.findSome?_cons, skips]
  simp [atHome, puts]

theorem viewBytes_queued (s : State) (va : Word) (acc : Acc) (n : Nat) (x : Word) (tag : Option RelTag)
    (line : acc.pa % 64 + n ≤ 64) (own : devOfAddr acc.pa = devOfSlot s.cur) :
    (queued s (entryOf s va acc (.store (cellsAt acc.pa (toBytes n x.toNat))) tag) false).viewBytes va.toNat acc n =
      toBytes n x.toNat := by
  refine List.ext_getElem (by simp [State.viewBytes, toBytes_length]) fun i hi hi' => ?_
  have lt : i < n := by rwa [toBytes_length] at hi'
  have here : devOfAddr acc.pa = devOfAddr (acc.pa + i) := by unfold devOfAddr; omega
  have puts : (POp.store (cellsAt acc.pa (toBytes n x.toNat))).byteAt (acc.pa + i) = some (toBytes n x.toNat)[i] := by
    rw [POp.byteAt, find?_cellsAt_reverse acc.pa hi']
    rfl
  have latest := queuedByte_queued (va := va) tag own here puts
  simp only [State.viewBytes, List.getElem_map, List.getElem_range, queued_cur, latest, Option.getD_some]

end Sys2Proof.Machine

namespace Sys2Proof
open Machine Claims

/-- Settles O12: a load that is ready reads and parks for its reply, and the tail of the queue is its thread's latest store. -/
theorem loadsComplete : Obligations.LoadsComplete := by
  refine ⟨fun o p d a off s acc h full aligned ok ready => ?loads,
    fun s va acc n x tag line _ own => viewBytes_queued s va acc n x tag line own⟩
  case loads =>
    have light := State.check_ok_light ok
    have runs := load_outside (d := d) (signed := o.signed) full aligned ok h ready
    intro i va x t
    have reads : t = acc.s.loadNow (hintsOf p) (ea s a off o.size) acc o.size (nw0 p) fun y => [.g d (extend o.signed o.size y)] := by
      rw [State.loadNow_eq, light.myCore, light.me]
      exact congrArg (fun nw => State.onPath (parked _ 1 _ _ nw false) _ _) (nwords_ld o p d a off)
    rw [reads, nwords_ld]
    refine ⟨(exec_ld o p d a off s).trans runs, (State.loadNow_owes _ _ _ _ _ _ ?_).finishes_wr, fun b => ?_⟩
    · rw [light.sstep]; exact h.1.2
    · rw [State.loadNow_sameBytes, light.mem]

/-- Settles O14: a posted atomic takes its entry, and one to a window awaits its answer. -/
theorem postedAtomicsComplete : Obligations.PostedAtomicsComplete := by
  intro o p a b s acc h full aligned ok room i u
  have light := State.check_ok_light ok
  have words : i.nwords = nwX p := nwords_posted o p a b
  have runs := posted_checked (op := fun pa x => o.op pa x) h.1.1 h.2 full aligned ok
  rw [State.post_atomic _ _ (posted_op_isAtomic o ..) room (by rw [light.sstep]; exact h.1.2)] at runs
  rw [words]
  refine ⟨_, (exec_posted o p a b s).trans runs, sameBytes_of_mem ?_, rfl⟩
  have taken : u.mem = s.mem := (queued_mem ..).trans light.mem
  split
  · exact taken
  · exact taken

/-- Settles O15: a full queue parks what would take an entry, and a misaligned address traps before anything is checked. -/
theorem memoryStops : Obligations.MemoryStops := by
  refine ⟨fun o p d a off s acc h full aligned ok room => ?storeWaits, fun o p a b s acc h full aligned ok room => ?postedWaits,
    fun o p d a off s h full misaligned => ?loadTraps, fun o p d a off s h full misaligned => ?storeTraps,
    fun op p w64 d a b s h outside full misaligned => ?amoTraps, fun o p a b s h outside full misaligned => ?postedTraps⟩
  case storeWaits =>
    rw [exec_st, nwords_st, store_checked h.1.1 full aligned ok, (State.check_ok_light ok).region, h.2]
    exact congrArg _ (State.post_full _ _ _ room)
  case postedWaits =>
    rw [exec_posted, nwords_posted, posted_checked h.1.1 h.2 full aligned ok, State.post_full _ _ _ room]
  case loadTraps =>
    rw [exec_ld, nwords_ld, load]
    dsimp only
    rw [run_begins h (by simp), withFull_full _ _ full]
    exact congrArg _ (withAcc_misaligned misaligned)
  case storeTraps =>
    rw [exec_st, nwords_st, store]
    dsimp only
    rw [run_begins h (by simp), withFull_full _ _ full]
    exact congrArg _ (withAcc_misaligned misaligned)
  case amoTraps =>
    rw [exec_amo, nwords_amo, amo]
    dsimp only
    rw [run_begins h fun _ => outside, withFull_full _ _ full]
    exact congrArg _ (withAcc_misaligned misaligned)
  case postedTraps =>
    rw [exec_posted, nwords_posted, posted]
    dsimp only
    rw [run_begins h fun _ => outside, withFull_full _ _ full]
    exact congrArg _ (withAcc_misaligned misaligned)

/-- Settles O16: what is sent to the home, and the park for its reply. -/
theorem atomicsIssue : Obligations.AtomicsIssue := by
  refine ⟨fun op p w64 d a b s acc h full aligned ok => ?returning, fun p d a off s acc h full aligned ok => ?conditional⟩
  case returning =>
    dsimp only
    rw [exec_amo, nwords_amo, amo]
    dsimp only
    rw [run_begins h.1.1 fun _ => h.2, withFull_full _ _ full]
    refine congrArg _ ((withAcc_ok aligned ok).trans (congrArg (fun u : State => u.onPath acc _) ?_))
    exact State.parkAt_parked _ _ _ _ _ _ rfl
  case conditional =>
    dsimp only
    rw [nwords_stc, exec_stc, execStc]
    dsimp only
    rw [run_begins h.1.1 fun _ => h.2, withFull_full _ _ full]
    refine congrArg _ ((withAcc_ok aligned ok).trans (congrArg (fun u : State => u.onPath acc _) ?_))
    exact State.parkAt_parked _ _ _ _ _ _ rfl

end Sys2Proof
end

section
/-! PROOFS. Scopes, acquires and remote faults (R159, R252, R258-R261): what the checks of an access leave of them, and what an
instruction does that begins or ends with one. -/

namespace Sys2Proof.Machine
open Claims

/-! ### What checks that pass leave of the routers (R299) -/

theorem State.tlbAdd_pidOf (s : State) (c : Nat) (e : TlbEnt) : (s.tlbAdd c e).pidOf = s.pidOf := by
  funext ck
  have kept : ((s.tlbAdd c e).cluster ck).fwall = (s.cluster ck).fwall := by
    simp only [State.tlbAdd, State.cluster_modDie]
    by_cases h : ck = clusterOfCore c
    · subst h; rw [State.cluster_modCluster]
    · rw [State.cluster_modCluster_ne _ _ h]
  rw [State.pidOf, State.pidOf, kept]

section Routers
variable {s : State}

theorem State.translate_pidOf {c asid va : Nat} {e : TlbEnt} {t : State} (h : s.translate c asid va = .ok (e, t)) : t.pidOf = s.pidOf :=
  translate_tlbAdd h ▸ s.tlbAdd_pidOf c e
theorem State.rowOf_pidOf {k : Nat} {r : Row} {t : State} (h : s.rowOf k = .ok (r, t)) : t.pidOf = s.pidOf := by
  unfold State.rowOf at h
  dsimp only at h
  split at h
  · split at h
    · cases h; rfl
    · obtain ⟨r', -, h⟩ := Tr.bind_ok h; cases h; rfl
  · obtain ⟨r', -, h⟩ := Tr.bind_ok h; cases h; rfl
theorem State.step5_pidOf {dom : BitVec 8} {need : Nat} {tagged : Bool} {t : State} (h : s.step5 dom need tagged = .ok t) :
    t.pidOf = s.pidOf := by
  unfold State.step5 at h
  split at h
  · cases h; rfl
  · obtain ⟨⟨r, t'⟩, hr, h⟩ := Tr.bind_ok h
    split at h <;> cases h
    exact State.rowOf_pidOf hr
theorem State.pastWall_ok {a b : Acc} (h : s.pastWall a = .ok b) : b = a := by
  unfold State.pastWall at h
  split at h <;> cases h
  rfl
theorem State.remoteCheck_ok {e : TlbEnt} {va : Nat} {posted : Bool} {a : Acc} (h : s.remoteCheck e va posted = .ok a) : a.s = s := by
  unfold State.remoteCheck at h
  split at h
  · cases h
  · split at h
    · cases h
    · split at h
      · cases h; rfl
      · split at h
        · cases h
        · cases h
        · rw [State.pastWall_ok h]
theorem State.step6_ok {e : TlbEnt} {va : Nat} {posted : Bool} {a : Acc} (h : s.step6 e va posted = .ok a) : a.s = s := by
  unfold State.step6 at h
  split at h
  · exact State.remoteCheck_ok h
  · split at h
    · cases h
    · split at h
      · cases h
      · dsimp only at h
        split at h
        · cases h; rfl
        · rw [State.pastWall_ok h]
theorem State.steps456_pidOf {va need : Nat} {tagged posted : Bool} {a : Acc} (h : s.steps456 va need tagged posted = .ok a) :
    a.s.pidOf = s.pidOf := by
  unfold State.steps456 at h
  dsimp only at h
  split at h
  · split at h
    · cases h
    · cases h
    · rename_i t h5
      have row := State.step5_pidOf h5
      split at h
      · split at h
        · cases h
        · cases h
        · rename_i page; rw [State.remoteCheck_ok h, State.translate_pidOf page, row]
      · split at h <;> cases h
        exact row
  · split at h
    · cases h
    · cases h
    · split at h
      · cases h
      · cases h
      · rename_i t h5
        have row := State.step5_pidOf h5
        split at h
        · cases h
        · cases h
        · rename_i page; rw [State.step6_ok h, State.translate_pidOf page, row]
theorem State.step3_pidOf {tag : BitVec 32} {va n : Nat} {write : Bool} {a : Acc} (h : s.step3 tag va n write = .ok a) :
    a.s.pidOf = s.pidOf := by
  unfold State.step3 at h
  split at h
  · cases h
  · cases h
  · split at h
    · cases h
    · dsimp only at h
      split at h
      · cases h
      · split at h
        · cases h
        · split at h <;> cases h
          rfl
theorem State.stepsAll_pidOf {va n need : Nat} {tagged posted : Bool} {a : Acc} (h : s.stepsAll va n need tagged posted = .ok a) :
    a.s.pidOf = s.pidOf := by
  unfold State.stepsAll at h
  have first : ∀ b, s.steps456 va need tagged posted = .ok b → b.s.pidOf = s.pidOf := fun b => State.steps456_pidOf
  generalize s.steps456 va need tagged posted = r at first h
  generalize List.range (lineCount va n - 1) = l at h
  induction l generalizing r with
  | nil => exact first a h
  | cons i l ih =>
    refine ih _ (fun b hb => ?_) h
    cases r with
    | ok c =>
      dsimp only at hb
      split at hb
      · rename_i d line
        cases hb
        exact (State.steps456_pidOf line).trans (first c rfl)
      · rename_i passes
        exact absurd hb (passes b)
    | trap => cases hb
    | park => cases hb
/-- The partitions that the routers stamp are as before checks that pass. -/
theorem State.check_pidOf {tag : Option (BitVec 32)} {va n need : Nat} {posted : Bool} {a : Acc}
    (h : s.check tag va n need posted = .ok a) : a.s.pidOf = s.pidOf := by
  unfold State.check State.checkBy at h
  split at h
  · cases h
  · split at h
    · exact State.stepsAll_pidOf h
    · split at h
      · rename_i grant
        exact (State.stepsAll_pidOf h).trans (State.step3_pidOf grant)
      · rename_i passes
        exact absurd h (passes a)

end Routers

/-! ### What the checks leave of scopes (R252, R259) -/

section Scopes
variable {s t : State} (h : s.Light t)
include h

theorem State.Light.levelOf : t.levelOf = s.levelOf := by
  have fused (ck : Nat) : (t.cluster ck).fused = (s.cluster ck).fused := by rw [h.cluster]
  have numOf : t.numOf = s.numOf := by rw [h.rest]; rfl
  have desc : t.scopeDesc = s.scopeDesc := by rw [h.rest]; rfl
  funext c i
  cases i <;> simp only [State.levelOf, fused, numOf, desc]
theorem State.Light.scopeInst (pids : t.pidOf = s.pidOf) (k : Nat) (sc : Scope) : t.scopeInst k sc = s.scopeInst k sc := by
  have named (n : Fin 8) : (t.slot k).named n = (s.slot k).named n := by rw [h.slot k]; rfl
  have part : t.part = s.part := by rw [h.rest]; rfl
  cases sc <;> simp only [State.scopeInst, named, pids, part]
theorem State.Light.relTag (i : ScopeInst) : t.relTag i = s.relTag i := by rw [State.relTag, h.myCore]; rfl
theorem State.Light.myPid (pids : t.pidOf = s.pidOf) : t.myPid = s.myPid := by rw [State.myPid, pids, h.myCluster]; rfl

end Scopes

theorem withScope_some {s : State} {sc : Scope} {i : ScopeInst} (nw : Nat) (f : ScopeInst → State) (h : s.scopeInst s.cur sc = some i) :
    withScope s sc nw f = f i := by
  rw [withScope, h]

/-! ### Remote faults at fences (R159) -/

section Lanes
variable {s : State} (nw : Nat) (f : State → State)

theorem withLanes_none (h : NoRecords s) : withLanes s nw f = f s := by
  have code : (s.me.inh || s.me.recs.isEmpty) = true := by
    rcases h with h | h <;> simp [h]
  rw [withLanes, if_pos code]
theorem withLanes_pending {r : RemRec} {rs : List RemRec} (outside : s.me.inh = false) (recs : s.me.recs = r :: rs) :
    withLanes s nw f = if s.lanesAnswered s.cur then faultTaken s r rs nw else parked s 10 .lanes .reissue nw false := by
  have code : (s.me.inh || s.me.recs.isEmpty) = false := by simp [outside, recs]
  have taken : s.trapRemote nw = faultTaken s r rs nw := by rw [State.trapRemote, recs]; rfl
  rw [withLanes, code, taken, State.parkRe_parked _ _ rfl]
  rfl

end Lanes

/-! ### Acquires (R258, R261) -/

section Acquires
variable (s : State) (lv : Nat)

/-- What an acquire does beside its read. -/
theorem acqWr_foldl : (acqWr lv).foldl (fun s w => s.applyWr s.cur w) s = acquired s lv := by
  unfold acqWr acquired
  split
  · rfl
  · split
    · rfl
    · split <;> rfl
theorem acqWr_sound : (acqWr lv).findSome? s.wrBad = none := by
  unfold acqWr
  split
  · rfl
  · split
    · rfl
    · split <;> rfl
theorem acquired_cur : (acquired s lv).cur = s.cur := by
  unfold acquired
  split
  · rfl
  · split
    · rfl
    · split <;> rfl
theorem acquired_me : (acquired s lv).me = { s.me with behind := (acquired s lv).me.behind } := by
  unfold acquired
  split
  · rfl
  · split
    · rfl
    · split
      · rfl
      · rw [State.me_modMe]
theorem acquired_sstep : (acquired s lv).me.sstep = s.me.sstep := by rw [acquired_me]
theorem acquired_relTag (i : ScopeInst) : (acquired s lv).relTag i = s.relTag i := by
  rw [State.relTag, State.myCore, acquired_cur]
  rfl

/-- An acquire changes of its slot only what its thread has let its releases cover. -/
theorem acquired_modMe {f : Slot → Slot} (keeps : ∀ t n, f { t with behind := n } = { f t with behind := n }) :
    acquired (s.modMe f) lv = (acquired s lv).modMe f := by
  unfold acquired
  split
  · rfl
  · split
    · rfl
    · split
      · rfl
      · rw [State.modMe_modMe, State.modMe_modMe]
        exact State.modMe_congr (keeps ..).symm

end Acquires

end Sys2Proof.Machine
end

section
/-! PROOFS. The statements on fences and releases (R159, R172-R174) and on the barrier instructions (R176, R177, R279). -/

namespace Sys2Proof.Machine
open Claims

/-! ### Fences (R172, R174) -/

section Fence
variable {p : Pfx} {sc : Scope} {i : ScopeInst} {s : State} {w vis acq rel : Bool}

theorem fence_outside (h : Outside s p) (scope : s.scopeInst s.cur sc = some i) (records : NoRecords s) :
    fence p sc w vis acq rel s = .next (
      if w = true ∧ s.fenceMet s.cur (s.levelOf s.myCore i) vis = false then
        parked s 10 (.fence (s.levelOf s.myCore i) vis) .reissue (nwX p) false
      else if acq = true ∧ 3 ≤ s.levelOf s.myCore i ∧ s.clock ≤ s.me.seen then parked s 10 (.time s.me.seen) .reissue (nwX p) false
      else retired (if acq then acquired s (s.levelOf s.myCore i) else s) (nwX p) fun t =>
        { t with rel := if rel then some (s.relTag i) else none }) := by
  rw [fence]
  dsimp only
  rw [run_begins h.1.1 fun _ => h.2, withScope_some _ _ scope, withLanes_none _ _ records]
  refine congrArg _ (if_congr (by simp) (State.parkRe_parked _ _ rfl) (if_congr (by simp [and_assoc]) (State.parkRe_parked _ _ rfl) ?_))
  cases acq with
  | false => exact State.finishMe_plain s _ _ h.1.2 rfl
  | true =>
    simp only [if_true, acqWr_foldl, acquired_relTag]
    exact State.finishMe_plain _ _ _ ((acquired_sstep ..).trans h.1.2) rfl
/-- Outside a region a fence of a valid scope begins with its thread's remote faults. -/
theorem fence_pending (h : Begins s p) (outside : s.me.region = none) (scope : s.scopeInst s.cur sc = some i) {r : RemRec}
    {rs : List RemRec} (handler : s.me.inh = false) (recs : s.me.recs = r :: rs) :
    fence p sc w vis acq rel s = .next
      (if s.lanesAnswered s.cur then faultTaken s r rs (nwX p) else parked s 10 .lanes .reissue (nwX p) false) := by
  rw [fence]
  dsimp only
  rw [run_begins h fun _ => outside, withScope_some _ _ scope, withLanes_pending _ _ handler recs]

/-- The four fences, with what they wait for and whether they acquire and release. -/
theorem exec_fence {x : Instr} (h : (x, w, vis, acq, rel) ∈ [(Instr.fenceAcq p sc, false, false, true, false),
    (.fenceRel p sc, true, false, false, true), (.fenceAr p sc, true, false, true, true), (.fenceSc p sc, true, true, true, true)]) :
    exec x s = fence p sc w vis acq rel s ∧ x.nwords = nwX p := by
  simp only [List.mem_cons, List.not_mem_nil, or_false, Prod.mk.injEq] at h
  obtain ⟨rfl, rfl, rfl, rfl, rfl⟩ | ⟨rfl, rfl, rfl, rfl, rfl⟩ | ⟨rfl, rfl, rfl, rfl, rfl⟩ | ⟨rfl, rfl, rfl, rfl, rfl⟩ := h
  · exact ⟨rfl, by simp⟩
  · exact ⟨rfl, by simp⟩
  · exact ⟨rfl, by simp⟩
  · exact ⟨rfl, by simp⟩

/-- FENCE.POST begins with its thread's remote faults once every posted operation is answered. -/
theorem fencePost_lanes (h : Begins s p) (outside : s.me.region = none) (answered : s.postedAnswered s.cur = true)
    (none_ : s.recComing s.cur = false) :
    exec (.fencePost p) s = .next (withLanes s (nwX p) fun s => s.finishMe (nwX p) fun t => { t with rel := none }) := by
  rw [exec_fencePost, execFencePost]
  rw [run_begins h fun _ => outside, answered, none_]
  rfl
theorem fencePost_waits (h : Outside s p) (waits : s.postedAnswered s.cur = false ∨ s.recComing s.cur = true) :
    exec (.fencePost p) s = .next (parked s 10 .posted .reissue (nwX p) false) := by
  have code : (!s.postedAnswered s.cur || s.recComing s.cur) = true := by simpa using waits
  rw [exec_fencePost, execFencePost]
  rw [run_begins h.1.1 fun _ => h.2, code]
  exact congrArg _ (State.parkRe_parked _ _ rfl)

end Fence

/-! ### ST.rel (R173) -/

section Release
variable {p : Pfx} {sc : Scope} {sz : Sz} {d a : Fin 32} {off : Int} {s : State} {acc : Acc} {i : ScopeInst}
  (outside : s.me.region = none) (full : Full s [a, d]) (aligned : (ea s a off sz.bytes).toNat % sz.bytes = 0)
  (ok : s.check (s.me.tagOf a) (ea s a off sz.bytes).toNat sz.bytes 2 true = .ok acc) (scope : s.scopeInst s.cur sc = some i)
include outside full aligned ok scope

theorem stRel_lanes (h : Begins s p) :
    exec (.stRel p sc sz d a off) s = .next (withLanes acc.s (nwX p) fun s' =>
      if !s'.performedAt s'.cur (s'.levelOf s'.myCore i) then s'.parkRe 10 (.fence (s'.levelOf s'.myCore i) false) (nwX p)
      else (s'.modMe fun t => { t with rel := none }).post (ea s a off sz.bytes)
        { acc with s := s'.modMe fun t => { t with rel := none } }
        (.store (cellsAt acc.pa (toBytes sz.bytes ((s'.modMe fun t => { t with rel := none }).me.rd d).toNat)))
        (some ((s'.modMe fun t => { t with rel := none }).relTag i)) (nwX p)) := by
  have light := State.check_ok_light ok
  have scope' : acc.s.scopeInst acc.s.cur sc = some i := by
    rw [light.scopeInst (State.check_pidOf ok), light.cur, scope]
  rw [exec_stRel, execStRel]
  dsimp only
  rw [run_begins h fun _ => outside, withFull_full _ _ full]
  refine congrArg _ ((withAcc_ok aligned ok).trans ?_)
  rw [withScope_some _ _ scope']
  rfl

theorem stRel_performed (h : Plain s p) (records : NoRecords s) (performed : acc.s.performedAt s.cur (s.levelOf s.myCore i) = true) :
    exec (.stRel p sc sz d a off) s = .next ((acc.s.modMe fun t => { t with rel := none }).post (ea s a off sz.bytes)
      { acc with s := acc.s.modMe fun t => { t with rel := none } } (.store (cellsAt acc.pa (toBytes sz.bytes (s.me.rd d).toNat)))
      (some (s.relTag i)) (nwX p)) := by
  have light := State.check_ok_light ok
  have records' : NoRecords acc.s := by rw [NoRecords, light.me]; exact records
  have met : acc.s.performedAt acc.s.cur (acc.s.levelOf acc.s.myCore i) = true := by
    rw [light.cur, light.levelOf, light.myCore, performed]
  have tag : (acc.s.modMe fun t => { t with rel := none }).relTag i = s.relTag i := light.relTag i
  have value : (acc.s.modMe fun t => { t with rel := none }).me.rd d = s.me.rd d := by rw [State.me_modMe, light.me]; rfl
  rw [stRel_lanes outside full aligned ok scope h.1, withLanes_none _ _ records', met, tag, value]
  rfl

end Release

/-! ### Barriers (R176, R177) -/

section Barrier
variable {p : Pfx} {sc : Scope} {d a b : Fin 32} {s : State} {acc : Acc} {i : ScopeInst}

theorem full_pair (ha : Full s [a]) (hb : Full s [b]) : Full s [a, b] :=
  List.forall_mem_cons.2 ⟨ha a (List.mem_singleton_self a), hb⟩
theorem withBar_ok (nw : Nat) (f : Word → Acc → State) (aligned : (s.me.rd a).toNat % 16 = 0)
    (ok : s.check (s.me.tagOf a) (s.me.rd a).toNat 16 2 false = .ok acc) : withBar s a nw f = f (s.me.rd a) acc :=
  withAcc_ok aligned ok

/-- A barrier operation sent to its home. -/
def barSent (s : State) (va : Word) (acc : Acc) (o : BarOp) (tag : Option RelTag) (acq : Option ScopeInst) (nw : Nat) : State :=
  ((parked (s.send s.cur (.bar va acc.pa acc.key o tag acq)) 1 (.reply s.nextId) (.finish []) nw true).onPath acc va).modMe fun t =>
    { t with src := some s.me.regs }
theorem barSend_barSent (s : State) (va : Word) (acc : Acc) (o : BarOp) (tag : Option RelTag) (acq : Option ScopeInst) (nw : Nat) :
    barSend s va acc o tag acq nw = barSent s va acc o tag acq nw := by
  have parks := State.parkAt_parked (s.send s.cur (.bar va acc.pa acc.key o tag acq)) 1 (.reply s.nextId) (.finish []) nw true rfl
  exact congrArg (fun u : State => (u.onPath acc va).modMe _) parks

theorem withRelease_performed (nw : Nat) (f : State → State) (h : s.performedAt s.cur (s.levelOf s.myCore i) = true) :
    withRelease s i nw f = f s := if_pos h

/-- A wait on a phase that the bank can read now. -/
structure BarReads (s : State) (va : Word) (acc : Acc) : Prop where
  still : s.isMoved s.myPid acc.pa = false
  first : s.opsAhead s.cur va.toNat (acc.pa / 64) false = false
  sound : s.poisonOf acc.key acc.pa 16 = none

section Waits
variable {va : Word} {old : Word} (aw : Bool) (nw : Nat) (reads : BarReads s va acc)
include reads

theorem barWaitOn_same (same : s.barPhase acc.key acc.pa = old) :
    barWaitOn s va acc i old aw nw = parked s 5 (.barrier va acc.pa old) .reissue nw false := by
  unfold barWaitOn
  simp only [reads.still, reads.first, reads.sound, same, Bool.false_eq_true, if_false, if_true]
  exact State.parkRe_parked _ _ rfl
/-- Once the phase differs, the wait ends as an acquire, after the invalidations on their way. -/
theorem barWaitOn_differs (differs : s.barPhase acc.key acc.pa ≠ old) (wide : s.tooNarrow s.cur (acc.pa / 64) i = none)
    (plain : s.me.sstep = false) :
    barWaitOn s va acc i old aw nw =
      if s.clock ≤ s.quiet s.myCore then
        parked s 5 (.time (s.quiet s.myCore)) (.finish (acqWr (s.levelOf s.myCore i) ++ if aw then [.arrv false] else [])) nw false
      else retired (acquired s (s.levelOf s.myCore i)) nw fun t => if aw then { t with arrv := false } else t := by
  unfold barWaitOn
  simp only [reads.still, reads.first, reads.sound, differs, wide, Bool.false_eq_true, if_false]
  refine if_congr Iff.rfl (State.parkFin_parked _ _ _ _ rfl) ?_
  have plain' := (acquired_sstep s (s.levelOf s.myCore i)).trans plain
  rw [List.foldl_append, acqWr_foldl]
  cases aw with
  | false => exact State.finish_plain _ _ plain'
  | true => exact State.finishMe_plain _ _ (fun t => { t with arrv := false }) plain' rfl

end Waits

section Issue
variable (h : Outside s p) (full : Full s [a]) (aligned : (s.me.rd a).toNat % 16 = 0)
  (ok : s.check (s.me.tagOf a) (s.me.rd a).toNat 16 2 false = .ok acc)
include h full aligned ok

theorem barInit_sends (fullB : Full s [b]) :
    exec (.barInit p a b) s = .next (barSend acc.s (s.me.rd a) acc (.init (s.me.rd b)) s.me.rel none (nwX p)) := by
  rw [exec_barInit, execBarInit]
  rw [run_begins h.1.1 fun _ => h.2, withFull_full _ _ (full_pair full fullB), withBar_ok _ _ aligned ok]

variable (scope : s.scopeInst s.cur sc = some i)
include scope

omit h full aligned in
theorem withScope_checked (f : ScopeInst → State) : withScope acc.s sc (nwX p) f = f i := by
  have light := State.check_ok_light ok
  exact withScope_some _ _ (by rw [light.scopeInst (State.check_pidOf ok), light.cur, scope])

theorem barTest_sends (fullB : Full s [b]) :
    exec (.barTest p sc d a b) s =
      .next (barSend acc.s (s.me.rd a) acc (.test d (s.me.rd b)) none (some i) (nwX p)) := by
  rw [exec_barTest, execBarTest]
  rw [run_begins h.1.1 fun _ => h.2, withFull_full _ _ (full_pair full fullB), withBar_ok _ _ aligned ok,
    withScope_checked ok scope]
theorem barWait_waits (fullB : Full s [b]) :
    exec (.barWait p sc a b) s = .next (barWaitOn acc.s (s.me.rd a) acc i (s.me.rd b) false (nwX p)) := by
  rw [exec_barWait, execBarWait]
  rw [run_begins h.1.1 fun _ => h.2, withFull_full _ _ (full_pair full fullB), withBar_ok _ _ aligned ok,
    withScope_checked ok scope]
theorem barAw_waits (arrived : s.me.arrv = true) (fullD : Full s [d]) :
    exec (.barAw p sc d a) s = .next (barWaitOn acc.s (s.me.rd a) acc i (s.me.rd d) true (nwX p)) := by
  have both : Full s (if s.me.arrv then [a, d] else [a]) := by rw [arrived]; exact full_pair full fullD
  rw [exec_barAw, execBarAw]
  rw [run_begins h.1.1 fun _ => h.2, withFull_full _ _ both, withBar_ok _ _ aligned ok, withScope_checked ok scope,
    arrived]
  rfl

variable (performed : acc.s.performedAt s.cur (s.levelOf s.myCore i) = true)
include performed

omit h full aligned scope in
theorem withRelease_checked (f : State → State) : withRelease acc.s i (nwX p) f = f acc.s := by
  have light := State.check_ok_light ok
  exact withRelease_performed _ _ (by rw [light.cur, light.levelOf, light.myCore, performed])

theorem barArrive_sends :
    exec (.barArrive p sc d a) s =
      .next (barSend acc.s (s.me.rd a) acc (.arrive d false) (some (acc.s.relTag i)) none (nwX p)) := by
  rw [exec_barArrive, execBarArrive]
  rw [run_begins h.1.1 fun _ => h.2, withFull_full _ _ full, withBar_ok _ _ aligned ok, withScope_checked ok scope,
    withRelease_checked ok performed]
theorem barAw_sends (first : s.me.arrv = false) :
    exec (.barAw p sc d a) s =
      .next (barSend acc.s (s.me.rd a) acc (.arrive d true) (some (acc.s.relTag i)) none (nwX p)) := by
  have one : Full s (if s.me.arrv then [a, d] else [a]) := by rw [first]; exact full
  rw [exec_barAw, execBarAw]
  rw [run_begins h.1.1 fun _ => h.2, withFull_full _ _ one, withBar_ok _ _ aligned ok, withScope_checked ok scope,
    first]
  exact congrArg _ (withRelease_checked ok performed fun t => barSend t (s.me.rd a) acc (.arrive d true) (some (t.relTag i)) none (nwX p))

end Issue

end Barrier

end Sys2Proof.Machine

namespace Sys2Proof
open Machine Claims

/-- Settles O22: a fence and ST.rel begin with their thread's remote faults, wait for what they cover, and then drop, mark or store. -/
theorem fencesAndReleases : Obligations.FencesAndReleases := by
  refine ⟨fun x w vis acq rel p sc i s member h scope records => ?fences,
    fun x p sc i s member h outside scope r rs handler recs => ?fenceFaults,
    fun p s h outside answered noneComes r rs handler recs => ?postFaults,
    fun p sc sz d a off s acc i h outside full aligned ok scope r rs handler recs => ?relFaults,
    fun p s h => ⟨fun answered noneComes records => ?posts, fun waits => ?postWaits⟩,
    fun p sc sz d a off s acc i h full aligned ok scope records performed room => ?releases⟩
  case fences =>
    obtain ⟨runs, words⟩ := exec_fence (s := s) member
    dsimp only
    rw [runs, words, fence_outside h scope records]
    split
    · rfl
    · split <;> rfl
  case fenceFaults =>
    obtain ⟨w, vis, acq, rel, listed⟩ : ∃ w vis acq rel, (x, w, vis, acq, rel) ∈ [(Instr.fenceAcq p sc, false, false, true, false),
        (.fenceRel p sc, true, false, false, true), (.fenceAr p sc, true, false, true, true), (.fenceSc p sc, true, true, true, true)] := by
      simp only [List.mem_cons, List.not_mem_nil, or_false] at member
      obtain rfl | rfl | rfl | rfl := member
      · exact ⟨false, false, true, false, by simp⟩
      · exact ⟨true, false, false, true, by simp⟩
      · exact ⟨true, false, true, true, by simp⟩
      · exact ⟨true, true, true, true, by simp⟩
    obtain ⟨runs, words⟩ := exec_fence (s := s) listed
    rw [runs, words, fence_pending h outside scope handler recs]
  case postFaults =>
    rw [nwords_fencePost, fencePost_lanes h outside answered noneComes, withLanes_pending _ _ handler recs]
  case relFaults =>
    have light := State.check_ok_light ok
    have handler' : acc.s.me.inh = false := by rw [light.me]; exact handler
    have recs' : acc.s.me.recs = r :: rs := by rw [light.me]; exact recs
    rw [nwords_stRel, stRel_lanes outside full aligned ok scope h, withLanes_pending _ _ handler' recs', light.cur]
  case posts =>
    rw [nwords_fencePost, fencePost_lanes h.1.1 h.2 answered noneComes, withLanes_none _ _ records]
    exact congrArg _ (State.finishMe_plain s _ _ h.1.2 rfl)
  case postWaits =>
    rw [nwords_fencePost]
    exact fencePost_waits h waits
  case releases =>
    have light := State.check_ok_light ok
    have plain : (acc.s.modMe fun t => { t with rel := none }).me.sstep = false := by
      rw [State.me_modMe]
      exact light.sstep.trans h.1.2
    dsimp only
    rw [nwords_stRel, stRel_performed h.2 full aligned ok scope h.1 records performed]
    exact ⟨fun away =>
        congrArg _ (State.post_store (acc := { acc with s := acc.s.modMe fun t => { t with rel := none } }) _ _ _ room plain away),
      fun window ready =>
        congrArg _ (State.post_window (acc := { acc with s := acc.s.modMe fun t => { t with rel := none } }) _ _ _ room window ready)⟩

/-- Settles O24: what is sent to the record's home, and how a wait on a phase ends. -/
theorem barriersIssue : Obligations.BarriersIssue := by
  intro p sc d a b s acc h full aligned ok sent
  have light := State.check_ok_light ok
  have plain : acc.s.me.sstep = false := light.sstep.trans h.1.2
  have sends {x : Instr} {o : BarOp} {tag : Option RelTag} {acq : Option ScopeInst} (words : x.nwords = nwX p)
      (runs : exec x s = .next (barSend acc.s (s.me.rd a) acc o tag acq (nwX p))) : sent x o tag acq := by
    refine runs.trans (congrArg _ ((barSend_barSent ..).trans ?_))
    rw [barSent, light.cur, words]
  have reads (still : acc.s.isMoved s.myPid acc.pa = false) (sound : acc.s.poisonOf acc.key acc.pa 16 = none)
      (ahead : acc.s.opsAhead s.cur (s.me.rd a).toNat (acc.pa / 64) false = false) : BarReads acc.s (s.me.rd a) acc :=
    ⟨by rw [light.myPid (State.check_pidOf ok)]; exact still, by rw [light.cur]; exact ahead, sound⟩
  refine ⟨fun fullB => sends (nwords_barInit ..) (barInit_sends h full aligned ok fullB), fun i scope =>
    ⟨fun fullB => sends (nwords_barTest ..) (barTest_sends h full aligned ok scope fullB),
      fun performed => ⟨?arrive, fun first => ?arriveAw⟩,
      fun fullB still ahead sound => ?wait, fun arrived fullD still ahead sound => ?waitAw⟩⟩
  case arrive =>
    exact sends (nwords_barArrive ..) (light.relTag i ▸ barArrive_sends h full aligned ok scope performed)
  case arriveAw =>
    exact sends (nwords_barAw ..) (light.relTag i ▸ barAw_sends h full aligned ok scope performed first)
  case wait =>
    rw [nwords_barWait, barWait_waits h full aligned ok scope fullB]
    refine ⟨fun differs wide => ?_, fun same => congrArg _ (barWaitOn_same _ _ (reads still sound ahead) same)⟩
    rw [barWaitOn_differs _ _ (reads still sound ahead) differs (by rw [light.cur]; exact wide) plain, light.levelOf, light.myCore]
    split <;> rfl
  case waitAw =>
    rw [nwords_barAw, barAw_waits h full aligned ok scope arrived fullD]
    refine ⟨fun differs wide => ?_, fun same => congrArg _ (barWaitOn_same _ _ (reads still sound ahead) same)⟩
    rw [barWaitOn_differs _ _ (reads still sound ahead) differs (by rw [light.cur]; exact wide) plain, light.levelOf, light.myCore]
    split <;> rfl

end Sys2Proof
end

section
/-! PROOFS. The statements on registers, reservations and scopes (R163, R164, R170, R175), and on the instructions that open and end a
region (R178, R182, R185). -/

namespace Sys2Proof.Machine
open Claims

/-! ### WAITRS (R170) -/

theorem getLsbD_one_shiftLeft (i j : Fin 8) : (1#64 <<< i.val).getLsbD j = decide (i = j) := by
  revert i j; decide
/-- The mask of a reservation set over what it holds already. -/
theorem getLsbD_foldl_resv (rs : List Resv) (m : Word) (j : Fin 8) :
    (rs.foldl (fun m r => if r.written then m ||| (1#64 <<< r.i.val) else m) m).getLsbD j =
      (m.getLsbD j || decide (∃ r ∈ rs, r.written = true ∧ r.i = j)) := by
  induction rs generalizing m with
  | nil => simp
  | cons r rs ih =>
    rw [List.foldl_cons, ih]
    cases w : r.written with
    | false => simp [w]
    | true =>
      rw [if_pos rfl, BitVec.getLsbD_or, getLsbD_one_shiftLeft, Bool.or_assoc]
      simp [w]
theorem getLsbD_resvMask (rs : List Resv) (j : Fin 8) :
    (resvMask rs).getLsbD j = decide (∃ r ∈ rs, r.written = true ∧ r.i = j) := by
  rw [resvMask, getLsbD_foldl_resv]
  simp

/-! ### Bytes in one page or two (R155, R156) -/

section Bytes
variable {s s' : State} {tag : Option (BitVec 32)} {bs : List Byte}

theorem readsPage_light {va n : Nat} (h : ReadsPage s tag va n bs s') : s.Light s' := by
  obtain ⟨acc, ok, -, -, -, -, rfl⟩ := h
  exact State.check_ok_light ok
theorem readsPage_pidOf {va n : Nat} (h : ReadsPage s tag va n bs s') : s'.pidOf = s.pidOf := by
  obtain ⟨acc, ok, -, -, -, -, rfl⟩ := h
  exact State.check_pidOf ok
theorem reads_light {va : Word} {n : Nat} (h : Claims.Reads s tag va n bs s') : s.Light s' := by
  unfold Claims.Reads at h
  dsimp only at h
  split at h
  · exact readsPage_light h
  · obtain ⟨b1, b2, s1, first, second, -⟩ := h
    exact (readsPage_light first).trans (readsPage_light second)
theorem reads_pidOf {va : Word} {n : Nat} (h : Claims.Reads s tag va n bs s') : s'.pidOf = s.pidOf := by
  unfold Claims.Reads at h
  dsimp only at h
  split at h
  · exact readsPage_pidOf h
  · obtain ⟨b1, b2, s1, first, second, -⟩ := h
    exact (readsPage_pidOf second).trans (readsPage_pidOf first)
theorem withBytes_reads {va : Word} {n : Nat} (nw : Nat) (f : List Byte → State → State) (h : Claims.Reads s tag va n bs s') :
    withBytes s tag va n nw f = f bs s' := by
  unfold Claims.Reads at h
  dsimp only at h
  split at h
  case isTrue one =>
    obtain ⟨acc, ok, held, still, sound, rfl, rfl⟩ := h
    rw [withBytes]
    simp only [one, ok, held, still, sound, Bool.false_eq_true, if_false, if_true]
  case isFalse two =>
    obtain ⟨b1, b2, s1, ⟨acc, ok, held, still, sound, rfl, rfl⟩, ⟨acc', ok', held', still', sound', rfl, rfl⟩, rfl⟩ := h
    rw [withBytes]
    simp only [two, ok, held, still, sound, ok', held', still', sound', Bool.false_eq_true, if_false]

end Bytes

theorem State.defineScope_me (s : State) (pid d : Nat) : (s.defineScope pid d).2.me = s.me := by
  unfold State.defineScope
  dsimp only
  split
  · rfl
  · split
    · rfl
    · split <;> rfl

/-! ### The begin of a region (R178) -/

section Dies
variable {s t : State} (h : s.Light t)
include h

theorem State.Light.myDie : t.myDie = s.myDie := by rw [State.myDie, h.myCluster]; rfl
theorem State.Light.cc (d : Nat) : (t.die d).cc = (s.die d).cc := by rw [h.die]
theorem State.Light.token (d : Nat) : (t.die d).token = (s.die d).token := by rw [h.die]

end Dies

theorem parked_die (s : State) (c : Nat) (w : Wait) (r : Rest) (nw : Nat) (x : Bool) (d : Nat) :
    (parked s c w r nw x).die d = s.die d := rfl
theorem mem_queued_token (k : Nat) (q : List Nat) : k ∈ if q.contains k then q else q ++ [k] := by
  split
  case isTrue there => simpa using there
  case isFalse => simp
/-- An abort by the instruction of a thread that is not stepped. -/
theorem State.abortMe_plain {s : State} (code nw : Nat) (plain : s.me.sstep = false) : s.abortMe code nw = s.abort s.cur code :=
  if_neg (ne_true_of_eq_false plain)

end Sys2Proof.Machine

namespace Sys2Proof
open Machine Claims

/-- Settles O23: the four instructions by what they find. -/
theorem registersAndScopes : Obligations.RegistersAndScopes := by
  refine ⟨fun p d s h => ?rempty,
    fun p r d a b s h full => ⟨fun target => ?refused, fun k target => ⟨fun up => ?sent, fun down => ?lost⟩⟩,
    fun p d a s h full => ⟨fun done => ?ends, fun armed open_ => ?waits⟩, fun p d a s s' bs h full aligned reads => ?scopedef⟩
  case rempty =>
    rw [exec_rempty, execRempty, run_begins h.1.1 fun _ => h.2, nwords_rempty]
    exact congrArg _ (State.finishMe_plain _ _ _ ((Slot.setReg_sstep ..).trans h.1.2) (Slot.setReg_pc ..))
  case refused =>
    rw [exec_fill, execFill, run_begins h.1.1 fun _ => h.2, withFull_full _ _ full, target, nwords_fill]
    exact congrArg _ (State.finishMe_plain s (nwX p) (fun t => t.wr d 8) ((Slot.wr_sstep ..).trans h.1.2) (Slot.wr_pc ..))
  case sent =>
    rw [exec_fill, execFill, run_begins h.1.1 fun _ => h.2, withFull_full _ _ full, target]
    have parks := State.parkFin_parked (s.send s.cur (.fill (s.me.rd a) r (s.me.rd b) (some d) none)) 1 (w := .reply s.nextId)
      [.g d 0] (nwX p) rfl
    simp only [up, Bool.not_true, Bool.false_eq_true, if_false, parks, nwords_fill]
  case lost =>
    rw [exec_fill, execFill, run_begins h.1.1 fun _ => h.2, withFull_full _ _ full, target]
    simp only [down, Bool.not_false, if_true, nwords_fill]
  case ends =>
    have code : (s.me.resv.isEmpty || s.me.resv.any (·.written)) = true := by
      rcases done with none_ | some_
      · simp [none_]
      · simp [List.any_eq_true.2 some_]
    rw [exec_waitrs, execWaitrs, run_begins h.1.1 fun _ => h.2, withFull_full _ _ full, nwords_waitrs]
    refine ⟨_, resvMask s.me.resv, rfl, (if_pos code).trans ?_, getLsbD_resvMask _⟩
    refine (State.finishMe_plain s (nwX p) (fun t => ({ t with resv := [] } : Slot).wr d (resvMask t.resv))
      ((Slot.wr_sstep ..).trans h.1.2) (Slot.wr_pc ..)).trans ?_
    exact State.modMe_congr rfl
  case waits =>
    have code : (s.me.resv.isEmpty || s.me.resv.any (·.written)) = false := by
      simpa [armed] using open_
    rw [exec_waitrs, execWaitrs, run_begins h.1.1 fun _ => h.2, withFull_full _ _ full]
    simp only [code, Bool.false_eq_true, if_false, nwords_waitrs, BitVec.toNat_eq]
    exact congrArg _ (State.parkFin_parked _ _ _ _ rfl)
  case scopedef =>
    have light := reads_light reads
    have plain : (s'.defineScope s.myPid (ofBytes bs)).2.me.sstep = false := by
      rw [State.defineScope_me]
      exact light.sstep.trans h.1.2
    dsimp only
    rw [exec_scopedef, execScopedef, run_begins h.1.1 fun _ => h.2, withFull_full _ _ full, nwords_scopedef]
    refine ⟨congrArg _ ((if_neg (not_not_intro aligned)).trans ?_), (parked_owes _ _ _ _ _ plain).finishes_wr⟩
    rw [withBytes_reads _ _ reads, light.myPid (reads_pidOf reads)]
    exact State.parkAt_parked _ _ _ _ _ _ (State.replyWait_notFrozen ..)

/-- Settles O27: what the five instructions do outside and inside a region. -/
theorem regionInstructions : Obligations.RegionInstructions := by
  refine ⟨fun p d imm s s1 e h page dom cls => ?begins, fun p s r h region => ⟨?parks, ?finishes, ?aborts⟩,
    fun p s h outside => ⟨?commit, ?abort⟩,
    fun p d a s h => ⟨?bounds, ?position⟩⟩
  case begins =>
    have light := State.fetchPage_light page
    have here : ¬(e.dom ≠ s.me.dom ∨ e.cls ≠ s.me.cls) := by simp [dom, cls]
    rw [exec_ebegin, execEbegin, run_begins h.1.1 fun _ => h.2]
    rw [withPage_ok _ page, if_neg here, light.myDie, nwords_ebegin]
    dsimp only
    simp only [light.cc, light.token, light.cur, ← beq_eq_decide]
    split
    case isTrue waits =>
      have code : (s.me.streak == 4 && (s.die s.myDie).token != some s.cur) = true := by simpa using waits
      rw [if_pos code, State.parkRe_parked _ _ rfl]
      refine ⟨_, rfl, ?_, ?_, ?_⟩
      · rw [parked_die, State.die_modDie]
        exact mem_queued_token s.cur _
      · rw [parked_me]; exact light.region.trans h.2
      · rw [parked_me, parkNow, parkNow, State.modDie_clock, light.clock]
    case isFalse opens =>
      have code : (s.me.streak == 4 && (s.die s.myDie).token != some s.cur) = false := by simpa using opens
      have plain : s1.me.sstep = false := light.sstep.trans h.1.2
      rw [if_neg (ne_true_of_eq_false code)]
      refine congrArg _ (State.finishMe_plain _ _ _ ?_ rfl)
      rw [← light.cur]
      exact plain
  case parks =>
    have inside : s.me.region.isNone = false := by simp [region]
    rw [exec_ecommit, execEcommit, run_begins h.1 (by simp), inside, nwords_ecommit]
    exact congrArg _ (State.parkFin_parked _ _ _ _ rfl)
  case finishes => exact (parked_owes _ _ _ _ _ h.2).finishes_nil
  case aborts =>
    have inside : s.me.region.isNone = false := by simp [region]
    rw [exec_eabort, execEabort, run_begins h.1 (by simp), inside]
    exact congrArg _ (State.abortMe_plain _ _ h.2)
  case commit =>
    rw [exec_ecommit, execEcommit, run_begins h.1 (by simp), outside, nwords_ecommit]
    rfl
  case abort =>
    rw [exec_eabort, execEabort, run_begins h.1 (by simp), outside, nwords_eabort]
    rfl
  case bounds =>
    rw [exec_ebnd, execEbnd, run_begins h.1 (by simp), nwords_ebnd]
    refine congrArg _ (State.finishMe_plain s (nwX p) (fun t => (t.wr d (BitVec.ofNat 64 t.eblo)).wr a (BitVec.ofNat 64 t.ebhi)) ?_ ?_)
    · exact (Slot.wr_sstep ..).trans ((Slot.wr_sstep ..).trans h.2)
    · exact (Slot.wr_pc ..).trans (Slot.wr_pc ..)
  case position =>
    rw [exec_epos, execEpos, run_begins h.1 (by simp), nwords_epos]
    exact congrArg _ (State.finishMe_plain s (nwX p) (fun t => t.wr d (BitVec.ofNat 64 t.lastF)) ((Slot.wr_sstep ..).trans h.2)
      (Slot.wr_pc ..))

end Sys2Proof
end

section
/-! PROOFS. The loads and stores of a region as they issue (R179, R206, R300). -/

namespace Sys2Proof.Machine
open Claims

/-! ### What a store buffers (R179) -/

theorem FMap.has_set {α : Type} (m : FMap α) (k : Nat) (v : α) (k' : Nat) : (FMap.set m k v).has k' = (m.has k' || k == k') := by
  induction m with
  | nil => simp [FMap.set, FMap.has]
  | cons e m ih =>
    obtain ⟨k₁, w⟩ := e
    rw [FMap.set]
    split
    case isTrue same =>
      subst same
      cases same : k₁ == k' <;> simp [FMap.has, same]
    case isFalse =>
      change (k₁ == k' || FMap.has (FMap.set m k v) k') = (k₁ == k' || FMap.has m k' || k == k')
      rw [ih, Bool.or_assoc]

/-- A region with the cells of one more line at `va` buffered. -/
def Region.buffered (r : Region) (key va line : Nat) (cells : List Host.Cell) : Region :=
  { r with writes := r.writes ++ cells, wlines := r.wlines.set line key, wvas := r.wvas.set line (va / 64), out := r.out + 1 }

section StoreLine
variable {s : State} {r : Region} (rid key va line : Nat) (cells : List Host.Cell)

theorem State.regionStoreLine_me (region : s.me.region = some r) :
    (s.regionStoreLine rid key va line cells).me = { s.me with region := some (r.buffered key va line cells) } := by
  refine (State.me_modMe s fun t => { t with region := t.region.map fun r => r.buffered key va line cells }).trans ?_
  rw [region]
  rfl
/-- The access that goes to the line's home slice. -/
theorem State.regionStoreLine_sent : ∃ m ∈ (s.regionStoreLine rid key va line cells).net,
    m.kind = .region rid line key s.me.eblo s.me.ebhi (.write (BitVec.ofNat 64 (va / 64 * 64))) :=
  ⟨_, List.mem_append_right _ (List.mem_singleton_self _), rfl⟩

end StoreLine

/-- The region `r` of the running thread has buffered some lines of the cells `cs`, from state `s` to `t`, and is `r'` now. -/
structure Buffers (rid key : Nat) (at_ : Nat → Nat) (cs : List Host.Cell) (s : State) (r : Region) (lines : List Nat) (t : State)
    (r' : Region) : Prop where
  me : t.me = { s.me with region := some r' }
  mem : t.mem = s.mem
  writes : r'.writes = r.writes ++ lines.flatMap fun l => cs.filter fun c => c.1 / 64 == l
  out : r'.out = r.out + lines.length
  kept : ∀ l, r.wlines.has l = true → r'.wlines.has l = true
  entered : ∀ l ∈ lines, r'.wlines.has l = true
  old : ∀ m ∈ s.net, m ∈ t.net
  sent : ∀ l ∈ lines, ∃ m ∈ t.net,
    m.kind = .region rid l key s.me.eblo s.me.ebhi (.write (BitVec.ofNat 64 (at_ l / 64 * 64)))

theorem State.regionStoreLines_buffers (rid key : Nat) (at_ : Nat → Nat) (cs : List Host.Cell) (lines : List Nat) :
    ∀ (s : State) (r : Region), s.me.region = some r → ∃ r', Buffers rid key at_ cs s r lines
      (lines.foldl (fun s l => s.regionStoreLine rid key (at_ l) l (cs.filter (·.1 / 64 == l))) s) r' := by
  induction lines with
  | nil =>
    intro s r region
    exact ⟨r, by rw [List.foldl_nil, ← region], rfl, by simp, rfl, fun _ h => h, by simp, fun _ h => h, by simp⟩
  | cons l ls ih =>
    intro s r region
    let s1 := s.regionStoreLine rid key (at_ l) l (cs.filter (·.1 / 64 == l))
    have me1 : s1.me = _ := State.regionStoreLine_me rid key (at_ l) l _ region
    obtain ⟨r', later⟩ := ih s1 (r.buffered key (at_ l) l (cs.filter (·.1 / 64 == l))) (by rw [me1])
    have here : (r.buffered key (at_ l) l (cs.filter (·.1 / 64 == l))).wlines.has l = true := by
      simp [Region.buffered, FMap.has_set]
    refine ⟨r', ?_, later.mem, ?_, ?_, fun l' h => later.kept l' ?_, fun l' h => ?_,
      fun m h => later.old m (List.mem_append_left _ h), fun l' h => ?_⟩
    · rw [List.foldl_cons, later.me, me1]
    · rw [later.writes, List.flatMap_cons, ← List.append_assoc]
      rfl
    · rw [later.out, List.length_cons, Nat.add_comm ls.length, ← Nat.add_assoc]
      rfl
    · simp [Region.buffered, FMap.has_set, h]
    · rcases List.mem_cons.1 h with rfl | h
      · exact later.kept _ here
      · exact later.entered _ h
    · rcases List.mem_cons.1 h with rfl | h
      · obtain ⟨m, there, kind⟩ := State.regionStoreLine_sent (s := s) rid key (at_ l') l' (cs.filter (·.1 / 64 == l'))
        exact ⟨m, later.old m there, kind⟩
      · have sent := later.sent l' h
        rw [me1] at sent
        exact sent

/-! ### A store in a region -/

/-- A state `t` in which an instruction of state `s` acts once the checks of its access have passed. -/
structure Issues (s t : State) : Prop where
  cur : t.cur = s.cur
  pid : t.myPid = s.myPid
  me : t.me = { s.me with row := t.me.row }
  mem : t.mem = s.mem

section Issues
variable {s : State} {tag : Option (BitVec 32)} {va n need : Nat} {posted : Bool} {acc : Acc}

theorem check_issues (ok : s.check tag va n need posted = .ok acc) : Issues s acc.s :=
  have light := State.check_ok_light ok
  ⟨light.cur, light.myPid (State.check_pidOf ok), light.me, light.mem⟩
theorem check_onUnit_issues (ok : (onUnit s).check tag va n need posted = .ok acc) : Issues s acc.s :=
  have unit := check_issues ok
  ⟨unit.cur, unit.pid, unit.me, unit.mem⟩

end Issues

section RegionStore
variable {s : State} {x : Instr} {acc : Acc} {r : Region} {va : Word} {cells : List Host.Cell}

theorem regionStore_of_issues (issues : Issues s acc.s) (plain : s.me.sstep = false) (region : s.me.region = some r)
    (runs : exec x s = .next (acc.s.regionStore r va acc cells x.nwords)) : RegionStore s x acc r va cells := by
  have here : acc.s.myCluster = s.myCluster := by rw [State.myCluster, issues.cur]; rfl
  have plain' : acc.s.me.sstep = false := by rw [issues.me]; exact plain
  have region' : acc.s.me.region = some r := by rw [issues.me]; exact region
  have aborts (code : Nat) : acc.s.abortMe code x.nwords = acc.s.abort s.cur code := by
    rw [State.abortMe_plain _ _ plain', issues.cur]
  unfold State.regionStore at runs
  dsimp only at runs
  rw [here, issues.pid, aborts, aborts] at runs
  have passes (open_ : ¬(acc.remote = false ∧ acc.s.walled s.myCluster s.myPid acc.pa = true)) :
      ¬(!acc.remote && acc.s.walled s.myCluster s.myPid acc.pa) = true := by simpa using open_
  refine ⟨fun ⟨near, walled⟩ => ?_, fun open_ onDie fits => ?_, fun open_ away => ?_, fun open_ onDie full => ?_⟩
  · rw [runs, near, walled]
    rfl
  · obtain ⟨r', stored⟩ := State.regionStoreLines_buffers r.id acc.key (fun l => va.toNat + (l - acc.pa / 64) * 64) cells
      (linesOf cells) acc.s r region'
    rw [if_neg (passes open_), onDie, fits] at runs
    have ends := State.finish_plain _ x.nwords ((congrArg Slot.sstep stored.me).trans plain')
    refine ⟨_, r', runs.trans (congrArg _ ends), sameBytes_of_mem (stored.mem.trans issues.mem), ?_, stored.writes, stored.out,
      stored.entered, fun l h => ?_⟩
    · rw [retired, State.me_modMe, stored.me]
      rfl
    · have sent := stored.sent l h
      rw [issues.me] at sent
      exact sent
  · rw [runs, if_neg (passes open_), away]
    rfl
  · rw [runs, if_neg (passes open_), onDie, full]
    rfl

end RegionStore

/-! ### A load in a region (R179) -/

theorem State.L1Only.nextId {s t : State} (h : s.L1Only t) : t.nextId = s.nextId := by rw [h.rest]
theorem State.L1Only.onDie {s t : State} (h : s.L1Only t) (a : Acc) : t.onDie a = s.onDie a := by
  have rest := h.rest
  generalize t.cores = cores at rest
  subst rest
  rfl

section RegionLoad
variable {u : State} {r : Region} {a : Acc} (va : Word) (n : Nat) (signed : Bool) (d : Fin 32) (nw : Nat)

theorem State.regionLoad_away (plain : u.me.sstep = false) (away : u.onDie a = false) :
    u.regionLoad r va a n signed d nw = u.abort u.cur 3 := by
  rw [State.regionLoad, away]
  exact State.abortMe_plain _ _ plain
theorem State.regionLoad_full (plain : u.me.sstep = false) (near : u.onDie a = true) (full : 2048 < (addNew (a.pa / 64) r.rlines).length) :
    u.regionLoad r va a n signed d nw = u.abort u.cur 2 := by
  rw [State.regionLoad, near]
  exact (if_pos full).trans (State.abortMe_plain _ _ plain)
theorem State.regionLoad_sends (region : u.me.region = some r) (near : u.onDie a = true)
    (fits : (addNew (a.pa / 64) r.rlines).length ≤ 2048) :
    u.regionLoad r va a n signed d nw = parked ((u.modRegion u.cur fun x =>
        { x with rlines := addNew (a.pa / 64) r.rlines, out := x.out + 1 }).send u.cur
      (.region r.id (a.pa / 64) a.key u.me.eblo u.me.ebhi (.read d va a.pa n signed))) 1 (.reply u.nextId) (.finish []) nw false := by
  have entered : (u.modRegion u.cur fun x => { x with rlines := addNew (a.pa / 64) x.rlines, out := x.out + 1 }) =
      u.modRegion u.cur fun x => { x with rlines := addNew (a.pa / 64) r.rlines, out := x.out + 1 } :=
    State.modMe_congr (by rw [region]; rfl)
  rw [State.regionLoad, near]
  refine (if_neg (Nat.not_lt.2 fits)).trans ((State.parkFin_parked _ _ _ _ rfl).trans ?_)
  rw [entered]
  rfl

end RegionLoad

/-! ### VST in a region (R206) -/

theorem cellsAt_toBytes_ne_nil (pa x : Nat) : cellsAt pa (toBytes 4 x) ≠ [] := by
  simp [cellsAt, toBytes]
theorem lanesOn_eq_nil {mask : BitVec 32} : lanesOn mask = [] ↔ mask = 0 := by
  constructor
  · intro none_
    refine BitVec.eq_of_getLsbD_eq fun i hi => ?_
    have off : ¬ tb mask.toNat i = true := List.filter_eq_nil_iff.1 none_ i (List.mem_range.2 hi)
    rw [tb_eq_testBit] at off
    exact (eq_false_of_ne_true off).trans BitVec.getLsbD_zero.symm
  · rintro rfl
    decide
theorem laneCells_isEmpty (x : BitVec 1024) (mask : BitVec 32) (at_ : Nat → Nat) :
    (laneCells x mask at_).isEmpty = decide (mask = 0) := by
  rw [Bool.eq_iff_iff, decide_eq_true_iff, ← lanesOn_eq_nil, List.isEmpty_iff, laneCells]
  cases lanesOn mask with
  | nil => simp
  | cons i l => simp [cellsAt_toBytes_ne_nil]

section VecStore
variable {p : Pfx} {m : Fin 4} {d : Fin 16} {a : Fin 32} {off : Int} {s : State} {acc : Acc} {r : Region}

theorem vstRegion_checked (nw : Nat) (region : acc.s.me.region = some r) (full : Full s [a]) (aligned : (ea s a off 128).toNat % 128 = 0)
    (ok : s.check (s.me.tagOf a) (ea s a off 128).toNat 128 2 true = .ok acc) :
    vstRegion nw m d a off s = if (laneCells (s.me.rdV d) (s.me.mask m) fun j => acc.pa + 4 * j).isEmpty then acc.s.finish nw
      else acc.s.regionStore r (ea s a off 128) acc (laneCells (s.me.rdV d) (s.me.mask m) fun j => acc.pa + 4 * j) nw := by
  have aligned' : ¬ (eaOf s.me a off 128).toNat % 128 ≠ 0 := not_not_intro aligned
  have ok' : s.check (s.me.tagOf a) (eaOf s.me a off 128).toNat 128 2 true = .ok acc := ok
  rw [vstRegion, withFull_full _ _ full]
  dsimp only
  rw [if_neg aligned', ok']
  dsimp only
  rw [region]
  rfl

theorem vst_region (h : Plain s p) (region : s.me.region = some r) (idle : s.seqRuns = false) (full : Full s [a])
    (aligned : (ea s a off 128).toNat % 128 = 0) (ok : (onUnit s).check (s.me.tagOf a) (ea s a off 128).toNat 128 2 true = .ok acc) :
    exec (.vst p .virt m d a off) s = .next (
      if (laneCells (s.me.rdV d) (s.me.mask m) fun j => acc.pa + 4 * j).isEmpty then acc.s.finish (nwX p)
      else acc.s.regionStore r (ea s a off 128) acc (laneCells (s.me.rdV d) (s.me.mask m) fun j => acc.pa + 4 * j) (nwX p)) := by
  have inside : (s.me.region.isSome && Space.virt == Space.virt) = true := by rw [region]; rfl
  have region' : acc.s.me.region = some r := by rw [(check_onUnit_issues ok).me]; exact region
  rw [exec_vst, execVst, if_pos inside, run_begins h.1 (by simp), idle]
  exact congrArg _ (vstRegion_checked (s := onUnit s) (nwX p) region' full aligned ok)

end VecStore

end Sys2Proof.Machine

namespace Sys2Proof
open Machine Claims

/-- Settles O28: a load, a store and a VST of an open region, each by the die and the capacity of its lines. -/
theorem regionAccesses : Obligations.RegionAccesses := by
  refine ⟨fun o p d a off s acc r h region full aligned ok => ?loads, fun o p d a off s acc r h region full aligned ok => ?stores,
    fun p m d a off s acc r h region idle full aligned ok => ⟨fun none_ => ?noLane, fun some_ => ?lanes⟩⟩
  case loads =>
    have light := State.check_ok_light ok
    have filled := acc.s.fillNext_l1Only (hintsOf p) (ea s a off o.size).toNat acc o.size
    have region' : acc.s.me.region = some r := light.region.trans region
    have inside := load_checked full aligned ok h.1 (d := d) (signed := o.signed)
    rw [region'] at inside
    dsimp only
    rw [exec_ld, nwords_ld, inside]
    have cur := filled.cur.trans light.cur
    have plain := (congrArg Slot.sstep filled.me).trans (light.sstep.trans h.2)
    have region_ := (congrArg Slot.region filled.me).trans region'
    refine ⟨fun near fits => ?_, fun away => ?_, fun near full => ?_⟩
    · refine congrArg _ ((State.regionLoad_sends _ _ _ _ _ region_ ((filled.onDie acc).trans near) fits).trans ?_)
      rw [cur, filled.nextId, filled.me, light.me]
    · rw [← cur]
      exact congrArg _ (State.regionLoad_away _ _ _ _ _ plain ((filled.onDie acc).trans away))
    · rw [← cur]
      exact congrArg _ (State.regionLoad_full _ _ _ _ _ plain ((filled.onDie acc).trans near) full)
  case stores =>
    have issues := check_issues ok
    refine regionStore_of_issues issues h.2 region ?_
    rw [exec_st, nwords_st, store_checked h.1 full aligned ok, issues.me, region]
  case noLane =>
    have issues := check_onUnit_issues ok
    rw [vst_region h region idle full aligned ok, laneCells_isEmpty, none_, nwords_vst]
    exact congrArg _ (State.finish_plain _ _ (by rw [issues.me]; exact h.2))
  case lanes =>
    refine regionStore_of_issues (check_onUnit_issues ok) h.2 region ?_
    rw [vst_region h region idle full aligned ok, laneCells_isEmpty, decide_eq_false some_, nwords_vst]
    rfl

end Sys2Proof
end

section
/-! PROOFS. The abort of a region (R183) and the instructions that abort an open one (R206, R229, R250). -/

namespace Sys2Proof.Machine
open Claims

/-! ### States in which stage 2 reads the same (R297, R310-R314) -/

/-- What a walk of stage 2 reads is the same in two states. -/
structure State.SameWalk (s t : State) : Prop where
  numAt : t.numAt = s.numAt
  leafOk : t.leafOk = s.leafOk
  dirEntry : t.dirEntry = s.dirEntry
  keyOfNum : t.keyOfNum = s.keyOfNum
  pidOf : t.pidOf = s.pidOf

section SameWalk
variable {s t : State} (h : s.SameWalk t)
include h

theorem State.SameWalk.walk2 (dev pid colours : Nat) (reqCls : Option Nat) (pa : Nat) (probe : Bool) (levels : List (Nat × Nat))
    (table : Nat) : t.walk2 dev pid colours reqCls pa probe levels table = s.walk2 dev pid colours reqCls pa probe levels table := by
  induction levels generalizing table with
  | nil => rfl
  | cons level levels ih =>
    rw [State.walk2, State.walk2, h.numAt, h.leafOk]
    simp only [ih]
/-- Stage 2 is unfolded as a function: the equation of its match at arguments makes the kernel evaluate the directory entry. -/
theorem State.SameWalk.stage2 (dev pid : Nat) (reqCls : Option Nat) (pa : Nat) (probe : Bool) :
    t.stage2 dev pid reqCls pa probe = s.stage2 dev pid reqCls pa probe := by
  have body : @State.stage2 = @State.stage2 := rfl
  conv at body => rhs; delta State.stage2
  rw [body]
  simp only [h.dirEntry, h.walk2]
theorem State.SameWalk.partAddr (dev pid p : Nat) (probe : Bool) : t.partAddr dev pid p probe = s.partAddr dev pid p probe := by
  rw [State.partAddr, State.partAddr, h.keyOfNum]
  cases s.keyOfNum dev (bits p 52 44) with
  | none => rfl
  | some d => exact congrArg (Tr.bind · _) (h.stage2 ..)
theorem State.SameWalk.readPart (dev pid p n : Nat) (probe : Bool) : t.readPart dev pid p n probe = s.readPart dev pid p n probe := by
  rw [State.readPart, State.readPart, h.partAddr, h.numAt]
theorem State.SameWalk.readRow (cores : t.core = s.core) (c asid dom : Nat) : t.readRow c asid dom = s.readRow c asid dom := by
  rw [State.readRow, State.readRow, State.asd, State.asd, h.pidOf, cores]
  simp only [h.readPart]

end SameWalk

/-! ### The abort of a region (R183) -/

/-- A state whose slot `k` has left its region and the turns of its die. -/
def State.leftRegion (s : State) (k rid : Nat) : State := (s.leaveDie (dieOf (clusterOf k)) rid).leaveTurns k

theorem State.leftRegion_slot (s : State) (k rid : Nat) : (s.leftRegion k rid).slot = s.slot := rfl
theorem State.leftRegion_sameWalk (s : State) (k rid : Nat) : s.SameWalk (s.leftRegion k rid) := ⟨rfl, rfl, rfl, rfl, rfl⟩

/-- The die of a slot that has left its region and its turns. -/
theorem State.leftRegion_die (s : State) (k rid : Nat) : (s.leftRegion k rid).die (dieOf (clusterOf k)) =
    let d := s.die (dieOf (clusterOf k))
    { d with
      lines := d.lines.map fun l => { l with readers := l.readers.filter (· != rid), writers := l.writers.filter (· != rid) }
      edges := d.edges.filter fun e => e.r1 != rid && e.r2 != rid
      carried := d.carried.filter (·.rid != rid)
      token := if d.token = some k then none else d.token
      tokenQ := d.tokenQ.filter (· != k)
      turnQ := d.turnQ.filter (· != k)
      turnOf := if d.turnOf = some k then none else d.turnOf } := by
  rw [State.leftRegion, State.leaveTurns, State.die_modDie, State.leaveDie, State.die_modDie]
  rfl

/-- What the begin of a region gives back, before its domain and class are entered. -/
def Slot.restored (t : Slot) (clock code : Nat) (r : Region) : Slot :=
  { t with g := r.g, src := none, p := r.p, drs := r.drs, region := none, pc := r.h, park := none, readyAt := max t.readyAt clock,
           streak := if code = 1 then min 4 (t.streak + 1) else t.streak }

theorem Slot.wr_of_change {f : Slot → Slot} (g : ∀ t, (f t).g = t.g) (wrote : ∀ t, (f t).wrote = t.wrote)
    (sets : ∀ t x w, f { t with g := x, wrote := w } = { f t with g := x, wrote := w }) (t : Slot) (d : Fin 32) (x : Word) :
    f (t.wr d x) = (f t).wr d x := by
  unfold Slot.wr Slot.setReg
  split
  · rfl
  · rw [sets, g, wrote]
/-- A write of a register goes past the entry of a page. -/
theorem entered_wr (row : Row) (ready : Nat) (dom : BitVec 8) (cls : BitVec 2) (t : Slot) (d : Fin 32) (x : Word) :
    entered row ready dom cls false (t.wr d x) = (entered row ready dom cls false t).wr d x := by
  refine Slot.wr_of_change (fun t => ?_) (fun t => ?_) (fun t x w => ?_) t d x
  · unfold entered; split <;> rfl
  · unfold entered; split <;> rfl
  · unfold entered; split <;> rfl

section Abort
variable {s : State} {k code : Nat} {r : Region} (region : (s.slot k).region = some r)

/-- The slot's thread has had its begin restored, and its code written. -/
def State.backAtBegin (s : State) (k code : Nat) (r : Region) : State :=
  (s.leftRegion k r.id).modSlot k fun t => (t.restored s.clock code r).wr r.gd (BitVec.ofNat 64 code)

theorem State.backAtBegin_slot : (s.backAtBegin k code r).slot k = ((s.slot k).restored s.clock code r).wr r.gd (BitVec.ofNat 64 code) :=
  State.slot_modSlot ..
theorem State.backAtBegin_reloaded (dom : BitVec 8) : reloaded (s.backAtBegin k code r) k dom = reloaded s k dom := by
  have asid : ((s.backAtBegin k code r).slot k).asid = (s.slot k).asid := by rw [State.backAtBegin_slot, Slot.wr_keeps]; rfl
  rw [reloaded, asid, State.backAtBegin, State.readRow_modSlot, (s.leftRegion_sameWalk k r.id).readRow rfl]
  rfl
theorem State.backAtBegin_reloadEnd : (s.backAtBegin k code r).reloadEnd k = s.reloadEnd k := by
  have clock : max s.clock (max (s.slot k).readyAt s.clock) = max s.clock (s.slot k).readyAt := by omega
  have ready : max (s.backAtBegin k code r).clock ((s.backAtBegin k code r).slot k).readyAt = max s.clock (s.slot k).readyAt := by
    rw [State.backAtBegin_slot, Slot.wr_keeps]
    exact clock
  have issued : ((s.backAtBegin k code r).slot k).issued = (s.slot k).issued := by rw [State.backAtBegin_slot, Slot.wr_keeps]; rfl
  rw [State.reloadEnd, ready, issued]
  rfl

include region

theorem State.abort_eq : s.abort k code =
    (s.backAtBegin k code r).modSlot k (entered (reloaded s k r.dom) (s.reloadEnd k) r.dom r.cls false) := by
  rw [State.abort, region]
  refine (State.enterPage_eq ..).trans ?_
  rw [← s.backAtBegin_reloaded (k := k) (code := code) (r := r), ← s.backAtBegin_reloadEnd (k := k) (code := code) (r := r)]
  rfl
theorem State.abort_slot : (s.abort k code).slot k = abortedSlot s k code r (s.slot k) := by
  rw [State.abort_eq region, State.slot_modSlot, State.backAtBegin_slot, entered_wr]
  rfl
theorem State.abort_slot_ne {k' : Nat} (other : k' ≠ k) : (s.abort k code).slot k' = s.slot k' := by
  rw [State.abort_eq region, State.slot_modSlot_ne _ _ other]
  exact State.slot_modSlot_ne _ _ other
theorem State.abort_mem : (s.abort k code).mem = s.mem := by
  rw [State.abort_eq region]
  rfl
theorem State.abort_net : (s.abort k code).net = s.net.filter fun m => match m.kind with
    | .region rid .. => rid != r.id
    | _ => true := by
  rw [State.abort_eq region]
  rfl
theorem State.abort_die : (s.abort k code).die (dieOf (clusterOf k)) = (s.leftRegion k r.id).die (dieOf (clusterOf k)) := by
  rw [State.abort_eq region]
  rfl

end Abort

end Sys2Proof.Machine

namespace Sys2Proof
open Machine Claims

/-- An instruction that regions do not permit aborts an open one with code 6, where it begins. -/
theorem exec_forbidden {i : Instr} {f : Fld} (h : i.fields = some f) (forbidden : permitted i = false) (s : State) :
    ∃ nw a t, exec i s = .next (if s.me.replied then s.resume else if !s.me.guard f.p then s.finish nw
      else if s.me.region.isSome then a else t) ∧ (a = s.abortMe 6 nw ∨ a = s.abort s.cur 6) := by
  cases i with
  | vst p sp m d a off =>
    cases h
    have away : (s.me.region.isSome && sp == .virt) = false := by
      rw [show (sp == Space.virt) = false from forbidden, Bool.and_false]
    rw [exec_vst, execVst, away]
    exact ⟨_, _, _, rfl, .inl rfl⟩
  | vadd _ _ _ d | vsub _ _ _ d | vmul _ _ _ d | vmax _ _ d | vmin _ _ d | vmaxa _ _ d | vmina _ _ d | vabs _ _ d | vneg _ _ d
  | vand _ d | vor _ d | vxor _ d | vandn _ d | vexp2 _ d | vrcp _ d | vrsq _ d | vquant _ d | vdeq _ d | vmov _ d =>
    cases d with
    | q => cases forbidden
    | v => cases h; exact ⟨_, _, _, rfl, .inl rfl⟩
  | brk | trap => cases h; exact ⟨_, _, _, rfl, .inr rfl⟩
  | _ => cases h <;> cases forbidden <;> exact ⟨_, _, _, rfl, .inl rfl⟩

/-- Settles O26: what an abort restores and takes away, and that a forbidden instruction only aborts. -/
theorem regionAborts : Obligations.RegionAborts := by
  refine ⟨fun s k code r region => ⟨State.abort_slot region, fun k' => State.abort_slot_ne region,
    sameBytes_of_mem (State.abort_mem region), ?lines, ?edges, ?messages, ?token, ?turn⟩,
    fun i p s fields forbidden h region => ?forbidden⟩
  case lines =>
    intro l there
    rw [State.abort_die region, State.leftRegion_die] at there
    obtain ⟨l0, -, rfl⟩ := List.mem_map.1 there
    simp
  case edges =>
    intro e there
    rw [State.abort_die region, State.leftRegion_die] at there
    simpa using (List.mem_filter.1 there).2
  case messages =>
    intro m there line key lo hi acc kind
    rw [State.abort_net region] at there
    have kept := (List.mem_filter.1 there).2
    rw [kind] at kept
    simp at kept
  case token =>
    rw [State.abort_die region, State.leftRegion_die]
    dsimp only
    split
    · exact Option.some_ne_none k |>.symm
    · assumption
  case turn =>
    rw [State.abort_die region, State.leftRegion_die]
    dsimp only
    split
    · exact Option.some_ne_none k |>.symm
    · assumption
  case forbidden =>
    obtain ⟨f, encoded, rfl⟩ := Option.map_eq_some_iff.1 fields
    obtain ⟨nw, a, t, runs, aborts⟩ := exec_forbidden encoded forbidden s
    obtain ⟨⟨notReplied, guard⟩, plain⟩ := h
    rw [runs, notReplied, guard, region]
    rcases aborts with rfl | rfl
    · exact congrArg _ (State.abortMe_plain _ _ plain)
    · rfl

end Sys2Proof
end

section
/-! PROOFS. The statement on LDR, LD.acq, LDC and CSYNC (R162, R168, R173). -/

namespace Sys2Proof.Machine
open Claims

/-! ### What a load leaves in its slot (R157) -/

theorem State.onPath_me (t : State) (a : Acc) (va : Word) : (t.onPath a va).me = { t.me with park := (t.onPath a va).me.park } := by
  unfold State.onPath
  split
  · rw [State.me_modMe]
  · rfl
/-- A load that reads now changes its slot only in its park. -/
theorem State.loadNow_me (s : State) (h : Hints) (va : Word) (a : Acc) (n nw : Nat) (ws : Nat → List Wr) :
    (s.loadNow h va a n nw ws).me =
      { s.me with src := (s.loadNow h va a n nw ws).me.src, park := (s.loadNow h va a n nw ws).me.park } := by
  rw [State.loadNow_eq, State.onPath_me, parked_me, (s.fillFor_l1Only ..).me]

/-! ### States in which a load reads the same (R156) -/

/-- What the running thread's loads read is the same in two states. -/
structure State.SameView (s t : State) : Prop extends s.SameWalk t where
  cur : t.cur = s.cur
  core : t.core = s.core
  find : t.l1Find = s.l1Find
  asid : t.me.asid = s.me.asid
  live : t.clock = s.clock
  home : t.l1Home = s.l1Home
  fresh : t.freshByte = s.freshByte

section SameView
variable {s t : State} (h : s.SameView t)
include h

theorem State.SameView.queuedByte : t.queuedByte = s.queuedByte := by
  have ops : t.atHome = s.atHome := by
    funext e
    simp only [State.atHome, h.toSameWalk.stage2]
  funext k a
  simp only [State.queuedByte, ops, h.core]
theorem State.SameView.myCore : t.myCore = s.myCore := by rw [State.myCore, h.cur]; rfl
theorem State.SameView.copyAt : t.copyAt = s.copyAt := by
  funext va pa
  simp only [State.copyAt, h.find, h.myCore, h.asid, h.home, h.core, h.live]
theorem State.SameView.viewBytes : t.viewBytes = s.viewBytes := by
  funext va a n
  simp only [State.viewBytes, h.queuedByte, h.cur, h.copyAt, h.fresh, h.myCore]

end SameView

/-! ### Reservations (R168) -/

/-- LDR's state: the line is in the reservation set, armed by the next number. -/
def State.armed (s : State) (line : Nat) : State :=
  { s with nextId := s.nextId + 1 }.modMe fun t => { t with resv := armResv t.resv line s.nextId }

theorem State.armed_me (s : State) (line : Nat) : (s.armed line).me = { s.me with resv := armResv s.me.resv line s.nextId } :=
  State.me_modMe ..
theorem State.armed_sameView (s : State) (line : Nat) : s.SameView (s.armed line) where
  numAt := rfl
  leafOk := rfl
  dirEntry := rfl
  keyOfNum := rfl
  pidOf := rfl
  cur := rfl
  core := rfl
  find := rfl
  asid := by rw [State.armed_me]
  live := rfl
  home := rfl
  fresh := rfl

/-- The oldest of two reservations, the first of equals. -/
def olderResv (m r : Resv) : Resv := if r.armed < m.armed then r else m

theorem foldl_olderResv (rs : List Resv) (m : Resv) :
    (rs.foldl olderResv m = m ∨ rs.foldl olderResv m ∈ rs) ∧ (rs.foldl olderResv m).armed ≤ m.armed ∧
      ∀ r ∈ rs, (rs.foldl olderResv m).armed ≤ r.armed := by
  induction rs generalizing m with
  | nil => simp
  | cons r rs ih =>
    obtain ⟨mem, below, all⟩ := ih (olderResv m r)
    have first : olderResv m r = m ∨ olderResv m r = r := by unfold olderResv; split <;> simp
    have least : (olderResv m r).armed ≤ m.armed ∧ (olderResv m r).armed ≤ r.armed := by unfold olderResv; split <;> omega
    rw [List.foldl_cons]
    refine ⟨?_, below.trans least.1, fun r' h => ?_⟩
    · rcases mem with mem | mem
      · rw [mem]
        rcases first with first | first
        · exact .inl first
        · exact .inr (by rw [first]; exact List.mem_cons_self)
      · exact .inr (List.mem_cons_of_mem _ mem)
    · rcases List.mem_cons.1 h with rfl | h
      · exact below.trans least.2
      · exact all r' h

/-- The reservation of a full set that was armed longest ago. -/
def oldestResv (rs : List Resv) : Resv := rs.foldl olderResv (rs.headD { i := 0, line := 0, written := false, armed := 0 })

theorem oldestResv_mem {rs : List Resv} {r : Resv} (h : r ∈ rs) : oldestResv rs ∈ rs := by
  obtain ⟨x, xs, rfl⟩ := List.exists_cons_of_ne_nil (List.ne_nil_of_mem h)
  rcases (foldl_olderResv (x :: xs) x).1 with first | mem
  · rw [oldestResv, List.headD_cons, first]; exact List.mem_cons_self
  · exact mem
theorem oldestResv_le {rs : List Resv} {r : Resv} (h : r ∈ rs) : (oldestResv rs).armed ≤ r.armed :=
  (foldl_olderResv rs _).2.2 r h

section Arm
variable (rs : List Resv) (line now : Nat)

theorem armResv_cases :
    (∃ r ∈ rs, r.line = line ∧ armResv rs line now = { r with written := false, armed := now } :: rs.filter (·.line != line)) ∨
    (∃ i, armResv rs line now = { i := i, line := line, written := false, armed := now } :: rs) ∨
    ((∀ i : Fin 8, ∃ r ∈ rs, r.i = i) ∧ armResv rs line now =
      { i := (oldestResv rs).i, line := line, written := false, armed := now } :: rs.filter (·.i != (oldestResv rs).i)) := by
  unfold armResv
  split
  case h_1 r found =>
    exact .inl ⟨r, List.mem_of_find?_eq_some found, by simpa using List.find?_some found, rfl⟩
  case h_2 =>
    split
    case h_1 i free => exact .inr (.inl ⟨i, rfl⟩)
    case h_2 taken =>
      refine .inr (.inr ⟨fun i => ?_, rfl⟩)
      simpa using List.find?_eq_none.1 taken i (List.mem_finRange i)

theorem armResv_arms : ∃ r ∈ armResv rs line now, r.line = line ∧ r.written = false := by
  rcases armResv_cases rs line now with ⟨r, -, same, arms⟩ | ⟨i, arms⟩ | ⟨-, arms⟩ <;> rw [arms]
  · exact ⟨_, List.mem_cons_self, same, rfl⟩
  · exact ⟨_, List.mem_cons_self, rfl, rfl⟩
  · exact ⟨_, List.mem_cons_self, rfl, rfl⟩
/-- Of the other lines only that armed longest ago is lost, and only from a full set. -/
theorem armResv_keeps (distinct : rs.Pairwise fun r r' => r.i ≠ r'.i) {r : Resv} (h : r ∈ rs) (other : r.line ≠ line) :
    r ∈ armResv rs line now ∨ (∀ i : Fin 8, ∃ r' ∈ rs, r'.i = i) ∧ ∀ r' ∈ rs, r.armed ≤ r'.armed := by
  rcases armResv_cases rs line now with ⟨r0, -, same, arms⟩ | ⟨i, arms⟩ | ⟨taken, arms⟩ <;> rw [arms]
  · exact .inl (List.mem_cons_of_mem _ (List.mem_filter.2 ⟨h, by simpa using other⟩))
  · exact .inl (List.mem_cons_of_mem _ h)
  · by_cases slot : r.i = (oldestResv rs).i
    · have oldest : r = oldestResv rs := List.inj_on_of_nodup_map (List.pairwise_map.2 distinct) h (oldestResv_mem h) slot
      exact .inr ⟨taken, fun r' h' => oldest ▸ oldestResv_le h'⟩
    · exact .inl (List.mem_cons_of_mem _ (List.mem_filter.2 ⟨h, by simpa using slot⟩))

end Arm

/-! ### LDR (R168) -/

theorem ldr_ready {p : Pfx} {d a : Fin 32} {off : Int} {s : State} {acc : Acc} (h : Outside s p) (full : Full s [a])
    (aligned : (ea s a off 8).toNat % 8 = 0) (ok : s.check (s.me.tagOf a) (ea s a off 8).toNat 8 1 false = .ok acc)
    (ready : LoadReady acc (ea s a off 8).toNat 8) :
    exec (.ldr p d a off) s = .next ((acc.s.armed (acc.pa / 64)).loadNow (hintsNt p) (ea s a off 8) acc 8 (nwX p)
      fun x => [.g d (BitVec.ofNat 64 x)]) := by
  rw [exec_ldr, execLdr, run_begins h.1.1 fun _ => h.2, withFull_full _ _ full]
  exact congrArg _ ((withAcc_ok aligned ok).trans (withLoad_ready _ _ ready))

/-! ### LD.acq (R173) -/

/-- The state in which an LD.acq reads: it is the end of an earlier release, and at the home its L1 holds no copy of the line. -/
def State.acquiring (s : State) (i : ScopeInst) (c line : Nat) : State :=
  let s := s.modMe fun t => { t with rel := none }
  if s.readsHome i then s.readPast c line else s

section Acquiring
variable (s : State) (i : ScopeInst) (c line : Nat)

theorem State.acquiring_l1Only : (s.modMe fun t => { t with rel := none }).L1Only (s.acquiring i c line) := by
  unfold State.acquiring
  dsimp only
  split
  · exact State.dropLine_l1Only ..
  · exact .refl _
theorem State.acquiring_cur : (s.acquiring i c line).cur = s.cur := (s.acquiring_l1Only i c line).cur
theorem State.acquiring_mem : (s.acquiring i c line).mem = s.mem := (s.acquiring_l1Only i c line).mem
theorem State.acquiring_me : (s.acquiring i c line).me = { s.me with rel := none } :=
  (s.acquiring_l1Only i c line).me.trans (State.me_modMe ..)
theorem State.acquiring_levelOf : (s.acquiring i c line).levelOf = s.levelOf := by
  unfold State.acquiring
  dsimp only
  split <;> rfl

end Acquiring

theorem ldAcq_ready {p : Pfx} {sc : Scope} {sz : Sz} {d a : Fin 32} {off : Int} {s : State} {acc : Acc} {i : ScopeInst} (h : Outside s p)
    (full : Full s [a]) (aligned : (ea s a off sz.bytes).toNat % sz.bytes = 0)
    (ok : s.check (s.me.tagOf a) (ea s a off sz.bytes).toNat sz.bytes 1 false = .ok acc) (scope : s.scopeInst s.cur sc = some i)
    (wide : acc.s.tooNarrow s.cur (acc.pa / 64) i = none)
    (first : acc.s.readsHome i = true → acc.s.opsAhead s.cur (ea s a off sz.bytes).toNat (acc.pa / 64) true = false)
    (ready : LoadReady { acc with s := acc.s.acquiring i s.myCore (acc.pa / 64) } (ea s a off sz.bytes).toNat sz.bytes) :
    exec (.ldAcq p sc sz d a off) s = .next ((acc.s.acquiring i s.myCore (acc.pa / 64)).loadNow (hintsNt p) (ea s a off sz.bytes)
      { acc with s := acc.s.acquiring i s.myCore (acc.pa / 64) } sz.bytes (nwX p)
      fun x => .g d (extend false sz.bytes x) :: acqWr (s.levelOf s.myCore i)) := by
  have light := State.check_ok_light ok
  have scope' : acc.s.scopeInst acc.s.cur sc = some i := by
    rw [light.scopeInst (State.check_pidOf ok), light.cur, scope]
  have ahead : (acc.s.readsHome i && acc.s.opsAhead acc.s.cur (ea s a off sz.bytes).toNat (acc.pa / 64) true) = false := by
    rw [light.cur]
    cases home : acc.s.readsHome i with
    | false => rfl
    | true => exact first home
  have level : (acc.s.acquiring i acc.s.myCore (acc.pa / 64)).levelOf (acc.s.acquiring i acc.s.myCore (acc.pa / 64)).myCore i =
      s.levelOf s.myCore i := by
    rw [State.acquiring_levelOf, State.myCore, State.acquiring_cur, light.levelOf, light.cur]
    rfl
  rw [exec_ldAcq, execLdAcq, run_begins h.1.1 fun _ => h.2, withFull_full _ _ full]
  refine congrArg _ ((withAcc_ok aligned ok).trans ((withScope_some _ _ scope').trans ?_))
  refine (if_neg (ne_true_of_eq_false ahead)).trans ?_
  rw [light.cur, wide]
  have loads : doLoad (hintsNt p) (ea s a off sz.bytes) { acc with s := acc.s.acquiring i s.myCore (acc.pa / 64) } sz.bytes (nwX p)
      (fun x => .g d (extend false sz.bytes x) :: acqWr (s.levelOf s.myCore i)) = _ := withLoad_ready _ _ ready
  refine Eq.trans ?_ loads
  rw [← level, ← light.myCore]
  rfl

/-- A slot whose event has arrived and whose register is written. -/
def Slot.arrivedWr (d : Fin 32) (v : Word) (t : Slot) : Slot :=
  ({ t with park := t.park.map fun p => { p with arrived := true } } : Slot).wr d v

theorem Slot.arrivedWr_behind (d : Fin 32) (v : Word) (t : Slot) (n : Nat) :
    ({ t with behind := n } : Slot).arrivedWr d v = { t.arrivedWr d v with behind := n } := by
  unfold Slot.arrivedWr Slot.wr Slot.setReg; split <;> rfl
theorem Slot.endAt_arrivedWr (d : Fin 32) (v : Word) (t : Slot) (pc : Word) : endAt (t.arrivedWr d v) pc = endAt (t.wr d v) pc := by
  unfold Slot.arrivedWr Slot.wr Slot.setReg; split <;> rfl

/-- Once its event has arrived, a rest that writes a register and acquires completes so. -/
theorem State.Owes.resumes_acquired {t : State} {d : Fin 32} {v : Word} {lv nw : Nat} (owes : t.Owes (.g d v :: acqWr lv) nw) :
    Resumes t (retired (acquired { t with ev := some (.parkedResume t.cur) } lv) nw fun u => u.wr d v) := by
  refine (owes.resumes ?sound).trans (congrArg _ ?_)
  case sound => exact acqWr_sound _ _
  have writes : (Wr.g d v :: acqWr lv).foldl (fun s w => s.applyWr s.cur w) (resuming t) =
      (acquired { t with ev := some (.parkedResume t.cur) } lv).modMe (Slot.arrivedWr d v) := by
    refine (acqWr_foldl ((resuming t).modMe fun u => u.wr d v) lv).trans ?_
    rw [resuming_eq, State.modMe_modMe]
    exact acquired_modMe (f := Slot.arrivedWr d v) _ _ (Slot.arrivedWr_behind d v)
  have plain : (Slot.arrivedWr d v (acquired { t with ev := some (.parkedResume t.cur) } lv).me).sstep = false :=
    (Slot.wr_sstep ..).trans ((acquired_sstep ..).trans owes.1)
  rw [writes]
  refine (State.finishMe_plain _ _ _ plain (Slot.wr_pc ..)).trans (State.modMe_congr ?_)
  exact Slot.endAt_arrivedWr ..

/-! ### The constant cache (R97, R162) -/

theorem retired_cluster (s : State) (nw : Nat) (f : Slot → Slot) (ck : Nat) : (retired s nw f).cluster ck = s.cluster ck := rfl
theorem State.onPath_konstFind (t : State) (a b : Acc) (va : Word) : (t.onPath a va).konstFind b = t.konstFind b := by
  unfold State.onPath; split <;> rfl

/-- `t` differs from `s` in the lines of the running cluster's constant cache at most. -/
structure State.KonstOnly (s t : State) : Prop where
  rest : t = { s with clusters := t.clusters }

theorem State.KonstOnly.me {s t : State} (h : s.KonstOnly t) : t.me = s.me := by rw [h.rest]; rfl
theorem State.KonstOnly.cur {s t : State} (h : s.KonstOnly t) : t.cur = s.cur := by rw [h.rest]
theorem State.KonstOnly.mem {s t : State} (h : s.KonstOnly t) : t.mem = s.mem := by rw [h.rest]

section Konst
variable (s : State) (h : Hints) (va : Nat) (a : Acc)

/-- The line that a miss of the constant cache enters. -/
def State.konstLine : RoLine :=
  { asid := s.me.asid.toNat, vline := va / 64, pline := a.pa / 64, from_ := s.quiet s.myCore,
    data := BitVec.ofNat 512 (s.numAt a.key (a.pa / 64 * 64) 64), bad := false }

theorem State.konstFill_konstOnly : s.KonstOnly (s.konstFill va a) := by
  unfold State.konstFill
  dsimp only
  split <;> exact ⟨rfl⟩
theorem State.konstFor_konstOnly : s.KonstOnly (s.konstFor h va a) := by
  have first : s.KonstOnly (if (s.konstFind a).isSome then s else s.konstFill va a) := by
    split
    · exact ⟨rfl⟩
    · exact s.konstFill_konstOnly va a
  unfold State.konstFor
  dsimp only
  generalize (if (s.konstFind a).isSome then s else s.konstFill va a) = u at first
  split
  · exact ⟨(u.konstFill_konstOnly ..).rest.trans (by rw [first.rest])⟩
  · exact first
theorem State.konstWait_notFrozen : (s.konstWait a).isFrozen = false := by
  unfold State.konstWait
  split
  · split <;> rfl
  · exact s.replyWait_notFrozen _

theorem State.konstFill_konst (cached : isLocalWin (localOfAddr a.pa) = false) :
    ((s.konstFill va a).cluster s.myCluster).konst = (s.konstLine va a :: (s.cluster s.myCluster).konst).take konstLines := by
  rw [State.konstFill]
  simp only [cached, Bool.false_eq_true, if_false, State.cluster_modCluster]
  rfl
theorem State.konstFill_myCluster : (s.konstFill va a).myCluster = s.myCluster := by
  rw [State.myCluster, (s.konstFill_konstOnly va a).cur]; rfl

variable {s a}

/-- A missing line is there once it has been entered. -/
theorem State.konstFill_find (cached : isLocalWin (localOfAddr a.pa) = false) :
    (s.konstFill va a).konstFind a = some (s.konstLine va a) := by
  rw [State.konstFind, State.konstFill_myCluster, State.konstFill_konst _ _ _ cached]
  exact List.find?_cons_of_pos (beq_self_eq_true _)
theorem State.konstFill_find_next {b : Acc} {l : RoLine} {ls : List RoLine} (other : b.pa / 64 ≠ a.pa / 64)
    (there : (s.cluster s.myCluster).konst = l :: ls) (line : l.pline = a.pa / 64) : (s.konstFill va b).konstFind a = some l := by
  rw [State.konstFind, State.konstFill_myCluster]
  cases cached : isLocalWin (localOfAddr b.pa) with
  | true =>
    rw [State.konstFill, cached, if_pos rfl, there]
    exact List.find?_cons_of_pos (beq_iff_eq.2 line)
  | false =>
    rw [State.konstFill_konst _ _ _ cached, there]
    refine (List.find?_cons_of_neg ?_).trans (List.find?_cons_of_pos (beq_iff_eq.2 line))
    simpa [State.konstLine] using other
theorem State.konstFor_find (miss : s.konstFind a = none) (cached : isLocalWin (localOfAddr a.pa) = false) :
    (s.konstFor h va a).konstFind a = some (s.konstLine va a) := by
  rw [State.konstFor, miss]
  simp only [Option.isSome_none, Bool.false_eq_true, if_false]
  split
  · have other : (a.pa / 64 * 64 + 64) / 64 ≠ a.pa / 64 := by omega
    have there : ((s.konstFill va a).cluster (s.konstFill va a).myCluster).konst =
        s.konstLine va a :: (s.cluster s.myCluster).konst.take 4095 := by
      rw [State.konstFill_myCluster, State.konstFill_konst _ _ _ cached]
      rfl
    exact State.konstFill_find_next (b := { a with pa := a.pa / 64 * 64 + 64 }) _ other there rfl
  · exact State.konstFill_find va cached

end Konst

section Ldc
variable {p : Pfx} {d a : Fin 32} {off : Int} {s : State} {acc : Acc} (h : Outside s p) (full : Full s [a])
  (aligned : (ea s a off 8).toNat % 8 = 0) (ok : s.check (s.me.tagOf a) (ea s a off 8).toNat 8 1 false = .ok acc)

/-- An LDC that reads: the write that it parks with, before its path on the links. -/
def ldcParked (acc : Acc) (hs : Hints) (va : Nat) (d : Fin 32) (nw : Nat) : State :=
  parked (acc.s.konstFor hs va acc) 1 (acc.s.konstWait acc) (.finish [.g d (BitVec.ofNat 64 (acc.s.konstRead acc))]) nw false

theorem ldcParked_sameBytes (acc : Acc) (hs : Hints) (va : Nat) (d : Fin 32) (nw : Nat) : SameBytes acc.s (ldcParked acc hs va d nw) :=
  sameBytes_of_mem (acc.s.konstFor_konstOnly hs va acc).mem
theorem ldcParked_owes {acc : Acc} (hs : Hints) (va : Nat) (d : Fin 32) (nw : Nat) (plain : acc.s.me.sstep = false) :
    (ldcParked acc hs va d nw).Owes [.g d (BitVec.ofNat 64 (acc.s.konstRead acc))] nw :=
  parked_owes _ _ _ _ _ (by rw [(acc.s.konstFor_konstOnly hs va acc).me]; exact plain)

include h full aligned ok

theorem ldc_reads (still : (acc.s.konstFind acc).isSome = true ∨ acc.s.isMoved acc.s.myPid acc.pa = false)
    (reach : (acc.s.konstFind acc).isSome = true ∨ acc.s.mayReach acc.s.myCluster acc.pa = true) (sound : acc.s.konstBad acc = none) :
    exec (.ldc p d a off) s = .next ((ldcParked acc (hintsOf p) (ea s a off 8).toNat d (nw0 p)).onPath
      { acc with remote := acc.remote && (acc.s.konstFind acc).isNone } (ea s a off 8)) := by
  have stays : ((acc.s.konstFind acc).isNone && acc.s.isMoved acc.s.myPid acc.pa) = false := by
    rcases still with hit | still
    · rw [Option.isNone_eq_false_iff.2 hit, Bool.false_and]
    · rw [still, Bool.and_false]
  have goes : ((acc.s.konstFind acc).isNone && !acc.s.mayReach acc.s.myCluster acc.pa) = false := by
    rcases reach with hit | reach
    · rw [Option.isNone_eq_false_iff.2 hit, Bool.false_and]
    · rw [reach, Bool.not_true, Bool.and_false]
  rw [exec_ldc, execLdc, run_begins h.1.1 fun _ => h.2, withFull_full _ _ full]
  refine congrArg _ ((withAcc_ok aligned ok).trans ?_)
  refine (if_neg (ne_true_of_eq_false stays)).trans ((if_neg (ne_true_of_eq_false goes)).trans ?_)
  rw [sound, ldcParked, ← State.parkFin_parked _ _ _ _ (acc.s.konstWait_notFrozen acc)]
  rfl

end Ldc

end Sys2Proof.Machine

namespace Sys2Proof
open Machine Claims

/-- Settles O18: the loads that also arm a reservation or acquire, and those of the constant cache, by what they find. -/
theorem otherLoads : Obligations.OtherLoads := by
  refine ⟨fun p d a off s acc h full aligned ok ready => ?ldr, fun rs line now distinct =>
      ⟨armResv_arms rs line now, fun r => armResv_keeps rs line now distinct⟩,
    fun p sc sz d a off s acc i h full aligned ok scope wide first ready => ?ldAcq,
    fun p d a off s acc h full aligned ok => ⟨fun l hit good => ?hit, fun miss sound still reach => ?miss⟩,
    fun p s h => ⟨fun home => ?csync, fun away => ?waits⟩⟩
  case ldr =>
    have light := State.check_ok_light ok
    have plain : (acc.s.armed (acc.pa / 64)).me.sstep = false := by rw [State.armed_me]; exact light.sstep.trans h.1.2
    have owes := State.loadNow_owes (hintsNt p) (ea s a off 8) acc 8 (nwX p) (fun x => [.g d (BitVec.ofNat 64 x)]) plain
    rw [(acc.s.armed_sameView _).viewBytes] at owes
    dsimp only
    rw [nwords_ldr]
    refine ⟨_, ldr_ready h full aligned ok ready, fun b => ?_, ?_, owes.finishes_wr⟩
    · exact (State.loadNow_sameBytes _ _ _ _ _ _ _ b).trans (sameBytes_of_mem (s := s) light.mem b)
    · rw [State.loadNow_me, State.armed_me, light.resv]
  case ldAcq =>
    have light := State.check_ok_light ok
    have plain : (acc.s.acquiring i s.myCore (acc.pa / 64)).me.sstep = false := by
      rw [State.acquiring_me]
      exact light.sstep.trans h.1.2
    dsimp only
    rw [nwords_ldAcq]
    refine ⟨_, ldAcq_ready h full aligned ok scope wide first ready, fun b => ?_, ?_,
      (State.loadNow_owes _ _ _ _ _ _ plain).resumes_acquired⟩
    · exact (State.loadNow_sameBytes _ _ _ _ _ _ _ b).trans (sameBytes_of_mem ((acc.s.acquiring_mem ..).trans light.mem) b)
    · rw [State.loadNow_me, State.acquiring_me]
  case hit =>
    have light := State.check_ok_light ok
    have value : acc.s.konstRead acc = l.data.toNat / 2 ^ (8 * (acc.pa % 64)) % 2 ^ 64 := by rw [State.konstRead, hit]
    have read : BitVec.ofNat 64 (l.data.toNat / 2 ^ (8 * (acc.pa % 64))) = BitVec.ofNat 64 (acc.s.konstRead acc) := by
      rw [value]
      exact BitVec.eq_of_toNat_eq (by simp)
    have found : (acc.s.konstFind acc).isSome = true := by rw [hit]; rfl
    have sound : acc.s.konstBad acc = none := by rw [State.konstBad, hit]; simp [good]
    have runs := ldc_reads h full aligned ok (d := d) (.inl found) (.inl found) sound
    have near : (acc.remote && (acc.s.konstFind acc).isNone) = false := by rw [hit]; simp
    dsimp only
    rw [nwords_ldc, read]
    refine ⟨runs.trans (congrArg _ ?_), fun b => ?_, (ldcParked_owes _ _ _ _ (light.sstep.trans h.1.2)).finishes_wr⟩
    · rw [near]
      rfl
    · exact (ldcParked_sameBytes acc _ _ _ _ b).trans (sameBytes_of_mem light.mem b)
  case miss =>
    have light := State.check_ok_light ok
    have value : acc.s.konstRead acc = acc.s.numAt acc.key acc.pa 8 := by rw [State.konstRead, miss]
    have sound' : acc.s.konstBad acc = none := by rw [State.konstBad, miss]; exact sound
    dsimp only
    rw [nwords_ldc, ← value]
    refine ⟨_, ldc_reads h full aligned ok (.inr still) (.inr reach) sound', fun b => ?_,
      ((ldcParked_owes _ _ _ _ (light.sstep.trans h.1.2)).onPath _ _).finishes_wr,
      fun cached => ⟨acc.s.konstLine (ea s a off 8).toNat acc, ?_, rfl⟩⟩
    · exact (sameBytes_of_mem (State.onPath_mem ..) b).trans
        ((ldcParked_sameBytes acc _ _ _ _ b).trans (sameBytes_of_mem light.mem b))
    · exact (State.onPath_konstFind ..).trans (State.konstFor_find _ _ miss cached)
  case csync =>
    rw [exec_csync, execCsync, run_begins h.1.1 fun _ => h.2, if_pos home, nwords_csync]
    refine ⟨_, congrArg _ (State.finish_plain _ _ h.1.2), ?_, rfl⟩
    rw [retired_cluster, State.cluster_modCluster]
  case waits =>
    rw [exec_csync, execCsync, run_begins h.1.1 fun _ => h.2, away, nwords_csync]
    exact congrArg _ (State.parkRe_parked _ _ rfl)

end Sys2Proof
end

section
/-! PROOFS. The lane loop of R190: what the lanes of a merged register are, what the sources give, and how an instruction that runs
the loop completes. -/

namespace Sys2Proof.Machine
open Claims

/-! ### Lanes (R51, R190) -/

/-- A lane mask's bit, as the model reads it and as a bit vector has it. -/
theorem tb_toNat {n : Nat} (x : BitVec n) (i : Nat) : tb x.toNat i = x.getLsbD i := tb_eq_testBit x.toNat i

theorem lanesNat_eq_packElems (xs : List Nat) : lanesNat xs = packElems 32 xs := by
  induction xs with
  | nil => rfl
  | cons x xs ih => rw [lanesNat, packElems, ih]

theorem laneOf_lanesNat {xs : List Nat} (h : xs.length ≤ 32) (i : Nat) :
    laneOf (BitVec.ofNat 1024 (lanesNat xs)) i = xs.getD i 0 % 2 ^ 32 := by
  rw [laneOf, lanesNat_eq_packElems, toNat_ofNat_packElems (by omega)]
  exact packElems_field 32 xs i

/-- A lane of the mask is that of the list, cut to 32 bits; another is the old one. -/
theorem laneOf_mergeLanes (old : BitVec 1024) (mask : BitVec 32) (xs : List Nat) {i : Nat} (h : i < 32) :
    laneOf (mergeLanes old mask xs) i = if mask.getLsbD i then xs.getD i 0 % 2 ^ 32 else laneOf old i := by
  rw [mergeLanes, laneOf_lanesNat (by simp), getD_map_range _ h, tb_toNat]
  split <;> rfl

/-! ### What flags and pops leave alone (R52, R190) -/

/-- Neither masks nor v registers are read from VSW. -/
theorem Slot.rdM_vsw (t : Slot) (x : BitVec 32) (r : Fin 8) : ({ t with vsw := x } : Slot).rdM r = t.rdM r := rfl
theorem Slot.rdV_vsw (t : Slot) (x : BitVec 32) (r : Fin 16) : ({ t with vsw := x } : Slot).rdV r = t.rdV r := rfl

theorem State.flag_rdM (s : State) (f : AFlags × Nat) (r : Fin 8) : (s.flag f).me.rdM r = s.me.rdM r := by
  rw [State.me_flag, Slot.rdM_vsw]
theorem State.flag_rdV (s : State) (f : AFlags × Nat) (r : Fin 16) : (s.flag f).me.rdV r = s.me.rdV r := by
  rw [State.me_flag, Slot.rdV_vsw]
theorem State.flag_sstep (s : State) (f : AFlags × Nat) : (s.flag f).me.sstep = s.me.sstep := by
  rw [State.me_flag]

/-- Pops leave the running thread's slot as it was. -/
theorem State.popOpds_me (os : List VOpd) (s : State) : (s.popOpds os).2.me = s.me := by
  induction os generalizing s with
  | nil => rfl
  | cons o os ih =>
    cases o with
    | v r => exact ih s
    | q r => exact ih (s.setQueue s.cur r _)

theorem State.popOpds_length (os : List VOpd) (s : State) : (s.popOpds os).1.length = os.length := by
  induction os generalizing s with
  | nil => rfl
  | cons o os ih =>
    cases o with
    | v r => exact congrArg Nat.succ (ih s)
    | q r => exact congrArg Nat.succ (ih (s.setQueue s.cur r _))

/-- Sources that are v registers are only read. -/
theorem State.popOpds_v (rs : List (Fin 16)) (s : State) : s.popOpds (rs.map .v) = (rs.map s.me.rdV, s) := by
  induction rs with
  | nil => rfl
  | cons r rs ih => rw [List.map_cons, State.popOpds, ih, List.map_cons]

/-! ### The loop as an effect (R190) -/

/-- What a destination's write or push leaves of the running thread's slot. -/
theorem State.putVec_keeps (s : State) (d : VOpd) (x : BitVec 1024) : (s.putVec d x).me = { s.me with v := (s.putVec d x).me.v } := by
  cases d with
  | v r => rw [State.putVec, State.me_modMe]; rfl
  | q r => rfl

section Loop
variable {p : Pfx} {s : State} {srcs : List VOpd} {gs : List (Fin 32)} {d : VOpd} {mask : BitVec 32}
  {f g : Nat → List Nat → Nat → Nat × AFlags}

/-- The loop asks of its function only its values on as many lanes as there are sources. -/
theorem vecEnd_congr (nw : Nat) (h : ∀ i xs old, xs.length = srcs.length → f i xs old = g i xs old) :
    vecEnd s nw srcs d mask f = vecEnd s nw srcs d mask g := by
  have same (i : Nat) (old : Nat) : f i (((onUnit s).popOpds srcs).1.map (laneOf · i)) old =
      g i (((onUnit s).popOpds srcs).1.map (laneOf · i)) old :=
    h _ _ _ (by rw [List.length_map, State.popOpds_length])
  simp only [vecEnd, same]

theorem vop_finish (nw : Nat) (plain : s.me.sstep = false) (ready : VecReady s srcs gs [d]) :
    (vop srcs gs d mask f (onUnit s)).toState nw = vecEnd s nw srcs d mask f := by
  rw [vop, withVec_spec ready]
  refine State.finish_plain _ _ ?_
  rw [State.putVec_keeps, State.me_flag, State.popOpds_me]
  exact plain

/-- An instruction whose effect is the loop completes as `vecEnd` says, by any function that gives the lanes of the loop's. -/
theorem runEff_vop {eff : State → Eff} (h : Plain s p) (hr : isVreg d = true → s.me.region = none) (ready : VecReady s srcs gs [d])
    (loop : eff (onUnit s) = vop srcs gs d mask f (onUnit s)) (lanes : ∀ i xs old, xs.length = srcs.length → f i xs old = g i xs old) :
    runEff p (isVreg d) eff s = .next (vecEnd s (nwX p) srcs d mask g) := by
  rw [runEff_spec h.1 hr ready.1, loop, vop_finish _ h.2 ready, vecEnd_congr _ lanes]

end Loop

/-! ### One lane of two sources, or of one (R65, R192) -/

section Lane
variable {xs : List Nat}

theorem bin_eq_two (f : Nat → Nat → Nat × AFlags) (h : xs.length = 2) : bin f xs = two f xs := by
  obtain ⟨x, y, rfl⟩ := List.length_eq_two.1 h
  rfl
theorem un_eq_one (f : Nat → Nat × AFlags) (h : xs.length = 1) : un f xs = one f xs := by
  obtain ⟨x, rfl⟩ := List.length_eq_one_iff.1 h
  rfl
theorem byElem_bin (t : VTy) (f : Nat → Nat → Nat × AFlags) (h : xs.length = 2) : byElem t.width (bin f) xs = two (elems2 t f) xs := by
  obtain ⟨x, y, rfl⟩ := List.length_eq_two.1 h
  rfl
theorem byElem_un (t : VTy) (f : Nat → Nat × AFlags) (h : xs.length = 1) : byElem t.width (un f) xs = one (elems1 t f) xs := by
  obtain ⟨x, rfl⟩ := List.length_eq_one_iff.1 h
  rfl
theorem bin_select_eq_two (mask : BitVec 32) (i : Nat) (h : xs.length = 2) :
    bin (fun x y => (if tb mask.toNat i then x else y, (0 : AFlags))) xs = two (fun x y => (if mask.getLsbD i then x else y, 0)) xs := by
  rw [tb_toNat, bin_eq_two _ h]

end Lane

/-! ### Effects that are the loop (R190, R197, R201, R203) -/

section
variable (m : Fin 4) (s : State)

theorem vbin_eq_vop (t : VTy) (d a b : VOpd) (f : Nat → Nat → Nat × AFlags) :
    vbin t d a b m f s = vop [a, b] [] d (s.me.mask m) (fun _ xs _ => byElem t.width (bin f) xs) s := rfl
theorem effVsel_eq_vop (d : Fin 16) (a b : VOpd) : effVsel d a b m s = vop [a, b] [] (.v d) (BitVec.allOnes 32)
    (fun i xs _ => bin (fun x y => (if tb (s.me.mask m).toNat i then x else y, (0 : AFlags))) xs) s := rfl
theorem effVquant_eq_vop (d a : VOpd) (b : Fin 32) : effVquant d a b m s = vop [a] [b] d (s.me.mask m)
    (fun _ xs _ => un (fun x => ((BitVec.ofInt 32 (quantise x ((s.me.rd b).toNat % 256)).1).toNat,
      (quantise x ((s.me.rd b).toNat % 256)).2)) xs) s := rfl
theorem effVdeq_eq_vop (d a : VOpd) (b : Fin 32) : effVdeq d a b m s = vop [a] [b] d (s.me.mask m)
    (fun _ xs _ => un (fun x => dequantise (BitVec.ofNat 8 x).toInt ((s.me.rd b).toNat % 256)) xs) s := rfl
theorem effVbcast_eq_vop (d : Fin 16) (a : Fin 32) :
    effVbcast d a m s = vop [] [a] (.v d) (s.me.mask m) (fun _ _ _ => ((s.me.rd a).toNat, (0 : AFlags))) s := rfl

end

end Sys2Proof.Machine
end

section
/-! PROOFS. The statements on the elementwise vector instructions (R190-R197, R201-R203, R206). -/

namespace Sys2Proof.Machine
open Claims

theorem nwords_vop (o : VOp) (p : Pfx) (m : Fin 4) : (o.instr p m).nwords = nwX p := by
  cases o <;> exact nwords_of_page p rfl rfl Nat.one_ne_zero

/-- Each elementwise instruction runs the loop of R190 over its operands and its mask. -/
theorem exec_vop (o : VOp) {p : Pfx} (m : Fin 4) {s : State} (h : Plain s p) (hr : isVreg o.dst = true → s.me.region = none)
    (ready : VecReady s o.srcs o.regs [o.dst]) :
    exec (o.instr p m) s = .next (vecEnd s (nwX p) o.srcs o.dst (o.mask s.me m) fun i xs old => o.lane s.me m i xs old) := by
  cases o with
  | vadd | vsub | vmul | vmax | vmin | vmaxa | vmina => exact runEff_vop h hr ready (vbin_eq_vop ..) fun _ _ _ len => byElem_bin _ _ len
  | vfma | vfms | vfnma | vfnms =>
    refine runEff_vop h hr ready rfl fun i xs old len => ?_
    obtain ⟨x, y, rfl⟩ := List.length_eq_two.1 len
    rfl
  | vabs | vneg | vshl | vshr | vshra => exact runEff_vop h hr ready rfl fun _ _ _ len => byElem_un _ _ len
  | vand | vor | vxor | vandn => exact runEff_vop h hr ready rfl fun _ _ _ len => bin_eq_two _ len
  | vsel => exact runEff_vop h hr ready (effVsel_eq_vop ..) fun i _ _ len => bin_select_eq_two _ i len
  | vquant => exact runEff_vop h hr ready (effVquant_eq_vop ..) fun _ _ _ len => un_eq_one _ len
  | vdeq => exact runEff_vop h hr ready (effVdeq_eq_vop ..) fun _ _ _ len => un_eq_one _ len
  | vexp2 | vrcp | vrsq | vmov => exact runEff_vop h hr ready rfl fun _ _ _ len => un_eq_one _ len
  | vbcast => exact runEff_vop h hr ready (effVbcast_eq_vop ..) fun _ _ _ _ => rfl

/-- The flags that the loop raises, and the register it writes, where every operand is a v register. -/
def loopFlags (t : Slot) (rs : List (Fin 16)) (d : Fin 16) (mask : BitVec 32)
    (lane : Nat → List Nat → Nat → Nat × AFlags) : AFlags × Nat :=
  laneFlags mask ((List.range 32).map fun i => (lane i (rs.map fun r => laneOf (t.rdV r) i) (laneOf (t.rdV d) i)).2)
def loopReg (t : Slot) (rs : List (Fin 16)) (d : Fin 16) (mask : BitVec 32)
    (lane : Nat → List Nat → Nat → Nat × AFlags) : BitVec 1024 :=
  mergeLanes (t.rdV d) mask ((List.range 32).map fun i => (lane i (rs.map fun r => laneOf (t.rdV r) i) (laneOf (t.rdV d) i)).1)

section Registers
variable {s : State} {nw : Nat} {rs : List (Fin 16)} {d : Fin 16} {mask : BitVec 32} {lane : Nat → List Nat → Nat → Nat × AFlags}

theorem vecEnd_v : vecEnd s nw (rs.map .v) (.v d) mask lane =
    retired ((onUnit s).flag (loopFlags s.me rs d mask lane)) nw fun t => t.wrV d (loopReg s.me rs d mask lane) := by
  have lanes (i : Nat) : (rs.map s.me.rdV).map (laneOf · i) = rs.map fun r => laneOf (s.me.rdV r) i := List.map_map
  simp only [vecEnd, State.popOpds_v, onUnit_me, lanes, State.putVec, retired, State.modMe_modMe]
  rfl

theorem laneOf_loopReg (t : Slot) {i : Nat} (h : i < 32) : laneOf (loopReg t rs d mask lane) i =
    if mask.getLsbD i then (lane i (rs.map fun r => laneOf (t.rdV r) i) (laneOf (t.rdV d) i)).1 % 2 ^ 32
    else laneOf (t.rdV d) i := by
  rw [loopReg, laneOf_mergeLanes _ _ _ h, getD_map_range _ h]

end Registers

/-- What the running thread's slot becomes with a v register written and flags raised at the end of an instruction. -/
theorem retired_flag_wrV_me (s : State) (nw : Nat) (F : AFlags × Nat) (d : Fin 16) (x : BitVec 1024) :
    (retired ((onUnit s).flag F) nw fun t => t.wrV d x).me =
      endAt { s.me with v := s.me.v.set d x, vsw := vswAdd s.me.vsw F.1 F.2 } (s.me.pc + BitVec.ofNat 64 (2 * nw)) := by
  rw [retired, State.me_modMe, State.me_flag]
  rfl
theorem retired_flag_slot_ne (s : State) (nw : Nat) (F : AFlags × Nat) (f : Slot → Slot) {k : Nat} (h : k ≠ s.cur) :
    (retired ((onUnit s).flag F) nw f).slot k = s.slot k := by
  have flagged : ((onUnit s).flag F).slot k = s.slot k := State.slot_modMe_ne (onUnit s) _ h
  exact (State.slot_modMe_ne ((onUnit s).flag F) _ h).trans flagged
theorem onUnit_queues (s : State) (c : Nat) : ((onUnit s).core c).queues = (s.core c).queues := by
  by_cases h : c = s.myCore
  · rw [h, onUnit, State.core_modCore]
  · rw [onUnit, State.core_modCore_ne _ _ h]

end Sys2Proof.Machine

namespace Sys2Proof
open Machine Claims

/-- Settles O8: each instruction runs the loop of R190, whose lanes are those of the statement's table. -/
theorem vectorElementwise : Obligations.VectorElementwise := by
  intro o p m s h region ready
  rw [nwords_vop]
  refine exec_vop o m h (fun vreg => region.resolve_right ?_) ready
  rintro ⟨q, pushes⟩
  rw [pushes] at vreg
  cases vreg

/-- Settles O9: with v operands the loop writes one register, lane by lane, and raises flags. -/
theorem vectorLanes : Obligations.VectorLanes := by
  intro o p m rs d s h srcs dst ready
  have runs := exec_vop o m h.1 (fun _ => h.2) ready
  rw [srcs, dst, vecEnd_v] at runs
  refine ⟨_, runs, fun i hi => ?lanes, ?slot, fun r other => ?others, fun k hk => retired_flag_slot_ne _ _ _ _ hk,
    fun c => onUnit_queues s c, sameBytes_of_mem rfl⟩ <;> rw [retired_flag_wrV_me]
  case lanes => exact (congrArg (laneOf · i) (Vector.getElem_set_self _)).trans (laneOf_loopReg _ hi)
  case slot => rfl
  case others => exact set_getElem_ne _ _ other

end Sys2Proof
end

section
/-! PROOFS. The statement on VCMP and VRED (R197, R199). -/

namespace Sys2Proof.Machine
open Claims

/-! ### Bits and masks (R197) -/

/-- A mask register written with bits where a mask sets them reads them there, and its own bits elsewhere. -/
theorem getLsbD_maskedBits (old mask : BitVec 32) (bs : List Bool) (j : Nat) :
    ((old &&& ~~~mask) ||| (BitVec.ofNat 32 (ofBits bs) &&& mask)).getLsbD j =
      if mask.getLsbD j then decide (j < 32) && bs.getD j false else old.getLsbD j := by
  rw [BitVec.getLsbD_or, BitVec.getLsbD_and, BitVec.getLsbD_and, BitVec.getLsbD_not, BitVec.getLsbD_ofNat, testBit_ofBits]
  by_cases inside : j < 32
  · cases mask.getLsbD j <;> simp [inside]
  · simp [inside, BitVec.getLsbD_of_ge _ _ (Nat.not_lt.1 inside)]

theorem Slot.rdM_wrM {d : Fin 8} (t : Slot) (x : BitVec 32) (h : d ≠ 0) : (t.wrM d x).rdM d = x := by
  rw [Slot.rdM, if_neg h, Slot.wrM_m _ _ _ h]
  exact Vector.getElem_set_self _

section Written
variable (u : State) (nw : Nat) (d : Fin 8) (f : Slot → BitVec 32)

theorem retired_wrM_me :
    (retired u nw fun t => t.wrM d (f t)).me = endAt (u.me.wrM d (f u.me)) (u.me.pc + BitVec.ofNat 64 (2 * nw)) :=
  State.me_modMe ..

theorem retired_wrM_rdM (h : d ≠ 0) : (retired u nw fun t => t.wrM d (f t)).me.rdM d = f u.me := by
  rw [retired_wrM_me]
  exact u.me.rdM_wrM (f u.me) h

/-- The value written is the one that the mask register reads after it; m0 takes neither. -/
theorem retired_wrM_written : (retired u nw fun t => t.wrM d (f t)) =
    retired u nw fun t => t.wrM d ((retired u nw fun t => t.wrM d (f t)).me.rdM d) := by
  by_cases zero : d = 0
  · subst zero; rfl
  · rw [retired_wrM_rdM u nw d f zero]
    exact retired_congr rfl

end Written

section Effects
variable {p : Pfx} {s : State}

/-- An effect that reads its sources and then changes its slot, keeping PC and single step, completes so. -/
theorem runEff_withVec {forbidden : Bool} {srcs : List VOpd} {eff : State → Eff} {body : List (BitVec 1024) → State → Eff}
    {F : AFlags × Nat} {f : Slot → Slot} (h : Plain s p) (hr : forbidden = true → s.me.region = none) (ready : VecReady s srcs [] [])
    (reads : eff (onUnit s) = withVec srcs [] [] (onUnit s) body)
    (ends : body ((onUnit s).popOpds srcs).1 ((onUnit s).popOpds srcs).2 = .done ((((onUnit s).popOpds srcs).2.flag F).modMe f))
    (keeps : Slot.Keeps f) : runEff p forbidden eff s = .next (retired (((onUnit s).popOpds srcs).2.flag F) (nwX p) f) := by
  refine runEff_done h hr ready.1 (reads.trans ((withVec_spec ready).trans ends)) ?_
  obtain ⟨pc, sstep⟩ := keeps (((onUnit s).popOpds srcs).2.flag F).me
  refine ⟨?_, pc⟩
  rw [sstep, State.me_flag, State.popOpds_me]
  exact h.2

/-! ### VCMP (R197) -/

/-- What VCMP finds for each lane of its sources' values. -/
def cmpLanes (cc : Nat) (ty : VTy) (xs : List (BitVec 1024)) : List (Bool × AFlags) :=
  (List.range 32).map fun j => cmpLane cc ty (laneOf (xs.getD 0 0) j) (laneOf (xs.getD 1 0) j)
/-- What VCMP writes over a mask. -/
def cmpMask (neg : Bool) (rs : List (Bool × AFlags)) (mask old : BitVec 32) : BitVec 32 :=
  (old &&& ~~~mask) ||| (BitVec.ofNat 32 (ofBits (rs.map fun r => r.1 != neg)) &&& mask)

theorem cmpMask_getLsbD (cc : Nat) (ty : VTy) (xs : List (BitVec 1024)) (neg : Bool) (mask old : BitVec 32) {j : Nat} (h : j < 32) :
    (cmpMask neg (cmpLanes cc ty xs) mask old).getLsbD j =
      if mask.getLsbD j then xor ((cmpLanes cc ty xs).getD j (false, 0)).1 neg else old.getLsbD j := by
  rw [cmpMask, getLsbD_maskedBits, cmpLanes, List.map_map, getD_map_range _ h, getD_map_range _ h, decide_eq_true h, Bool.true_and]
  rfl

theorem runEff_vcmp {cc : Nat} {neg : Bool} {ty : VTy} {d : Fin 8} {a b : VOpd} {m : Fin 4} (ho : Outside s p)
    (ready : VecReady s [a, b] [] []) :
    let x := (onUnit s).popOpds [a, b]
    let rs := cmpLanes cc ty x.1
    runEff p true (effVcmp cc neg ty d a b m) s =
      .next (retired (x.2.flag (laneFlags (s.me.mask m) (rs.map (·.2)))) (nwX p) fun t =>
        t.wrM d (cmpMask neg rs (s.me.mask m) (t.rdM d))) := by
  have mask : ((onUnit s).popOpds [a, b]).2.me = s.me := State.popOpds_me ..
  refine runEff_withVec ho.1 (fun _ => ho.2) ready rfl ?_ fun t => ⟨Slot.wrM_pc .., Slot.wrM_sstep ..⟩
  dsimp only
  rw [mask]
  rfl

/-! ### VRED (R199) -/

/-- The terms of a reduction. -/
def redTerms (mask : BitVec 32) (x : BitVec 1024) : List (Option Nat × AFlags) :=
  (List.range 32).map fun j => (if mask.getLsbD j then some (laneOf x j) else none, (0 : AFlags))

theorem runEff_vred {ty : VTy} {f : Nat → Nat → Nat × AFlags} {d : Fin 32} {a : VOpd} {m : Fin 4} (h : Plain s p)
    (ready : VecReady s [a] [] []) :
    let x := (onUnit s).popOpds [a]
    let y := (redLevels f 5 (redTerms (s.me.mask m) (x.1.getD 0 0))).headD (none, 0)
    runEff p false (effVred ty f d a m) s = .next (retired (x.2.flag (y.2, 0)) (nwX p) fun u =>
      u.wr d (if intTy ty then signExtend 4 (y.1.getD 0 % 2 ^ 32) else BitVec.ofNat 64 (y.1.getD 0 % 2 ^ 32))) := by
  have mask : ((onUnit s).popOpds [a]).2.me = s.me := State.popOpds_me ..
  refine runEff_withVec h (by simp) ready rfl ?_ fun t => ⟨Slot.wr_pc .., Slot.wr_sstep ..⟩
  simp only [mask, tb_toNat]
  rfl

end Effects

end Sys2Proof.Machine

namespace Sys2Proof
open Machine Claims

/-- VCMP completes, whichever of its four tests an instruction is. -/
theorem vcmp_completes {i : Instr} {cc : Nat} {p : Pfx} {neg : Bool} {ty : VTy} {d : Fin 8} {a b : VOpd} {m : Fin 4} {s : State}
    (ho : Outside s p) (ready : VecReady s [a, b] [] []) (runs : exec i s = runEff p true (effVcmp cc neg ty d a b m) s)
    (nwords : i.nwords = nwX p) :
    let x := (onUnit s).popOpds [a, b]
    let rs := cmpLanes cc ty x.1
    let mask := s.me.mask m
    ∃ t, exec i s = .next t ∧
      (d ≠ 0 → ∀ j, j < 32 → (t.me.rdM d).getLsbD j =
        if mask.getLsbD j then xor (rs.getD j (false, 0)).1 neg else (s.me.rdM d).getLsbD j) ∧
      t = retired (x.2.flag (laneFlags mask (rs.map (·.2)))) i.nwords fun u => u.wrM d (t.me.rdM d) := by
  intro x rs mask
  refine ⟨_, runs.trans (runEff_vcmp ho ready), fun named j hj => ?bits, ?written⟩
  case bits =>
    rw [retired_wrM_rdM _ _ _ _ named, cmpMask_getLsbD _ _ _ _ _ _ hj, State.flag_rdM, State.popOpds_me, onUnit_me]
  case written =>
    rw [nwords]
    exact retired_wrM_written ..

/-- Settles O10: the test's mask bit by bit for each of the four compares, and the reduction for each of the three combinations. -/
theorem vectorComparesAndReductions : Obligations.VectorComparesAndReductions := by
  refine ⟨fun cc p neg ty d a b m s ho ready => ?compares, fun which p ty r d a m s h ready => ?reductions⟩
  case compares =>
    match cc with
    | 0 => exact vcmp_completes ho ready rfl (nwords_vcmpEq ..)
    | 1 => exact vcmp_completes ho ready rfl (nwords_vcmpLt ..)
    | 2 => exact vcmp_completes ho ready rfl (nwords_vcmpLe ..)
    | 3 => exact vcmp_completes ho ready rfl (nwords_vcmpUn ..)
  case reductions =>
    match which with
    | 0 => dsimp only; rw [nwords_vredSum]; exact runEff_vred h ready
    | 1 => dsimp only; rw [nwords_vredMax]; exact runEff_vred h ready
    | 2 => dsimp only; rw [nwords_vredMin]; exact runEff_vred h ready

end Sys2Proof
end

section
/-! PROOFS. The statement on masks, lane moves and VCVT (R198, R200, R203). -/

namespace Sys2Proof.Machine
open Claims

section Moves
variable {p : Pfx} {s : State}

/-- A move that reads full registers and then changes its slot, keeping PC and single step, completes so. -/
theorem runEff_withRegs {forbidden : Bool} {gs : List (Fin 32)} {f : Slot → Slot} (h : Plain s p)
    (hr : forbidden = true → s.me.region = none) (hs : s.seqRuns = false) (full : Full s gs) (keeps : Slot.Keeps f) :
    runEff p forbidden (fun s => withVec [] gs [] s fun _ s => .done (s.modMe f)) s = .next (retired (onUnit s) (nwX p) f) := by
  obtain ⟨pc, sstep⟩ := keeps s.me
  exact runEff_done h hr hs (withVec_regs (s := onUnit s) full) ⟨sstep.trans h.2, pc⟩

/-- So does a move that no register can hold up. -/
theorem runEff_modMe {forbidden : Bool} {f : Slot → Slot} (h : Plain s p) (hr : forbidden = true → s.me.region = none)
    (hs : s.seqRuns = false) (keeps : Slot.Keeps f) :
    runEff p forbidden (fun s => .done (s.modMe f)) s = .next (retired (onUnit s) (nwX p) f) := by
  obtain ⟨pc, sstep⟩ := keeps s.me
  exact runEff_done h hr hs rfl ⟨sstep.trans h.2, pc⟩

theorem runEff_mask {f : BitVec 32 → BitVec 32 → BitVec 32} {d a b : Fin 8} (ho : Outside s p) (hs : s.seqRuns = false) :
    runEff p true (effMask f d a b) s = .next (retired (onUnit s) (nwX p) fun t => t.wrM d (f (t.rdM a) (t.rdM b))) :=
  runEff_modMe ho.1 (fun _ => ho.2) hs fun _ => ⟨Slot.wrM_pc .., Slot.wrM_sstep ..⟩

end Moves

theorem popc32_eq (x : BitVec 32) : popc32 x = ((List.range 32).filter fun i => x.getLsbD i).length := by
  simp only [popc32, tb_toNat]

/-- The register of VSETL with its one lane written (R203). -/
def oneLane (t : Slot) (d : Fin 16) (a b : Fin 32) : BitVec 1024 :=
  mergeLanes (t.rdV d) (BitVec.ofNat 32 (2 ^ ((t.rd b).toNat % 32))) (List.replicate 32 (t.rd a).toNat)

theorem laneOf_oneLane (t : Slot) (d : Fin 16) (a b : Fin 32) {i : Nat} (h : i < 32) :
    laneOf (oneLane t d a b) i = if i = (t.rd b).toNat % 32 then (t.rd a).toNat % 2 ^ 32 else laneOf (t.rdV d) i := by
  have lane : (BitVec.ofNat 32 (2 ^ ((t.rd b).toNat % 32))).getLsbD i = decide (i = (t.rd b).toNat % 32) := by
    rw [BitVec.getLsbD_ofNat, Nat.testBit_two_pow, decide_eq_true h, Bool.true_and]
    exact decide_eq_decide.2 eq_comm
  have value : (List.replicate 32 (t.rd a).toNat).getD i 0 = (t.rd a).toNat := by
    rw [List.getD_eq_getElem?_getD, List.getElem?_replicate_of_lt h, Option.getD_some]
  rw [oneLane, laneOf_mergeLanes _ _ _ h, lane, value]
  simp only [decide_eq_true_eq]

theorem Slot.rdV_endAt_wrV (t : Slot) (d : Fin 16) (x : BitVec 1024) (pc : Word) : (endAt (t.wrV d x) pc).rdV d = x :=
  Vector.getElem_set_self _

theorem Slot.rdV_wrV_ne (t : Slot) {d r : Fin 16} (x : BitVec 1024) (h : r ≠ d) : (t.wrV d x).rdV r = t.rdV r :=
  set_getElem_ne _ _ h

/-! ### VCVT (R200) -/

/-- The lanes of VCVT's one or two registers, with the flags of each lane. -/
def cvtLanes (t : Slot) (tt st : VTy) (r : Rnd) (ns part : Bool) (d a : Fin 16) : List (List Nat × AFlags) :=
  (List.range 32).map fun j => cvtLane tt st r ns part (laneOf (t.rdV a) j) (laneOf (t.rdV (a + 1)) j) (laneOf (t.rdV d) j)
/-- The second register of a pair is another one, even after the last. -/
theorem next_ne (d : Fin 16) : d + 1 ≠ d := by revert d; decide

theorem runEff_vcvt {p : Pfx} {s : State} {tt st : VTy} {r : Rnd} {ns part : Bool} {d a : Fin 16} {m : Fin 4} (ho : Outside s p)
    (hs : s.seqRuns = false) :
    let rs := cvtLanes s.me tt st r ns part d a
    runEff p true (effVcvt tt st r ns part d a m) s =
      .next (retired ((onUnit s).flag (laneFlags (s.me.mask m) (rs.map (·.2)))) (nwX p) fun u =>
        let w := u.wrV d (mergeLanes (s.me.rdV d) (s.me.mask m) (rs.map fun x => x.1.getD 0 0))
        if st.width < tt.width then
          w.wrV (d + 1) (mergeLanes (w.rdV (d + 1)) (s.me.mask m) (rs.map fun x => x.1.getD 1 0)) else w) := by
  intro rs
  refine runEff_done ho.1 (fun _ => ho.2) hs (congrArg Eff.done (State.modMe_congr ?same)) ⟨?sstep, ?pc⟩
  case same => simp only [Slot.rdV_wrV_ne _ _ (next_ne d), State.flag_rdV, onUnit_me, rs, cvtLanes]
  case sstep =>
    dsimp only
    split_ifs <;> exact (State.flag_sstep ..).trans ho.1.2
  case pc =>
    dsimp only
    split_ifs <;> rfl

end Sys2Proof.Machine

namespace Sys2Proof
open Machine Claims

/-- Settles O11: each move and conversion changes its slot as the table says, one register written after the other. -/
theorem masksConversionsLanes : Obligations.MasksConversionsLanes := by
  refine ⟨fun p d a b s ho hs => ?logic, fun p d a s h hs => ?reads, fun p d a s ho hs full => ?mset, fun p d a b s h hs full => ?vgetl,
    fun p d a b s ho hs full => ?vsetl, fun p tt st r ns part d a m s ho hs => ?vcvt⟩
  case logic =>
    dsimp only
    rw [nwords_mand, nwords_mor, nwords_mxor, nwords_mandn]
    exact ⟨runEff_mask ho hs, runEff_mask ho hs, runEff_mask ho hs, runEff_mask ho hs⟩
  case reads =>
    have inRegion : false = true → s.me.region = none := nofun
    have keeps (f : Slot → Word) : Slot.Keeps fun t => t.wr d (f t) := fun _ => ⟨Slot.wr_pc .., Slot.wr_sstep ..⟩
    have count : (fun t : Slot => t.wr d (BitVec.ofNat 64 ((List.range 32).filter fun i => (t.rdM a).getLsbD i).length)) =
        fun t => t.wr d (BitVec.ofNat 64 (popc32 (t.rdM a))) := funext fun t => by rw [popc32_eq]
    dsimp only
    rw [nwords_mpop, nwords_mget, nwords_mgetVs, nwords_mgetVsClr, count]
    exact ⟨runEff_modMe h inRegion hs (keeps _), runEff_modMe h inRegion hs (keeps _), runEff_modMe h inRegion hs (keeps _),
      runEff_modMe h inRegion hs fun _ => ⟨Slot.wr_pc .., Slot.wr_sstep ..⟩⟩
  case mset =>
    rw [nwords_mset]
    exact runEff_withRegs ho.1 (fun _ => ho.2) hs full fun _ => ⟨Slot.wrM_pc .., Slot.wrM_sstep ..⟩
  case vgetl =>
    rw [nwords_vgetl]
    exact runEff_withRegs h nofun hs full fun _ => ⟨Slot.wr_pc .., Slot.wr_sstep ..⟩
  case vsetl =>
    rw [nwords_vsetl]
    have runs : exec (.vsetl p d a b) s = .next (retired (onUnit s) (nwX p) fun u => u.wrV d (oneLane u d a b)) :=
      runEff_withRegs ho.1 (fun _ => ho.2) hs (fun r hr => full r hr) fun _ => ⟨rfl, rfl⟩
    have me : (retired (onUnit s) (nwX p) fun u => u.wrV d (oneLane u d a b)).me.rdV d = oneLane s.me d a b := by
      rw [retired, State.me_modMe]
      exact s.me.rdV_endAt_wrV d _ _
    refine ⟨_, runs, retired_congr ?_, fun i hi => ?_⟩
    · rw [me]; rfl
    · rw [me, laneOf_oneLane _ _ _ _ hi]
  case vcvt =>
    dsimp only
    rw [nwords_vcvt]
    exact runEff_vcvt ho hs

end Sys2Proof
end

section
/-! PROOFS. VST into the own scratchpad (R204) where memory lists a byte twice: a state that meets a premise and not its conclusion. -/

namespace Sys2Proof
open Machine Claims

/-- The first 128 bytes of the own scratchpad stored as the zeros of v0, under m0. -/
def storeZeroVector : Instr := .vst Pfx.none (.lm .own) 0 0 0 0

theorem exec_storeZeroVector_byte : byteIn (2 ^ 42) (exec storeZeroVector scratchListedTwice) = some 1 := by decide +kernel

/-- Refutes O21: VST stores zeros in the own scratchpad, whose first byte memory lists twice: one of the two entries is erased, and the
byte still reads as 1. No step makes such a memory (`StepKeepsMemoryForm`), but the statement asks nothing of memory. -/
theorem not_vectorMemory : ¬ Obligations.VectorMemory := by
  rintro ⟨-, -, -, -, -, stores, -⟩
  have own := stores Pfx.none .own 0 0 0 0 scratchListedTwice scratchListedTwice_outside (by decide) (by decide) (by decide)
  rw [if_pos (by decide)] at own
  obtain ⟨t, ht, -, stored, -⟩ := own
  exact not_stored_zero exec_storeZeroVector_byte ht (by decide +kernel) stored

end Sys2Proof
end

section
/-! PROOFS. The Diffuser's instructions (R225, R226, R228): how an instruction of pages 1 and 2 ends by its effect, what DIFS reads and
records, who may start a sequence with DIFGO, and the words and the wait of DIFWAIT. -/

namespace Sys2Proof.Machine
open Claims

/-! ### How an effect ends its instruction (R22, R23, R227) -/

section Ends
variable {p : Pfx} {n : Nat} {s u : State} {eff : State → Eff} (words : n = nwX p) (ho : Outside s p) (idle : s.seqRuns = false)
include words ho idle

theorem runEff_ends {e : Eff} (he : eff (onUnit s) = e) : runEff p true eff s = .next (e.toState n) :=
  words ▸ he ▸ runEff_spec ho.1.1 (fun _ => ho.2) idle

theorem runEff_retires (he : eff (onUnit s) = .done u) (plain : u.me.sstep = false) :
    runEff p true eff s = .next (retired u n id) :=
  (runEff_ends words ho idle he).trans (congrArg _ (State.finish_plain u n plain))

end Ends

/-- An instruction with scalar sources alone goes on once they are full. -/
theorem withVec_ends {gs : List (Fin 32)} {s : State} {f : List (BitVec 1024) → State → Eff} {e : Eff} (full : Full s gs)
    (he : f [] s = e) : withVec [] gs [] s f = e := (withVec_regs full).trans he

/-- The use of the vector unit leaves the Diffuser as it is. -/
theorem onUnit_dif (s : State) : (onUnit s).dif = s.dif := (congrArg Core.dif (s.core_modCore ..) :)

/-! ### DIFS (R225) -/

/-- A choice that ends on the right did not take a branch that ends on the left. -/
theorem of_ite_inr {α β : Type} {c : Prop} [Decidable c] {a : α} {x : α ⊕ β} {b : β} (h : (if c then .inl a else x) = .inr b) :
    x = .inr b :=
  if hc : c then absurd ((if_pos hc).symm.trans h) Sum.inl_ne_inr else (if_neg hc).symm.trans h

/-- Reading the words of a chain changes the TLBs alone. -/
theorem readDif_light {va : Word} {n : Nat} {s t : State} {done ws : List Nat} (h : readDif va n s done = .inr (ws, t)) :
    s.Light t := by
  induction n generalizing s done with
  | zero => exact (Prod.mk.inj (Sum.inr.inj h)).2 ▸ .refl s
  | succ n ih =>
    unfold readDif at h
    dsimp only at h
    generalize page : s.fetchPage .. = r at h
    cases r with
    | fault | frozen => exact absurd h Sum.inl_ne_inr
    | ok r =>
      have owned := of_ite_inr h
      refine if miss : _ then ?_ else (State.fetchPage_light page).trans (ih ((if_neg miss).symm.trans owned))
      -- a word that the IC does not hold traps or parks
      have up := of_ite_inr ((if_pos miss).symm.trans owned)
      generalize State.poisonOf _ _ _ _ = poison at up
      cases poison <;> exact absurd up Sum.inl_ne_inr

/-- DIFS of a Diffuser that no sequence holds records the chains that it reads, or traps at the first that it may not record. -/
theorem effDifs_reads {a b : Fin 32} {s t : State} {ws : List Nat} (full : Full s [a, b])
    (free : ¬ (s.dif.run.isSome || s.dif.trap.isSome) = true) (some_ : (s.me.rd b).toNat % 64 ≠ 0) (few : ¬ 32 < (s.me.rd b).toNat % 64)
    (even : ¬ (s.me.rd a).toNat % 2 = 1) (read : readDif (s.me.rd a) ((s.me.rd b).toNat % 64) s [] = .inr (ws, t)) :
    effDifs a b s = (recordBad 33 0 ws).elim (.done (t.modDif fun x => { x with words := ws, owner := some s.cur }))
      fun k => .trap 1 (s.me.rd a + BitVec.ofNat 64 (2 * k)) t := by
  refine withVec_ends full ((if_neg free).trans ((if_neg some_).trans ((if_neg few).trans ((if_neg even).trans ?_))))
  rw [read, ← (readDif_light read).cur]
  dsimp only
  cases recordBad 33 0 ws <;> rfl

/-! ### DIFGO (R226) -/

/-- DIFGO of the owner, its recorded registers full, goes on to the use of the q registers and to the sequence of repetitions. -/
theorem effDifgo_owner {a : Fin 32} {imm : Int} {s : State} {e : Eff} (full : Full s [a]) (owned : s.dif.owner = some s.cur)
    (ready : Full s (s.dif.instrs.flatMap fun x => (recG x).1.toList ++ (recG x).2))
    (he : (if difMisuse s.me s.dif.instrs (s.me.rd a).toNat (imm % 65536).toNat then .trap 0x10 0 s
      else if (imm % 65536).toNat = 0 then .done s
      else .done (s.modDif fun x =>
        { x with run := some { total := (imm % 65536).toNat, rep := 0, next := 0, snap := s.me.g, stag := s.me.rd a, wrote := [],
                               blocked := false, nw := 1 } })) = e) : effDifgo a imm s = e := by
  refine withVec_ends full ((if_neg (not_not.2 owned)).trans ?_)
  dsimp only
  rw [List.find?_eq_none.2 fun r hr => ne_true_of_eq_false (congrArg not (ready r hr))]
  exact he

/-! ### DIFWAIT (R228) -/

theorem State.seqRuns_iff (s : State) :
    s.seqRuns = true ↔ (s.core s.myCore).dif.owner = some s.cur ∧ (s.core s.myCore).dif.run.isSome = true :=
  Bool.and_eq_true_iff.trans (and_congr_left' beq_iff_eq)

theorem exec_difwait_begins {p : Pfx} {s : State} (h : Begins s p) :
    exec (.difwait p) s = .next (if s.seqRuns then s.parkRe 9 .diffuser (nwX p) else s.finish (nwX p)) :=
  (exec_difwait p s).trans (run_begins h fun never => Bool.noConfusion never)

/-- The owner's wait for the Diffuser is over when its sequence is. -/
theorem State.waitOver_diffuser {u : State} {k : Nat} (owned : (u.core (coreOf k)).dif.owner = some k) :
    u.waitOver k .diffuser = true ↔ (u.core (coreOf k)).dif.run = none :=
  ⟨fun done => Option.isNone_iff_eq_none.1 (Bool.and_eq_true_iff.1 done).1,
    fun ended => Bool.and_eq_true_iff.2 ⟨Option.isNone_iff_eq_none.2 ended, Bool.or_eq_true_iff.2 (.inr (beq_iff_eq.2 owned))⟩⟩

end Sys2Proof.Machine

namespace Sys2Proof
open Machine

/-- The chain before the base word of an instruction of page 2 where it is the XP word alone. -/
abbrev arrayPageChain (fn : Nat) : Chain := { Chain.start with n := 1, xp := some (256 + fn) }

theorem arrayPage_pfx (fn w : Nat) : ((arrayPageChain fn).raw w).p = Pfx.none := by
  show Pfx.mk (xrGuard 0) none false ⟨0, _⟩ = _
  rfl

theorem mapRaw_difwait {r : Raw} (page : r.page = 2) (maj : r.maj = 14) : mapRaw r = some (.difwait r.p) := by
  obtain ⟨⟩ := r
  cases page
  cases maj
  rfl

/-- The word of XP on page 2 is taken as the page of the base word, whatever the fields of both. -/
theorem scan_arrayPage {fn w : Nat} (hfn : fn < 128) (hw : w / 2048 < 28) :
    decodeWords [0xF900 + fn, w] = (arrayPageChain fn).finish w :=
  have isXp : 28 ≤ (0xF900 + fn) / 2048 := (Nat.le_div_iff_mul_le (by decide)).2 (Nat.le_trans (by decide) (Nat.le_add_right 0xF900 fn))
  have payload : 256 + fn < 2048 := Nat.lt_of_lt_of_le (Nat.add_lt_add_left hfn 256) (by decide)
  have pushed : Chain.start.push (0xF900 + fn) = arrayPageChain fn :=
    (congrArg Chain.start.push (Nat.add_assoc 63488 256 fn)).trans (push_xp Chain.start payload)
  (scan_prefix [w] isXp (by decide)).trans ((congrArg (scan · [w]) pushed).trans (scan_base [] hw))

theorem decode_difwait {fn w : Nat} (hfn : fn < 128) (hw : w < 2048) :
    decodeWords [0xF900 + fn, 14 * 2048 + w] = .ok (.difwait Pfx.none) 2 :=
  have isBase : (14 * 2048 + w) / 2048 < 28 :=
    Nat.div_lt_of_lt_mul (Nat.lt_of_lt_of_le (Nat.add_lt_add_left hw (14 * 2048)) (by decide))
  have page : ((arrayPageChain fn).raw (14 * 2048 + w)).page = 2 :=
    (Nat.mul_add_div (by decide) 2 fn).trans (congrArg (2 + ·) (Nat.div_eq_of_lt hfn))
  have maj : ((arrayPageChain fn).raw (14 * 2048 + w)).maj = 14 :=
    (Nat.mul_add_div (by decide) 14 w).trans (congrArg (14 + ·) (Nat.div_eq_of_lt hw))
  (scan_arrayPage hfn isBase).trans
    (Chain.finish_mapped rfl (ne_of_eq_of_ne page (Nat.succ_ne_zero 1)) rfl rfl (arrayPage_pfx fn _ ▸ mapRaw_difwait page maj))

end Sys2Proof

namespace Sys2Proof
open Machine Claims

/-- Settles O36: the two ways of DIFWAIT by whether the thread's sequence runs, its words field by field. -/
theorem difwaitWaits : Obligations.DifwaitWaits := by
  refine ⟨fun fn w hfn hw => decode_difwait hfn hw, fun p s h => ⟨fun idle => ?completes, fun runs => ?parks,
    fun u _ owned => State.waitOver_diffuser owned⟩⟩
  all_goals rw [exec_difwait_begins h.1, nwords_difwait]
  case completes => rw [if_neg (mt s.seqRuns_iff.1 idle), State.finish_plain _ _ h.2]
  case parks => rw [if_pos (s.seqRuns_iff.2 runs), State.parkRe_parked _ _ rfl]

/-- Settles O35: DIFS by its count and the chains it reads, DIFGO by the owner, the recorded registers and the repetitions. -/
theorem diffuserInstructions : Obligations.DiffuserInstructions := by
  have idle {s : State} (run : s.dif.run = none) (trap : s.dif.trap = none) :
      ¬ ((onUnit s).dif.run.isSome || (onUnit s).dif.trap.isSome) = true := by
    rw [onUnit_dif, run, trap]; exact Bool.false_ne_true
  refine ⟨fun p a b s s1 ws ho hs full run trap pos le even read good => ?records, fun p a b s ho hs full => ⟨fun busy => ?busy,
      fun run trap => ⟨fun zero => ?clears, fun many => ?many, fun pos le odd => ?odd, fun ws s1 k pos le even read bad => ?illegal⟩⟩,
    fun p a imm s ho hs full owned ready good pos => ?starts, fun p a imm s ho hs full => ⟨fun foreign => ?foreign,
      fun owned ready => ⟨fun bad => ?misused, fun zero => ?nothing⟩⟩⟩
  case records =>
    refine runEff_retires (nwords_difs p a b) ho hs ?_ ((readDif_light read).sstep.trans ho.1.2)
    exact (effDifs_reads (s := onUnit s) full (idle run trap) (Nat.ne_of_gt pos) (Nat.not_lt.2 le)
      (fun odd => Nat.zero_ne_one (even.symm.trans odd)) read).trans (congrArg (Option.elim · _ _) good)
  case busy =>
    refine (runEff_ends (eff := effDifs a b) (nwords_difs p a b) ho hs (withVec_ends (s := onUnit s) full (if_pos ?_))).trans
      (congrArg _ (State.parkRe_parked (cause := 9) (w := .diffuser) (onUnit s) _ rfl))
    exact onUnit_dif s ▸ Bool.or_eq_true_iff.2 busy
  case clears =>
    exact runEff_retires (nwords_difs p a b) ho hs (withVec_ends (s := onUnit s) full
      ((if_neg (idle run trap)).trans (if_pos zero))) ho.1.2
  case many =>
    exact runEff_ends (eff := effDifs a b) (nwords_difs p a b) ho hs (withVec_ends (s := onUnit s) full
      ((if_neg (idle run trap)).trans ((if_neg (Nat.ne_of_gt (Nat.lt_trans (by decide) many))).trans (if_pos many))))
  case odd =>
    exact runEff_ends (eff := effDifs a b) (nwords_difs p a b) ho hs (withVec_ends (s := onUnit s) full
      ((if_neg (idle run trap)).trans ((if_neg (Nat.ne_of_gt pos)).trans ((if_neg (Nat.not_lt.2 le)).trans (if_pos odd)))))
  case illegal =>
    exact runEff_ends (eff := effDifs a b) (nwords_difs p a b) ho hs
      ((effDifs_reads (s := onUnit s) full (idle run trap) (Nat.ne_of_gt pos) (Nat.not_lt.2 le)
        (fun odd => Nat.zero_ne_one (even.symm.trans odd)) read).trans (congrArg (Option.elim · _ _) bad))
  case starts =>
    exact runEff_retires (nwords_difgo p a imm) ho hs (effDifgo_owner full (onUnit_dif s ▸ owned) (onUnit_dif s ▸ ready)
      ((if_neg (onUnit_dif s ▸ ne_true_of_eq_false good)).trans (if_neg pos))) ho.1.2
  case foreign =>
    exact runEff_ends (eff := effDifgo a imm) (nwords_difgo p a imm) ho hs (withVec_ends (s := onUnit s) full
      (if_pos (onUnit_dif s ▸ foreign)))
  case misused =>
    exact runEff_ends (eff := effDifgo a imm) (nwords_difgo p a imm) ho hs
      (effDifgo_owner full (onUnit_dif s ▸ owned) (onUnit_dif s ▸ ready) (if_pos (onUnit_dif s ▸ bad)))
  case nothing =>
    -- with no repetition no q register is misused
    exact runEff_retires (nwords_difgo p a imm) ho hs (effDifgo_owner full (onUnit_dif s ▸ owned) (onUnit_dif s ▸ ready)
      ((if_neg (zero.symm ▸ Bool.false_ne_true)).trans (if_pos zero))) ho.1.2

end Sys2Proof
end
